-- ==== Sys2Proof/Word.lean ====
section
/-! DEFINITION. The words of the block and their plainest arithmetic (R2: little-endian, bit 0 least significant). -/

namespace Sys2Proof

/-- One byte of a memory, register or packet. -/
abbrev Byte := BitVec 8
/-- A 32-bit quantity: an FP32 or INT32 code, a 32-bit register half. -/
abbrev W32 := BitVec 32
/-- A 64-bit quantity: a register, a scalar register, a fabric time. -/
abbrev W64 := BitVec 64
/-- One instruction word of a core program (R136). -/
abbrev W128 := BitVec 128
/-- One vector register: 16 lanes of 32 bits, lane 0 lowest (R96). -/
abbrev W512 := BitVec 512

end Sys2Proof
end

