-- ==== Sys2Proof/Syntax.lean ====
section
/-! DEFINITION. The commands of the block: one constructor of `Instr` for each row of spec/opcode_table.json, with the
operands that name what the row acts on. What the block itself holds (a packet's bytes, a program's word, a received block)
is no operand: the row refers to it. What only the outside knows (a sample, a training result, a written value) is one. -/

namespace Sys2Proof

/-- A hardware context, 0 to 1,023 (R18). -/
abbrev Ctx := Fin 1024
/-- A submission ring of a context, 0 to 3 (R396). -/
abbrev RingNo := Fin 4
/-- A cluster by its package-wide index (R17). -/
abbrev ClusterNo := Fin 320
/-- A guyline port (R326). -/
abbrev Port := Fin 12

/-- A logical core of a cluster (R17): a core-instruction row runs the instruction at this core's index. -/
structure CoreRef where
  cluster : ClusterNo
  core : Fin 80
  deriving DecidableEq, Repr

/-- A taken command, by its context, ring and sequence number (R398, R399). -/
structure CmdRef where
  ctx : Ctx
  ring : RingNo
  seq : BitVec 22
  deriving DecidableEq, Repr

/-- What a register access writes (R6): a whole 64-bit register, or one aligned half of it. -/
inductive RegValue where
  | full (v : W64)
  | lower (v : W32)
  | upper (v : W32)
  deriving DecidableEq, Repr

/-- An aligned BAR 0 write (R6): 4 bytes at 4 × dword, or 8 bytes at 8 × qword. -/
inductive RegWrite where
  | w4 (dword : BitVec 24) (v : W32)
  | w8 (qword : BitVec 23) (v : W64)
  deriving DecidableEq, Repr

/-- The transports of the SPDM responder (R483). -/
inductive Transport where
  | doe
  | mctp
  deriving DecidableEq, Repr

/-- The Curator patch image as the security block finds it in flash (R434). -/
structure PatchFound where
  present : Bool
  digestOk : Bool
  signaturesOk : Bool
  version : W32
  image : List Byte
  deriving DecidableEq, Repr

/-- A transfer that waits on a tag or a deadline: a cluster stream, a copy, or a transfer of a core (R257, R259). -/
inductive StreamRef where
  | stream (c : ClusterNo) (sid : Fin 64)
  | copy (q : CmdRef)
  | xfer (k : CoreRef) (tag : Fin 8)
  deriving DecidableEq, Repr

/-- A unit whose stall is an episode of its own (R267): the head of an engine queue of a core, a stream, a copy or a command of a
queue, the unit of a class at a port, the blocks of an issuing unit for one destination, the packet at the head of a ring, and a
read of a stack that is issued again. -/
inductive StallUnit where
  | core (k : CoreRef)
  | stream (c : ClusterNo) (sid : Fin 64)
  | cmd (q : CmdRef)
  | port (p : Port) (tc : Fin 8)
  | sender (unit dest : Nat)
  | ring (c : Ctx) (r : RingNo)
  | read (reader : Fin 9) (stack : Fin 16) (line : Nat)
  deriving DecidableEq, Repr

/-- A stack read as it returns to the controller (R205 to R208): who reads, the physical address of the line, which bits
of the data and of the two bursts' check bits came back wrong, and what the stack reports of its own ECC
(0 nothing, 1 corrected, 2 uncorrectable). -/
structure HbmRead where
  reader : Fin 9
  ctx : Option Ctx
  pa : BitVec 40
  dataFlips : W512
  crcFlips : BitVec 16
  compFlips : BitVec 16
  report : Fin 3
  deriving DecidableEq, Repr

/-- One stack's result of training (R196, R197, R213): the pseudo-channels that failed, each with its first failing lane, and the
lanes repaired, each with the spare lane it was mapped onto. -/
structure StackTrained where
  stack : Fin 16
  failedPcs : List (Nat × Nat)
  lanesRepaired : List (Nat × Nat)
  deriving DecidableEq, Repr

/-- What an Announce says of its grandmaster (R29): the fields that the default best master clock algorithm compares. -/
structure PtpClock where
  priority1 : Nat
  clockClass : Nat
  accuracy : Nat
  variance : Nat
  priority2 : Nat
  grandmaster : Nat
  steps : Nat
  deriving DecidableEq, Repr

/-- The messages of the default profile (R29), their stamps already in nanoseconds. A Delay_Resp names the clock it answers. -/
inductive PtpBody where
  | announce (clock : PtpClock)
  | sync (seq : Nat) (twoStep : Bool) (origin correction : Int)
  | followUp (seq : Nat) (origin correction : Int)
  | delayResp (seq requester : Nat) (receive correction : Int)
  | delayReq (seq : Nat) (correction : Int)
  deriving DecidableEq, Repr

/-- A PTP message (R29): its domainNumber, the identity of the clock that sent it, and what it says. -/
structure PtpMessage where
  domain : Nat
  source : Nat
  body : PtpBody
  deriving DecidableEq, Repr

/-- How an attempt came out: UP, failed, or abandoned because signal was lost or the partner restarted (R348). -/
inductive TrainResult where
  | up
  | failed
  | abandoned
  deriving DecidableEq, Repr

/-- How a link training attempt ends (R348): the result; for a direct port what the other end stated: node id, slot, port,
board-size code and the SEQ it expects next; the round trip measured. -/
structure TrainEnd where
  result : TrainResult
  neighbour : BitVec 16
  slot : BitVec 3
  port : BitVec 4
  boardSize : BitVec 4
  expects : BitVec 12
  rttNs : BitVec 16
  deriving DecidableEq, Repr

/-- A unit that is reset or tested (R444, RST_UNIT's coding). -/
inductive UnitRef where
  | cluster (c : ClusterNo)
  | stack (n : Fin 16)
  | conservator (n : Fin 16)
  | cmdProc (n : Fin 8)
  | collEngine (n : Fin 3)
  | port (p : Port)
  | walker (n : Fin 16)
  | cache (d : Fin 4)
  | pcie
  | curator
  deriving DecidableEq, Repr

/-- What a BIST found (R451, R452): the unit passed; an engine failed with a signature (0 matrix, 1 vector, 2 load/store,
3 stream engine or the unit itself, 4 a cluster buffer bank); or an expected value in ROM was corrupt (word index). -/
inductive BistVerdict where
  | passed
  | failed (engine : Fin 5) (signature : W64)
  | romCorrupt (word : Nat)
  deriving DecidableEq, Repr

/-- An SRAM row that a memory BIST mapped to a spare (R452): memory code of R135, physical core, row, spare rows left. -/
structure RowFixed where
  memory : Nat
  core : Nat
  row : Nat
  left : Nat
  deriving DecidableEq, Repr

/-- A built-in self-test result of a unit or core. -/
structure BistResult where
  verdict : BistVerdict
  rows : List RowFixed
  deriving DecidableEq, Repr

/-- What the Curator reads before and during a test phase (R454): the median VDD_CORE, and the worst disagreement of the
reference clocks. -/
structure TestConditions where
  vddMv : Nat
  clockPpm : Nat
  deriving DecidableEq, Repr

/-- BIST of one physical core of a batch (R455). -/
structure CoreBist where
  cluster : ClusterNo
  core : Fin 84
  result : BistResult
  deriving DecidableEq, Repr

/-- An analogue check that failed (R453): its number 1 to 7, lane, PLL, sensor or monitor, value and limit. -/
structure AnalogueFail where
  check : Fin 8
  index : Nat
  value : Nat
  limit : Nat
  deriving DecidableEq, Repr

/-- What a cold BIST phase, or a TEST_RUN of analogue checks, found (R453, R457): how many units it tested, the hub units that
failed (as SOURCE), the analogue checks that failed. -/
structure PhaseResult where
  tested : Nat
  failedUnits : List Nat
  analogue : List AnalogueFail
  deriving DecidableEq, Repr

/-- One JTAG step. -/
structure TapStep where
  tms : Bool
  tdi : Bool
  trstN : Bool
  deriving DecidableEq, Repr

/-- The commands of the block, one constructor per row of the table. -/
inductive Instr where
  /-- PWR_GOOD_RISE (R499): The board raises PWR_GOOD: the Curator boots from ROM, reads the straps and checks its patch image, and the hub leaves reset. -/
  | pwrGoodRise (straps : BitVec 3) (patch : PatchFound)
  /-- PWR_GOOD_FALL (R499): PWR_GOOD falls and the Askax stops at once, losing everything inside the package, HBM contents included. -/
  | pwrGoodFall
  /-- PERST_N_RELEASE (R480): PERST_N is released and the hub ROM trains the PCIe link, answering configuration requests with retry status until the function is ready. -/
  | perstNRelease (rate width : Nat) (flit : Bool)
  /-- PERST_N_ASSERT (R413): PERST_N is asserted while the Askax is in service and causes a host-loss reset with no hold time. -/
  | perstNAssert
  /-- FUNCTION_LEVEL_RESET (R413): A PCIe Function Level Reset causes a host-loss reset with no hold time. -/
  | functionLevelReset
  /-- DL_DOWN (R412): The data link goes to DL_Down: host accesses end, host-bound requests wait and the hold timer starts. -/
  | dlDown (lost : Nat)
  /-- DL_UP (R412): The data link returns within the hold time, and lost completion records and MSI-X messages are sent again in their original order. -/
  | dlUp (rate width : Nat) (flit : Bool)
  /-- HOLD_TIME_EXPIRY (R413): DL_Down has lasted longer than HOLD_MS, and a host-loss reset begins. -/
  | holdTimeExpiry
  /-- FAST_THROTTLE_ASSERT (R428): FAST_THROTTLE_N goes low and the arithmetic clock reaches the throttle point within 10 µs. -/
  | fastThrottleAssert
  /-- FAST_THROTTLE_RELEASE (R428): FAST_THROTTLE_N rises, and the throttle point is held for 1 ms more. -/
  | fastThrottleRelease
  /-- THROTTLE_HOLD_EXPIRY (R428): The 1 ms hold after a fast-throttle release ends, and the power loop resumes under its release rule. -/
  | throttleHoldExpiry
  /-- TIME_PPS_EDGE (R31): A rising edge of TIME_PPS_IN marks a whole TAI second and gives a PPS-mode measurement of fabric time. -/
  | timePpsEdge (clock10M : Bool)
  /-- TEST_TOKEN_PULSE (R456): A token pulse arrives on TEST_TOKEN_IN; the Askax runs at most one heavy phase, or passes the token on within 10 µs. -/
  | testTokenPulse
  /-- TOKEN_REGEN_TIMEOUT (R456): Slot 0 has seen no token for 2 s while a heavy phase waits, so it creates a new token. -/
  | tokenRegenTimeout
  /-- ANALOGUE_COMPARATOR_TRIP (R429): The analogue comparator sees a compute-die sensor at 125 °C and trips the package. -/
  | analogueComparatorTrip (sensor : Fin 256) (reading : Int)
  /-- DOORBELL_SQ_TAIL_WRITE (R397): Software writes SQ_TAIL_r; an invalid value is ignored and counted, and the write wakes the package from Idle or Rest. -/
  | doorbellSqTailWrite (c : Ctx) (r : RingNo) (v : W32)
  /-- DOORBELL_CQ_HEAD_WRITE (R397): Software writes CQ_HEAD_r to free completion slots; an invalid value is ignored and counted. -/
  | doorbellCqHeadWrite (c : Ctx) (r : RingNo) (v : W32)
  /-- PACKET_TAKE (R399): A command processor takes the packet at HEAD once its units, a completion slot and a valid header are present, and checks it under R402. -/
  | packetTake (c : Ctx) (r : RingNo)
  /-- PACKET_HEADER_REPOLL (R399): A packet header that failed its checks is read again after 1 µs. -/
  | packetHeaderRepoll (c : Ctx) (r : RingNo)
  /-- TORN_PACKET_TIMEOUT (R399): A header still fails after TORN_US, so the packet completes with ST_TORN_PACKET and the ring faults. -/
  | tornPacketTimeout (c : Ctx) (r : RingNo)
  /-- INTERRUPT_COALESCE_TIMEOUT (R409): COAL_NS passes after the first pending record, and the ring's MSI-X vector is signalled. -/
  | interruptCoalesceTimeout (c : Ctx) (r : RingNo)
  /-- MSIX_VECTOR_UNMASK (R409): The host unmasks an MSI-X vector whose pending bit is set, and the message is sent. -/
  | msixVectorUnmask (v : Fin 2048)
  /-- APERTURE_WRITE (R391): A host write through a BAR 2 aperture is performed for the bound context, or is refused and dropped. -/
  | apertureWrite (a : Fin 16) (off : W32) (data : List Byte)
  /-- APERTURE_READ (R392): A host read through a BAR 2 aperture returns data, or completes with Unsupported Request or Completer Abort. -/
  | apertureRead (a : Fin 16) (off : W32) (len : Nat)
  /-- PLACEMENT_WRITE (R411): A write from a placement requester is performed through its placement entry, with an optional peg signal, or is dropped. -/
  | placementWrite (requester : BitVec 16) (off : BitVec 36) (data : List Byte)
  /-- PLACEMENT_READ (R411): A read from a placement requester completes with Unsupported Request. -/
  | placementRead (requester : BitVec 16) (off : BitVec 36) (len : Nat)
  /-- COMMAND_WINDOW_WRITE (R396): A BAR 4 write stores packet bytes in a submission ring, or is dropped and counted when the ring does not exist. -/
  | commandWindowWrite (off : BitVec 28) (data : List Byte)
  /-- HL_CTX0_ENABLE_WRITE (R395): Writing ENABLE set in HL_CTX0_CTRL creates context 0 and its ring 0, unless context 0 already exists. -/
  | hlCtx0EnableWrite (v : RegValue)
  /-- HL_CTX0_RESUME_WRITE (R403): A write to HL_CTX0_RESUME sets HEAD and SEQ of a faulted context-0 ring and restarts the taking of packets. -/
  | hlCtx0ResumeWrite (v : RegValue)
  /-- TIME_CTRL_WRITE (R32): A write to TIME_CTRL that changes SOURCE clears the measurement counts and moves LOCKED to HOLDOVER. -/
  | timeCtrlWrite (v : RegValue)
  /-- REQ_CLIPPED_CLEAR (R7): Writing 1 to CUR_STATUS.REQ_CLIPPED clears the bit. -/
  | reqClippedClear (v : RegValue)
  /-- REGISTER_WRITE (R7): A write to a register with no behaviour of its own updates its RW fields; writes to RO fields and undefined offsets are ignored. -/
  | registerWrite (w : RegWrite)
  /-- CUR_CLOCK_LIMITS_WRITE (R424): A matched write sets the clock floor and ceiling, clipped to the points, and resets the power loop's point. -/
  | curClockLimitsWrite (v : RegValue)
  /-- CUR_POWER_CAP_WRITE (R424): A matched write sets the power cap, clipped to 600 to 2,200 W. -/
  | curPowerCapWrite (v : RegValue)
  /-- CUR_THROTTLE_POINT_WRITE (R424): A matched write sets the throttle point, clipped to a valid point. -/
  | curThrottlePointWrite (v : RegValue)
  /-- RST_REQUEST_L2 (R445): A matched RST_REQUEST write with LEVEL 2 starts an L2 reset of the named die. -/
  | rstRequestL2 (v : RegValue)
  /-- RST_REQUEST_L3 (R446): A matched RST_REQUEST write with LEVEL 3 starts an L3 chip reset. -/
  | rstRequestL3 (v : RegValue)
  /-- RST_REQUEST_L4 (R447): A matched RST_REQUEST write with LEVEL 4 makes the Curator request a power cycle. -/
  | rstRequestL4 (v : RegValue)
  /-- MEM_HPPR_WRITE (R215): A matched MEM_HPPR write requests a hard post-package repair, which starts at once out of mission or is queued for the next retrain. -/
  | memHpprWrite (v : RegValue)
  /-- GLB_STAGE_WINDOW_WRITE (R479): A write through GLB_STAGE_WINDOW stores bytes into the selected staging page. -/
  | glbStageWindowWrite (off : BitVec 15) (data : List Byte)
  /-- GLB_STAGE_GO (R480): A matched GO write in phase WAIT_IMAGE checks and commits the staged image and configuration. -/
  | glbStageGo (v : RegValue)
  /-- GLB_ROLLBACK_WRITE (R474): A matched write burns anti-rollback fuse bits up to the value written, if that value is allowed. -/
  | glbRollbackWrite (v : RegValue)
  /-- GET_VERSION (R483): The SPDM responder answers GET_VERSION on DOE or MCTP. -/
  | getVersion (t : Transport)
  /-- GET_CAPABILITIES (R483): The SPDM responder answers GET_CAPABILITIES. -/
  | getCapabilities (t : Transport)
  /-- NEGOTIATE_ALGORITHMS (R483): The SPDM responder negotiates Ed25519 with SHA-384. -/
  | negotiateAlgorithms (t : Transport) (offersEd25519 offersSha384 : Bool)
  /-- GET_DIGESTS (R483): The SPDM responder returns the digests of its certificate slots. -/
  | getDigests (t : Transport)
  /-- GET_CERTIFICATE (R483): The SPDM responder returns its Ed25519 or ML-DSA-65 certificate chain in chunks. -/
  | getCertificate (t : Transport) (slot : Nat) (off len : Nat)
  /-- CHALLENGE (R484): The SPDM responder answers a challenge with both an Ed25519 and an ML-DSA-65 signature. -/
  | challenge (t : Transport) (slot : Nat) (nonce : List Byte)
  /-- GET_MEASUREMENTS (R485): The SPDM responder returns signed measurements 1 to 5, all from one instant. -/
  | getMeasurements (t : Transport) (index : Nat) (nonce : List Byte)
  /-- PLDM_SENSOR_READ (R432): A PLDM type 2 request over MCTP reads a numeric or state sensor of the Curator. -/
  | pldmSensorRead (id : BitVec 16)
  /-- NOP (R415): The command does nothing and completes with result 0. -/
  | nop (q : CmdRef)
  /-- APERTURE_BIND (R391): Binds a BAR 2 aperture to a context, a base and permissions, after the accesses under the old binding are done. -/
  | apertureBind (q : CmdRef)
  /-- APERTURE_UNBIND (R391): Leaves an aperture unbound. -/
  | apertureUnbind (q : CmdRef)
  /-- PLACE_SET (R411): Writes a direct-placement entry. -/
  | placeSet (q : CmdRef)
  /-- POOL_QUOTA_SET (R239): Sets a context's RESERVE and LIMIT within the pool limits. -/
  | poolQuotaSet (q : CmdRef)
  /-- MEM_MAP (R242): Maps zeroed 2 MiB pages, finding frames within the limit and evicting where allowed. -/
  | memMap (q : CmdRef)
  /-- MEM_UNMAP (R245): Unmaps pages and frees their frames or slots. -/
  | memUnmap (q : CmdRef)
  /-- MEM_PIN (R239): Pins pages within RESERVE, returning evicted pages first. -/
  | memPin (q : CmdRef)
  /-- MEM_UNPIN (R269): Unpins pages. -/
  | memUnpin (q : CmdRef)
  /-- MEM_PREFETCH (R269): Returns evicted pages and completes when every page is RESIDENT. -/
  | memPrefetch (q : CmdRef)
  /-- POOL_EVICT_STORE (R248): Registers the host eviction store, which is allowed only while no page is in or out of the store. -/
  | poolEvictStore (q : CmdRef)
  /-- HOST_MAP (R246): Maps host-tier pages to IOVA ranges. -/
  | hostMap (q : CmdRef)
  /-- HOST_UNMAP (R246): Removes host-tier mappings. -/
  | hostUnmap (q : CmdRef)
  /-- PEER_EXPORT (R249): Sets or closes the context's export window. -/
  | peerExport (q : CmdRef)
  /-- STALL_READ (R269): Writes a context's stall counts and its late count to device memory. -/
  | stallRead (q : CmdRef)
  /-- MEM_GROUP_MODE (R230): Writes back and invalidates the range, discards its translations, and sets the interleave mode of pool groups. -/
  | memGroupMode (q : CmdRef)
  /-- MEM_PPR (R214): Holds the bank and replaces a row with a spare by soft post-package repair, copying its data raw. -/
  | memPpr (q : CmdRef)
  /-- MEM_LOOPBACK (R216): Starts a PHY or stack loop-back test on a stack that is out of mission. -/
  | memLoopback (q : CmdRef)
  /-- LOOPBACK_DURATION_EXPIRY (R217): A loop-back test's duration ends; the failing lanes are recorded and the command completes. -/
  | loopbackDurationExpiry (failing : List Nat)
  /-- PROG_LAUNCH (R148): Queues a program launch over a cluster set, checking the image and the launch conditions. -/
  | progLaunch (q : CmdRef)
  /-- PROG_ABORT (R168): Stops every launch of the issuing context with ST_PROG_ABORTED. -/
  | progAbort (q : CmdRef)
  /-- CLUSTER_GRANT (R145): Grants clusters to a context. -/
  | clusterGrant (q : CmdRef)
  /-- CLUSTER_RELEASE (R145): Releases clusters at their next program boundary and clears their buffers. -/
  | clusterRelease (q : CmdRef)
  /-- COPY (R263): Runs a descriptor on a command processor's copy path. -/
  | copy (q : CmdRef)
  /-- COPY_COMPLETE (R263): Every write of a copy is visible; its completion record is written and its peg is signalled. -/
  | copyComplete (q : CmdRef)
  /-- PACK_TABLE_INIT (R283): Writes an empty pack table record. -/
  | packTableInit (q : CmdRef)
  /-- PACK_TABLE_ADVANCE (R283): Builds the next step's exponent table from the histogram of each listed record. -/
  | packTableAdvance (q : CmdRef)
  /-- COLL_START (R381): Queues a collective on a collective engine. -/
  | collStart (q : CmdRef)
  /-- COLL_CANCEL (R378): Ends the running collective of a COLL_TAG with ST_COLL_CANCELLED. -/
  | collCancel (q : CmdRef)
  /-- UPD_APPLY (R305): Applies an optimizer update to a shard's records, or skips it, then writes the working copy and tags. -/
  | updApply (q : CmdRef)
  /-- UPD_NORM (R321): Computes the squared norm of a gradient shard. -/
  | updNorm (q : CmdRef)
  /-- REC_INIT (R322): Writes a shard's records, working copy, header and commit line from FP32 values. -/
  | recInit (q : CmdRef)
  /-- REC_EXPORT (R322): Copies a shard's commit line, header and records to a destination, checking them against the tag. -/
  | recExport (q : CmdRef)
  /-- REC_IMPORT (R322): Checks an exported copy, then writes its records, working copy, header and commit line. -/
  | recImport (q : CmdRef)
  /-- CONS_SWEEP (R318): Checks a shard's tags and, optionally, its derived working values, without writing. -/
  | consSweep (q : CmdRef)
  /-- CONS_COMMAND_START (R291): A conservator command that waited for an overlapping command starts once that command has completed. -/
  | consCommandStart (q : CmdRef)
  /-- UPDATE_COMMIT (R310): Every record is at s+1; the statistics record, then the shard header, then the commit line are written, and the command completes and signals. -/
  | updateCommit (q : CmdRef)
  /-- TIME_SET (R58): Steps fabric time to a given value where that is allowed. -/
  | timeSet (q : CmdRef)
  /-- TIME_MARK (R58): Writes an EV_TIME_MARK record with the command's arguments. -/
  | timeMark (q : CmdRef)
  /-- PEG_QUOTA_SET (R45): Sets a context's peg quota. -/
  | pegQuotaSet (q : CmdRef)
  /-- PEG_ALLOC (R45): Allocates a contiguous range of zeroed pegs within the quota. -/
  | pegAlloc (q : CmdRef)
  /-- PEG_FREE (R45): Frees pegs and ends the waits pending on them. -/
  | pegFree (q : CmdRef)
  /-- PEG_SIGNAL (R46): Signal-adds to a local or remote peg, satisfying the waits that the new value meets. -/
  | pegSignal (q : CmdRef)
  /-- PEG_SET (R46): Sets a local or remote peg. -/
  | pegSet (q : CmdRef)
  /-- PEG_WAIT_GE (R47): Waits until a peg is at least a value, holding back its ring. -/
  | pegWaitGe (q : CmdRef)
  /-- PEG_WAIT_EQ (R47): Waits until a peg equals a value, holding back its ring. -/
  | pegWaitEq (q : CmdRef)
  /-- PEG_WAIT_TIMEOUT (R48): Fabric time passes a wait's TIMEOUT while the wait is unsatisfied, and the wait ends. -/
  | pegWaitTimeout
  /-- CAT_RING_BIND (R55): Binds a context's catalogue ring. -/
  | catRingBind (q : CmdRef)
  /-- CAT_EXPORT_BIND (R54): Binds the host export buffer of the global catalogue ring. -/
  | catExportBind (q : CmdRef)
  /-- CTX_CREATE (R393): Creates a context with its seed, rank and watchdog window. -/
  | ctxCreate (q : CmdRef)
  /-- CTX_DESTROY (R394): Ends a context's work as an L0 reset does, then frees everything it holds. -/
  | ctxDestroy (q : CmdRef)
  /-- RING_CREATE (R396): Creates a submission ring bound to a completion ring, a vector and coalescing settings. -/
  | ringCreate (q : CmdRef)
  /-- RING_DESTROY (R415): Destroys a ring that has no commands outstanding. -/
  | ringDestroy (q : CmdRef)
  /-- RING_RESUME (R403): Sets HEAD and SEQ of a faulted ring and restarts the taking of packets. -/
  | ringResume (q : CmdRef)
  /-- RST_CONTEXT (R466): Resets a context at L0. -/
  | rstContext (q : CmdRef)
  /-- RST_UNIT (R466): Resets a unit at L1. -/
  | rstUnit (q : CmdRef)
  /-- TEST_RUN (R458): Runs the full BIST of clusters or a hub unit, or the analogue checks. -/
  | testRun (q : CmdRef)
  /-- REPAIR_MAP_READ (R466): Writes the repair map to device memory. -/
  | repairMapRead (q : CmdRef)
  /-- REPAIR_FUSE (R462): Burns FENCED masks into fuses when the fuse key is armed. -/
  | repairFuse (q : CmdRef)
  /-- CUR_POWER_STATE (R431): Enters Rest after the other commands have completed, or returns to Active. -/
  | curPowerState (q : CmdRef)
  /-- CUR_SENSOR_READ (R435): Writes every sensor's m and y to device memory. -/
  | curSensorRead (q : CmdRef)
  /-- CUR_PATCH_ACTIVATE (R434): Verifies a new Curator patch in flash and hands over to it at a sample boundary. -/
  | curPatchActivate (q : CmdRef) (patch : PatchFound)
  /-- GL_ROUTE_WRITE (R351): Checks every item, then writes routing table entries. -/
  | glRouteWrite (q : CmdRef)
  /-- GL_PORT_RETRAIN (R351): GL_PORT_CTRL action 1: retrains a port and clears FAILS. -/
  | glPortRetrain (q : CmdRef)
  /-- GL_PORT_DISABLE (R351): GL_PORT_CTRL action 2: disables a port. -/
  | glPortDisable (q : CmdRef)
  /-- GL_PORT_ENABLE (R351): GL_PORT_CTRL action 3: enables a port and clears FAILS. -/
  | glPortEnable (q : CmdRef)
  /-- FW_STAGE (R486): Copies image bytes into the staging image area. -/
  | fwStage (q : CmdRef)
  /-- CFG_STAGE (R486): Copies a 4 KiB configuration into the staging configuration area. -/
  | cfgStage (q : CmdRef)
  /-- CFG_COMMIT (R477): Checks, then commits, the staged configuration and, optionally, the staged firmware in service. -/
  | cfgCommit (q : CmdRef)
  /-- PROCESSOR_RESTART_COMPLETE (R478): The processors restarted from a newly committed image resume after about 30 ms. -/
  | processorRestartComplete
  /-- STAT_INIT (R190): Writes a tensor class block's scale record, empty ring and live record. -/
  | statInit (q : CmdRef)
  /-- STAT_CLOSE (R183): Files each listed block's record into its history ring, derives the next scale and opens the next record. -/
  | statClose (q : CmdRef)
  /-- GSCALE_INIT (R190): Writes a gradient scale entry. -/
  | gscaleInit (q : CmdRef)
  /-- GSCALE_ADVANCE (R188): Advances each listed entry's k from a health word. -/
  | gscaleAdvance (q : CmdRef)
  /-- LAUNCH_START (R149): The launch conditions hold, so the image is broadcast, core state is cleared, pending core swaps take effect, and every cluster starts. -/
  | launchStart (q : CmdRef)
  /-- CLUSTER_PROGRAM_END (R150): Every logical core has executed END, and the cluster enters DRAINING. -/
  | clusterProgramEnd (c : ClusterNo)
  /-- CLUSTER_DRAINED (R150): A draining cluster's transfers, streams and flushes have completed, and it becomes IDLE. -/
  | clusterDrained (c : ClusterNo)
  /-- LAUNCH_COMPLETE (R150): Every cluster of a launch is IDLE and its writes are visible; the record is written and the peg is signalled. -/
  | launchComplete (q : CmdRef)
  /-- CLUSTER_GATE_TIMEOUT (R134): A cluster that no context holds has been IDLE for IDLE_US and is power-gated. -/
  | clusterGateTimeout (c : ClusterNo)
  /-- ADD (R139): Scalar add. -/
  | add (k : CoreRef)
  /-- SUB (R139): Scalar subtract. -/
  | sub (k : CoreRef)
  /-- MUL (R139): Scalar multiply, keeping the low 64 bits. -/
  | mul (k : CoreRef)
  /-- AND (R139): Scalar bitwise and. -/
  | and64 (k : CoreRef)
  /-- OR (R139): Scalar bitwise or. -/
  | or64 (k : CoreRef)
  /-- XOR (R139): Scalar bitwise xor. -/
  | xor64 (k : CoreRef)
  /-- SHL (R139): Scalar shift left. -/
  | shl (k : CoreRef)
  /-- SHR (R139): Scalar logical shift right. -/
  | shr (k : CoreRef)
  /-- SAR (R139): Scalar arithmetic shift right. -/
  | sar (k : CoreRef)
  /-- MIN (R139): Scalar signed minimum. -/
  | min (k : CoreRef)
  /-- MAX (R139): Scalar signed maximum. -/
  | max (k : CoreRef)
  /-- LI (R139): Loads an immediate into a scalar register. -/
  | li (k : CoreRef)
  /-- SLD (R139): Loads 8 B from the tile store into a scalar register. -/
  | sld (k : CoreRef)
  /-- SST (R139): Stores 8 B from a scalar register into the tile store. -/
  | sst (k : CoreRef)
  /-- SPR (R142): Reads a special register. -/
  | spr (k : CoreRef)
  /-- BR (R140): Branches to TARGET. -/
  | br (k : CoreRef)
  /-- BRC (R140): Branches to TARGET when the condition holds. -/
  | brc (k : CoreRef)
  /-- LOOP (R141): Runs a loop body COUNT times. -/
  | loop (k : CoreRef)
  /-- END (R140): Ends the program on this core once its outstanding transfers have completed. -/
  | endProgram (k : CoreRef)
  /-- BRANCH_NOP (R140): The NOP instruction of the branch class does nothing. -/
  | branchNop (k : CoreRef)
  /-- MMA (R104): Matrix multiply-accumulate into an accumulator tile, in the fixed addition order. -/
  | mma (k : CoreRef)
  /-- EPI (R110): Runs the epilogue stages over an accumulator tile and writes the converted result. -/
  | epi (k : CoreRef)
  /-- ACC_READ (R109): Copies an accumulator tile into the tile store. -/
  | accRead (k : CoreRef)
  /-- ACC_WRITE (R109): Fills an accumulator tile from the tile store and sets the class of its quarters. -/
  | accWrite (k : CoreRef)
  /-- ACC_ZERO (R109): Zeroes an accumulator tile and sets the class of its quarters. -/
  | accZero (k : CoreRef)
  /-- VADD (R155): Vector FP32 add. -/
  | vadd (k : CoreRef)
  /-- VSUB (R155): Vector FP32 subtract. -/
  | vsub (k : CoreRef)
  /-- VMUL (R155): Vector FP32 multiply. -/
  | vmul (k : CoreRef)
  /-- VFMA (R155): Vector fused multiply-add. -/
  | vfma (k : CoreRef)
  /-- VMIN (R155): Vector FP32 minimumNumber. -/
  | vmin (k : CoreRef)
  /-- VMAX (R155): Vector FP32 maximumNumber. -/
  | vmax (k : CoreRef)
  /-- VDIV (R155): Vector FP32 divide. -/
  | vdiv (k : CoreRef)
  /-- VSQRT (R155): Vector FP32 square root. -/
  | vsqrt (k : CoreRef)
  /-- VCMP (R155): Vector compare producing lane masks. -/
  | vcmp (k : CoreRef)
  /-- VSEL (R155): Vector bitwise-tested select. -/
  | vsel (k : CoreRef)
  /-- VRADD (R117): Pairwise add reduction across the 16 lanes. -/
  | vradd (k : CoreRef)
  /-- VRMAX (R117): Maximum reduction across the lanes. -/
  | vrmax (k : CoreRef)
  /-- VRMIN (R117): Minimum reduction across the lanes. -/
  | vrmin (k : CoreRef)
  /-- VIADD (R155): Vector INT32 add by SAT. -/
  | viadd (k : CoreRef)
  /-- VISUB (R155): Vector INT32 subtract by SAT. -/
  | visub (k : CoreRef)
  /-- VIMUL (R155): Vector INT32 multiply, keeping the low 32 bits. -/
  | vimul (k : CoreRef)
  /-- VAND (R155): Vector bitwise and. -/
  | vand (k : CoreRef)
  /-- VOR (R155): Vector bitwise or. -/
  | vor (k : CoreRef)
  /-- VXOR (R155): Vector bitwise xor. -/
  | vxor (k : CoreRef)
  /-- VSHL (R155): Vector shift left. -/
  | vshl (k : CoreRef)
  /-- VSHR (R155): Vector logical shift right. -/
  | vshr (k : CoreRef)
  /-- VSAR (R155): Vector arithmetic shift right. -/
  | vsar (k : CoreRef)
  /-- VIMIN (R155): Vector signed integer minimum. -/
  | vimin (k : CoreRef)
  /-- VIMAX (R155): Vector signed integer maximum. -/
  | vimax (k : CoreRef)
  /-- VEXP2 (R118): Vector base-2 exponential. -/
  | vexp2 (k : CoreRef)
  /-- VEXP (R118): Vector exponential. -/
  | vexp (k : CoreRef)
  /-- VLOG2 (R118): Vector base-2 logarithm. -/
  | vlog2 (k : CoreRef)
  /-- VLOG (R118): Vector natural logarithm. -/
  | vlog (k : CoreRef)
  /-- VRCP (R118): Vector approximate reciprocal. -/
  | vrcp (k : CoreRef)
  /-- VRSQRT (R118): Vector reciprocal square root. -/
  | vrsqrt (k : CoreRef)
  /-- VSIN (R118): Vector sine. -/
  | vsin (k : CoreRef)
  /-- VCOS (R118): Vector cosine. -/
  | vcos (k : CoreRef)
  /-- VTANH (R118): Vector hyperbolic tangent. -/
  | vtanh (k : CoreRef)
  /-- VSIGMOID (R118): Vector sigmoid. -/
  | vsigmoid (k : CoreRef)
  /-- VERF (R118): Vector error function. -/
  | verf (k : CoreRef)
  /-- VLD (R155): Loads 64 B from the tile store into a vector register. -/
  | vld (k : CoreRef)
  /-- VST (R155): Stores a vector register into the tile store. -/
  | vst (k : CoreRef)
  /-- VMOVX (R155): Broadcasts a scalar into every lane of a vector register. -/
  | vmovx (k : CoreRef)
  /-- VEXTR (R155): Extracts one lane into a scalar register. -/
  | vextr (k : CoreRef)
  /-- CVT (R156): Converts a run of elements in the tile store between formats. -/
  | cvt (k : CoreRef)
  /-- XFER (R260): Runs a descriptor transfer on the core's load/store engine. -/
  | xfer (k : CoreRef)
  /-- STREAM (R251): Hands a descriptor to the cluster stream engine. -/
  | stream (k : CoreRef)
  /-- XWAIT (R157): Waits for a transfer tag, or for all transfers. -/
  | xwait (k : CoreRef)
  /-- CBLD (R157): Copies from the cluster buffer to the tile store. -/
  | cbld (k : CoreRef)
  /-- CBST (R157): Copies from the tile store to the cluster buffer. -/
  | cbst (k : CoreRef)
  /-- CREDIT (R254): Returns credits to a credit pool. -/
  | credit (k : CoreRef)
  /-- SWAIT (R256): Waits until a stream has landed a prefix of units. -/
  | swait (k : CoreRef)
  /-- DP_GET (R261): Daypack read from memory into the tile store. -/
  | dpGet (k : CoreRef)
  /-- DP_PUT (R261): Daypack write from the tile store to memory. -/
  | dpPut (k : CoreRef)
  /-- DP_WAIT (R159): Waits for a daypack tag, or for all daypack transfers. -/
  | dpWait (k : CoreRef)
  /-- DP_ATOM_ADD_FP32 (R222): Atomic FP32 add in the shared cache. -/
  | dpAtomAddFp32 (k : CoreRef)
  /-- DP_ATOM_ADD_BF16 (R222): Atomic BF16 add. -/
  | dpAtomAddBf16 (k : CoreRef)
  /-- DP_ATOM_ADD_INT32 (R222): Atomic INT32 add. -/
  | dpAtomAddInt32 (k : CoreRef)
  /-- DP_ATOM_ADD_INT64 (R222): Atomic INT64 add. -/
  | dpAtomAddInt64 (k : CoreRef)
  /-- DP_ATOM_MIN_FP32 (R222): Atomic FP32 minimum. -/
  | dpAtomMinFp32 (k : CoreRef)
  /-- DP_ATOM_MIN_BF16 (R222): Atomic BF16 minimum. -/
  | dpAtomMinBf16 (k : CoreRef)
  /-- DP_ATOM_MAX_FP32 (R222): Atomic FP32 maximum. -/
  | dpAtomMaxFp32 (k : CoreRef)
  /-- DP_ATOM_MAX_BF16 (R222): Atomic BF16 maximum. -/
  | dpAtomMaxBf16 (k : CoreRef)
  /-- DP_ATOM_AND (R222): Atomic bitwise and. -/
  | dpAtomAnd (k : CoreRef)
  /-- DP_ATOM_OR (R222): Atomic bitwise or. -/
  | dpAtomOr (k : CoreRef)
  /-- DP_ATOM_XOR (R222): Atomic bitwise xor. -/
  | dpAtomXor (k : CoreRef)
  /-- DP_ATOM_EXCHANGE (R222): Atomic exchange. -/
  | dpAtomExchange (k : CoreRef)
  /-- DP_ATOM_COMPARE_EXCHANGE (R222): Atomic compare-exchange. -/
  | dpAtomCompareExchange (k : CoreRef)
  /-- DP_ATOM_LINE_ADD (R222): Adds 16 FP32 values into a 64 B line. -/
  | dpAtomLineAdd (k : CoreRef)
  /-- SCAN_AFFINE (R127): Scan of the affine recurrence along the core chain. -/
  | scanAffine (k : CoreRef)
  /-- SCAN_ADD_F32 (R127): FP32 prefix-sum scan. -/
  | scanAddF32 (k : CoreRef)
  /-- SCAN_ADD_I32 (R127): INT32 prefix-sum scan. -/
  | scanAddI32 (k : CoreRef)
  /-- SCAN_MAX_F32 (R127): Prefix maximum scan. -/
  | scanMaxF32 (k : CoreRef)
  /-- SCAN_BARRIER (R129): Cluster barrier that makes earlier cluster-buffer writes visible. -/
  | scanBarrier (k : CoreRef)
  /-- SCAN_CHAIN (R128): All 80 cores have issued a scan, so the chain runs and writes each core's Vd. -/
  | scanChain (c : ClusterNo)
  /-- PSIG (R162): Program signal-add to a peg. -/
  | psig (k : CoreRef)
  /-- PSET (R162): Program set of a peg. -/
  | pset (k : CoreRef)
  /-- PWGE (R162): Program wait until a peg is at least a value. -/
  | pwge (k : CoreRef)
  /-- PWEQ (R162): Program wait until a peg equals a value. -/
  | pweq (k : CoreRef)
  /-- SBIND (R164): Clears a statistics slot and binds it to a tensor and a record. -/
  | sbind (k : CoreRef)
  /-- SFLUSH (R180): Merges a statistics slot into its record and clears it. -/
  | sflush (k : CoreRef)
  /-- SVEC (R164): Counts 16 vector lanes into a statistics slot. -/
  | svec (k : CoreRef)
  /-- STREAM_REQUEST_ISSUE (R254): A stream that holds a credit issues its next request. -/
  | streamRequestIssue (c : ClusterNo) (sid : Fin 64)
  /-- STREAM_UNIT_LANDED (R256): A stream unit lands, pack blocks are decoded or encoded, and the stream completes and signals when every unit has landed. -/
  | streamUnitLanded (c : ClusterNo) (sid : Fin 64) (unit : Nat)
  /-- TRANSFER_COMPLETE (R260): A descriptor transfer completes and clears its pending or sourcing marks. -/
  | transferComplete (k : CoreRef) (tag : Fin 8)
  /-- DAYPACK_COMPLETE (R261): A daypack transfer or atomic response completes. -/
  | daypackComplete (k : CoreRef) (dtag : Fin 16)
  /-- STREAM_TAG_REREAD (R257): Every 1 µs a waiting stream re-reads its step tag. -/
  | streamTagReread (r : StreamRef)
  /-- STREAM_DEADLINE_EXPIRY (R259): Fabric time passes a stream's DEADLINE before all its units have landed, and it is late. -/
  | streamDeadlineExpiry (r : StreamRef)
  /-- STALL_REPORT_TIMEOUT (R268): A stall episode reaches STALL_REPORT_US and raises EV_STALL. -/
  | stallReportTimeout (c : Ctx) (unit : StallUnit)
  /-- AGING_TICK (R241): Every AGING_NS, each resident page's age is updated. -/
  | agingTick
  /-- EVICTION_COMPLETE (R243): The confirming read of an eviction returns, and the page becomes EVICTED with its frame freed. -/
  | evictionComplete (frame : Nat) (confirmed : Bool)
  /-- PAGE_RETURN_START (R244): A waiting return gets a frame and starts reading its slot. -/
  | pageReturnStart (c : Ctx) (page : Nat)
  /-- PAGE_RETURN_COMPLETE (R244): A returned page becomes RESIDENT and the accesses waiting on it proceed. -/
  | pageReturnComplete (c : Ctx) (page : Nat)
  /-- HOST_READ_COMPLETION (R247): A host-tier PCIe read completes, or fails and resets the reader's context. -/
  | hostReadCompletion (id : Nat) (data : Option (List (Nat × Byte)))
  /-- HBM_READ_RESPONSE (R207): A stack read returns and is checked, then delivered, re-issued or declared uncorrectable. -/
  | hbmReadResponse (x : HbmRead)
  /-- CA_PARITY_REPORT (R210): A stack reports command/address parity, and the contexts with recent writes on it are reset. -/
  | caParityReport (stack : Fin 16) (pc : Fin 32)
  /-- REFRESH_INTERVAL (R211): A per-bank refresh is due at the rate the stack's temperature sets. -/
  | refreshInterval (stack : Fin 16)
  /-- WC_FLUSH_TIMEOUT (R226): A partial write-combining entry reaches FLUSH_NS and leaves by read-modify-write. -/
  | wcFlushTimeout (line : Nat)
  /-- STACK_TRAINING_COMPLETE (R196): Stack training ends with stacks READY or FAILED, and boot or the reset continues to ready or not ready. -/
  | stackTrainingComplete (x : List StackTrained)
  /-- FLIT_RECEIVED (R334): A DATA flit arrives on a direct port and is accepted in order, or discarded with a NAK. -/
  | flitReceived (p : Port) (flit : List Byte)
  /-- NAK_FLIT_RECEIVED (R334): A NAK flit makes the sender replay its unacknowledged flits. -/
  | nakFlitReceived (p : Port) (flit : List Byte)
  /-- IDLE_FLIT_RECEIVED (R335): An IDLE flit delivers acknowledgements and credits. -/
  | idleFlitReceived (p : Port) (flit : List Byte)
  /-- LPI_FLIT_RECEIVED (R349): An LPI flit lets a direct port enter low-power idle. -/
  | lpiFlitReceived (p : Port) (flit : List Byte)
  /-- REPLAY_TIMEOUT (R334): No acknowledgement advanced for REPLAY_NS, so the unacknowledged flits are replayed. -/
  | replayTimeout (p : Port)
  /-- FRAME_RECEIVED (R338): An Ethernet frame arrives on a switched port and its blocks are checked and delivered, relayed or discarded. -/
  | frameReceived (p : Port) (frame : List Byte)
  /-- WRITE_BLOCK_RECEIVED (R249): A peer WRITE is performed in the export window, or rejected, and acknowledged. -/
  | writeBlockReceived (p : Port)
  /-- WRITE_ACK_RECEIVED (R329): A WRITE_ACK completes a peer write, or makes it fault with its code. -/
  | writeAckReceived (p : Port)
  /-- READ_REQ_RECEIVED (R249): A peer READ_REQ is read from the export window, or rejected, and answered. -/
  | readReqReceived (p : Port)
  /-- READ_RESP_RECEIVED (R329): A READ_RESP delivers peer data, or a rejection. -/
  | readRespReceived (p : Port)
  /-- PEG_BLOCK_RECEIVED (R51): A remote peg operation is applied, or discarded when the context does not own the peg. -/
  | pegBlockReceived (p : Port)
  /-- COLL_DATA_RECEIVED (R365): A collective DATA chunk arrives and is added, forwarded or written, or discarded as stray. -/
  | collDataReceived (p : Port)
  /-- COLL_READY_RECEIVED (R362): A READY block grants chunk credits, and chunks are sent. -/
  | collReadyReceived (p : Port)
  /-- COLL_SUMMARY_RECEIVED (R373): A partial health summary arrives in the summary tree. -/
  | collSummaryReceived (p : Port)
  /-- COLL_HEADER_RECEIVED (R370): A tagged all-gather's shard header is written last, at HDR_VA. -/
  | collHeaderReceived (p : Port)
  /-- BEACON_REQUEST_RECEIVED (R30): A beacon master answers a beacon request. -/
  | beaconRequestReceived (p : Port)
  /-- BEACON_REPLY_RECEIVED (R30): A beacon reply gives an offset measurement of fabric time. -/
  | beaconReplyReceived (p : Port)
  /-- BEACON_INTERVAL_TICK (R30): A beacon is sent once per beacon interval. -/
  | beaconIntervalTick
  /-- PTP_MESSAGE_RECEIVED (R29): A PTP message is processed, which may give an offset measurement. -/
  | ptpMessageReceived (p : Port) (x : PtpMessage)
  /-- PTP_SYNC_INTERVAL (R29): When acting as master, a two-step Sync is sent each Sync interval. -/
  | ptpSyncInterval
  /-- MEASUREMENT_LOSS_TIMEOUT (R32): LOSS_INTERVALS pass without a valid measurement, and the state becomes HOLDOVER. -/
  | measurementLossTimeout
  /-- SLOT_PLAN_PERIOD_BOUNDARY (R42): A period boundary: a committed plan becomes live, or a removed plan ends. -/
  | slotPlanPeriodBoundary (p : Port)
  /-- E2E_ACK_TIMER (R341): ACK_NS passes after the oldest unacknowledged block, and an E2E_ACK is sent. -/
  | e2eAckTimer (src : BitVec 16) (tc : Fin 8)
  /-- E2E_ACK_RECEIVED (R341): An end-to-end acknowledgement frees blocks from the re-send store. -/
  | e2eAckReceived (p : Port)
  /-- E2E_NAK_RECEIVED (R342): An end-to-end NAK makes the sender re-send, with SYN on RESET. -/
  | e2eNakReceived (p : Port)
  /-- E2E_RESEND_TIMEOUT (R341): The re-send timeout expires, and the connection's unacknowledged blocks are sent again. -/
  | e2eResendTimeout (dest : BitVec 16) (tc : Fin 8)
  /-- CONNECTION_IDLE_EXPIRY (R342): A connection entry idle for IDLE_MS, or twice that for a sender, is freed. -/
  | connectionIdleExpiry (sender : Bool) (node : BitVec 16) (tc : Fin 8)
  /-- SIGNAL_DETECTED (R348): A DOWN port detects signal on all four lanes and starts a training attempt. -/
  | signalDetected (p : Port)
  /-- TRAINING_ATTEMPT_END (R348): A training attempt ends, UP or failed, with a wiring check and a count of failures. -/
  | trainingAttemptEnd (p : Port) (x : TrainEnd)
  /-- LINK_LOSS (R348): An UP port loses FEC lock or PCS alignment, goes DOWN and retrains. -/
  | linkLoss (p : Port)
  /-- COLLECTIVE_START (R381): A queued collective starts after its wait; it reads the descriptor and rank map and begins sending. -/
  | collectiveStart (q : CmdRef)
  /-- COLL_TAG_REREAD (R370): Every 1 µs a tagged all-gather re-reads its shard tag. -/
  | collTagReread (q : CmdRef)
  /-- COLL_DEADLINE_EXPIRY (R375): Fabric time passes DEADLINE, and the ranks that still owe contributions are marked late. -/
  | collDeadlineExpiry (q : CmdRef)
  /-- COLL_END_DEADLINE_EXPIRY (R374): Fabric time passes END_DEADLINE, and the collective ends with ST_COLL_DEADLINE. -/
  | collEndDeadlineExpiry (q : CmdRef)
  /-- COLLECTIVE_COMPLETE (R382): The DST, header and summary writes are visible; the record is written and the peg is signalled. -/
  | collectiveComplete (q : CmdRef)
  /-- LATE_WINDOW_EXPIRY (R377): A late window closes after 1 s. -/
  | lateWindowExpiry (c : Ctx) (tag : W32)
  /-- THERMAL_SAMPLE (R419): The 1 kHz thermal and stack sampling updates the filters, sensor failure, refresh rates and the trip checks. -/
  | thermalSample (readings : List Int)
  /-- VOLTAGE_SAMPLE (R419): The 10 kHz voltage-monitor sampling. -/
  | voltageSample (readings : List Int)
  /-- CURRENT_SAMPLE (R433): The 10 kHz PMBus current read of each regulator, marking lost regulators. -/
  | currentSample (readings : List (Option Int)) (statusWords : List Nat)
  /-- POWER_LOOP_TICK (R425): Every 100 µs the Curator chooses the point in force from power, cap, limits and protection. -/
  | powerLoopTick
  /-- VOLTAGE_SETTLED (R423): The raised VDD_CORE is confirmed, and the clock switches to the faster point. -/
  | voltageSettled
  /-- IDLE_ENTRY_TIMEOUT (R430): No cluster has been busy for IDLE_US, and the package enters Idle. -/
  | idleEntryTimeout
  /-- CURATOR_WATCHDOG_EXPIRY (R441): The Curator heartbeat stopped for 10 ms, and its controller restarts. -/
  | curatorWatchdogExpiry
  /-- CURATOR_RESTART_COMPLETE (R441): The Curator controller finishes its restart and writes a restart record. -/
  | curatorRestartComplete
  /-- THERMAL_SENSOR_CHECK (R453): Every 10 s the thermal sensors are checked against the bandgap. -/
  | thermalSensorCheck (apart : List Int)
  /-- VOLTAGE_MONITOR_CHECK (R453): Every 1 s the voltage monitors are checked against the reference. -/
  | voltageMonitorCheck (apart : List Int)
  /-- WATCHDOG_EXPIRY (R438): A context's pending work has made no progress for WATCHDOG_NS; it is declared hung and reset at L0. -/
  | watchdogExpiry (c : Ctx)
  /-- QUIESCE_COMPLETE (R443): Every unit has acknowledged the stop, and the L0 clears and completes. -/
  | quiesceComplete (c : Ctx)
  /-- QUIESCE_TIMEOUT (R443): A unit did not acknowledge within QUIESCE_US and is reset at L1. -/
  | quiesceTimeout (c : Ctx) (unit : UnitRef) (core : Fin 84) (engine : Fin 4)
  /-- HEARTBEAT_TIMEOUT (R440): A control processor's heartbeat stopped for 1 ms, and it is reset at L1. -/
  | heartbeatTimeout (unit : UnitRef)
  /-- UNIT_BIST_COMPLETE (R444): A unit's BIST ends; it returns to service, or is fenced or escalated. -/
  | unitBistComplete (unit : UnitRef) (core : Fin 84) (engine : Fin 4) (x : BistResult)
  /-- TEST_CONDITION_CHECK (R454): Every 1 ms during a test phase, the voltage and clocks are checked, and the phase is refused or abandoned. -/
  | testConditionCheck (x : TestConditions)
  /-- COLD_BIST_RETRY (R454): 1 s after a refusal, cold BIST is tried again, up to three times. -/
  | coldBistRetry
  /-- BIST_BATCH_COMPLETE (R455): A batch of cluster BIST finishes, and the next batch starts. -/
  | bistBatchComplete (x : List CoreBist)
  /-- COLD_BIST_PHASE_COMPLETE (R457): A cold BIST phase ends, and the next one starts, or the repair map is built. -/
  | coldBistPhaseComplete (x : PhaseResult)
  /-- ROTATION_INTERVAL (R463): INTERVAL_S passes for an idle cluster, which swaps at once. -/
  | rotationInterval (c : ClusterNo)
  /-- ROTATION_TEST_COMPLETE (R464): The aside core's test ends: it passes and stays aside, it fails and is fenced, or the result is absent. -/
  | rotationTestComplete (c : ClusterNo) (x : BistResult)
  /-- TIME_PPS_OUT_PULSE (R37): At each whole second of fabric time, TIME_PPS_OUT is driven high for 10 µs when PPS_OUT_EN is set and the state is LOCKED or HOLDOVER. -/
  | timePpsOutPulse
  /-- POST_PACKAGE_REPAIR_COMPLETE (R215): A soft (about 1 ms) or hard (about 200 ms) row repair finishes, releases the bank, updates MEM_HPPR_STATUS and raises EV_HBM_PPR_DONE. -/
  | postPackageRepairComplete (hard : Bool) (rowPassed : Bool)
  /-- WAKE_COMPLETE (R430): Clocks, or stacks and clusters, are restored 10 µs after an Idle wake or 30 ms after a Rest wake, and packets are taken again. -/
  | wakeComplete
  /-- CONSERVATOR_COMMAND_COMPLETE (R291): The last write of a UPD_NORM, REC_INIT, REC_EXPORT, REC_IMPORT or CONS_SWEEP is visible, so its completion record is written and its peg is signalled. -/
  | conservatorCommandComplete (q : CmdRef)
  /-- PLATFORM_EVENT_MESSAGE_COLLECT (R432): The tray's bus owner collects a waiting PlatformEventMessage over MCTP, and SMB_ALERT_N is released when none remain. -/
  | platformEventMessageCollect
  /-- ENDPOINT_ID_ASSIGNMENT (R432): The tray's bus owner assigns the Curator's MCTP endpoint ID. -/
  | endpointIdAssignment (eid : Byte)
  /-- TAP_OPERATION (R508): JTAG activity on TCK, TMS and TRST_N moves the IEEE 1149.1 TAP and performs its instructions, acting on the lands only in phases ROM and WAIT_IMAGE. -/
  | tapOperation (x : TapStep)
  /-- CONFIGURATION_REQUEST (R480): A PCIe configuration request is answered with Configuration Request Retry Status until the function is ready, and is otherwise performed. -/
  | configurationRequest (off : BitVec 12) (write : Option W32)
  /-- BOOT_BRINGUP_COMPLETE (R470): The hub ROM's boot-rate bring-up of the stacks ends (again after a cause-5 lane repair), and the boot enters phase WAIT_IMAGE. -/
  | bootBringupComplete
  deriving DecidableEq, Repr

end Sys2Proof
end

