-- ==== Sys2Proof/Decode.lean ====
section
/-! DEFINITION. Reading a command from a word. The table of this block gives no row any bits (its rows are events and
commands, not encodings), so no word spells a command. What the block does decode, a core's 128-bit instruction word, a
packet or a received block, stands in its own memories and is decoded by the meanings that read it. -/

namespace Sys2Proof

/-- The command that a word spells by the table's bits: none, since the table gives no row bits. -/
def decodeTableWord (_nbits _w : Nat) : Option Instr := none

end Sys2Proof
end

