-- ==== Sys2Proof/Config.lean ====
section
/-! DEFINITION. What the part fixes (R18, R52, R53) and the free values: constants without a body, of which nothing can be
proved but that they are the same at the same argument. Each free value is named in a log entry. -/

namespace Sys2Proof.Config

/-- Clusters of the package (R18). -/
abbrev clusters : Nat := 320
/-- Logical cores of a cluster (R18). -/
abbrev cores : Nat := 80
/-- Pegs (R45). -/
abbrev pegs : Nat := 16384
/-- Wait-table entries (R49). -/
abbrev waitEntries : Nat := 32768
/-- Pool frames of 2 MiB (R238). -/
abbrev poolFrames : Nat := 520192
/-- Records that the global ring holds (R54) and that the Curator keeps (R56). -/
abbrev globalRecords : Nat := 1048576
abbrev curatorRecords : Nat := 4096
/-- Physical cores of a cluster (R17). -/
abbrev physCores : Nat := 84

/-- A fresh free value at each use: applied to the counter in State (log entry 3). -/
opaque freeWord : Nat → W64
/-- A vector transcendental outside its stated special values, by operation code and operand (R95, R118; log entry 5). -/
opaque transcendental : Nat → W32 → W32
/-- An epilogue activation outside its stated special values, by ACT code and input (R95, R112; log entry 5). -/
opaque activation : Nat → W32 → W32
/-- SHA-384 of a byte string; the manual names the standard and gives no algorithm (R471, R485; log entry 6). -/
opaque sha384 : List Byte → BitVec 384
/-- Ed25519 verification: key, message, signature (R471; log entry 6). -/
opaque ed25519Verify : List Byte → List Byte → List Byte → Bool
/-- ML-DSA-65 verification: key, message, signature (R471; log entry 6). -/
opaque mldsaVerify : List Byte → List Byte → List Byte → Bool
/-- Signatures that the security block makes with the part's private keys (R482, R484; log entry 6). -/
opaque ed25519Sign : List Byte → List Byte
opaque mldsaSign : List Byte → List Byte
/-- Certificate chains in the security block's OTP: slot 0 and slot 1 (R482, R483; log entry 6). -/
opaque certificateChain : Nat → List Byte
/-- The hashes fused in key slot n, of the Ed25519 and of the ML-DSA-65 key (R472; log entry 6). -/
opaque keyHashEd : Nat → BitVec 384
opaque keyHashMldsa : Nat → BitVec 384
/-- Versions of the hub ROM and the Curator ROM (R485; log entry 6). -/
opaque romVersions : List Byte
/-- Where the Askax places the level-2 table of a context and level-1 index; the manual gives no placement (R234; log entry 7). -/
opaque level2Table : Nat → Nat → BitVec 23
/-- Spare rows that a bank group of a stack has at power-on: stack, bank-group index (R214; log entry 12). -/
opaque spareRows : Nat → Nat → Nat
/-- Expected and found BIST signatures of a unit (R451; log entry 30). -/
opaque bistSignature : Nat → W64

/-- A dword of PCIe configuration space, by its offset; the manual lists capabilities and gives no layout (R388; log entry 53). -/
opaque configDword : Nat → W32

/-- The instruction that the bits of the TAP's instruction register name, as a number; the manual gives no codes (R508; log entry
41). -/
opaque tapDecode : List Bool → Nat

/-- A byte whose contents the manual calls undefined: tag of the stretch and address (log entry 3). -/
opaque freeByte : Nat → Nat → Byte

end Sys2Proof.Config
end

