-- ==== Sys2Proof/Machine/Float.lean ====
section
/-! DEFINITION. Number formats and exact arithmetic (03_numbers.md R61 to R63, R70 to R76, R84, R86): every float value is
an exact dyadic number, operations are exact, and one rounding makes the result code. -/

namespace Sys2Proof.Machine

/-- An exact dyadic number `n * 2^e`. -/
structure Dy where
  n : Int
  e : Int
  deriving DecidableEq, Repr

/-- The value of a float code: not a number, an infinity, or a signed dyadic (the sign is kept for zero). -/
inductive FVal where
  | nan
  | inf (neg : Bool)
  | fin (neg : Bool) (m : Nat) (e : Int)
  deriving DecidableEq, Repr

/-- The layout of a float format (R61): exponent and fraction widths, bias, the code of the largest finite magnitude, and
whether the format has infinities and NaN codes above it. -/
structure FloatFmt where
  width : Nat
  mbits : Nat
  bias : Int
  maxMag : Nat
  hasInf : Bool
  nanCode : Nat
  hasNan : Bool
  deriving DecidableEq, Repr

def fp32Fmt : FloatFmt := ⟨32, 23, 127, 0x7F7FFFFF, true, 0x7FC00000, true⟩
def bf16Fmt : FloatFmt := ⟨16, 7, 127, 0x7F7F, true, 0x7FC0, true⟩
def fp16Fmt : FloatFmt := ⟨16, 10, 15, 0x7BFF, true, 0x7E00, true⟩
def e4m3Fmt : FloatFmt := ⟨8, 3, 7, 0x7E, false, 0x7F, true⟩
def e5m2Fmt : FloatFmt := ⟨8, 2, 15, 0x7B, true, 0x7E, true⟩
/-- E2M1 has neither infinities nor NaN codes: its NaN rule gives +0 (R82). -/
def e2m1Fmt : FloatFmt := ⟨4, 1, 1, 0x7, false, 0x0, false⟩

/-- The magnitude bits of a code (all but the sign). -/
def FloatFmt.magOf (f : FloatFmt) (code : Nat) : Nat := code % 2 ^ (f.width - 1)
/-- The sign bit of a code. -/
def FloatFmt.signOf (f : FloatFmt) (code : Nat) : Bool := code.testBit (f.width - 1)

/-- The value that a code stands for (R61, R62: signalling and quiet NaNs are alike). -/
def FloatFmt.decode (f : FloatFmt) (code : Nat) : FVal :=
  let mag := f.magOf code
  let neg := f.signOf code
  if mag ≤ f.maxMag then
    let ex := mag >>> f.mbits
    let fr := mag % 2 ^ f.mbits
    if ex = 0 then .fin neg fr (1 - f.bias - f.mbits)
    else .fin neg (2 ^ f.mbits + fr) ((ex : Int) - f.bias - f.mbits)
  else if f.hasInf && mag == f.maxMag + 1 then .inf neg
  else if f.hasNan then .nan
  else .fin neg 0 0

/-- A rounding mode with the 16 random bits of stochastic rounding (R84, R86). -/
inductive Rnd where
  | rne
  | rz
  | sr (r : Nat)
  deriving DecidableEq, Repr

/-- `m / 2^sh` rounded to an integer; `sticky` says that the exact value lies a little above `m` (below one unit of it). -/
def roundShift (rm : Rnd) (m sh : Nat) (sticky : Bool) : Nat :=
  let q := m >>> sh
  let rem := m % 2 ^ sh
  match rm with
  | .rz => q
  | .sr r => (m * 2 ^ 16 + r * 2 ^ sh) >>> (sh + 16)
  | .rne =>
    let twice := 2 * rem
    let half := 2 ^ sh
    if twice > half || (twice == half && (sticky || q % 2 == 1)) then q + 1 else q

/-- Shifting a magnitude onto the unit `2^q`, rounded. -/
def roundToUnit (rm : Rnd) (m : Nat) (e q : Int) (sticky : Bool) : Nat :=
  if q ≤ e then m <<< (e - q).toNat else roundShift rm m (q - e).toNat sticky

/-- The exponent of the unit in the last place of a magnitude in a format: that of its binade, and never below the
subnormal spacing (R86 step 1). -/
def FloatFmt.unitExp (f : FloatFmt) (m : Nat) (e : Int) : Int :=
  max ((m.log2 : Int) + e) (1 - f.bias) - f.mbits

/-- The magnitude code of `n * 2^q` with the exponent range unbounded above, where `q` is the unit of its binade (or `n`
has just carried into the next one). -/
def FloatFmt.magCode (f : FloatFmt) (n : Nat) (q : Int) : Nat :=
  if n < 2 ^ f.mbits then n
  else ((q + f.mbits + f.bias).toNat) * 2 ^ f.mbits + (n - 2 ^ f.mbits)

/-- The magnitude code of a rounded value, exponent range unbounded (R82: overflow is judged after rounding). -/
def FloatFmt.roundMag (f : FloatFmt) (rm : Rnd) (m : Nat) (e : Int) (sticky : Bool) : Nat :=
  if m = 0 then 0
  else
    let q := f.unitExp m e
    f.magCode (roundToUnit rm m e q sticky) q

/-- A magnitude code with its sign. -/
def FloatFmt.withSign (f : FloatFmt) (neg : Bool) (mag : Nat) : Nat :=
  if neg then mag + 2 ^ (f.width - 1) else mag

/-- The code of infinity, where the format has one. -/
def FloatFmt.infCode (f : FloatFmt) (neg : Bool) : Nat := f.withSign neg (f.maxMag + 1)

/-- Rounding to nearest even into a format with infinities: arithmetic results (R71). -/
def FloatFmt.ofMag (f : FloatFmt) (neg : Bool) (m : Nat) (e : Int) (sticky : Bool) : Nat :=
  let mag := f.roundMag .rne m e sticky
  if mag > f.maxMag then f.infCode neg else f.withSign neg mag

/-- The code of an exact value, rounded to nearest even. -/
def FloatFmt.ofVal (f : FloatFmt) : FVal → Nat
  | .nan => f.nanCode
  | .inf neg => f.infCode neg
  | .fin neg m e => f.ofMag neg m e false

/-- FP32 code to value. -/
def f32 (c : W32) : FVal := fp32Fmt.decode c.toNat
/-- Value to FP32 code, one rounding. -/
def toF32 (v : FVal) : W32 := BitVec.ofNat 32 (fp32Fmt.ofVal v)

def f32NaN : W32 := 0x7FC00000
def f32PosInf : W32 := 0x7F800000
def f32NegInf : W32 := 0xFF800000

/-- A signed dyadic as a value; an exact zero takes the given sign. -/
def FVal.ofDy (d : Dy) (zeroNeg : Bool) : FVal :=
  if d.n = 0 then .fin zeroNeg 0 0 else .fin (d.n < 0) d.n.natAbs d.e

/-- The dyadic of a finite value (0 for the others). -/
def FVal.dy : FVal → Dy
  | .fin neg m e => ⟨if neg then -(m : Int) else m, e⟩
  | _ => ⟨0, 0⟩

def FVal.isNaN : FVal → Bool
  | .nan => true
  | _ => false
def FVal.isInf : FVal → Bool
  | .inf _ => true
  | _ => false
def FVal.isFin : FVal → Bool
  | .fin _ _ _ => true
  | _ => false
def FVal.isZero : FVal → Bool
  | .fin _ m _ => m == 0
  | _ => false
def FVal.neg? : FVal → Bool
  | .nan => false
  | .inf s => s
  | .fin s _ _ => s

/-- The value with its sign flipped. -/
def FVal.negate : FVal → FVal
  | .nan => .nan
  | .inf s => .inf (!s)
  | .fin s m e => .fin (!s) m e

/-- The magnitude of a value. -/
def FVal.abs : FVal → FVal
  | .nan => .nan
  | .inf _ => .inf false
  | .fin _ m e => .fin false m e

/-- Exact sum of two dyadics. -/
def Dy.add (a b : Dy) : Dy :=
  let e := min a.e b.e
  ⟨a.n * 2 ^ (a.e - e).toNat + b.n * 2 ^ (b.e - e).toNat, e⟩
/-- Exact product of two dyadics. -/
def Dy.mul (a b : Dy) : Dy := ⟨a.n * b.n, a.e + b.e⟩
def Dy.neg (a : Dy) : Dy := ⟨-a.n, a.e⟩
def Dy.sub (a b : Dy) : Dy := a.add b.neg
/-- Exact order of two dyadics. -/
def Dy.lt (a b : Dy) : Bool := decide ((a.sub b).n < 0)
/-- An integer as a dyadic. -/
def Dy.ofInt (n : Int) : Dy := ⟨n, 0⟩

/-- Exact sum under IEEE 754-2019: opposite infinities make a NaN; the sum of two zeros is −0 only when both are −0 (R72). -/
def FVal.add (a b : FVal) : FVal :=
  match a, b with
  | .nan, _ => .nan
  | _, .nan => .nan
  | .inf s, .inf t => if s = t then .inf s else .nan
  | .inf s, _ => .inf s
  | _, .inf t => .inf t
  | .fin s m e, .fin t k f =>
    FVal.ofDy ((FVal.fin s m e).dy.add (FVal.fin t k f).dy) (s && t)

/-- Exact product under IEEE 754-2019. -/
def FVal.mul (a b : FVal) : FVal :=
  match a, b with
  | .nan, _ => .nan
  | _, .nan => .nan
  | .inf s, x => if x.isZero then .nan else .inf (s != x.neg?)
  | x, .inf t => if x.isZero then .nan else .inf (x.neg? != t)
  | .fin s m e, .fin t k f => .fin (s != t) (m * k) (e + f)

/-- Exact sum of a list, from a start value: a NaN or two opposite infinities give NaN. -/
def FVal.sum (start : FVal) (l : List FVal) : FVal := l.foldl FVal.add start

/-- Integer square root by bits: the largest `r` below `2^k` more with `r*r ≤ n`. -/
def isqrtBits (n : Nat) : Nat → Nat → Nat
  | 0, r => r
  | k + 1, r =>
    let c := r + 2 ^ k
    isqrtBits n k (if c * c ≤ n then c else r)
/-- Integer square root. -/
def isqrt (n : Nat) : Nat := isqrtBits n (n.log2 / 2 + 1) 0

namespace F32
/-! Correctly rounded FP32 arithmetic (R71). -/

def add (a b : W32) : W32 := toF32 ((f32 a).add (f32 b))
def sub (a b : W32) : W32 := toF32 ((f32 a).add (f32 b).negate)
def mul (a b : W32) : W32 := toF32 ((f32 a).mul (f32 b))
/-- a · b + c with one rounding. -/
def fma (a b c : W32) : W32 := toF32 (((f32 a).mul (f32 b)).add (f32 c))

/-- Quotient of two finite non-zero magnitudes with at least 32 quotient bits, and whether bits were lost. -/
def quot (m k : Nat) : Nat × Int × Bool :=
  let sh := k.log2 + 33
  let num := m <<< sh
  (num / k, -(sh : Int), num % k != 0)

def div (a b : W32) : W32 :=
  match f32 a, f32 b with
  | .nan, _ => f32NaN
  | _, .nan => f32NaN
  | .inf _, .inf _ => f32NaN
  | .inf s, y => BitVec.ofNat 32 (fp32Fmt.infCode (s != y.neg?))
  | x, .inf t => BitVec.ofNat 32 (fp32Fmt.withSign (x.neg? != t) 0)
  | .fin s m e, .fin t k f =>
    if k = 0 then
      if m = 0 then f32NaN else BitVec.ofNat 32 (fp32Fmt.infCode (s != t))
    else if m = 0 then BitVec.ofNat 32 (fp32Fmt.withSign (s != t) 0)
    else
      let r := quot m k
      BitVec.ofNat 32 (fp32Fmt.ofMag (s != t) r.1 (e - f + r.2.1) r.2.2)

def sqrt (a : W32) : W32 :=
  match f32 a with
  | .nan => f32NaN
  | .inf s => if s then f32NaN else f32PosInf
  | .fin s m e =>
    if m = 0 then a
    else if s then f32NaN
    else
      let sh := 64 + ((e - 64) % 2).toNat
      let v := m <<< sh
      let r := isqrt v
      BitVec.ofNat 32 (fp32Fmt.ofMag false r ((e - sh) / 2) (r * r != v))

/-- Ordered comparison of two numbers (false when either is NaN); −0 and +0 are equal (R72). -/
def ltVal (a b : FVal) : Bool :=
  match a, b with
  | .nan, _ => false
  | _, .nan => false
  | .inf s, .inf t => s && !t
  | .inf s, _ => s
  | _, .inf t => !t
  | .fin s m e, .fin t k f => Dy.lt (FVal.fin s m e).dy (FVal.fin t k f).dy
def eqVal (a b : FVal) : Bool :=
  match a, b with
  | .nan, _ => false
  | _, .nan => false
  | .inf s, .inf t => s == t
  | .inf _, _ => false
  | _, .inf _ => false
  | .fin s m e, .fin t k f => ((FVal.fin s m e).dy.sub (FVal.fin t k f).dy).n == 0

def lt (a b : W32) : Bool := ltVal (f32 a) (f32 b)
def eq (a b : W32) : Bool := eqVal (f32 a) (f32 b)
def le (a b : W32) : Bool := lt a b || eq a b
def isNaN (a : W32) : Bool := (f32 a).isNaN
def isFinite (a : W32) : Bool := (f32 a).isFin

/-- Order for maximum and minimum: −0 counts as less than +0 (R72). -/
def lessForMax (a b : FVal) : Bool :=
  ltVal a b || (eqVal a b && a.neg? && !b.neg?)

/-- minimumNumber and maximumNumber (R73): one NaN gives the other operand, two give the canonical NaN. -/
def minNum (a b : W32) : W32 :=
  if isNaN a then (if isNaN b then f32NaN else b)
  else if isNaN b then a
  else if lessForMax (f32 b) (f32 a) then b else a
def maxNum (a b : W32) : W32 :=
  if isNaN a then (if isNaN b then f32NaN else b)
  else if isNaN b then a
  else if lessForMax (f32 a) (f32 b) then b else a

/-- Magnitude of a code. -/
def abs (a : W32) : W32 := a &&& 0x7FFFFFFF

/-- An integer converted to FP32 by rounding to nearest even (rule Q, R81). -/
def ofInt (n : Int) : W32 := toF32 (.fin (n < 0) n.natAbs 0)
/-- The FP32 value of `2^k`, where it is representable; rounded otherwise. -/
def pow2 (k : Int) : W32 := toF32 (.fin false 1 k)
def one : W32 := 0x3F800000

end F32

namespace BF16
/-! BF16 operations of the shared cache (R222) and widening. -/

def val (c : Nat) : FVal := bf16Fmt.decode c
def ofVal (v : FVal) : Nat := bf16Fmt.ofVal v
def add (a b : Nat) : Nat := ofVal ((val a).add (val b))
def minNum (a b : Nat) : Nat :=
  if (val a).isNaN then (if (val b).isNaN then bf16Fmt.nanCode else b)
  else if (val b).isNaN then a
  else if F32.lessForMax (val b) (val a) then b else a
def maxNum (a b : Nat) : Nat :=
  if (val a).isNaN then (if (val b).isNaN then bf16Fmt.nanCode else b)
  else if (val b).isNaN then a
  else if F32.lessForMax (val a) (val b) then b else a
/-- Exact widening to FP32; a NaN becomes the canonical NaN (rule E). -/
def widen (c : Nat) : W32 := toF32 (val c)

end BF16

end Sys2Proof.Machine
end

