-- ==== Sys2Proof/Machine/Flags.lean ====
section
/-! DEFINITION. The counts that a conversion leaves (R83), and the statistics taken from them (R115, R179): the block's
counterpart of flag computations. -/

namespace Sys2Proof.Machine

/-- How one converted element is counted (R83). One element may fall in several counts. -/
structure Class where
  zero : Bool
  sat : Bool
  nonfin : Bool
  clip : Bool
  deriving DecidableEq, Repr

/-- Running statistics of a slot or record: ELEMENTS, the four counts, AMAX, MIN and MAX as FP32 codes (R175, R179). -/
structure Stats where
  elements : Nat
  zeros : Nat
  sats : Nat
  nonfin : Nat
  clipped : Nat
  amax : W32
  min : W32
  max : W32
  deriving DecidableEq, Repr

/-- SBIND clears the values to 0, 0, +∞ and −∞ (R179). -/
def Stats.empty : Stats := ⟨0, 0, 0, 0, 0, 0, f32PosInf, f32NegInf⟩

def bit01 (b : Bool) : Nat := if b then 1 else 0

/-- One element counted: `v` is the FP32 value entering the conversion, and only finite values enter AMAX, MIN and MAX
(R115, R179). -/
def Stats.count (t : Stats) (v : W32) (c : Class) : Stats :=
  let fin := F32.isFinite v
  { elements := t.elements + 1
    zeros := t.zeros + bit01 c.zero
    sats := t.sats + bit01 c.sat
    nonfin := t.nonfin + bit01 c.nonfin
    clipped := t.clipped + bit01 c.clip
    amax := if fin then F32.maxNum t.amax (F32.abs v) else t.amax
    min := if fin then F32.minNum t.min v else t.min
    max := if fin then F32.maxNum t.max v else t.max }

/-- Merging a slot into a record (R180): counts add modulo 2^64, AMAX and MAX take the larger value, MIN the smaller. -/
def Stats.merge (r t : Stats) : Stats :=
  { elements := (r.elements + t.elements) % 2 ^ 64
    zeros := (r.zeros + t.zeros) % 2 ^ 64
    sats := (r.sats + t.sats) % 2 ^ 64
    nonfin := (r.nonfin + t.nonfin) % 2 ^ 64
    clipped := (r.clipped + t.clipped) % 2 ^ 64
    amax := F32.maxNum r.amax t.amax
    min := F32.minNum r.min t.min
    max := F32.maxNum r.max t.max }

/-- An FP32 output element counted as stage 5 counts it: no saturation, no clipping (R115). -/
def classF32 (v : W32) : Class :=
  { zero := (f32 v).isZero, sat := false, nonfin := !F32.isFinite v, clip := false }

/-- Saturating count of a given width, as the counters that "saturate" keep it. -/
def satAdd (width n k : Nat) : Nat := min (2 ^ width - 1) (n + k)

/-- Wrapping count of a given width. -/
def wrapAdd (width n k : Nat) : Nat := (n + k) % 2 ^ width

end Sys2Proof.Machine
end

