-- ==== Sys2Proof/Machine/Convert.lean ====
section
/-! DEFINITION. Conversions between formats, scaled blocks, the stochastic bits and the pieces of multi-pass products
(03_numbers.md R61 to R69, R80 to R91; 06_scaling.md R171). -/

namespace Sys2Proof.Machine

/-- The formats that an FMT field names (R138). -/
inductive Fmt where
  | fp32 | bf16 | fp16 | e4m3 | e5m2 | e2m1 | int32 | int8 | uint8 | int4 | uint4 | sb8f | sb8u | sb4f | sb4u
  deriving DecidableEq, Repr

/-- The FMT code of R138; 0xF is reserved. -/
def Fmt.ofCode : Nat → Option Fmt
  | 0 => some .fp32 | 1 => some .bf16 | 2 => some .fp16 | 3 => some .e4m3 | 4 => some .e5m2
  | 5 => some .e2m1 | 6 => some .int32 | 7 => some .int8 | 8 => some .uint8 | 9 => some .int4
  | 10 => some .uint4 | 11 => some .sb8f | 12 => some .sb8u | 13 => some .sb4f | 14 => some .sb4u
  | _ => none

/-- The layout of a float format. -/
def Fmt.float? : Fmt → Option FloatFmt
  | .fp32 => some fp32Fmt | .bf16 => some bf16Fmt | .fp16 => some fp16Fmt
  | .e4m3 => some e4m3Fmt | .e5m2 => some e5m2Fmt | .e2m1 => some e2m1Fmt
  | _ => none

/-- Range of an integer format (R63): lowest and highest value. -/
def Fmt.int? : Fmt → Option (Int × Int)
  | .int32 => some (-2147483648, 2147483647)
  | .int8 => some (-128, 127)
  | .uint8 => some (0, 255)
  | .int4 => some (-8, 7)
  | .uint4 => some (0, 15)
  | _ => none

/-- The element format of a scaled-block variant (R65). -/
def Fmt.sbElem? : Fmt → Option Fmt
  | .sb8f => some .e4m3 | .sb8u => some .uint8 | .sb4f => some .e2m1 | .sb4u => some .uint4
  | _ => none

def Fmt.isSb (f : Fmt) : Bool := f.sbElem?.isSome
/-- The U variants carry a zero point per block (R65). -/
def Fmt.isSbU : Fmt → Bool
  | .sb8u | .sb4u => true
  | _ => false

/-- Element width in bits. -/
def Fmt.bits : Fmt → Nat
  | .fp32 | .int32 => 32
  | .bf16 | .fp16 => 16
  | .e4m3 | .e5m2 | .int8 | .uint8 | .sb8f | .sb8u => 8
  | .e2m1 | .int4 | .uint4 | .sb4f | .sb4u => 4

/-- The integer that a code stands for in an integer format (R63). -/
def intOfCode (f : Fmt) (c : Nat) : Int :=
  match f with
  | .int32 => (BitVec.ofNat 32 c).toInt
  | .int8 => (BitVec.ofNat 8 c).toInt
  | .int4 => (BitVec.ofNat 4 c).toInt
  | .uint8 => (c % 256 : Nat)
  | .uint4 => (c % 16 : Nat)
  | _ => 0

/-- The code of an integer in a format: its low bits. -/
def codeOfInt (f : Fmt) (n : Int) : Nat := (BitVec.ofInt f.bits n).toNat

/-! ### Stochastic bits (R87, R88) -/

def mix64 (z : W64) : W64 :=
  let a := (z ^^^ (z >>> 30)) * 0xBF58476D1CE4E5B9#64
  let b := (a ^^^ (a >>> 27)) * 0x94D049BB133111EB#64
  b ^^^ (b >>> 31)

/-- The 16 random bits of element `i`. -/
def srBits (seed tkey : W64) (step : Nat) (i : Nat) : Nat :=
  let k := mix64 (seed ^^^ mix64 tkey)
  let k := mix64 (k ^^^ (BitVec.ofNat 64 step * 0x9E3779B97F4A7C15#64))
  let w := mix64 (k ^^^ BitVec.ofNat 64 (i / 4))
  (w.toNat >>> (16 * (i % 4))) % 2 ^ 16

/-- The tensor key: origin, job rank and tensor id (R88). -/
def tKey (origin rank tensor : Nat) : W64 :=
  BitVec.ofNat 64 (origin % 2 ^ 16 * 2 ^ 48 + rank % 2 ^ 16 * 2 ^ 32 + tensor % 2 ^ 32)

/-- What a converting unit draws its bits from: seed, key, step (R88). -/
structure SrKey where
  seed : W64
  tkey : W64
  step : Nat
  deriving DecidableEq, Repr

/-- The rounding-mode field (R84); 0b11 is reserved. A gradient tensor always uses SR (R85). -/
inductive RM where
  | rne | rz | sr
  deriving DecidableEq, Repr

def RM.ofCode : Nat → Option RM
  | 0 => some .rne | 1 => some .rz | 2 => some .sr | _ => none

/-- R85: GRAD forces SR. -/
def RM.withGrad (m : RM) (grad : Bool) : RM := if grad then .sr else m

/-- The rounding of element `i` under a mode. -/
def RM.rnd (m : RM) (k : SrKey) (i : Nat) : Rnd :=
  match m with
  | .rne => .rne
  | .rz => .rz
  | .sr => .sr (srBits k.seed k.tkey k.step (i % 2 ^ 48))

/-! ### One element (R80 to R83) -/

/-- A converted code with its classification. -/
structure Conv where
  code : Nat
  cls : Class
  deriving DecidableEq, Repr

/-- Conversion of a value to a float format: one rounding, then the overflow, infinity and NaN rules of R82. -/
def convFloat (f : FloatFmt) (rnd : Rnd) (ovf : Bool) (v : FVal) : Conv :=
  let wide := f.width == 32 || f.width == 16
  match v with
  | .nan => ⟨f.nanCode, ⟨f.width == 4, false, true, false⟩⟩
  | .inf s =>
    if wide then ⟨f.infCode s, ⟨false, false, true, false⟩⟩
    else if f.width == 4 then ⟨f.withSign s f.maxMag, ⟨false, true, true, false⟩⟩
    else if ovf then ⟨if f.hasInf then f.infCode s else f.nanCode, ⟨false, false, true, false⟩⟩
    else ⟨f.withSign s f.maxMag, ⟨false, true, true, false⟩⟩
  | .fin s m e =>
    let mag := f.roundMag rnd m e false
    if mag > f.maxMag then
      let code :=
        if wide then (if rnd = .rz then f.withSign s f.maxMag else f.infCode s)
        else if f.width == 4 then f.withSign s f.maxMag
        else if ovf then (if f.hasInf then f.infCode s else f.nanCode)
        else f.withSign s f.maxMag
      ⟨code, ⟨false, true, false, false⟩⟩
    else ⟨f.withSign s mag, ⟨mag == 0, false, false, false⟩⟩

/-- The integer nearest a finite value under a rounding, symmetric about zero (R84). -/
def roundToInt (rnd : Rnd) (v : FVal) : Int :=
  match v with
  | .fin s m e =>
    let n : Int := roundToUnit rnd m e 0 false
    if s then -n else n
  | _ => 0

/-- Rule I: a value outside the range, an infinity included, saturates; a NaN gives 0 (R81, R82). Zero is counted against
zero point 0. -/
def convFloatToInt (f : Fmt) (rnd : Rnd) (v : FVal) : Conv :=
  let (lo, hi) := f.int?.getD (0, 0)
  let raw : Int :=
    match v with
    | .nan => 0
    | .inf s => if s then lo - 1 else hi + 1
    | x => roundToInt rnd x
  let n := max lo (min hi raw)
  ⟨codeOfInt f n, ⟨n == 0, n != raw, !v.isFin, n == lo || n == hi⟩⟩

/-- Rules N, W and = between integer formats: wrap or saturate (R79, R81). -/
def convIntToInt (f : Fmt) (sat : Bool) (n : Int) : Conv :=
  let (lo, hi) := f.int?.getD (0, 0)
  let c := max lo (min hi n)
  if sat then ⟨codeOfInt f c, ⟨c == 0, c != n, false, c == lo || c == hi⟩⟩
  else
    let w := intOfCode f (codeOfInt f n)
    ⟨codeOfInt f w, ⟨w == 0, false, false, w == lo || w == hi⟩⟩

/-- A source element: a float value or an integer. -/
inductive Elem where
  | flt (v : FVal)
  | int (n : Int)
  deriving DecidableEq, Repr

/-- The element that a code stands for, for the formats without blocks. -/
def elemOf (f : Fmt) (c : Nat) : Elem :=
  match f.float? with
  | some l => .flt (l.decode c)
  | none => .int (intOfCode f c)

/-- The value of an element. -/
def Elem.val : Elem → FVal
  | .flt v => v
  | .int n => .fin (n < 0) n.natAbs 0

/-- Conversion of one element to a format without blocks (R80, R81). -/
def convElem (dst : Fmt) (rnd : Rnd) (ovf sat : Bool) (x : Elem) : Conv :=
  match dst.float?, x with
  | some l, x => convFloat l rnd ovf x.val
  | none, .flt v => convFloatToInt dst rnd v
  | none, .int n => convIntToInt dst sat n

/-- Classification of a code copied unchanged (rule =): zero and non-finite by its value, clipped at the range's ends. -/
def classCopy (f : Fmt) (c : Nat) : Class :=
  match f.float? with
  | some l =>
    let v := l.decode c
    ⟨v.isZero, false, !v.isFin, false⟩
  | none =>
    let (lo, hi) := f.int?.getD (0, 0)
    let n := intOfCode f c
    ⟨n == 0, false, false, n == lo || n == hi⟩

/-- Conversion of a code from one format to another (R80), same format copied unchanged. -/
def convCode (src dst : Fmt) (rnd : Rnd) (ovf sat : Bool) (c : Nat) : Conv :=
  if src = dst then ⟨c, classCopy src c⟩ else convElem dst rnd ovf sat (elemOf src c)

/-- A code as FP32 by its FP32 column, rounded to nearest even (rules S and D start so). -/
def toFp32 (src : Fmt) (c : Nat) : W32 :=
  if src = .fp32 then BitVec.ofNat 32 c
  else BitVec.ofNat 32 (convElem .fp32 .rne false false (elemOf src c)).code

/-! ### Scaled blocks (R65 to R69) -/

/-- R69: a second-level scale must be a positive normal FP32 value. -/
def scaleValid (s : W32) : Bool :=
  decide (0x00800000 ≤ s.toNat) && decide (s.toNat ≤ 0x7F7FFFFF)

/-- The smallest E4M3 code whose value is not below a positive FP32 value at most 448 (R68 step 3). -/
def e4m3CeilCode (x : W32) : Nat :=
  ((List.range 0x7F).find? (fun c => !F32.ltVal (e4m3Fmt.decode c) (f32 x))).getD 0x7E

/-- The block scale code chosen from `ideal` (R68 step 3). -/
def blockScaleCode (ideal : W32) : Nat :=
  let v := f32 ideal
  if v.isNaN then 0x7E
  else if v.isZero then 0
  else if F32.ltVal v (.fin false 1 (-9)) then 1
  else if F32.ltVal (.fin false 448 0) v then 0x7E
  else e4m3CeilCode ideal

/-- A block scale code as an FP32 value (exact). -/
def sigmaF32 (c : Nat) : W32 := toFp32 .e4m3 c

/-- An encoded block: scale code, zero point, element codes with their classes. -/
structure Block where
  scale : Nat
  zp : Nat
  elems : List Conv
  deriving DecidableEq, Repr

def finiteOf (xs : List W32) : List W32 := xs.filter F32.isFinite

/-- Encoding of a block from FP32 values, given S (R68). `rnds` gives the rounding of each element (log entry 70). A finite element
of a U-variant block whose code is clamped counts as saturated, whatever c is (R83; DEDUCED, log entry 106). -/
def encodeBlock (f : Fmt) (s : W32) (ovf : Bool) (xs : List W32) (rnds : Nat → Rnd) : Block :=
  let el := f.sbElem?.getD .e4m3
  if f.isSbU then
    let (_, hiQ) := el.int?.getD (0, 255)
    let qmax := F32.ofInt hiQ
    let lo := (finiteOf xs).foldl F32.minNum 0
    let hi := (finiteOf xs).foldl F32.maxNum 0
    let ideal := F32.div (F32.sub hi lo) (F32.mul qmax s)
    let c := blockScaleCode ideal
    if c = 0 then
      ⟨0, 0, xs.map (fun x => ⟨0, ⟨true, (f32 x).isInf, !F32.isFinite x, true⟩⟩)⟩
    else
      let d := F32.mul (sigmaF32 c) s
      let low := f32 (F32.div (lo ^^^ 0x80000000) d)
      let z : Int := if low.isInf then hiQ else max 0 (min hiQ (roundToInt .rne low))
      let enc := fun (p : W32 × Nat) =>
        let v := f32 p.1
        let raw : Int :=
          match v with
          | .nan => z
          | _ =>
            match f32 (F32.div p.1 d) with
            | .inf true => -1
            | .inf false => hiQ + 1
            | y => roundToInt (rnds p.2) y + z
        let q := max 0 (min hiQ raw)
        (⟨q.toNat, ⟨q == z, q != raw || v.isInf, !v.isFin, q == 0 || q == hiQ⟩⟩ : Conv)
      ⟨c, z.toNat, (xs.zipIdx).map enc⟩
  else
    let emax : W32 := if f = .sb4f then F32.ofInt 6 else F32.ofInt 448
    let a := (finiteOf xs).foldl (fun m x => F32.maxNum m (F32.abs x)) 0
    let c := blockScaleCode (F32.div a (F32.mul emax s))
    let lay := el.float?.getD e4m3Fmt
    if c = 0 then
      ⟨0, 0, xs.map (fun x =>
        if F32.isFinite x then ⟨0, ⟨true, false, false, false⟩⟩ else convFloat lay .rne ovf (f32 x))⟩
    else
      let d := F32.mul (sigmaF32 c) s
      ⟨c, 0, (xs.zipIdx).map (fun p =>
        let y := f32 (F32.div p.1 d)
        let r := convFloat lay (rnds p.2) ovf y
        let fin := F32.isFinite p.1
        { r with cls := { r.cls with sat := r.cls.sat || (fin && y.isInf), nonfin := !fin } })⟩

/-- The 16-bit side entry of a block (R66). -/
def sideEntry (f : Fmt) (b : Block) : Nat :=
  match f with
  | .sb8u => b.scale + b.zp % 256 * 256
  | .sb4u => b.scale + b.zp % 16 * 256
  | _ => b.scale
/-- Scale code and zero point of a side entry; the unused bits are ignored on read (R66). -/
def sideScale (entry : Nat) : Nat := entry % 256
def sideZp (f : Fmt) (entry : Nat) : Nat :=
  match f with
  | .sb8u => entry / 256 % 256
  | .sb4u => entry / 256 % 16
  | _ => 0

/-- The exact value of an element, before scales: the code's value or (q − z) (R67, R77). -/
def sbRaw (f : Fmt) (entry code : Nat) : FVal :=
  let el := f.sbElem?.getD .e4m3
  if f.isSbU then (Elem.int (intOfCode el code - sideZp f entry)).val
  else (elemOf el code).val

/-- Rule D: t · S rounded to FP32, where t is the exact product of element and σ (R81). -/
def decodeBlockElem (f : Fmt) (s : W32) (entry code : Nat) : W32 :=
  toF32 (((sbRaw f entry code).mul (e4m3Fmt.decode (sideScale entry))).mul (f32 s))

/-! ### Multi-pass pieces (R90, R91) -/

/-- The three BF16 pieces of an FP32 operand; an operand that is not split has pieces a₁ and a₂ of +0. -/
def split3 (a : W32) : Nat × Nat × Nat :=
  let a0 := bf16Fmt.ofVal (f32 a)
  match BF16.val a0 with
  | .fin _ _ _ =>
    let r1 := F32.sub a (BF16.widen a0)
    let a1 := bf16Fmt.ofVal (f32 r1)
    let a2 := bf16Fmt.ofVal (f32 (F32.sub r1 (BF16.widen a1)))
    (a0, a1, a2)
  | _ => (a0, 0, 0)

/-- Packing element codes under R64: 4-bit elements two to a byte, element 2j low. -/
def pack4 : List Nat → List Nat
  | a :: b :: r => (a % 16 + b % 16 * 16) :: pack4 r
  | [a] => [a % 16]
  | [] => []

/-- Element codes as bytes in a format's layout, little-endian (R2, R64). -/
def packCodes (bits : Nat) (cs : List Nat) : List Byte :=
  if bits = 4 then (pack4 cs).map (BitVec.ofNat 8)
  else cs.flatMap (fun c => (List.range (bits / 8)).map (fun j => BitVec.ofNat 8 (c >>> (8 * j))))

end Sys2Proof.Machine
end

