-- ==== Sys2Proof/Machine/State.lean ====
section
/-! DEFINITION. The state of the block as plain data: every register, store, table, queue, mode and pin that spec/ names.
Each part cites the file and rules that give it. Sparse tables list what differs from their reset. -/

namespace Sys2Proof.Machine

/-- A sparse table by number, in rising order of its keys. -/
abbrev Map (α : Type) := List (Nat × α)

/-- Bytes at addresses, in one canonical form: addresses strictly rising, no byte 0 listed. A byte that is not listed
reads 0 (log entry 2). -/
abbrev Mem := List Host.Cell

/-- How a step can stop with a fault. No rule of the manual stops the block, so there is none; safe. -/
inductive Fault where
  /-- Raised by nobody: the block has no fault that ends it. Safe. -/
  | none
  deriving DecidableEq, Repr

/-- Why a step refuses a command. -/
inductive Refusal where
  /-- The command has no meaning yet; raised by an arm of Dispatch.lean alone. Safe. -/
  | notModelled (mnemonic : String)
  deriving DecidableEq, Repr

/-! ### Fabric time (02_fabric_time.md R26 to R37) -/

/-- The states of fabric time (R27). -/
inductive TimeState where
  | unset | holdover | locked
  deriving DecidableEq, Repr

/-- The best master heard (R29): the port on which it is heard, the clock that sends its messages, and what its Announce says. -/
structure PtpMaster where
  port : Nat
  source : Nat
  clock : PtpClock
  deriving DecidableEq, Repr

/-- What PTP keeps between messages (R29): a two-step Sync that awaits its Follow_Up (number, reception, correction), the
stamps of the last complete Sync, the own delay request outstanding (number, stamp), the best master, the next number. -/
structure PtpState where
  twoStep : Option (Nat × Int × Int)
  sync : Option (Int × Int)
  delayReq : Option (Nat × Int)
  master : Option PtpMaster
  txSeq : Nat
  lastSync : Nat
  deriving DecidableEq, Repr

def PtpState.reset : PtpState := ⟨none, none, none, none, 0, 0⟩

/-- Fabric time and its discipline. `ns` and `localNs` count nanoseconds, `frac` holds the 32 bits of fraction, `slew` the
correction still to be applied, in units of 2^-32 ns; counts of measurements in a row inside and outside the window (R32),
the local time of the last; whether TIME_SET has prepared PPS mode and the second that the next edge marks (R31); the last
offset and the steps taken; the rate estimate, in units of 2^-32 ns a nanosecond of the local count (R27); the pulse on
TIME_PPS_OUT (R37); the beacon that is out (its t1) and the local time of the last
one (R30). -/
structure TimeSt where
  ns : Nat
  frac : Nat
  localNs : Nat
  state : TimeState
  inWindow : Nat
  outWindow : Nat
  lastMeasure : Nat
  slew : Int
  ppsReady : Bool
  ppsSecond : Option Nat
  offset : Int
  steps : Nat
  rate : Int
  ppsOutUntil : Option Nat
  lastPpsOut : Nat
  beacon : Option Nat
  lastBeacon : Nat
  ptp : PtpState
  deriving DecidableEq, Repr

/-- Time at power-on: UNSET, with the local count and the fraction at 0 (log entry 4). -/
def TimeSt.reset : TimeSt :=
  { ns := 0, frac := 0, localNs := 0, state := .unset, inWindow := 0, outWindow := 0, lastMeasure := 0, slew := 0
    ppsReady := false, ppsSecond := none, offset := 0, steps := 0, rate := 0, ppsOutUntil := none, lastPpsOut := 0, beacon := none
    lastBeacon := 0, ptp := .reset }

/-! ### Slot plans (R39 to R44) -/

/-- The committed plan of a port that waits for its boundary, and the live plan (160 B each; R39, R42). `removing` is a
removal that waits for the boundary. After a step of fabric time the live plan goes on counting from the old time, which is
`phase` behind the new one, up to its next boundary at the given fabric time (R35). -/
structure PlanSt where
  live : Option (List Byte)
  committed : Option (List Byte)
  removing : Bool
  phase : Option (Int × Nat)
  deriving DecidableEq, Repr

def PlanSt.empty : PlanSt := ⟨none, none, false, none⟩

/-! ### Pegs (R45 to R51) -/

/-- An allocated peg: its owner and its value (R45). -/
structure Peg where
  owner : Nat
  value : W64
  deriving DecidableEq, Repr

/-- Who waits on a peg: a command, a core's program, or a launch or collective under WAIT_EN. -/
inductive Waiter where
  | cmd (q : CmdRef)
  | prog (k : CoreRef)
  | launch (q : CmdRef)
  | coll (q : CmdRef)
  deriving DecidableEq, Repr

/-- An entry of the wait table (R47 to R49). TIMEOUT 0 means none. -/
structure Wait where
  who : Waiter
  ctx : Nat
  peg : Nat
  eq : Bool
  operand : W64
  timeout : Nat
  deriving DecidableEq, Repr

/-- The peg array: allocated pegs, quotas, the wait table, and the count of R51. -/
structure PegSt where
  pegs : Map Peg
  quota : Map Nat
  waits : List Wait
  remoteRejects : Nat
  deriving DecidableEq, Repr

def PegSt.reset : PegSt := ⟨[], [], [], 0⟩

/-! ### The catalogue (R52 to R57) -/

/-- A catalogue record (R52); its CRC is computed when the bytes are written. -/
structure Record where
  time : Nat
  event : Nat
  source : Nat
  ctx : Option Nat
  timeState : TimeState
  fatal : Bool
  lostBefore : Bool
  seq : W32
  node : Nat
  args : List W64
  deriving DecidableEq, Repr

/-- A bound ring (R55): base, number of slots, PRODUCED, and the records dropped since the last one written. -/
structure CatRing where
  base : Nat
  records : Nat
  produced : Nat
  dropped : Nat
  firstDropped : W32
  deriving DecidableEq, Repr

/-- The catalogue: SEQ of the next record, how many were generated since the power cycle, the global ring (newest first),
the bindings, the next record to export, the Curator's copy, and the rate limits of events (last fabric time, suppressed
count). -/
structure CatSt where
  nextSeq : W32
  generated : Nat
  global : List Record
  rings : Map CatRing
  exportRing : Option CatRing
  exported : Nat
  globalLost : Nat
  curator : List Record
  limits : Map (Nat × Nat)
  /-- Records for contexts' rings that wait for a stack to be READY, oldest first (R196, R214). -/
  waiting : List (Nat × Record)
  deriving DecidableEq, Repr

def CatSt.reset : CatSt := ⟨0, 0, [], [], none, 0, 0, [], [], []⟩

/-! ### Host link, contexts, rings (13_host_link.md) -/

/-- What the Askax sends to the host (R410), in the order of PCI Express. -/
inductive HostOut where
  /-- One of the two writes of a completion record, bytes 0 to 23 or bytes 24 to 31: context and ring, record number, address,
  bytes (R406, R407). -/
  | completion (ctx ring : Nat) (n : Nat) (iova : Nat) (bytes : List Byte)
  /-- An MSI-X message of a vector (R409). -/
  | msix (vector : Nat)
  /-- A record of the catalogue export and its slot address (R54, R55). -/
  | catExport (iova : Nat) (bytes : List Byte)
  /-- An eviction write of a page's bytes, by their offsets, to the store (R243). -/
  | evict (iova : Nat) (cells : Mem)
  /-- A host-tier write of a unit of a context (R233). -/
  | tier (ctx va iova : Nat) (bytes : List Byte)
  /-- A read request, by the number its completion names (R247). -/
  | read (id : Nat) (iova : Nat) (len : Nat)
  deriving DecidableEq, Repr

/-- The answer to a read or request of the host side. -/
inductive HostAnswer where
  | data (bytes : List Byte)
  | unsupported
  | aborted
  | retry
  | config (value : W32)
  deriving DecidableEq, Repr

/-- The link (HL_LINK, R412): `downSince` is the local time of DL_Down; `lost` the writes to repeat at DL_Up; `waiting` the
requests held back while the link is down. -/
structure LinkSt where
  dlUp : Bool
  rate : Nat
  width : Nat
  flit : Bool
  downs : Nat
  hostLosses : Nat
  downSince : Option Nat
  lost : List HostOut
  waiting : List HostOut
  /-- A PCI Express lane is left out of training for good (R453). -/
  laneOut : Bool
  deriving DecidableEq, Repr

def LinkSt.reset : LinkSt := ⟨false, 0, 0, false, 0, 0, none, [], [], false⟩

/-- A bound aperture (R391). -/
structure Aperture where
  ctx : Nat
  va : Nat
  read : Bool
  write : Bool
  deriving DecidableEq, Repr

/-- A valid placement entry (R411). -/
structure Placement where
  requester : Nat
  ctx : Nat
  offset : Nat
  length : Nat
  va : Nat
  sigPeg : Option Nat
  deriving DecidableEq, Repr

/-- A context (R393): seed, rank, watchdog window; whether a fault stopped its rings (R402). -/
structure Context where
  seed : W64
  rank : Nat
  window : Nat
  faulted : Bool
  deriving DecidableEq, Repr

/-- A submission ring and its completion ring (R396, R397, R409). `pollSince` is the local time at which the present
header first failed (R399), `lastPoll` the last read of it. -/
structure Ring where
  tail : W32
  head : W32
  cqTail : W32
  cqHead : W32
  nextSeq : BitVec 22
  cqEntries : Nat
  cqIova : Nat
  vector : Nat
  coalCount : Nat
  coalNs : Nat
  irqPending : Nat
  irqSince : Option Nat
  faulted : Bool
  pollSince : Option Nat
  lastPoll : Nat
  deriving DecidableEq, Repr

/-- A command that was taken and has not completed (R399, R401, R405): its packet, whether its turn in the
ring has come, and whether it has started and completes by a later row. -/
structure Taken where
  q : CmdRef
  packet : List Byte
  begun : Bool
  started : Bool
  deriving DecidableEq, Repr

/-- The MSI-X table and pending bits (R389, R409): address, data and mask of a vector. -/
structure MsixEntry where
  addr : W64
  data : W32
  masked : Bool
  pending : Bool
  deriving DecidableEq, Repr

/-- A vector at reset: masked, nothing pending (log entry 21). -/
def MsixEntry.reset : MsixEntry := ⟨0, 0, true, false⟩

/-- The host side of the hub. -/
structure HostSt where
  link : LinkSt
  ctxs : Map Context
  rings : Map Ring
  taken : List Taken
  /-- The ring that was served last, in the order of R401. -/
  lastRing : Option Nat
  apertures : Map Aperture
  apertureReads : Nat
  apertureWrites : Nat
  placements : Map Placement
  placeDropped : Nat
  placeLast : Nat
  windowDoorbells : Nat
  windowDrops : Nat
  msix : Map MsixEntry
  /-- Configuration space: the dwords that the host wrote (R480). -/
  config : Map W32
  perstN : Bool
  deriving DecidableEq, Repr

def HostSt.reset : HostSt :=
  { link := .reset, ctxs := [], rings := [], taken := [], lastRing := none, apertures := [], apertureReads := 0
    apertureWrites := 0, placements := [], placeDropped := 0, placeLast := 0, windowDoorbells := 0, windowDrops := 0
    msix := [], config := [], perstN := false }

/-! ### HBM stacks, shared cache, write combining (07_hbm.md) -/

/-- A stack's state (MEM_STACK_n). -/
inductive StackState where
  | untrained | training | ready | selfRefresh | failed | loopback
  deriving DecidableEq, Repr

/-- A stack: state, temperature read, refresh rate code, soft and hard repairs, lanes repaired, its error counts, rows
replaced so far by soft and by hard repairs in each bank group (by bank-group index), and whether it has been trained since the
power cycle (R215). -/
structure Stack where
  state : StackState
  tempC : Int
  refresh : Nat
  softPpr : Nat
  hardPpr : Nat
  lanesRepaired : Nat
  retried : Nat
  uncorrectable : Nat
  ondie : Nat
  sparesUsed : Map Nat
  hardUsed : Map Nat
  trained : Bool
  deriving DecidableEq, Repr

def Stack.reset : Stack := ⟨.untrained, 0, 0, 0, 0, 0, 0, 0, 0, [], [], false⟩

/-- A set of a slice (R218): its 16 ways by number (tag and dirty mark), and the 15 tree bits. -/
structure CacheSet where
  ways : Map (Nat × Bool)
  tree : Nat
  deriving DecidableEq, Repr

/-- An entry of a write-combining buffer (R225): its 64 B line number, byte mask, the bytes that stood under the mask (for
R228), the context that wrote it, and the local time of its first byte. -/
structure WcEntry where
  line : Nat
  mask : W64
  old : List (Nat × Byte)
  ctx : Nat
  since : Nat
  deriving DecidableEq, Repr

/-- A stretch of physical memory whose contents the manual calls undefined until it is written: the bytes from `lo` up to
`hi` read as free values of the tag. -/
structure Undef where
  lo : Nat
  hi : Nat
  tag : Nat
  deriving DecidableEq, Repr

/-- A row repair that runs (R214, R215): the command that asked, or none for MEM_HPPR, and its target. -/
structure RowRepair where
  cmd : Option CmdRef
  hard : Bool
  target : Nat
  since : Nat
  deriving DecidableEq, Repr

/-- A loop-back test that runs (R216). -/
structure Loopback where
  cmd : CmdRef
  stack : Nat
  kind : Nat
  pattern : Nat
  fixed : W64
  until_ : Nat
  before : StackState
  deriving DecidableEq, Repr

/-- A read that failed its check and was issued again (R207): reader code, context, line, attempts made. -/
structure ReIssue where
  reader : Nat
  ctx : Option Nat
  line : Nat
  attempts : Nat
  deriving DecidableEq, Repr

/-- The stack side's stores. `mem` holds what a read returns (R220), the cache and the buffers beside it as directories. -/
structure HbmSt where
  mem : Mem
  undef : List Undef
  /-- Lines whose location is uncorrectable (R209), by 64 B line number, with the checks that failed: bit 0 the CRC, bit 1 its
  complement, bit 2 the stack's report (R232). -/
  damaged : Map Nat
  /-- Groups in die-local mode (R199). -/
  dieLocal : List Nat
  cache : Map CacheSet
  hits : Map Nat
  misses : Map Nat
  wc : List WcEntry
  /-- Recent writes of R210: local time, pseudo-channel index, context. -/
  recent : List (Nat × Nat × Nat)
  stackList : Map Stack
  reissues : List ReIssue
  uncorrLast : Option (Nat × Nat × Nat)
  /-- Lanes repaired at the most recent training of all stacks. -/
  lanesAll : Nat
  /-- Stacks in training, and the local time at which it began. -/
  training : List Nat
  trainSince : Nat
  repairs : List RowRepair
  hpprQueued : Option Nat
  hpprState : Nat
  hpprCause : Nat
  hpprSpares : Nat
  loop : Option Loopback
  lbFail : Map W64
  /-- Uncorrectable reads met while a catalogue record was written, still to be reported: reader code, context, line (R208). -/
  unreported : List (Nat × Nat × Nat)
  deriving DecidableEq, Repr

def HbmSt.reset : HbmSt :=
  { mem := [], undef := [], damaged := [], dieLocal := [], cache := [], hits := [], misses := [], wc := [], recent := []
    stackList := [], reissues := [], uncorrLast := none, lanesAll := 0, training := [], trainSince := 0
    repairs := [], hpprQueued := none, hpprState := 0, hpprCause := 0, hpprSpares := 0, loop := none, lbFail := []
    unreported := [] }

/-! ### Tiers, the pool and streams (08_tiers_and_streams.md) -/

/-- A value carried with its complement (R9). -/
structure Pair64 where
  val : W64
  comp : W64
  deriving DecidableEq, Repr

/-- A frame in use (R241, R245): the context and page that hold it, its age and touch mark. -/
structure Frame where
  ctx : Nat
  page : Nat
  age : Nat
  touched : Bool
  deriving DecidableEq, Repr

/-- A quota entry (R238): RESERVE and LIMIT, each with its complement. -/
structure Quota where
  reserve : W32
  reserveC : W32
  limit : W32
  limitC : W32
  deriving DecidableEq, Repr

/-- An export window (R249). -/
structure Export where
  base : Nat
  size : Nat
  write : Bool
  deriving DecidableEq, Repr

/-- An eviction in transit (R243): frame, context, page, slot; `read` numbers the confirming read; `sent` says that its bytes
have left, which waits for the frame's stacks (R196). -/
structure Eviction where
  frame : Nat
  ctx : Nat
  page : Nat
  slot : Nat
  read : Nat
  sent : Bool
  deriving DecidableEq, Repr

/-- A page that is to come back (R244): touched, pinned or prefetched at a local time; once started it has a frame, and its
slot is being read; `attempts` counts failed reads; `held` is its data while the frame's stacks accept no writes (R196); `filled`
says that it is in the frame; `met` that a corrupt quota entry has been reported for it (R238). -/
structure Return where
  ctx : Nat
  page : Nat
  since : Nat
  deadline : Nat
  frame : Option Nat
  slot : Nat
  read : Nat
  attempts : Nat
  held : Option (List (Nat × Byte))
  filled : Bool
  met : Bool
  deriving DecidableEq, Repr

/-- The owner of a read or write that crosses the host link or a guyline. -/
inductive Owner where
  | xfer (k : CoreRef) (tag : Fin 8)
  | daypack (k : CoreRef) (dtag : Fin 16)
  | stream (c : ClusterNo) (sid : Fin 64)
  | copy (q : CmdRef)
  | epi (k : CoreRef)
  | descriptor (q : CmdRef)
  | cons (q : CmdRef) (unit : Nat)
  deriving DecidableEq, Repr

/-- A remote request (R247, R249, R329): who made it, its place in the owner's element order, its address and length; a
read's data once it came, a write's acknowledgement, the rejection code of R249 otherwise. `node` is the peer, or none for
the host tier; `pc` the instruction that made it, `unit` the issuing unit. -/
structure Remote where
  owner : Owner
  unit : Nat
  pc : Nat
  ctx : Nat
  index : Nat
  va : Nat
  len : Nat
  write : Bool
  node : Option Nat
  data : Option (List Byte)
  acked : Bool
  code : Nat
  deriving DecidableEq, Repr

/-- A stall episode that runs (R267, R268): cause code, local time of its start, whether it was reported. -/
structure Episode where
  unit : StallUnit
  ctx : Nat
  cause : Nat
  since : Nat
  reported : Bool
  deriving DecidableEq, Repr

/-- The pack side of a stream or copy (R282, R286): the first 64 bytes of its table record once read (empty when it names
none), the counts gathered for the record (exponents 0 to 255, blocks at 256, units at 257), and the blocks that failed a
first check. -/
structure PackRun where
  table : Option (List Byte)
  hist : Map Nat
  refetch : List Nat
  deriving DecidableEq, Repr

def PackRun.start : PackRun := ⟨none, [], []⟩

/-- A copy that runs (R263): its descriptor and step, whether its tag has matched, whether it was late or had a corrupt tag
reported, the local time of its last tag read, and the units landed. -/
structure Copy where
  q : CmdRef
  desc : List Byte
  step : W32
  deadline : Nat
  tagOk : Bool
  late : Bool
  tagBad : Bool
  lastTag : Nat
  landed : Nat
  pack : PackRun
  deriving DecidableEq, Repr

/-- A slot of the eviction store in use (R245): the context and page that hold it, and the page's die (log entry 50). -/
structure HeldSlot where
  ctx : Nat
  page : Nat
  die : Nat
  deriving DecidableEq, Repr

/-- A MEM_PIN or MEM_PREFETCH that waits for pages to return (R269): its context, first page and count, whether it pins, and how
many pages it brought back. -/
structure PageWait where
  q : CmdRef
  ctx : Nat
  page : Nat
  count : Nat
  pin : Bool
  returned : Nat
  deriving DecidableEq, Repr

/-- The pool, the page tables, the host tier, peer windows, stalls and copies. Page tables are keyed by
context × 2^27 + VA[47:21], level-1 entries and level-1 host entries by context × 2^14 + index. -/
structure TierSt where
  level1 : Map Pair64
  ptes : Map Pair64
  hostL1 : Map Pair64
  hostPtes : Map Pair64
  frames : Map Frame
  /-- Eviction store: base IOVA and SLOTS (R248); slots in use (R245). -/
  store : Option (Nat × Nat)
  slots : Map HeldSlot
  quota : Map Quota
  exports : Map Export
  evictions : List Eviction
  returns : List Return
  evicted : Nat
  returned : Nat
  storeFull : Bool
  lastAging : Nat
  remotes : Map Remote
  nextRemote : Nat
  tagPeak : Nat
  episodes : List Episode
  /-- Per context and cause, at context × 16 + cause: episodes, total ns. -/
  stalls : Map (Nat × Nat)
  late : Map Nat
  copies : List Copy
  pageWaits : List PageWait
  /-- Frames that evictions of a context's own pages free for its next pages (R242): context and frame. -/
  promised : List (Nat × Nat)
  deriving DecidableEq, Repr

def TierSt.reset : TierSt :=
  { level1 := [], ptes := [], hostL1 := [], hostPtes := [], frames := [], store := none, slots := [], quota := []
    exports := [], evictions := [], returns := [], evicted := 0, returned := 0, storeFull := false, lastAging := 0
    remotes := [], nextRemote := 0, tagPeak := 0, episodes := [], stalls := [], late := [], copies := [], pageWaits := []
    promised := [] }

/-! ### Cores, clusters and launches (04_cores.md, 05_core_programs.md, 06_scaling.md R179) -/

/-- A statistics slot (R179): whether it is bound, its tensor id and record address, and its running values. -/
structure Slot where
  tid : W32
  record : W64
  stats : Stats
  deriving DecidableEq, Repr

/-- An active loop (R140, R141): first instruction of the body, its TARGET, XD, the pass number and the passes in all. -/
structure LoopSt where
  first : Nat
  last : Nat
  xd : Nat
  pass : Nat
  count : Nat
  deriving DecidableEq, Repr

/-- An outstanding descriptor transfer of a core (R158, R260): its descriptor, deadline, lateness, its place in the issue
order of the core's transfers and the stretches of memory that it touches where they are known (R262), whether it has read its
tile-store lines (R122), and the cause it waits under (R267). -/
structure Xfer where
  pc : Nat
  desc : List Byte
  deadline : Nat
  late : Bool
  ord : Nat
  reach : Option (List (Nat × Nat))
  sent : Bool
  cause : Option Nat
  deriving DecidableEq, Repr

/-- What an outstanding daypack transfer does (R159): an atomic that has been applied and returns its old value, or one that
is still to be applied, with its code, its register operands and the line of LINE-ADD. -/
inductive DayOp where
  | get
  | put
  | atom (xret : Nat) (old : W64)
  | held (aop xret : Nat) (x y : W64) (line : List Byte)
  deriving DecidableEq, Repr

/-- An outstanding daypack transfer (R159, R261): tile-store offset, length, address; the rest as for a descriptor transfer. -/
structure Day where
  pc : Nat
  op : DayOp
  ts : Nat
  len : Nat
  va : W64
  ord : Nat
  sent : Bool
  cause : Option Nat
  deriving DecidableEq, Repr

/-- A row of an epilogue's output that has still to be written (R114, R154): address, bytes, and its offset in the own node's
export window where it goes through that. -/
structure RowOut where
  va : Nat
  bytes : List Byte
  own : Option Nat
  deriving DecidableEq, Repr

/-- A core that waits for something outside it: a peg (R163) or the chain (R128). -/
inductive CoreWait where
  | peg (xret : Nat)
  | scan
  deriving DecidableEq, Repr

/-- A logical core (R96): tile store and accumulator by byte and by 32-bit element (sparse, zero elsewhere), the accumulator
quarters of integer class, registers, the index of the next instruction, loops, what is outstanding, its slots, the rows that
the epilogue at its index has still to write, and the number of its next transfer. -/
structure CoreSt where
  ts : Mem
  acc : Map W32
  intQuarters : List Nat
  v : Map W512
  x : Map W64
  pc : Nat
  loops : List LoopSt
  ended : Bool
  wait : Option CoreWait
  xfers : Map Xfer
  days : Map Day
  slots : Map Slot
  rows : List RowOut
  nextOrd : Nat
  deriving DecidableEq, Repr

/-- A core as R97 leaves it at the start of a program. -/
def CoreSt.reset : CoreSt := ⟨[], [], [], [], [], 0, [], false, none, [], [], [], [], 0⟩

/-- A scan that a core has issued (R127, R128): operation, EXCLUSIVE, SAT, its registers. -/
structure ScanIssue where
  sop : Nat
  excl : Bool
  sat : Bool
  va : Nat
  vb : Nat
  vh : Nat
  vd : Nat
  deriving DecidableEq, Repr

/-- A credit pool set up by INIT (R254, R255): ring base and units, direction, credits, the ring position at which its next
stream continues, and the streams on it that have credits still to take, in issue order. -/
structure Pool where
  base : Nat
  units : Nat
  scatter : Bool
  credits : Nat
  pos : Nat
  queue : List Nat
  deriving DecidableEq, Repr

/-- A stream of a cluster (R251 to R259): the core and index that issued it, descriptor, ring position of its first unit,
units requested, units landed in an unbroken prefix and beyond it, tag and deadline state, pack state. -/
structure Stream where
  core : Nat
  pc : Nat
  desc : List Byte
  pos : Nat
  issued : Nat
  landed : Nat
  ahead : List Nat
  deadline : Nat
  tagOk : Bool
  tagBad : Bool
  lastTag : Nat
  late : Bool
  pack : PackRun
  deriving DecidableEq, Repr

/-- States of a cluster (R134). -/
inductive ClState where
  | gated | idle | loading | running | draining | outOfService
  deriving DecidableEq, Repr

/-- The earliest fault of a cluster (R166): code, index, core, address, cores that faulted. -/
structure ProgFault where
  code : Nat
  pc : Nat
  core : Nat
  addr : W64
  cores : Nat
  deriving DecidableEq, Repr

/-- A write of a core to the cluster buffer that other cores cannot see yet (R123). -/
structure CbWrite where
  core : Nat
  at_ : Nat
  bytes : List Byte
  deriving DecidableEq, Repr

/-- A cluster: state, holder, a release waiting for its boundary (R145), the launch and image it runs, its buffer, the writes
to it that only their own core sees (oldest first), cores, scans, pools, streams, the start of its idleness, its fault, and the
count of the arithmetic clock at which its program started (R142). -/
structure Cluster where
  state : ClState
  holder : Option Nat
  releasing : Bool
  launch : Option CmdRef
  image : List W128
  buf : Mem
  hidden : List CbWrite
  cores : Map CoreSt
  scans : Map ScanIssue
  pools : Map Pool
  streams : Map Stream
  idleSince : Nat
  fault : Option ProgFault
  startClock : Nat
  deriving DecidableEq, Repr

/-- A cluster at power-on: GATED, its buffer clear (R134; log entry 14). -/
def Cluster.reset : Cluster := ⟨.gated, none, false, none, [], [], [], [], [], [], [], 0, none, 0⟩

/-- How far a launch has come (R148 to R150). -/
inductive LaunchPhase where
  | queued | running
  deriving DecidableEq, Repr

/-- A launch from its taking to its completion (R147): parameters, phase, start time, whether its peg condition held, and
the status it is to end with if it was stopped. -/
structure Launch where
  q : CmdRef
  progVa : W64
  waitEn : Bool
  waitPeg : Nat
  waitValue : W64
  sigEn : Bool
  sigPeg : Nat
  sigAddend : W64
  step : W32
  set : List Nat
  args : List W64
  image : List W128
  phase : LaunchPhase
  pegMet : Bool
  started : Nat
  stop : Option Nat
  result1 : W64
  deriving DecidableEq, Repr

/-- A word of a core or cluster memory that holds a flipped bit (R133): cluster, core (or bank), memory code of R135, word
offset, and whether more than one bit is wrong. No row of the table makes one. -/
structure Flip where
  cluster : Nat
  core : Nat
  memory : Nat
  word : Nat
  double : Bool
  deriving DecidableEq, Repr

/-- The engine side. -/
structure CoreSide where
  clusters : Map Cluster
  launches : List Launch
  completed : Nat
  faulted : Nat
  faultLast : Option (Nat × Nat × Nat × Nat × Nat)
  flips : List Flip
  sramCorrected : Nat
  sramUncorrectable : Nat
  deriving DecidableEq, Repr

def CoreSide.reset : CoreSide := ⟨[], [], 0, 0, none, [], 0, 0⟩

/-! ### Statistics counters (06_scaling.md) -/

/-- STAT_CLOSE_COUNT, STAT_MERGE, STAT_ALARM and STAT_GSCALE. -/
structure StatSt where
  closed : Nat
  refused : Nat
  merged : Nat
  rejected : Nat
  alarms : Nat
  alarmBits : Nat
  advances : Nat
  downs : Nat
  ups : Nat
  deriving DecidableEq, Repr

def StatSt.reset : StatSt := ⟨0, 0, 0, 0, 0, 0, 0, 0, 0⟩

/-! ### Pack format counters (09_pack_format.md) -/

/-- MEM_PACK_ENC, MEM_PACK_DEC (by mode), MEM_PACK_ERR, MEM_PACK_TABLE. -/
structure PackSt where
  enc : Map Nat
  dec : Map Nat
  refetched : Nat
  damaged : Nat
  tableMiss : Nat
  escFallback : Nat
  deriving DecidableEq, Repr

def PackSt.reset : PackSt := ⟨[], [], 0, 0, 0, 0⟩

/-! ### Conservators (10_conservators.md) -/

/-- What a conservator command still has to do at its completion (R310, R318, R322): its status and result words, the writes
in their order, the events, whether a commit line is among the writes, and the mismatches of a sweep. -/
structure ConsEnd where
  status : Nat
  r0 : Nat
  r1 : Nat
  writes : List (Nat × List Byte)
  events : List (Nat × List Nat)
  committed : Bool
  swept : Option Nat
  deriving DecidableEq, Repr

/-- A conservator command that has started in ring order (R291): the stretch of records that it names, the conservator of
its first record, and what it left to do once it has run. -/
structure ConsCmd where
  q : CmdRef
  lo : Nat
  hi : Nat
  unit : Nat
  ran : Option ConsEnd
  deriving DecidableEq, Repr

/-- The conservators: their commands, and STAT_UPD_COUNT, STAT_UPD_FAIL, STAT_SWEEP and STAT_CONS_n. -/
structure ConsSt where
  cmds : List ConsCmd
  committed : Nat
  skipped : Nat
  corrupt : Nat
  stale : Nat
  sweeps : Nat
  mismatches : Nat
  records : Map Nat
  deriving DecidableEq, Repr

def ConsSt.reset : ConsSt := ⟨[], 0, 0, 0, 0, 0, 0, []⟩

/-! ### Guylines (11_guylines.md) -/

/-- The states of a port (R347). -/
inductive PortState where
  | disabled | down | training | up | lpi | failed
  deriving DecidableEq, Repr

/-- A transport block before a port is chosen for it (R329, R344): its number, issuing unit, destination, class, whether it
is being relayed, whether it is a peg operation and then which remote requests were made before it (R345), and its header
and data without the CRC. -/
structure TxBlock where
  id : Nat
  unit : Nat
  dest : Nat
  cls : Nat
  relay : Bool
  peg : Bool
  after : Nat
  bytes : List Byte
  deriving DecidableEq, Repr

/-- What waits in a port's class queue: a block, complete with its CRC, or a PTP message (R337). -/
structure Queued where
  id : Nat
  dest : Nat
  ctx : Nat
  bytes : List Byte
  ptp : Option PtpMessage
  deriving DecidableEq, Repr

/-- The copy of a DATA flit that is kept until it is acknowledged (R334), with the blocks that end in it. -/
structure FlitCopy where
  seq : Nat
  cls : Nat
  data : List Byte
  ends : List Nat
  deriving DecidableEq, Repr

/-- A block that arrived and waits for its delivery: its class and its header and data. -/
structure InBlock where
  cls : Nat
  bytes : List Byte
  deriving DecidableEq, Repr

/-- A guyline port. Sender of a direct port: next SEQ, unacknowledged flits (oldest first) and how many of them have been
sent since the last replay began, the local time of the last advance, replays in a row, credits by class. Queues by class,
and bytes of the head block that have been sent. Receiver: SEQ expected, a NAK or acknowledgement owed, credits owed by
class, the bytes of each class's flits that still hold a buffer, partial block bytes by class, blocks that wait for
delivery, blocks that wait for a receiver entry (R342). The line is free from `busy` on (in 10 ps of local time); TC0 bytes sent in a plan period. -/
structure PortSt where
  mode : Nat
  state : PortState
  fails : Nat
  trained : Bool
  neighbour : Nat
  nbSlot : Nat
  nbPort : Nat
  rtt : Nat
  replays : Nat
  crcErrors : Nat
  retrains : Nat
  txSeq : Nat
  unacked : List FlitCopy
  resent : Nat
  advanceAt : Nat
  replayRuns : Nat
  credits : Map Nat
  queues : Map (List Queued)
  sentBytes : Map Nat
  rxNext : Nat
  nakSent : Bool
  nakDue : Bool
  ackDue : Bool
  owed : Map Nat
  buffered : Map (List Nat)
  partials : Map (List Byte)
  inbox : List InBlock
  held : List InBlock
  busy : Nat
  tc0 : Nat × Nat
  lpiDue : Bool
  lpiSent : Bool
  lpiHeard : Bool
  deriving DecidableEq, Repr

def PortSt.reset : PortSt :=
  { mode := 0, state := .down, fails := 0, trained := false, neighbour := 0xFFFF, nbSlot := 0, nbPort := 0, rtt := 0
    replays := 0, crcErrors := 0, retrains := 0, txSeq := 0, unacked := [], resent := 0, advanceAt := 0, replayRuns := 0
    credits := [], queues := [], sentBytes := [], rxNext := 0, nakSent := false, nakDue := false, ackDue := false
    owed := [], buffered := [], partials := [], inbox := [], held := [], busy := 0, tc0 := (0, 0), lpiDue := false
    lpiSent := false, lpiHeard := false }

/-- A block that has left and is not acknowledged yet (R345). -/
structure OutBlock where
  id : Nat
  unit : Nat
  dest : Nat
  port : Nat
  deriving DecidableEq, Repr

/-- A block in the re-send store (R340): its sequence, number, port, and bytes without the CRC. -/
structure Stored where
  seq : Nat
  id : Nat
  port : Nat
  ctx : Nat
  bytes : List Byte
  deriving DecidableEq, Repr

/-- A sender entry of a connection (R340 to R342). -/
structure Sender where
  next : Nat
  unacked : List Stored
  advanceAt : Nat
  rto : Nat
  idleSince : Nat
  deriving DecidableEq, Repr

/-- A receiver entry: the port of its latest block, the sequence expected next, the last one delivered, how many await
acknowledgement and since when. -/
structure Receiver where
  port : Nat
  expected : Nat
  last : Nat
  due : Nat
  dueSince : Nat
  idleSince : Nat
  deriving DecidableEq, Repr

/-- What leaves on the guylines. -/
inductive GuyOut where
  | flit (port : Nat) (bytes : List Byte)
  | frame (port : Nat) (bytes : List Byte)
  | ptp (port : Nat) (x : PtpMessage)
  deriving DecidableEq, Repr

/-- The guyline side. Connections are keyed by node × 8 + class; the routing table by node id, entry and complement. -/
structure GuySt where
  node : Nat
  boardSize : Nat
  slot : Nat
  ports : Map PortSt
  routes : Map (W32 × W32)
  routeCorrupt : Nat
  relayed : Nat
  discarded : Nat
  waiting : List TxBlock
  outstanding : List OutBlock
  senders : Map Sender
  receivers : Map Receiver
  nextBlock : Nat
  out : List GuyOut
  deriving DecidableEq, Repr

def GuySt.reset : GuySt :=
  { node := 0xFFFF, boardSize := 0, slot := 0, ports := [], routes := [], routeCorrupt := 0, relayed := 0, discarded := 0
    waiting := [], outstanding := [], senders := [], receivers := [], nextBlock := 0, out := [] }

/-! ### Collectives (12_collectives.md) -/

/-- A COLL_START that has not started (R381), and whether its peg condition has held. -/
structure CollQueued where
  q : CmdRef
  pegMet : Bool
  deriving DecidableEq, Repr

/-- The counts of a health word (R371); its STEP is that of the collective. -/
structure HealthW where
  nonfin : Nat
  sats : Nat
  maxexp : Int
  missing : Nat
  deriving DecidableEq, Repr

def HealthW.empty : HealthW := ⟨0, 0, -32768, 0⟩

/-- A chunk as FP32 values with its health word. -/
structure ChunkVal where
  vals : List W32
  health : HealthW
  deriving DecidableEq, Repr

/-- A chunk as it travels (R360, R363): health word, SCALE, payload. -/
structure ChunkWire where
  health : HealthW
  scale : W32
  payload : List Byte
  deriving DecidableEq, Repr

/-- A stream of chunks between this rank and another (R362): direction, stage, stripe, the other rank, the chunk indices in
order, how many have passed, and how many are granted. -/
structure Flow where
  out : Bool
  stage : Nat
  stripe : Nat
  peer : Nat
  chunks : List Nat
  pos : Nat
  credit : Nat
  deriving DecidableEq, Repr

/-- A move of a PERMUTE in the order of its plan (R379, R380): source rank and unit, destination rank and unit, the round of
its cycle, and whether it is its cycle's parked move. -/
structure Move where
  src : Nat
  su : Nat
  dst : Nat
  du : Nat
  round : Nat
  parked : Bool
  deriving DecidableEq, Repr

/-- A collective that runs, or one whose late window is open (R377): its command, engine, step, descriptor, node ids by
rank, INNER and own rank, start; streams; contributions that wait (by stage, sender and chunk), reduced values that wait,
chunks in their final wire form, health words of delivered chunks by destination chunk; the late ranks; the tag; headers and
summary; the plan of a PERMUTE. -/
structure Coll where
  q : CmdRef
  engine : Nat
  step : Nat
  desc : List Byte
  ranks : List Nat
  inner : Nat
  me : Nat
  started : Nat
  deadline : Nat
  endDeadline : Nat
  flows : List Flow
  parts : Map ChunkWire
  reduced : Map ChunkVal
  finals : Map ChunkWire
  delivered : Map HealthW
  stages : List Nat
  dead : Bool
  late : List Nat
  left : Nat
  tagOk : Bool
  lastTag : Nat
  header : List Byte
  headersIn : Map (List Byte)
  headersDone : List Nat
  headersOut : List Nat
  sumIn : Map HealthW
  sumSent : Bool
  sumAll : Option HealthW
  sumDone : Bool
  moves : List Move
  parkedDone : List Nat
  localDone : List Nat
  held : List Nat
  deriving DecidableEq, Repr

/-- A late window: the collective, its context and the fabric time at which it closes. -/
structure CollWindow where
  coll : Coll
  closes : Nat
  deriving DecidableEq, Repr

/-- The collective engines: COLL_STARTs that wait, collectives that run, late windows (oldest first), STAT_COLL_COUNT,
STAT_COLL_LATE, STAT_COLL_DISCARD and STAT_COLL_ENGINE_e, and READY and SUMMARY blocks of collectives that have not started
here (log entry 101). -/
structure CollSt where
  queued : List CollQueued
  running : List Coll
  windows : List CollWindow
  completed : Nat
  failed : Nat
  late : Nat
  missing : Nat
  stray : Nat
  stepMiss : Nat
  chunks : Map Nat
  early : List (List Byte)
  deriving DecidableEq, Repr

def CollSt.reset : CollSt := ⟨[], [], [], 0, 0, 0, 0, 0, 0, [], []⟩

/-! ### The Curator (14_curator.md) -/

/-- A sensor (R419 to R421): its last samples, newest first and at most three; the filtered value in units of 2^-32 (log entry
40); samples in a row that disagreed; 1 or 2 when it has failed, and reads in a row that failed. -/
structure Sensor where
  last : List Int
  y : Option Int
  apart : Nat
  failed : Nat
  missed : Nat
  deriving DecidableEq, Repr

def Sensor.reset : Sensor := ⟨[], none, 0, 0, 0⟩

/-- A protection cause (R427): its bit, its reading and sensor when it arose, whether its first action has been taken and at
what local time, and since when its release condition has held. -/
structure Cause where
  bit : Nat
  reading : Int
  sensor : Nat
  acted : Bool
  since : Nat
  clear : Option Nat
  deriving DecidableEq, Repr

inductive PowerState where
  | active | idle | rest
  deriving DecidableEq, Repr

/-- The Curator. Points are indices of R422: `point` is in force, `loop` the loop's, `rise` a faster point whose voltage is on
its way up (with its local time). -/
structure CurSt where
  tripped : Bool
  messages : List Record
  eid : Byte
  sensors : Map Sensor
  monitorsOut : List Nat
  point : Nat
  loop : Nat
  rise : Option (Nat × Nat)
  below : Nat
  floorYield : Bool
  causes : List Cause
  /-- Stacks whose request rate is held to 50 % (cause 2). -/
  hot : List Nat
  fastLow : Bool
  fastSince : Nat
  fastHold : Option Nat
  departures : Nat
  fastThrottles : Nat
  pointChanges : Nat
  power : PowerState
  busyUntil : Nat
  waking : Option (PowerState × Nat)
  restartSince : Option Nat
  /-- Answers to PLDM sensor reads: sensor ID and value, none where there is none. -/
  pldm : List (Nat × Option Int)
  /-- The arithmetic clock, in thousandths of a cycle (R19, R142). -/
  clock : Nat
  deriving DecidableEq, Repr

def CurSt.reset : CurSt :=
  { tripped := false, messages := [], eid := 0, sensors := [], monitorsOut := [], point := 0, loop := 0, rise := none
    below := 0, floorYield := false, causes := [], hot := [], fastLow := false, fastSince := 0, fastHold := none
    departures := 0, fastThrottles := 0, pointChanges := 0, power := .active, busyUntil := 0, waking := none
    restartSince := none, pldm := [], clock := 0 }

/-! ### Resets, tests and repair (15_recovery_and_test.md) -/

/-- What an L1 reset acts on (R444): a unit, and for a cluster the physical core and engine (0 matrix, 1 vector, 2 load/store,
3 stream engine); 0xFF where there is none. -/
structure L1Key where
  unit : UnitRef
  core : Nat
  engine : Nat
  deriving DecidableEq, Repr

/-- An L0 reset in progress (R443): its cause, the local time of the stop, the units under L1 that it waits for, the
RST_CONTEXTs that asked for it, and the CTX_DESTROY whose first part it is (R394). -/
structure L0St where
  cause : Nat
  since : Nat
  waits : List L1Key
  asked : List CmdRef
  destroy : Option CmdRef
  deriving DecidableEq, Repr

/-- A unit in L1 reset (R444): cause, local time, the contexts whose L0 comes first, how many contexts it resets, whether it is
the second within 1 s (R448), the RST_UNITs that asked for it. -/
structure L1St where
  key : L1Key
  cause : Nat
  since : Nat
  after : List Nat
  ctxs : Nat
  again : Bool
  asked : List CmdRef
  deriving DecidableEq, Repr

/-- A die in L2 reset, or the chip in L3 (R445, R446): cause, local time, how many contexts are reset, the level it was escalated
from, whether those resets are over and the stacks retrain, and the commands that complete at its end. -/
structure BigReset where
  cause : Nat
  since : Nat
  ctxs : Nat
  from_ : Nat
  begun : Bool
  asked : List CmdRef
  deriving DecidableEq, Repr

/-- A TEST_RUN that runs (R458): its command, scope, unit, ports, clusters still to report, units tested and found failed,
engines fenced. -/
structure TestRun where
  q : CmdRef
  scope : Nat
  unit : Nat
  ports : Nat
  left : List Nat
  tested : Nat
  failed : Nat
  fenced : Nat
  deriving DecidableEq, Repr

/-- Cold BIST and TEST_RUN (R454 to R458): the phase, its batch, when it began, refusals so far, the local time of the last,
units tested and failed; the test token, when one was last seen, whether a heavy phase waits for it. -/
structure TestSt where
  phase : Nat
  batch : Nat
  since : Nat
  refusals : Nat
  refusedAt : Option Nat
  lastRefusal : Nat
  tested : Nat
  failed : Nat
  run : Option TestRun
  token : Bool
  tokenSeen : Nat
  heavy : Bool
  /-- The local time at which a heavy phase last became ready. -/
  heavySince : Nat
  /-- Token pulses driven on TEST_TOKEN_OUT. -/
  pulses : Nat
  /-- Results of the running phase, which count only when it ends without being abandoned (R454). -/
  found : List CoreBist
  /-- The Curator's departures when the phase began. -/
  departures : Nat
  deriving DecidableEq, Repr

def TestSt.reset : TestSt := ⟨0, 0, 0, 0, none, 0, 0, 0, none, false, 0, false, 0, 0, [], 0⟩

/-- Fenced engines, by 128 × cluster + physical core; fused cores of a cluster (R459 to R462); clusters out of service for
another reason (R444, R452); logical to physical cores, by 128 × cluster + logical core, a core that is not listed on its own
number; the core aside of a cluster, none where it is not listed. The bits in which the second half of a cluster's FENCED or
FUSED mask is not the complement of the first (R461; none is listed for an entry that is whole), the clusters whose entry was
found absent, and the cores and buffer banks given to test and repair (R133), by cluster, place and memory code. -/
structure RepairSt where
  fenced : Map (List Nat)
  fused : Map (List Nat)
  out : List Nat
  coreMap : Map Nat
  aside : Map Nat
  fencedC : Map W128
  fusedC : Map W128
  absent : List Nat
  given : List (Nat × Nat × Nat)
  deriving DecidableEq, Repr

def RepairSt.reset : RepairSt := ⟨[], [], [], [], [], [], [], [], []⟩

/-- Rotation test (R463, R464): pointers, local time of the last swap, clusters whose core aside is being tested, with the
Curator's departures and the number of monitors out when that test began,
clusters whose pointer has gone round in this sweep, when the sweep began, failures in it, and the counts. -/
structure RotateSt where
  pointer : Map Nat
  lastSwap : Map Nat
  testing : Map (Nat × Nat)
  round : List Nat
  since : Nat
  sweepFailed : Nat
  sweeps : Nat
  failed : Nat
  passed : Nat
  deriving DecidableEq, Repr

def RotateSt.reset : RotateSt := ⟨[], [], [], [], 0, 0, 0, 0, 0⟩

/-- Resets: those in progress, when a unit or die was last reset, the counts, the last one's cause and level; the units' progress
counters, and the last progress of a context as local time (R437); `frozen` is the local time at which watchdog windows stood still (R439). -/
structure RstSt where
  l0 : Map L0St
  l1 : List L1St
  l2 : Map BigReset
  l3 : Option BigReset
  l1Last : List (L1Key × Nat)
  l2Last : Map Nat
  l3Last : Option Nat
  count0 : Nat
  count1 : Nat
  count2 : Nat
  count3 : Nat
  lastCause : Nat
  lastLevel : Nat
  progress : Map Nat
  /-- Progress counters of 32 bits, by `unitKey` (R437). -/
  counters : Map Nat
  frozen : Option Nat
  ready : Bool
  fault : Bool
  /-- PWR_CYCLE_REQ_N is driven low (R447). -/
  cycleReq : Bool
  restarts : Nat
  test : TestSt
  repair : RepairSt
  rotate : RotateSt
  deriving DecidableEq, Repr

def RstSt.reset : RstSt :=
  { l0 := [], l1 := [], l2 := [], l3 := none, l1Last := [], l2Last := [], l3Last := none, count0 := 0, count1 := 0
    count2 := 0, count3 := 0, lastCause := 0, lastLevel := 0, progress := [], counters := [], frozen := none, ready := false
    fault := false, cycleReq := false, restarts := 0, test := .reset, repair := .reset, rotate := .reset }

/-! ### Boot, identity, pins (16_boot_and_identity.md, 17_pins_and_power.md) -/

/-- Phases of GLB_BOOT_STATUS. -/
inductive BootPhase where
  | rom | waitImage | checking | coldBist | hbmTraining | starting | ready | notReady
  deriving DecidableEq, Repr

/-- What an SPDM transport has settled (R483): version, capabilities, algorithms. -/
structure SpdmConn where
  version : Bool
  caps : Bool
  algorithms : Bool
  deriving DecidableEq, Repr

def SpdmConn.reset : SpdmConn := ⟨false, false, false⟩

/-- An answer of the responder (R483 to R485), with its signatures where it carries them. -/
inductive SpdmAnswer where
  | version
  | capabilities
  | algorithms
  | digests (d : List (BitVec 384))
  | certificate (bytes : List Byte) (remainder : Nat)
  | challenge (slot : Nat) (body ed mldsa : List Byte)
  | measurements (blocks : List (Nat × List Byte)) (ed mldsa : List Byte)
  | busy
  | unexpected
  | unsupported
  | invalid
  deriving DecidableEq, Repr

/-- States of the IEEE 1149.1 TAP controller (R508; log entry 41). -/
inductive TapState where
  | testLogicReset | runTestIdle
  | selectDr | captureDr | shiftDr | exit1Dr | pauseDr | exit2Dr | updateDr
  | selectIr | captureIr | shiftIr | exit1Ir | pauseIr | exit2Ir | updateIr
  deriving DecidableEq, Repr

/-- The TAP's instructions (R508). -/
inductive TapInstr where
  | bypass | sample | preload | extest | extestPulse | extestTrain | clamp | highz
  deriving DecidableEq, Repr

/-- The TAP: state, bits shifted into the instruction register, the instruction, the bypass bit, bits shifted into the
boundary register, whether it holds the lands, and what TDO drives. -/
structure TapSt where
  state : TapState
  irBits : List Bool
  instr : TapInstr
  bypass : Bool
  boundary : List Bool
  latched : List Bool
  lands : Bool
  tdo : Option Bool
  deriving DecidableEq, Repr

def TapSt.reset : TapSt := ⟨.testLogicReset, [], .bypass, false, [], [], false, none⟩

/-- Boot, firmware and configuration; the fuses (`rollback` bits burnt, usable key slots; log entry 32) outlive a power
cycle. `running` is the length of the running image, 0 for none; `relane` a bring-up with lane repair after a refusal
(R473); `restart` the local time at which restarted processors resume (R478). -/
structure BoardSt where
  pwrGood : Bool
  straps : Nat
  since : Nat
  phase : BootPhase
  refuseCause : Nat
  rollback : Nat
  keySlots : Nat
  generation : Nat
  config : List Byte
  /-- Writes to the staging areas that a running commit holds: address and bytes, oldest first (R478). -/
  heldStage : List (Nat × List Byte)
  running : Nat
  version : Nat
  svn : Nat
  relane : Bool
  goSince : Nat
  restart : Option Nat
  patch : Option (Nat × List Byte)
  /-- The Curator's anti-rollback counter (R434). -/
  patchFloor : Nat
  functionReady : Bool
  spdm : List (Transport × SpdmConn)
  spdmOut : List (Transport × SpdmAnswer)
  tap : TapSt
  deriving DecidableEq, Repr

def BoardSt.reset : BoardSt :=
  { pwrGood := false, straps := 0, since := 0, phase := .rom, refuseCause := 0, rollback := 0, keySlots := 15
    generation := 0, config := [], heldStage := [], running := 0, version := 0, svn := 0, relane := false, goSince := 0, restart := none
    patch := none, patchFloor := 0, functionReady := false, spdm := [], spdmOut := [], tap := .reset }

/-! ### The whole state -/

/-- The state of the block. Register values that software wrote stand in `regs` by offset (one that is not listed has its
reset value), `held` the lower half of a 64-bit register whose upper half is still to come (R6). -/
structure State where
  pending : List Instr
  /-- The model's own counter behind the free values (log entry 3). -/
  freeCtr : Nat
  regs : Map W64
  held : Map W32
  rwpCount : Nat
  rwpLast : Nat
  time : TimeSt
  plans : Map PlanSt
  pegs : PegSt
  cat : CatSt
  host : HostSt
  hbm : HbmSt
  tier : TierSt
  eng : CoreSide
  stat : StatSt
  pack : PackSt
  rst : RstSt
  cons : ConsSt
  coll : CollSt
  guy : GuySt
  board : BoardSt
  cur : CurSt
  /-- What left for the host, and the answers given to it, newest last. -/
  hostOut : List HostOut
  answers : List HostAnswer
  deriving DecidableEq, Repr

/-- The block right after a power cycle: PWR_GOOD is low, nothing has booted. -/
def State.reset : State :=
  { pending := [], freeCtr := 0, regs := [], held := [], rwpCount := 0, rwpLast := 0, time := .reset, plans := []
    pegs := .reset, cat := .reset, host := .reset, hbm := .reset, tier := .reset, eng := .reset, stat := .reset, pack := .reset, rst := .reset
    cons := .reset, coll := .reset
    guy := .reset, board := .reset, cur := .reset, hostOut := [], answers := [] }

end Sys2Proof.Machine
end

