-- ==== Sys2Proof/Machine/Data.lean ====
section
/-! DEFINITION. Plain operations on the data that State holds: sparse tables, bytes, bit fields, check codes, sparse
memories. Nothing here knows a rule of a unit; R2 fixes the byte order, R205 and R338 the check codes. -/

namespace Sys2Proof.Machine

/-! ### Sparse tables -/

def mget {α : Type} (m : Map α) (k : Nat) : Option α :=
  match m with
  | [] => none
  | (a, x) :: r => if a = k then some x else mget r k

def mset {α : Type} (m : Map α) (k : Nat) (v : α) : Map α :=
  match m with
  | [] => [(k, v)]
  | (a, x) :: r => if k < a then (k, v) :: (a, x) :: r else if a = k then (k, v) :: r else (a, x) :: mset r k v

def mdel {α : Type} (m : Map α) (k : Nat) : Map α := m.filter (fun p => p.1 != k)

def mgetD {α : Type} (m : Map α) (k : Nat) (d : α) : α := (mget m k).getD d

def mhas {α : Type} (m : Map α) (k : Nat) : Bool := (mget m k).isSome

def mupd {α : Type} (m : Map α) (k : Nat) (d : α) (f : α → α) : Map α := mset m k (f (mgetD m k d))

/-! ### Bit fields and bytes (R2) -/

/-- Bits [hi:lo] of a number. -/
def bits (v hi lo : Nat) : Nat := (v >>> lo) % 2 ^ (hi + 1 - lo)

/-- The `n` low bytes of a number, least significant first. -/
def leBytes (n v : Nat) : List Byte :=
  match n with
  | 0 => []
  | k + 1 => BitVec.ofNat 8 v :: leBytes k (v / 256)

/-- The number that bytes spell, least significant first. -/
def leNat (bs : List Byte) : Nat :=
  match bs with
  | [] => 0
  | b :: r => b.toNat + 256 * leNat r

/-- `n` bytes from an offset; bytes beyond the end read 0. -/
def bsub (bs : List Byte) (off n : Nat) : List Byte :=
  let t := (bs.drop off).take n
  t ++ List.replicate (n - t.length) 0

/-- The number in `n` bytes at an offset. -/
def fld (bs : List Byte) (off n : Nat) : Nat := leNat (bsub bs off n)

/-- Every byte from `lo` up to `hi` is zero. -/
def zeroBytes (bs : List Byte) (lo hi : Nat) : Bool := (bsub bs lo (hi - lo)).all (fun b => b == 0)

def not64 (v : W64) : W64 := ~~~v

/-! ### Check codes -/

def crc32cBits : Nat → W32 → W32
  | 0, c => c
  | n + 1, c => crc32cBits n (if c.getLsbD 0 then (c >>> 1) ^^^ 0x82F63B78#32 else c >>> 1)

def crc32cFold (c : W32) (b : Byte) : W32 := crc32cBits 8 (c ^^^ b.zeroExtend 32)

/-- CRC-32C: reflected polynomial 0x1EDC6F41, initial value and final xor all ones. -/
def crc32c (bs : List Byte) : W32 := ~~~(bs.foldl crc32cFold 0xFFFFFFFF#32)

def crc32Bits : Nat → W32 → W32
  | 0, c => c
  | n + 1, c => crc32Bits n (if c.getLsbD 0 then (c >>> 1) ^^^ 0xEDB88320#32 else c >>> 1)

/-- The frame check sequence of IEEE 802.3 (R337). -/
def crc32 (bs : List Byte) : W32 := ~~~(bs.foldl (fun c b => crc32Bits 8 (c ^^^ b.zeroExtend 32)) 0xFFFFFFFF#32)

def crc16Bits : Nat → BitVec 16 → BitVec 16
  | 0, c => c
  | n + 1, c => crc16Bits n (if c.getLsbD 15 then (c <<< 1) ^^^ 0x1021#16 else c <<< 1)

def crc16Fold (c : BitVec 16) (b : Byte) : BitVec 16 := crc16Bits 8 (c ^^^ (b.zeroExtend 16 <<< 8))

/-- CRC-16 of R205: polynomial 0x1021, initial value 0xFFFF, no reflection, no final xor. -/
def crc16 (bs : List Byte) : BitVec 16 := bs.foldl crc16Fold 0xFFFF#16

/-! ### Sparse memories: canonical lists of address and byte, unlisted bytes 0 -/

def memByte (m : Mem) (a : Nat) : Byte :=
  match m with
  | [] => 0
  | (k, b) :: r => if k = a then b else memByte r a

def memDel (m : Mem) (a : Nat) : Mem :=
  match m with
  | [] => []
  | (k, b) :: r => if k = a then r else (k, b) :: memDel r a

def memIns (m : Mem) (a : Nat) (v : Byte) : Mem :=
  match m with
  | [] => [(a, v)]
  | (k, b) :: r => if a < k then (a, v) :: (k, b) :: r else if k = a then (a, v) :: r else (k, b) :: memIns r a v

/-- One byte written: the value 0 removes the entry, so the form stays canonical. -/
def memSet (m : Mem) (a : Nat) (v : Byte) : Mem := if v = 0 then memDel m a else memIns m a v

def memRead (m : Mem) (a : Nat) : Nat → List Byte
  | 0 => []
  | n + 1 => memByte m a :: memRead m (a + 1) n

def memWrite (m : Mem) (a : Nat) : List Byte → Mem
  | [] => m
  | b :: r => memWrite (memSet m a b) (a + 1) r

/-- Every byte from `lo` up to `hi` becomes 0. -/
def memClear (m : Mem) (lo hi : Nat) : Mem := m.filter (fun c => c.1 < lo || hi ≤ c.1)

/-- The cells from `lo` up to `hi`, their addresses counted from `lo`. -/
def memSlice (m : Mem) (lo hi : Nat) : Mem :=
  (m.filter (fun c => lo ≤ c.1 && c.1 < hi)).map (fun c => (c.1 - lo, c.2))

/-- Cells laid down from `base`. -/
def memPaste (m : Mem) (base : Nat) : List (Nat × Byte) → Mem
  | [] => m
  | (k, b) :: r => memPaste (memSet m (base + k) b) base r

/-- The canonical form: addresses strictly rising, no byte 0 listed. -/
def Mem.wfFrom (lo : Nat) : Mem → Bool
  | [] => true
  | (k, b) :: r => decide (lo ≤ k) && (b != 0) && Mem.wfFrom (k + 1) r

def Mem.wf (m : Mem) : Bool := Mem.wfFrom 0 m
/-- The canonical form, said of a memory as such. -/
abbrev Memory.wf (m : Mem) : Bool := m.wf

/-! ### Lists -/

/-- The first element that satisfies a test replaced by its image. -/
def replaceFirst {α : Type} (p : α → Bool) (f : α → α) : List α → List α
  | [] => []
  | a :: r => if p a then f a :: r else a :: replaceFirst p f r

/-- The set bits of a byte string, from bit 0 of byte 0. -/
def bitSet (bs : List Byte) : List Nat :=
  (List.range (8 * bs.length)).filter (fun c => ((bs.getD (c / 8) 0).getLsbD (c % 8)))

end Sys2Proof.Machine
end

