-- ==== Sys2Proof/Machine/Memory.lean ====
section
/-! DEFINITION. HBM as the block reads and writes it (07_hbm.md): the address map, the coherent byte store with its undefined
stretches, and the shared cache and write-combining buffers as directories beside it. -/

namespace Sys2Proof.Machine

/-! ### The address map (R198 to R203) -/

/-- The group of 32 MiB that an address lies in. -/
def groupOf (pa : Nat) : Nat := pa / 2 ^ 25

/-- R199: a group in die-local mode; reserved groups never are (R198). -/
def HbmSt.isDieLocal (h : HbmSt) (g : Nat) : Bool := decide (g < 32512) && h.dieLocal.contains g

/-- Stack and stack-local address in package mode (R201). -/
def packageMap (pa : Nat) : Nat × Nat :=
  let g := bits pa 24 12
  (Nat.xor (g % 16) (groupOf pa % 16), groupOf pa * 2 ^ 21 + g / 16 * 2 ^ 12 + pa % 2 ^ 12)

/-- Stack and stack-local address in die-local mode (R202). -/
def dieLocalMap (pa : Nat) : Nat × Nat :=
  let f := bits pa 24 21
  let x := bits pa 20 8
  let t := Nat.xor (bits x 1 0) (Nat.xor (bits x 5 4) (bits x 9 8))
  (4 * (f % 4) + t, groupOf pa * 2 ^ 21 + f / 4 * 2 ^ 19 + x / 4 * 2 ^ 8 + pa % 2 ^ 8)

def HbmSt.stackMap (h : HbmSt) (pa : Nat) : Nat × Nat :=
  if h.isDieLocal (groupOf pa) then dieLocalMap pa else packageMap pa

/-- Pseudo-channel and access index within the stack (R203). -/
def pcMap (sa : Nat) : Nat × Nat :=
  let v := bits sa 35 8
  let p := Nat.xor (bits v 4 0) (Nat.xor (bits v 9 5) (Nat.xor (bits v 14 10) (Nat.xor (bits v 19 15) (bits v 24 20))))
  (p, bits v 27 5 * 4 + bits sa 7 6)

/-- Stack, pseudo-channel and access index w of an address. -/
def HbmSt.locate (h : HbmSt) (pa : Nat) : Nat × Nat × Nat :=
  let m := h.stackMap pa
  let q := pcMap m.2
  (m.1, q.1, q.2)

/-- The 4-byte address word that the CRC covers (R205). -/
def addressWord (p w : Nat) : List Byte := leBytes 4 (w % 2 ^ 25 + p % 32 * 2 ^ 25)

/-- Bank-group index of an access within its stack (pseudo-channel, SID, bank group), for spare rows (R214). -/
def bankGroupIndex (pc sid bg : Nat) : Nat := (pc * 4 + sid) * 4 + bg

/-! ### The byte store -/

/-- The stretch of undefined contents that an address lies in. -/
def undefAt (u : List Undef) (a : Nat) : Option Nat :=
  match u with
  | [] => none
  | x :: r => if x.lo ≤ a ∧ a < x.hi then some x.tag else undefAt r a

/-- The undefined stretches less the bytes from `lo` up to `hi`. -/
def undefSub (u : List Undef) (lo hi : Nat) : List Undef :=
  match u with
  | [] => []
  | x :: r =>
    let rest := undefSub r lo hi
    if hi ≤ x.lo ∨ x.hi ≤ lo then x :: rest
    else
      (if x.lo < lo then [⟨x.lo, lo, x.tag⟩] else []) ++ (if hi < x.hi then [⟨hi, x.hi, x.tag⟩] else []) ++ rest

/-- What a read of one byte returns (R220): the latest accepted write; a free value where the contents are undefined. -/
def HbmSt.byte (h : HbmSt) (a : Nat) : Byte :=
  match undefAt h.undef a with
  | some t => Config.freeByte t a
  | none => memByte h.mem a

def HbmSt.peek (h : HbmSt) (a : Nat) : Nat → List Byte
  | 0 => []
  | n + 1 => h.byte a :: h.peek (a + 1) n

/-- Lines that a stretch covers whole: a full 64 B write heals its location (R209). -/
def healed (damaged : Map Nat) (lo hi : Nat) : Map Nat :=
  damaged.filter (fun l => !(decide (lo ≤ 64 * l.1) && decide (64 * l.1 + 64 ≤ hi)))

/-- Bytes written at a physical address. -/
def HbmSt.poke (h : HbmSt) (a : Nat) (bs : List Byte) : HbmSt :=
  { h with mem := memWrite h.mem a bs, undef := undefSub h.undef a (a + bs.length)
           damaged := healed h.damaged a (a + bs.length) }

/-- A stretch set to zero, in full lines. -/
def HbmSt.zero (h : HbmSt) (lo hi : Nat) : HbmSt :=
  { h with mem := memClear h.mem lo hi, undef := undefSub h.undef lo hi, damaged := healed h.damaged lo hi }

/-- A stretch whose contents become undefined; `tag` makes its free values. -/
def HbmSt.makeUndef (h : HbmSt) (lo hi tag : Nat) : HbmSt :=
  { h with mem := memClear h.mem lo hi, undef := ⟨lo, hi, tag⟩ :: undefSub h.undef lo hi }

/-- The first damaged line of a stretch. -/
def HbmSt.damagedIn (h : HbmSt) (lo n : Nat) : Option Nat :=
  (h.damaged.find? (fun l => decide (64 * l.1 < lo + n) && decide (lo < 64 * l.1 + 64))).map (·.1)

/-! ### The shared cache (R218, R220) -/

/-- Key of a set: slice × 512 + set. -/
def setKey (stack pc w : Nat) : Nat := (stack * 32 + pc) * 512 + Nat.xor (bits w 8 0) (bits w 17 9)
def tagOfW (w : Nat) : Nat := bits w 24 9

/-- The tree bits after a use of a way: every node on its path points away from it. Node n has children 2n and 2n + 1;
nodes 1 to 15 are bits 0 to 14. -/
def treeUse (tree way : Nat) : Nat → Nat → Nat
  | 0, _ => tree
  | d + 1, node =>
    let dir := way / 2 ^ d % 2
    let t := if dir = 0 then tree ||| 2 ^ (node - 1) else tree &&& (0x7FFF - 2 ^ (node - 1))
    treeUse t way d (2 * node + dir)

/-- The way that the tree bits point to. -/
def treeVictim (tree : Nat) : Nat → Nat → Nat → Nat
  | 0, _, way => way
  | d + 1, node, way =>
    let dir := if tree.testBit (node - 1) then 1 else 0
    treeVictim tree d (2 * node + dir) (2 * way + dir)

/-- The way of a set that holds a tag (R218; log entry 88). -/
def CacheSet.find (c : CacheSet) (tag : Nat) : Option Nat := (c.ways.find? (fun p => p.2.1 == tag)).map (·.1)

/-- A use of a way, with its line marked dirty when asked. -/
def CacheSet.use (c : CacheSet) (way : Nat) (dirty : Bool) : CacheSet :=
  { ways := mupd c.ways way (0, false) (fun p => (p.1, p.2 || dirty)), tree := treeUse c.tree way 4 1 }

/-- A line installed: in a free way if there is one, otherwise in the way the tree points to. -/
def CacheSet.install (c : CacheSet) (tag : Nat) (dirty : Bool) : CacheSet :=
  let way := ((List.range 16).find? (fun k => !mhas c.ways k)).getD (treeVictim c.tree 4 1 0)
  { ways := mset c.ways way (tag, dirty), tree := treeUse c.tree way 4 1 }

def HbmSt.setOf (h : HbmSt) (line : Nat) : Nat × Nat × Nat :=
  let p := h.locate (64 * line)
  (p.1, setKey p.1 p.2.1 p.2.2, tagOfW p.2.2)

/-- Whether a line is present in its slice. -/
def HbmSt.present (h : HbmSt) (line : Nat) : Bool :=
  let k := h.setOf line
  ((mgetD h.cache k.2.1 ⟨[], 0⟩).find k.2.2).isSome

def HbmSt.countHit (h : HbmSt) (stack : Nat) : HbmSt := { h with hits := mupd h.hits (stack / 4) 0 (wrapAdd 32 · 1) }
def HbmSt.countMiss (h : HbmSt) (stack : Nat) : HbmSt := { h with misses := mupd h.misses (stack / 4) 0 (wrapAdd 32 · 1) }

/-- How an access uses the cache (R220); `whole` is a line of a write of 256 B that its issuer marks whole (R221). -/
inductive CacheUse where
  | read (noalloc : Bool)
  | write (full : Bool)
  | whole
  | atomic
  deriving DecidableEq, Repr

/-- One line's access in the directory. The answer says whether the access goes to the write-combining buffer. -/
def HbmSt.useLine (h : HbmSt) (line : Nat) (u : CacheUse) : HbmSt × Bool :=
  let k := h.setOf line
  let c := mgetD h.cache k.2.1 ⟨[], 0⟩
  let entry := h.wc.find? (fun e => e.line == line)
  let dropped := { h with wc := h.wc.filter (fun e => e.line != line) }
  match c.find k.2.2, u with
  | some way, .read _ => ({ h with cache := mset h.cache k.2.1 (c.use way false) }.countHit k.1, false)
  | some way, _ => ({ h with cache := mset h.cache k.2.1 (c.use way true) }.countHit k.1, false)
  | none, .read noalloc =>
    match entry with
    | some e =>
      if e.mask = BitVec.allOnes 64 then (h.countMiss k.1, false)
      else ({ dropped with cache := mset h.cache k.2.1 (c.install k.2.2 true) }.countMiss k.1, false)
    | none =>
      if noalloc then (h.countMiss k.1, false)
      else ({ h with cache := mset h.cache k.2.1 (c.install k.2.2 false) }.countMiss k.1, false)
  | none, .write _ => (h.countMiss k.1, true)
  | none, .whole =>
    match entry with
    | some _ => ({ dropped with cache := mset h.cache k.2.1 (c.install k.2.2 true) }.countMiss k.1, false)
    | none => (h.countMiss k.1, true)
  | none, .atomic => ({ dropped with cache := mset h.cache k.2.1 (c.install k.2.2 true) }.countMiss k.1, false)

/-! ### The write-combining buffers (R225, R226) -/

/-- The mask of `n` bytes from an offset in a line. -/
def byteMask (off n : Nat) : W64 := BitVec.ofNat 64 ((2 ^ n - 1) * 2 ^ off)

/-- Entries of one pseudo-channel, oldest first. -/
def HbmSt.wcOf (h : HbmSt) (stack pc : Nat) : List WcEntry :=
  h.wc.filter (fun e => let p := h.locate (64 * e.line); p.1 == stack && p.2.1 == pc)

/-- A write that missed the cache: a full line passes through; a partial one joins its entry, after an entry of another
context on that line has left, and after the oldest entry has left a full buffer. An entry that becomes full is written as a
full line, which heals its location (R209; log entry 75). -/
def HbmSt.combine (h : HbmSt) (ctx line off n now : Nat) : HbmSt :=
  let m := byteMask off n
  if n = 64 then { h with wc := h.wc.filter (fun e => e.line != line) }
  else
    let old := (List.range n).map (fun j => (off + j, h.byte (64 * line + off + j)))
    match h.wc.find? (fun e => e.line == line && e.ctx == ctx) with
    | some e =>
      let e' := { e with mask := e.mask ||| m, old := e.old ++ old.filter (fun p => !e.mask.getLsbD p.1) }
      if e'.mask = BitVec.allOnes 64 then
        { h with wc := h.wc.filter (fun e => e.line != line), damaged := mdel h.damaged line }
      else { h with wc := replaceFirst (fun e => e.line == line) (fun _ => e') h.wc }
    | none =>
      let kept := h.wc.filter (fun e => e.line != line)
      let p := h.locate (64 * line)
      let same := ({ h with wc := kept } : HbmSt).wcOf p.1 p.2.1
      let kept : List WcEntry :=
        if same.length < 64 then kept
        else
          match same with
          | [] => kept
          | o :: _ => kept.filter (fun e => e.line != o.line)
      { h with wc := kept ++ [⟨line, m, old, ctx, now⟩] }

/-! ### Accesses by line -/

/-- The lines that a stretch touches, each with the offset and length of the part inside it. -/
def linesOf (pa n : Nat) : List (Nat × Nat × Nat) :=
  (List.range (if n = 0 then 0 else (n + pa - 1) / 64 + 1 - pa / 64)).map (fun j =>
    let line := pa / 64 + j
    let lo := max pa (64 * line)
    let hi := min (pa + n) (64 * line + 64)
    (line, lo - 64 * line, hi - lo))

/-- The directories after a read of a stretch. -/
def HbmSt.readLines (h : HbmSt) (pa n : Nat) (noalloc : Bool) : HbmSt :=
  (linesOf pa n).foldl (fun h l => (h.useLine l.1 (.read noalloc)).1) h

/-- The record of a write for R210: local time, pseudo-channel, context; those older than 1 µs are forgotten. -/
def HbmSt.noteWrite (h : HbmSt) (ctx line now : Nat) : HbmSt :=
  let p := h.locate (64 * line)
  { h with recent := (now, 32 * p.1 + p.2.1, ctx) ::
      h.recent.filter (fun e => decide (now ≤ e.1 + 1000) && !(e.2 == (32 * p.1 + p.2.1, ctx))) }

/-- One line's part of a write: directories first, then the bytes. -/
def HbmSt.writeLine (h : HbmSt) (whole : Bool) (ctx now : Nat) (bs : List Byte) (l : Nat × Nat × Nat) (pa : Nat) : HbmSt :=
  let u := h.useLine l.1 (if whole then .whole else .write (l.2.2 == 64))
  let h := if u.2 then u.1.combine ctx l.1 l.2.1 l.2.2 now else u.1
  (h.noteWrite ctx l.1 now).poke (64 * l.1 + l.2.1) (bsub bs (64 * l.1 + l.2.1 - pa) l.2.2)

/-- A write of a context to a stretch (R219, R220). -/
def HbmSt.write (h : HbmSt) (ctx now pa : Nat) (bs : List Byte) : HbmSt :=
  (linesOf pa bs.length).foldl (fun h l => h.writeLine false ctx now bs l pa) h

/-- A write of 256 B that its issuer marks whole (R221): its four lines back to back. -/
def HbmSt.writeWhole (h : HbmSt) (ctx now pa : Nat) (bs : List Byte) : HbmSt :=
  (linesOf pa bs.length).foldl (fun h l => h.writeLine true ctx now bs l pa) h

/-- Bytes at one place changed in the cache (R220): the line is installed and takes the new bytes (log entry 72). -/
def HbmSt.atomic (h : HbmSt) (ctx now pa : Nat) (bs : List Byte) : HbmSt :=
  (((h.useLine (pa / 64) .atomic).1).noteWrite ctx (pa / 64) now).poke pa bs

/-- The physical address of an access, from its stack, pseudo-channel and index: R201 to R203 read backwards. -/
def HbmSt.addressOf (h : HbmSt) (stack pc w : Nat) : Nat :=
  let v5 := w / 4
  let lo := Nat.xor pc (Nat.xor (bits v5 4 0) (Nat.xor (bits v5 9 5) (Nat.xor (bits v5 14 10) (bits v5 19 15))))
  let sa := (v5 * 32 + lo) * 256 + w % 4 * 64
  let g := sa / 2 ^ 21
  if h.isDieLocal g then
    let t := stack % 4
    let xh := bits sa 18 8 * 4
    let x := xh + Nat.xor t (Nat.xor (bits xh 5 4) (bits xh 9 8))
    g * 2 ^ 25 + (bits sa 20 19 * 4 + stack / 4) * 2 ^ 21 + x * 2 ^ 8 + sa % 2 ^ 8
  else g * 2 ^ 25 + (bits sa 20 12 * 16 + Nat.xor stack (g % 16)) * 2 ^ 12 + sa % 2 ^ 12

/-- The address of a line in a set, from the set's key and the line's tag. -/
def HbmSt.cachedAddress (h : HbmSt) (key tag : Nat) : Nat :=
  let slice := key / 512
  h.addressOf (slice / 32) (slice % 32) (tag * 512 + Nat.xor (key % 512) (tag % 512))

/-- The lines of a stretch written back and invalidated (R224). -/
def HbmSt.flushRange (h : HbmSt) (lo hi : Nat) : HbmSt :=
  let inside := fun (pa : Nat) => decide (lo ≤ pa) && decide (pa < hi)
  { h with wc := h.wc.filter (fun e => !inside (64 * e.line))
           cache := h.cache.map (fun p =>
             (p.1, { p.2 with ways := p.2.ways.filter (fun w => !inside (h.cachedAddress p.1 w.2.1)) })) }

/-- Every line of some stacks written back, buffers drained, slices invalidated (R224). -/
def HbmSt.drain (h : HbmSt) (stackList : List Nat) : HbmSt :=
  { h with cache := h.cache.filter (fun p => !stackList.contains (p.1 / 512 / 32))
           wc := h.wc.filter (fun e => !stackList.contains (h.locate (64 * e.line)).1) }

/-- A stack that is not READY holds back the accesses to it (R196, R219). -/
def HbmSt.stacksReady (h : HbmSt) (parts : List (Nat × Nat)) : Bool :=
  parts.all (fun p => (linesOf p.1 p.2).all (fun l =>
    let n := (h.locate (64 * l.1)).1
    (mgetD h.stackList n .reset).state == .ready &&
      !h.repairs.any (fun r => bits r.target 29 26 == n && bits r.target 25 21 == (h.locate (64 * l.1)).2.1 &&
        bits r.target 20 15 == bits ((h.locate (64 * l.1)).2.2 % 2 ^ 10) 9 4)))

/-! ### Pages moved whole (R243, R244) -/

/-- The stacks that a frame lies on. -/
def HbmSt.frameStacks (h : HbmSt) (f : Nat) : List Nat :=
  if h.isDieLocal (f / 16) then (List.range 4).map (4 * (f % 4) + ·) else List.range 16

/-- Every line of a frame can be accessed now. -/
def HbmSt.frameReady (h : HbmSt) (f : Nat) : Bool :=
  (h.frameStacks f).all (fun n => (mgetD h.stackList n .reset).state == .ready) &&
    (h.repairs.isEmpty || h.stacksReady [(f * 2 ^ 21, 2 ^ 21)])

/-- The slices' counts for an access to every line of a frame; lines written are dirty. Such an access installs nothing (log
entry 117). -/
def HbmSt.useFrame (h : HbmSt) (f : Nat) (write : Bool) : HbmSt :=
  let inside := fun (pa : Nat) => pa / 2 ^ 21 == f
  let here := fun (p : Nat × CacheSet) => (p.2.ways.filter (fun w => inside (h.cachedAddress p.1 w.2.1))).length
  let found := fun (d : Nat) => ((h.cache.filter (fun p => p.1 / 512 / 128 == d)).map here).sum
  let lines := fun (d : Nat) => if h.isDieLocal (f / 16) then (if f % 4 = d then 32768 else 0) else 8192
  let marked := h.cache.map (fun p => (p.1, { p.2 with ways := p.2.ways.map (fun w =>
    if inside (h.cachedAddress p.1 w.2.1) then (w.1, w.2.1, true) else w) }))
  { h with
    hits := (List.range 4).foldl (fun m d => mupd m d 0 (wrapAdd 32 · (found d))) h.hits
    misses := (List.range 4).foldl (fun m d => mupd m d 0 (wrapAdd 32 · (lines d - found d))) h.misses
    cache := if write then marked else h.cache
    wc := if write then h.wc.filter (fun e => !inside (64 * e.line)) else h.wc }

/-- Whole lines written by a unit that acts for no context. -/
def HbmSt.writeLines (h : HbmSt) (pa : Nat) (bs : List Byte) : HbmSt :=
  ((linesOf pa bs.length).foldl (fun (h : HbmSt) l =>
    let u := h.useLine l.1 (.write true)
    if u.2 then u.1.combine 0 l.1 l.2.1 l.2.2 0 else u.1) h).poke pa bs

end Sys2Proof.Machine
end

