-- ==== Sys2Proof/Machine/Translate.lean ====
section
/-! DEFINITION. Address spaces and page tables (08_tiers_and_streams.md R233 to R236, R246): what a walker reads, without its
side effects. -/

namespace Sys2Proof.Machine

/-- The space of a device virtual address (R233). -/
def vaSpace (va : Nat) : Nat := bits va 63 60
/-- R233: the bits that a space requires to be zero. -/
def vaMbz (va : Nat) : Bool :=
  match vaSpace va with
  | 0 => bits va 59 48 == 0
  | 1 => bits va 59 48 == 0
  | 2 => bits va 59 56 == 0
  | _ => false

def pageBytes : Nat := 2097152
/-- Page number VA[47:21]. -/
def vpnOf (va : Nat) : Nat := bits va 47 21
def pteKey (ctx vpn : Nat) : Nat := ctx * 2 ^ 27 + vpn
def l1Key (ctx vpn : Nat) : Nat := ctx * 2 ^ 14 + vpn / 8192

def Pair64.ok (p : Pair64) : Bool := p.comp == ~~~p.val
def Pair64.of (v : Nat) : Pair64 := ⟨BitVec.ofNat 64 v, ~~~(BitVec.ofNat 64 v)⟩

/-- A page table entry's fields (R235). -/
def pteLocation (v : Nat) : Nat := bits v 48 21
def pteState (v : Nat) : Nat := bits v 9 8
def ptePack (v : Nat) : Bool := v.testBit 7
def pteRecords (v : Nat) : Bool := v.testBit 6
def ptePin (v : Nat) : Bool := v.testBit 5
def pteMode (v : Nat) : Nat := bits v 4 4
def pteWrite (v : Nat) : Bool := v.testBit 1
def pteValid (v : Nat) : Bool := v.testBit 0

/-- An entry's value from its fields. -/
def mkPte (location state : Nat) (pack records pin : Bool) (mode : Nat) (write : Bool) : Nat :=
  location * 2 ^ 21 + state * 2 ^ 8 + bit01 pack * 2 ^ 7 + bit01 records * 2 ^ 6 + bit01 pin * 2 ^ 5 + mode * 2 ^ 4 +
    bit01 write * 2 + 1

/-- The reserved bits of a level-2 entry: [63:49], [20:10], [3:2], and [48:40] while LOCATION is a frame. -/
def pteReserved (v : Nat) : Bool :=
  !(bits v 63 49 == 0) || !(bits v 20 10 == 0) || !(bits v 3 2 == 0) || (decide (pteState v < 2) && !(bits v 48 40 == 0))

/-- What a walk finds (R236); `unread` is a line of the table that is uncorrectable (R208, reader code 4). -/
inductive Walk where
  | entry (v : Nat)
  | none
  | corrupt (level : Nat)
  | mismatch (pa entryMode groupMode : Nat)
  | unread (line : Nat)
  deriving DecidableEq, Repr

/-- The level-1 entry: valid, absent or corrupt (R234, R236). -/
def walkL1 (t : Map Pair64) (ctx vpn : Nat) : Walk :=
  match mget t (l1Key ctx vpn) with
  | Option.none => .none
  | some p =>
    if p.ok then
      let v := p.val.toNat
      if v.testBit 0 && bits v 63 40 == 0 && bits v 16 1 == 0 then .entry v else .none
    else .corrupt 1

/-- The line that holds a level-2 entry, from the level-1 entry (R234). -/
def pteLine (l1 vpn : Nat) : Nat := (bits l1 39 17 * 2 ^ 17 + 16 * (vpn % 8192)) / 64

/-- The walk of a local page (R234 to R236, R200). -/
def walk (s : State) (ctx vpn : Nat) : Walk :=
  match walkL1 s.tier.level1 ctx vpn with
  | .entry l1 =>
    match mget s.tier.ptes (pteKey ctx vpn) with
    | Option.none => .none
    | some p =>
      if mhas s.hbm.damaged (pteLine l1 vpn) then .unread (pteLine l1 vpn)
      else if p.ok then
        let v := p.val.toNat
        if !pteValid v || pteReserved v then .none
        else if decide (pteState v < 2) && pteMode v != bit01 (s.hbm.isDieLocal (pteLocation v / 16)) then
          .mismatch (pteLocation v * pageBytes) (pteMode v) (bit01 (s.hbm.isDieLocal (pteLocation v / 16)))
        else .entry v
      else .corrupt 2
  | w => w

/-- Who makes an access, as far as R236 asks: a core program or a stream it started (`pack` for a stream with PACK set), a
conservator, or any other unit (`pack` for a COPY with PACK set). -/
inductive Accessor where
  | program (pack : Bool)
  | conservator
  | other (pack : Bool)
  deriving DecidableEq, Repr

/-- Program fault codes that an access can give (R167). -/
def pfAddress : Nat := 0x10
def pfRecordPage : Nat := 0x11

/-- The outcome of one page's checks. -/
inductive Access where
  | pa (a : Nat)
  | wait
  | fault (code : Nat)
  deriving DecidableEq, Repr

/-- The checks of R236 on an entry, then its state. -/
def checkEntry (v : Nat) (off : Nat) (write : Bool) (who : Accessor) : Access :=
  let packOk :=
    match who with
    | .program p => p == ptePack v
    | .other p => p == ptePack v
    | .conservator => !ptePack v
  if pteRecords v && who != .conservator then
    .fault (match who with | .program _ => pfRecordPage | _ => pfAddress)
  else if write && !pteWrite v then .fault pfAddress
  else if !packOk then .fault pfAddress
  else if pteState v == 0 then .pa (pteLocation v * pageBytes + off)
  else .wait

/-- One local address, within one page. -/
def lookup (s : State) (ctx va : Nat) (write : Bool) (who : Accessor) : Access :=
  if vaSpace va == 0 && vaMbz va then
    match walk s ctx (vpnOf va) with
    | .entry v => checkEntry v (va % pageBytes) write who
    | _ => .fault pfAddress
  else .fault pfAddress

/-- The host-tier map: the IOVA of an address in space 0x1, where it is mapped and, for a write, writable (R246). -/
def hostLookup (s : State) (ctx va : Nat) (write : Bool) : Option Nat :=
  if vaSpace va == 1 && vaMbz va then
    match walkL1 s.tier.hostL1 ctx (vpnOf va), mget s.tier.hostPtes (pteKey ctx (vpnOf va)) with
    | .entry _, some p =>
      let v := p.val.toNat
      if p.ok && v.testBit 0 && (!write || v.testBit 1) && bits v 11 2 == 0 then
        some (v / 4096 * 4096 + va % pageBytes)
      else none
    | _, _ => none
  else none

/-- The parts of a stretch that lie in one page each, as address and length. -/
def pagesOf (va n : Nat) : List (Nat × Nat) :=
  (List.range (if n = 0 then 0 else (n + va - 1) / pageBytes + 1 - va / pageBytes)).map (fun j =>
    let lo := max va ((va / pageBytes + j) * pageBytes)
    let hi := min (va + n) ((va / pageBytes + j + 1) * pageBytes)
    (lo, hi - lo))

/-- The first outcome other than an address, over the parts of a stretch; otherwise the physical parts. -/
def lookupAll (s : State) (ctx : Nat) (write : Bool) (who : Accessor) : List (Nat × Nat) → Except Access (List (Nat × Nat))
  | [] => .ok []
  | p :: r =>
    match lookup s ctx p.1 write who with
    | .pa a =>
      match lookupAll s ctx write who r with
      | .ok l => .ok ((a, p.2) :: l)
      | .error e => .error e
    | e => .error e

/-- Bytes at physical parts. -/
def peekParts (h : HbmSt) (parts : List (Nat × Nat)) : List Byte := parts.flatMap (fun p => h.peek p.1 p.2)

/-- A write over physical parts. -/
def writeParts (h : HbmSt) (ctx now : Nat) (parts : List (Nat × Nat)) (bs : List Byte) : HbmSt :=
  match parts with
  | [] => h
  | p :: r => writeParts (h.write ctx now p.1 (bs.take p.2)) ctx now r (bs.drop p.2)

/-- The same in writes that their issuer marks whole (R221). -/
def writeWholes (h : HbmSt) (ctx now : Nat) (parts : List (Nat × Nat)) (bs : List Byte) : HbmSt :=
  match parts with
  | [] => h
  | p :: r => writeWholes (h.writeWhole ctx now p.1 (bs.take p.2)) ctx now r (bs.drop p.2)

/-- The directories after reads of physical parts. -/
def readPartsDir (h : HbmSt) (parts : List (Nat × Nat)) (noalloc : Bool) : HbmSt :=
  parts.foldl (fun h p => h.readLines p.1 p.2 noalloc) h

end Sys2Proof.Machine
end

