-- ==== Sys2Proof/Machine/Ops.lean ====
section
/-! DEFINITION. The named operations that every family shares: register values and fields, what leaves for the host, the
catalogue, stalls, memory accesses by virtual address, the start of an L0 reset. -/

namespace Sys2Proof.Machine

/-! ### The state's gates -/

/-- The block has power and has not tripped (R429, R499); nothing else happens otherwise. -/
def State.alive (s : State) : Bool := s.board.pwrGood && !s.cur.tripped

def State.now (s : State) : Nat := s.time.ns
def State.local_ (s : State) : Nat := s.time.localNs

/-! ### Registers that software writes (R5, R6, R7) -/

def rTimeCtrl : Nat := 0x020010
def rTimePtp : Nat := 0x020018
def rWcCtrl : Nat := 0x068300
def rPoolCtrl : Nat := 0x060008
def rPoolWater : Nat := 0x060010
def rStallCtx : Nat := 0x060100
def rSwCtrl : Nat := 0x050008
def rSwPcp : Nat := 0x050010
def rMacPrefix : Nat := 0x050018
def rE2eCtrl : Nat := 0x050020
def rRouteIdx : Nat := 0x050028
def rPortCtrl (p : Nat) : Nat := 0x050200 + 8 * p
def rHlCtrl : Nat := 0x080008
def rIrqCtrl : Nat := 0x080010
def rCtx0CqBase : Nat := 0x080200
def rCtx0Ctrl : Nat := 0x080208
def rCtx0Resume : Nat := 0x080210
def rCtx0RingSel : Nat := 0x080218
def rCurStatus : Nat := 0x030000
def rClockLimits : Nat := 0x030008
def rPowerCap : Nat := 0x030010
def rThrottlePoint : Nat := 0x030018
def rEnvelope : Nat := 0x030020
def rFilter : Nat := 0x030028
def rSensorSel : Nat := 0x030030
def rRstRequest : Nat := 0x040008
def rRstCtrl : Nat := 0x040010
def rRstCtxSel : Nat := 0x040020
def rRotation : Nat := 0x040048
def rFuseArm : Nat := 0x040058
def rHppr : Nat := 0x068500
def rStageOffset : Nat := 0x000208
def rStageGo : Nat := 0x000210
def rRollback : Nat := 0x000220

/-- The reset values of the writable registers. -/
def regDefault (off : Nat) : W64 :=
  if off = rTimeCtrl then 0x0000_000A_0003_4000
  else if off = rTimePtp then 0x8080_00D1
  else if off = rWcCtrl then 2000
  else if off = rPoolCtrl then 0x0098_9680_0064_0000
  else if off = rPoolWater then 0x0000_0100_0000_0040
  else if off = rSwCtrl then 0x88B5_2400_0000_0000
  else if off = rSwPcp then 0xFA_C688
  else if off = rMacPrefix then 0x0247_5A00
  else if off = rE2eCtrl then 0x000A_0014_03E8_0000
  else if 0x050200 ≤ off ∧ off < 0x050260 ∧ off % 8 = 0 then 500
  else if off = rHlCtrl then 0x0000_0032_0000_000A
  else if off = rCtx0Ctrl then 0x0001_0020
  else if off = rClockLimits then 0xF735_FB4F_08CA_04B0
  else if off = rPowerCap then 0xFFFF_F767_0000_0898
  else if off = rThrottlePoint then 0xFFFF_FB4F_0000_04B0
  else if off = rEnvelope then 0x0000_0064_0002_0800
  else if off = rFilter then 0x324
  else if off = rRstCtrl then 0x03E8_0001
  else if off = rRotation then 0x0000_0100_0000_0001
  else if off = rRstRequest ∨ off = rFuseArm ∨ off = rHppr ∨ off = rStageGo then 0xFFFF_FFFF_0000_0000
  else 0

/-- The value that a writable register holds. -/
def State.reg (s : State) (off : Nat) : Nat := ((mget s.regs off).getD (regDefault off)).toNat
def State.setReg (s : State) (off : Nat) (v : W64) : State := { s with regs := mset s.regs off v }

/-- Fields whose reads the registers' tables clamp. -/
def State.lossIntervals (s : State) : Nat := max 1 (bits (s.reg rTimeCtrl) 15 12)
def State.beaconIntervalNs (s : State) : Nat := 125000 * 2 ^ min 7 (bits (s.reg rTimeCtrl) 19 16)
def State.timeSource (s : State) : Nat := let c := bits (s.reg rTimeCtrl) 3 0; if c ≤ 3 then c else 0
def State.holdMs (s : State) : Nat := max 10 (min 1000 (bits (s.reg rHlCtrl) 47 32))
def State.tornUs (s : State) : Nat := max 1 (bits (s.reg rHlCtrl) 15 0)
def State.agingNs (s : State) : Nat := max 100000 (bits (s.reg rPoolCtrl) 63 32)
def State.stallReportUs (s : State) : Nat := bits (s.reg rPoolCtrl) 31 16
def State.waterHigh (s : State) : Nat := bits (s.reg rPoolWater) 63 32
def State.waterLow (s : State) : Nat := min (bits (s.reg rPoolWater) 31 0) s.waterHigh
def State.flushNs (s : State) : Nat := bits (s.reg rWcCtrl) 15 0
def State.quiesceUs (s : State) : Nat := bits (s.reg rRstCtrl) 31 16
def State.globalIrq (s : State) : Bool := (s.reg rIrqCtrl).testBit 0

/-! ### Free values (log entry 3) -/

/-- A fresh free value, and the state with the counter advanced. -/
def State.free (s : State) : W64 × State := (Config.freeWord s.freeCtr, { s with freeCtr := s.freeCtr + 1 })

/-! ### What leaves for the host (R409, R410, R412) -/

/-- A request on its way to the host: it waits while the data link is down (log entry 76). -/
def State.toHost (s : State) (o : HostOut) : State :=
  if s.host.link.dlUp then { s with hostOut := s.hostOut ++ [o] }
  else { s with host := { s.host with link := { s.host.link with waiting := s.host.link.waiting ++ [o] } } }

def State.answer (s : State) (a : HostAnswer) : State := { s with answers := s.answers ++ [a] }

/-- An MSI-X vector signalled: a masked one sets its pending bit (R409). -/
def State.signalVector (s : State) (v : Nat) : State :=
  let e := mgetD s.host.msix v .reset
  if e.masked then { s with host := { s.host with msix := mset s.host.msix v { e with pending := true } } }
  else s.toHost (.msix v)

/-! ### Sources of catalogue records (R53) -/

def srcHub (unit inst : Nat) : Nat := 4 * 2 ^ 12 + unit * 2 ^ 8 + inst
def srcCluster (c : Nat) : Nat := c / 80 * 2 ^ 12 + c % 80
def srcStack (n : Nat) : Nat := n / 4 * 2 ^ 12 + 1 * 2 ^ 8 + n % 4
def srcCons (n : Nat) : Nat := n / 4 * 2 ^ 12 + 2 * 2 ^ 8 + n % 4
def srcCache (d : Nat) : Nat := d * 2 ^ 12 + 3 * 2 ^ 8
/-- The command processor of a ring; which of the eight serves a ring is the model's choice (log entry 22). -/
def srcCp (ctx ring : Nat) : Nat := srcHub 4 ((4 * ctx + ring) % 8)
def srcColl (e : Nat) : Nat := srcHub 5 e
def srcPort (p : Nat) : Nat := srcHub 6 p
def srcPcie : Nat := srcHub 7 0
def srcCur : Nat := srcHub 8 0
def srcTime : Nat := srcHub 9 0
def srcBoot : Nat := srcHub 10 0
def srcRst : Nat := srcHub 11 0
/-- The walker that serves a context (log entry 51). -/
def srcWalker (ctx : Nat) : Nat := srcHub 12 (ctx % 16)

/-! ### The catalogue (R52 to R57) -/

def TimeState.code : TimeState → Nat
  | .unset => 0
  | .holdover => 1
  | .locked => 2

/-- The 64 bytes of a record (R52). -/
def Record.bytes (r : Record) : List Byte :=
  let flags := r.timeState.code * 2 ^ 14 + bit01 r.fatal * 2 ^ 13 + bit01 r.lostBefore * 2 ^ 12
  let ctx := match r.ctx with
    | some c => 2 ^ 15 + c % 1024
    | none => 0
  let body := leBytes 8 r.time ++ leBytes 2 r.event ++ leBytes 2 r.source ++ leBytes 2 ctx ++ leBytes 2 flags ++
    leBytes 4 r.seq.toNat ++ leBytes 2 r.node ++ leBytes 2 0 ++
    (List.range 4).flatMap (fun i => leBytes 8 (r.args.getD i 0).toNat) ++ leBytes 4 0
  body ++ leBytes 4 (crc32c body).toNat

/-- A record generated: it takes the next SEQ and goes to the global ring and the Curator's copy (R54, R56; log entry 57). -/
def State.generate (s : State) (code src : Nat) (ctx : Option Nat) (args : List Nat) (fatal lost : Bool) : Record × State :=
  let r : Record :=
    { time := s.time.ns, event := code, source := src, ctx := ctx, timeState := s.time.state, fatal := fatal
      lostBefore := lost, seq := s.cat.nextSeq, node := s.guy.node, args := args.map (BitVec.ofNat 64) }
  (r, { s with
    cat := { s.cat with nextSeq := s.cat.nextSeq + 1, generated := s.cat.generated + 1
                        global := r :: s.cat.global.take (Config.globalRecords - 1)
                        curator := r :: s.cat.curator.take (Config.curatorRecords - 1) } })

/-- Whether a context is being reset at L0: its units stand still until the reset completes (R443). -/
def State.inL0 (s : State) (ctx : Nat) : Bool := mhas s.rst.l0 ctx

/-- Where the export buffer has its header and next slot, through the driver's host-tier map: none when one of them does not
translate, or when the buffer is full. CONSUMED stands in host memory: its value is free (R55; log entry 23). -/
def exportSlot (s : State) (g : CatRing) (consumed : Nat) : Option (Nat × Nat) :=
  match hostLookup s 0 g.base true, hostLookup s 0 (g.base + 64 + 64 * (g.produced % g.records)) true with
  | some h, some a => if g.records ≤ (g.produced + 2 ^ 64 - consumed) % 2 ^ 64 then none else some (h, a)
  | _, _ => none

/-- A record put into the export buffer: its slot, then PRODUCED. -/
def State.exportPut (s : State) (g : CatRing) (h a : Nat) (r : Record) : State :=
  let s := (s.toHost (.catExport a r.bytes)).toHost (.catExport h (leBytes 8 (g.produced + 1)))
  { s with cat := { s.cat with exportRing := some { g with produced := g.produced + 1 } } }

/-- A record copied to the host export buffer, or dropped from the copy and counted (R54, R55). -/
def State.exportOne (s : State) (r : Record) : State :=
  match s.cat.exportRing with
  | none => s
  | some g =>
    let f := s.free
    let s := { f.2 with cat := { f.2.cat with exported := f.2.cat.exported + 1 } }
    match exportSlot s g f.1.toNat with
    | some (h, a) => s.exportPut g h a r
    | none =>
      let g' := { g with dropped := g.dropped + 1, firstDropped := if g.dropped = 0 then r.seq else g.firstDropped }
      { s with cat := { s.cat with globalLost := satAdd 32 s.cat.globalLost 1, exportRing := some g' } }

/-- Entries that left the write-combining buffers since `before` (R226): each is a write of its context in flight (R210). One that
left by a read-modify-write whose read is uncorrectable loses its bytes, and stays to be reported (R228). -/
def State.leaveWc (s : State) (before : List WcEntry) : State :=
  let left := before.filter (fun e => !s.hbm.wc.any (fun x => x.line == e.line && x.ctx == e.ctx && x.since == e.since))
  let gone := left.filter (fun e => e.mask != BitVec.allOnes 64 && mhas s.hbm.damaged e.line)
  let lost := fun (m : Mem) (e : WcEntry) =>
    let kept := fun (p : Nat) => s.hbm.wc.any (fun x => x.line == e.line && x.mask.getLsbD p)
    (e.old.filter (fun p => !kept p.1)).foldl (fun m p => memSet m (64 * e.line + p.1) p.2) m
  let noted := left.foldl (fun (h : HbmSt) e => h.noteWrite e.ctx e.line s.local_) s.hbm
  { s with hbm := { noted with
      mem := gone.foldl lost s.hbm.mem, unreported := s.hbm.unreported ++ gone.map (fun e => (6, e.ctx, e.line)) } }

/-- Where a context's ring has its header and its next slot. -/
def ringSlotVa (g : CatRing) : Nat := g.base + 64 + 64 * (g.produced % g.records)

/-- Where a context's ring has its header and slot n, and whether it can take a record: both translate for writing and
PRODUCED − CONSUMED is below RECORDS (R55). -/
def ctxRingSlot (s : State) (ctx : Nat) (g : CatRing) : Option (Nat × Nat) :=
  match lookup s ctx g.base true (.other false), lookup s ctx (ringSlotVa g) true (.other false) with
  | .pa h, .pa a =>
    let consumed := leNat (s.hbm.peek (h + 8) 8)
    if (s.hbm.damagedIn h 64).isSome || decide (g.records ≤ (g.produced + 2 ^ 64 - consumed) % 2 ^ 64) then none
    else some (h, a)
  | _, _ => none

/-- The header or the next slot of a context's ring lies in a stack that does not accept accesses now. -/
def ctxRingHeld (s : State) (ctx : Nat) (g : CatRing) : Bool :=
  match lookup s ctx g.base true (.other false), lookup s ctx (ringSlotVa g) true (.other false) with
  | .pa h, .pa a => !s.hbm.stacksReady [(h, 64), (a, 64)]
  | _, _ => false

/-- A walk of an address of a ring: a mode mismatch is reported where it is met (R200). The ring takes no record while it does not
translate, so that this one is dropped from it too (R55). -/
def State.ringMismatch (s : State) (ctx va : Nat) : State :=
  match (if vaSpace va == 0 && vaMbz va then walk s ctx (vpnOf va) else .none) with
  | .mismatch pa e g =>
    let p := s.generate 0x0609 (srcWalker ctx) (some ctx) [pa, e, g, ctx] false false
    p.2.exportOne p.1
  | _ => s

/-- The header of a ring read: a damaged line is an uncorrectable read of the command processor for the context (R208, reader
code 5), reported with the next nanosecond. -/
def State.ringRead (s : State) (ctx : Nat) (g : CatRing) : State :=
  match lookup s ctx g.base true (.other false) with
  | .pa h =>
    if (s.hbm.damagedIn h 64).isSome && !s.inL0 ctx && !s.hbm.unreported.contains (5, ctx, h / 64) then
      { s with hbm := { s.hbm with unreported := s.hbm.unreported ++ [(5, ctx, h / 64)] } }
    else s
  | _ => s

/-- A record written into a context's ring, PRODUCED after it; or dropped and counted (R55). -/
def State.toCtxRing (s : State) (ctx : Nat) (r : Record) : State :=
  match mget s.cat.rings ctx with
  | none => s
  | some g =>
    match ctxRingSlot s ctx g with
    | some (h, a) =>
      let hbm := ((s.hbm.readLines h 64 true).write ctx s.local_ a r.bytes).write ctx s.local_ h (leBytes 8 (g.produced + 1))
      ({ s with
        hbm := hbm
        cat := { s.cat with rings := mset s.cat.rings ctx { g with produced := g.produced + 1 } } }).leaveWc s.hbm.wc
    | none =>
      let t := ((s.ringRead ctx g).ringMismatch ctx g.base).ringMismatch ctx (ringSlotVa g)
      let more := t.cat.generated - s.cat.generated
      let g' := { g with dropped := g.dropped + 1 + more, firstDropped := if g.dropped = 0 then r.seq else g.firstDropped }
      { t with cat := { t.cat with rings := mset t.cat.rings ctx g' } }

/-- A record for a context's ring: it waits while its stack accepts no accesses, and behind one that waits (R196). -/
def State.forCtxRing (s : State) (ctx : Nat) (r : Record) : State :=
  if s.cat.waiting.any (fun w => w.1 == ctx) || (mget s.cat.rings ctx).any (fun g => ctxRingHeld s ctx g) then
    { s with cat := { s.cat with waiting := s.cat.waiting ++ [(ctx, r)] } }
  else s.toCtxRing ctx r

/-- The records that waited, as far as their stacks accept accesses now. -/
def State.flushRings (s : State) : State :=
  (s.cat.waiting).foldl (fun s w => s.forCtxRing w.1 w.2) { s with cat := { s.cat with waiting := [] } }

/-- EV_CAT_LOST of the export copy, once space has returned after drops (R55): it goes to the export buffer ahead of the next
record. -/
def State.exportLost (s : State) : State :=
  match s.cat.exportRing with
  | none => s
  | some g =>
    if g.dropped = 0 then s
    else
      let f := s.free
      match exportSlot f.2 g f.1.toNat with
      | none => f.2
      | some (h, a) =>
        let p := f.2.generate 0x0A0A srcTime none [g.dropped, g.firstDropped.toNat] false true
        let s := { p.2 with cat := { p.2.cat with exported := p.2.cat.exported + 1 } }
        s.exportPut { g with dropped := 0 } h a p.1

/-- EV_CAT_LOST in a context's ring, once space has returned after drops (R55); like every record it is copied to the export
buffer (R54). -/
def State.ctxRingLost (s : State) (ctx : Nat) : State :=
  match mget s.cat.rings ctx with
  | none => s
  | some g =>
    if g.dropped = 0 || ctxRingHeld s ctx g || (ctxRingSlot s ctx g).isNone then s
    else
      let p := s.generate 0x0A0A srcTime (some ctx) [g.dropped, g.firstDropped.toNat] false true
      let s := p.2
      (({ s with cat := { s.cat with rings := mset s.cat.rings ctx { g with dropped := 0 } } }).toCtxRing ctx p.1).exportOne p.1

/-- Codes that signal vector 0 when GLOBAL_EN is set, beside records with FATAL (R409, R418). -/
def signalsVector0 (code : Nat) : Bool :=
  (decide (0x0101 ≤ code) && decide (code ≤ 0x0105)) || (decide (0x0201 ≤ code) && decide (code ≤ 0x0205))

/-- A catalogue record of an event (R54 to R56, R409): to the global ring, its context's ring, the export copy, the sideband
when FATAL, and vector 0 where R409 names it. -/
def State.raiseWith (s : State) (code src : Nat) (ctx : Option Nat) (args : List Nat) (fatal vec0 : Bool) : State :=
  let s := s.exportLost
  let s := match ctx with
    | some c => if c = 0 then s else s.ctxRingLost c
    | none => s
  let p := s.generate code src ctx args fatal false
  let s := match ctx with
    | some c => if c = 0 then p.2 else p.2.forCtxRing c p.1
    | none => p.2
  let s := s.exportOne p.1
  let s := if fatal then { s with cur := { s.cur with messages := s.cur.messages ++ [p.1] } } else s
  if s.globalIrq && (fatal || vec0 || signalsVector0 code) then s.signalVector 0 else s

def State.raise (s : State) (code src : Nat) (ctx : Option Nat) (args : List Nat) : State :=
  s.raiseWith code src ctx args false false

/-- An event with a rate limit: raised when the last one of its key is at least `period` ns of fabric time ago; the argument
that `args` receives is the number of occurrences since the last record, this one included (log entry 97). -/
def State.raiseLimited (s : State) (unit period code src : Nat) (ctx : Option Nat) (args : Nat → List Nat) : State :=
  let key := code * 2 ^ 24 + unit
  match mget s.cat.limits key with
  | none => { s with cat := { s.cat with limits := mset s.cat.limits key (s.now, 0) } }.raise code src ctx (args 1)
  | some (t, n) =>
    if t + period ≤ s.now || s.now < t then
      { s with cat := { s.cat with limits := mset s.cat.limits key (s.now, 0) } }.raise code src ctx (args (n + 1))
    else { s with cat := { s.cat with limits := mset s.cat.limits key (t, n + 1) } }

/-! ### Progress, stalls and the start of an L0 reset -/

/-- A unit that keeps a progress counter, as RST_UNIT names one (R437, R466): SOURCE, physical core, engine. The copy path of a
command processor counts as its engine 0. -/
def unitKey (source : Nat) (core engine : Nat := 0xFF) : Nat := source * 2 ^ 16 + core * 2 ^ 8 + engine

/-- A unit's counter advanced by `n` on a context's behalf, which is the context's last progress (R437, R438). -/
def State.progress (s : State) (unit ctx : Nat) (n : Nat := 1) : State :=
  { s with rst := { s.rst with
      counters := mupd s.rst.counters unit 0 (wrapAdd 32 · n), progress := mset s.rst.progress ctx s.local_ } }

/-- A command processor's counter advanced (R437). -/
def State.cpProgress (s : State) (ctx ring : Nat) : State := s.progress (unitKey (srcCp ctx ring)) ctx

/-- The end of a unit's stall episode: its duration enters the sum (R268). -/
def State.stallOff (s : State) (u : StallUnit) : State :=
  match s.tier.episodes.find? (fun e => e.unit == u) with
  | none => s
  | some e =>
    { s with tier := { s.tier with
        episodes := s.tier.episodes.filter (fun x => x.unit != u)
        stalls := mupd s.tier.stalls (e.ctx * 16 + e.cause) (0, 0)
          (fun p => (p.1, wrapAdd 64 p.2 (s.local_ - e.since))) } }

/-- A unit that cannot proceed for a cause: an episode begins, or goes on; a change of cause ends one and begins the next
(R267; log entry 60). -/
def State.stallOn (s : State) (u : StallUnit) (ctx cause : Nat) : State :=
  if s.tier.episodes.any (fun e => e.unit == u && e.cause == cause) then s
  else
    let s := s.stallOff u
    { s with tier := { s.tier with
        episodes := s.tier.episodes ++ [⟨u, ctx, cause, s.local_, false⟩]
        stalls := mupd s.tier.stalls (ctx * 16 + cause) (0, 0) (fun p => (wrapAdd 64 p.1 1, p.2)) } }

/-- The start of an L0 reset of a context (R443 step 1): everything it runs stops, and its peg waits leave the wait table. A
reset that already runs absorbs the new one (R449). -/
def State.startL0 (s : State) (ctx cause : Nat) : State :=
  if mhas s.host.ctxs ctx && !s.inL0 ctx then
    { s with
      rst := { s.rst with l0 := mset s.rst.l0 ctx ⟨cause, s.local_, [], [], none⟩ }
      pegs := { s.pegs with waits := s.pegs.waits.filter (fun w => w.ctx != ctx) } }
  else s

/-! ### Uncorrectable reads (R208) -/

/-- A read that failed all its attempts: recorded, counted, reported, and the reader's context reset. `what` are the checks that
failed; a location that has failed before fails the same ones (R209). Reader code 8 is dealt with by the caller (R448). -/
def State.uncorrectable (s : State) (reader : Nat) (ctx : Option Nat) (line what : Nat) : State :=
  let pa := 64 * line
  let loc := s.hbm.locate pa
  let reset := match ctx with
    | some c => if reader = 7 || reader = 8 then none else some c
    | none => none
  let k := mgetD s.hbm.stackList loc.1 .reset
  let what := mgetD s.hbm.damaged line what
  let s := { s with hbm := { s.hbm with
    damaged := mset s.hbm.damaged line what
    uncorrLast := some (pa, reader, reset.getD 0)
    stackList := mset s.hbm.stackList loc.1 { k with uncorrectable := satAdd 16 k.uncorrectable 1 } } }
  let s := s.raise 0x0603 (srcStack loc.1) ctx
    [pa, reader + loc.1 * 2 ^ 8 + loc.2.1 * 2 ^ 12, reset.getD 0xFFFF, what]
  match reset with
  | some c => s.startL0 c 10
  | none => s

/-- The reads that are still to be reported (R208, R228). A context that is already being reset reads no ring. -/
def State.reportReads (s : State) : State :=
  s.hbm.unreported.foldl (fun s x =>
    if x.1 = 5 && s.inL0 x.2.1 then s else s.uncorrectable x.1 (some x.2.1) x.2.2 0)
    { s with hbm := { s.hbm with unreported := [] } }

/-- What leaving entries bring about at once (R226, R228). `before` are the entries that stood there. -/
def State.settleWc (s : State) (before : List WcEntry) : State := (s.leaveWc before).reportReads

/-- Slices written back and buffers drained of some stacks (R224). -/
def State.drainStacks (s : State) (stackList : List Nat) : State := ({ s with hbm := s.hbm.drain stackList }).settleWc s.hbm.wc

/-! ### Accesses by virtual address (R233, R236, R244) -/

/-- A resident page touched by an access that is performed (R241). -/
def State.touch (s : State) (ctx va : Nat) : State :=
  match walk s ctx (vpnOf va) with
  | .entry v =>
    if pteState v = 0 then
      match mget s.tier.frames (pteLocation v) with
      | some f => { s with tier := { s.tier with frames := mset s.tier.frames (pteLocation v) { f with touched := true } } }
      | none => s
    else s
  | _ => s

def State.touchAll (s : State) (ctx : Nat) (parts : List (Nat × Nat)) : State := parts.foldl (fun s p => s.touch ctx p.1) s

/-- The earlier of two deadlines, of which 0 is none. -/
def firstDeadline (a b : Nat) : Nat := if a = 0 then b else if b = 0 then a else min a b

/-- A walk that finds no translation reports why, where the manual has an event for it: a corrupt entry, a mode mismatch, a table
that cannot be read (R236, R200, R208). -/
def State.walkMet (s : State) (ctx va : Nat) : State :=
  match (if vaSpace va == 0 && vaMbz va then walk s ctx (vpnOf va) else .none) with
  | .corrupt level => s.raise 0x0405 (srcWalker ctx) (some ctx) [ctx, va, level]
  | .mismatch pa e g => s.raise 0x0609 (srcWalker ctx) (some ctx) [pa, e, g, ctx]
  | .unread line => s.uncorrectable 4 (some ctx) line 0
  | _ => s

/-- The walks of the pages of some stretches. -/
def State.walksMet (s : State) (ctx : Nat) (parts : List (Nat × Nat)) : State :=
  (parts.flatMap (fun x => pagesOf x.1 x.2)).foldl (fun s p => s.walkMet ctx p.1) s

/-- What an access that cannot be performed leaves (R244, R235, R200): an evicted page is to return, by the earliest deadline of
those who wait for it; a corrupt entry, a mode mismatch and a table that cannot be read are reported. -/
def State.miss (s : State) (ctx deadline va : Nat) : State :=
  match walk s ctx (vpnOf va) with
  | .entry v =>
    if s.tier.returns.any (fun r => r.ctx == ctx && r.page == vpnOf va) then
      { s with tier := { s.tier with returns := s.tier.returns.map (fun r =>
          if r.ctx == ctx && r.page == vpnOf va then { r with deadline := firstDeadline r.deadline deadline } else r) } }
    else if pteState v = 2 then
      { s with tier := { s.tier with
          returns := s.tier.returns ++ [⟨ctx, vpnOf va, s.local_, deadline, none, pteLocation v, 0, 0, none, false, false⟩] } }
    else s
  | _ => s.walkMet ctx va

/-- An access over some pages that is not performed. -/
def State.missAll (s : State) (ctx deadline : Nat) (parts : List (Nat × Nat)) : State :=
  parts.foldl (fun s p => s.miss ctx deadline p.1) s

/-- How an access by virtual address came out. -/
inductive Got (α : Type) where
  | ok (x : α)
  | wait (cause : Nat)
  | fault (code : Nat)
  | damaged (line : Nat)
  deriving DecidableEq, Repr

/-- The physical parts of a local stretch, where its stacks are ready as the access needs them: its pages are touched. Otherwise
what it lacks is asked for. -/
def State.partsWhen (s : State) (ready : HbmSt → List (Nat × Nat) → Bool) (ctx va n : Nat) (write : Bool) (who : Accessor)
    (deadline : Nat) : State × Got (List (Nat × Nat)) :=
  let pages := pagesOf va n
  if decide (vaSpace (va + n - 1) ≠ vaSpace va) && n != 0 then (s, .fault pfAddress)
  else
    match lookupAll s ctx write who pages with
    | .ok l => if ready s.hbm l then (s.touchAll ctx pages, .ok l) else (s, .wait 0)
    | .error (.fault c) => (s.missAll ctx deadline pages, .fault c)
    | .error _ => (s.missAll ctx deadline pages, .wait 3)

/-- The physical parts of a local stretch all of which can be accessed now. -/
def State.parts (s : State) (ctx va n : Nat) (write : Bool) (who : Accessor) (deadline : Nat) :
    State × Got (List (Nat × Nat)) :=
  s.partsWhen HbmSt.stacksReady ctx va n write who deadline

/-- Bytes read by a context from its local space. -/
def State.readVa (s : State) (ctx va n : Nat) (who : Accessor) (noalloc : Bool) (deadline : Nat) :
    State × Got (List Byte) :=
  match s.parts ctx va n false who deadline with
  | (s, .ok l) =>
    match l.findSome? (fun p => s.hbm.damagedIn p.1 p.2) with
    | some line => (s, .damaged line)
    | none => ({ s with hbm := readPartsDir s.hbm l noalloc }, .ok (peekParts s.hbm l))
  | (s, .wait c) => (s, .wait c)
  | (s, .fault c) => (s, .fault c)
  | (s, .damaged l) => (s, .damaged l)

/-- Bytes written by a context to its local space; `whole` where their issuer marks the writes whole (R221). -/
def State.writeVa (s : State) (ctx va : Nat) (bs : List Byte) (who : Accessor) (deadline : Nat) (whole : Bool := false) :
    State × Got Unit :=
  match s.parts ctx va bs.length true who deadline with
  | (s, .ok l) =>
    let h := if whole then writeWholes s.hbm ctx s.local_ l bs else writeParts s.hbm ctx s.local_ l bs
    (({ s with hbm := h }).settleWc s.hbm.wc, .ok ())
  | (s, .wait c) => (s, .wait c)
  | (s, .fault c) => (s, .fault c)
  | (s, .damaged l) => (s, .damaged l)

/-- The lines of an atomic access, when it can be made (R222): its parts, none of them damaged. -/
def State.reachVa (s : State) (ctx va n : Nat) (who : Accessor) (deadline : Nat) : State × Got (List (Nat × Nat)) :=
  match s.parts ctx va n true who deadline with
  | (s, .ok l) =>
    match l.findSome? (fun p => s.hbm.damagedIn p.1 p.2) with
    | some line => (s, .damaged line)
    | none => (s, .ok l)
  | (s, g) => (s, g)

/-- Bytes put by an atomic access over physical parts, line by line. -/
def State.atomicParts (s : State) (ctx : Nat) (parts : List (Nat × Nat)) (bs : List Byte) : State :=
  let lines := parts.flatMap (fun p => (linesOf p.1 p.2).map (fun l => (64 * l.1 + l.2.1, l.2.2)))
  { s with hbm := (lines.foldl (fun (r : HbmSt × List Byte) l =>
      (r.1.atomic ctx s.local_ l.1 (r.2.take l.2), r.2.drop l.2)) (s.hbm, bs)).1 }

/-! ### Destinations whose contents become undefined -/

/-- A stretch of a context's local memory whose contents the manual calls undefined: free values, where its pages are
resident. -/
def State.undefineVa (s : State) (ctx va n : Nat) : State :=
  (pagesOf va n).foldl (fun s p =>
    match (if vaSpace p.1 == 0 then walk s ctx (vpnOf p.1) else .none) with
    | .entry v =>
      if pteState v = 0 then
        let pa := pteLocation v * pageBytes + p.1 % pageBytes
        { s with freeCtr := s.freeCtr + 1, hbm := s.hbm.makeUndef pa (pa + p.2) s.freeCtr }
      else s
    | _ => s) s

end Sys2Proof.Machine
end

