-- ==== Sys2Proof/Machine/Operands.lean ====
section
/-! DEFINITION. The operand forms: registers, lanes, tile store and accumulator of a core (04_cores.md R96 to R122), loops
(05_core_programs.md R140, R141), and the fields of a stream descriptor (08_tiers_and_streams.md R251 to R253). -/

namespace Sys2Proof.Machine

/-! ### Registers (R96) -/

/-- X0 reads as zero. -/
def CoreSt.getX (c : CoreSt) (r : Nat) : W64 := if r = 0 then 0 else mgetD c.x r 0
/-- X0 ignores writes. -/
def CoreSt.setX (c : CoreSt) (r : Nat) (v : W64) : CoreSt := if r = 0 then c else { c with x := mset c.x r v }
def CoreSt.x32 (c : CoreSt) (r : Nat) : W32 := (c.getX r).setWidth 32
def CoreSt.getV (c : CoreSt) (r : Nat) : W512 := mgetD c.v r 0
def CoreSt.setV (c : CoreSt) (r : Nat) (v : W512) : CoreSt := { c with v := mset c.v r v }

/-- Lane `i` of a vector register, lane 0 lowest. -/
def lane (v : W512) (i : Nat) : W32 := (v >>> (32 * i)).setWidth 32
/-- A register from its lanes, lane 0 first. -/
def ofLanes (l : List W32) : W512 := BitVec.ofNat 512 (l.foldr (fun x a => x.toNat + 2 ^ 32 * a) 0)
def lanes (v : W512) : List W32 := (List.range 16).map (lane v)
def splat (x : W32) : W512 := ofLanes (List.replicate 16 x)

/-! ### Tile store and accumulator (R96, R102) -/

def tileBytes : Nat := 49152

def CoreSt.tsRead (c : CoreSt) (off n : Nat) : List Byte := memRead c.ts off n
def CoreSt.tsWrite (c : CoreSt) (off : Nat) (bs : List Byte) : CoreSt := { c with ts := memWrite c.ts off bs }
def CoreSt.tsWord (c : CoreSt) (off : Nat) : W32 := BitVec.ofNat 32 (leNat (c.tsRead off 4))

/-- Shape of an accumulator tile: rows, columns (R102). -/
def accShape (i : Nat) : Option (Nat × Nat) :=
  if i < 16 then some (16, 16) else if i < 24 then some (32, 16) else if i < 28 then some (32, 32) else none

/-- The quarters that a tile covers, and the place of an element: index 256·quarter + 16·row + column (R102). -/
def accQuarters (i : Nat) : List Nat :=
  if i < 16 then [i]
  else if i < 24 then [2 * (i - 16), 2 * (i - 16) + 1]
  else [4 * (i - 24), 4 * (i - 24) + 1, 4 * (i - 24) + 2, 4 * (i - 24) + 3]

def accPlace (i r c : Nat) : Nat :=
  let q :=
    if i < 16 then i
    else if i < 24 then 2 * (i - 16) + r / 16
    else 4 * (i - 24) + 2 * (r / 16) + c / 16
  256 * q + 16 * (r % 16) + c % 16

def CoreSt.getAcc (c : CoreSt) (p : Nat) : W32 := mgetD c.acc p 0
def CoreSt.setAcc (c : CoreSt) (p : Nat) (v : W32) : CoreSt :=
  { c with acc := if v = 0 then mdel c.acc p else mset c.acc p v }

/-- The class of the quarters of a tile: integer, float, or mixed (R103). -/
def CoreSt.tileClass (c : CoreSt) (i : Nat) : Option Bool :=
  let l := (accQuarters i).map (fun q => c.intQuarters.contains q)
  if l.all (· == true) then some true else if l.all (· == false) then some false else none

def CoreSt.setClass (c : CoreSt) (i : Nat) (int : Bool) : CoreSt :=
  let qs := accQuarters i
  let rest := c.intQuarters.filter (fun q => !qs.contains q)
  { c with intQuarters := if int then rest ++ qs else rest }

/-- Every (row, column) of a tile, row by row. -/
def tileCells (m n : Nat) : List (Nat × Nat) :=
  (List.range m).flatMap (fun r => (List.range n).map (fun c => (r, c)))

/-! ### Loops and the next index (R140, R141) -/

/-- Where execution goes after the instruction at `p`: the innermost active loop that ends there starts its next pass, or
ends and leaves the place to the loops around it. The list is innermost first (log entry 65). -/
def afterLoops (p : Nat) : List LoopSt → List LoopSt × Option (Nat × Nat × Nat)
  | [] => ([], none)
  | l :: r =>
    if l.last = p then
      if l.pass + 1 < l.count then ({ l with pass := l.pass + 1 } :: r, some (l.first, l.xd, l.pass + 1))
      else afterLoops p r
    else
      match afterLoops p r with
      | (r', some g) => (r', some g)
      | (r', none) => (l :: r', none)

/-- The core after the instruction at its index has completed without a jump. -/
def CoreSt.advanceFrom (c : CoreSt) (p : Nat) : CoreSt :=
  match afterLoops p c.loops with
  | (ls, some (first, xd, pass)) => { c with loops := ls, pc := first }.setX xd (BitVec.ofNat 64 pass)
  | (ls, none) => { c with loops := ls, pc := p + 1 }

def CoreSt.advance (c : CoreSt) : CoreSt := c.advanceFrom c.pc

/-- A taken branch: a loop whose body does not hold the target ends, with every loop inside it. -/
def keepLoops (t : Nat) : List LoopSt → List LoopSt
  | [] => []
  | l :: r =>
    let r' := keepLoops t r
    if r'.length = r.length && decide (l.first ≤ t) && decide (t ≤ l.last) then l :: r' else r'

def CoreSt.jump (c : CoreSt) (t : Nat) : CoreSt := { c with loops := keepLoops t c.loops, pc := t }

/-! ### Descriptors (R251, R252) -/

/-- The fields of a 64 B descriptor. -/
structure Desc where
  dataVa : Nat
  idxA : Nat
  idxB : Nat
  counts : Nat
  local_ : Nat
  deadline : Nat
  tagVa : Nat
  ctrl : Nat
  elemM1 : Nat
  poolLkind : Nat
  sigPeg : Nat
  tail : Nat
  deriving DecidableEq, Repr

def Desc.of (d : List Byte) : Desc :=
  ⟨fld d 0 8, fld d 8 8, fld d 16 8, fld d 24 8, fld d 32 8, fld d 40 8, fld d 48 8, fld d 56 2, fld d 58 1, fld d 59 1,
   fld d 60 2, fld d 62 2⟩

def Desc.imode (d : Desc) : Nat := bits d.ctrl 1 0
def Desc.dims (d : Desc) : Nat := bits d.ctrl 3 2 + 1
def Desc.scatter (d : Desc) : Bool := d.ctrl.testBit 4
def Desc.init (d : Desc) : Bool := d.ctrl.testBit 5
def Desc.pack (d : Desc) : Bool := d.ctrl.testBit 6
def Desc.noalloc (d : Desc) : Bool := d.ctrl.testBit 7
def Desc.whole (d : Desc) : Bool := d.ctrl.testBit 8
def Desc.tag (d : Desc) : Bool := d.ctrl.testBit 9
def Desc.lkind (d : Desc) : Nat := bits d.poolLkind 5 4
def Desc.pool (d : Desc) : Nat := bits d.poolLkind 3 0
def Desc.elemLen (d : Desc) : Nat := if d.pack then 4096 else d.elemM1 + 1
def Desc.count_ (d : Desc) (k : Nat) : Nat := bits d.counts (16 * k + 15) (16 * k)
def Desc.stride (d : Desc) (k : Nat) : Int :=
  let raw := if k < 2 then bits d.idxA (32 * k + 31) (32 * k) else bits d.idxB (32 * (k - 2) + 31) (32 * (k - 2))
  (BitVec.ofNat 32 raw).toInt

/-- The element count: the product of the used counts, or LIST_COUNT. -/
def Desc.count (d : Desc) : Nat :=
  if d.imode = 0 then (List.range d.dims).foldl (fun a k => a * d.count_ k) 1 else bits d.idxB 31 0

/-- Bytes on the local side, and its 64 B units (R252). -/
def Desc.bytes (d : Desc) : Nat := d.count * d.elemLen
def Desc.units (d : Desc) : Nat := (d.bytes + 63) / 64
/-- Width of a list index in bytes. -/
def Desc.idxBytes (d : Desc) : Nat := if d.imode = 1 then 4 else 8

/-- The offset of affine element `n`, index 0 fastest. -/
def Desc.affineOffset (d : Desc) (n : Nat) : Int :=
  ((List.range d.dims).foldl (fun (p : Nat × Int) k => (p.1 / d.count_ k, p.2 + (p.1 % d.count_ k : Nat) * d.stride k))
    (n, 0)).2

/-- Who runs a descriptor. -/
inductive Issuer where
  | stream | xfer | copy
  deriving DecidableEq, Repr

/-- R253, but for what concerns a cluster's pools: the descriptor is valid for its issuer. -/
def Desc.valid (d : Desc) (i : Issuer) : Bool :=
  let aligned := fun (m : Nat) =>
    d.dataVa % m == 0 && (d.imode != 0 || (List.range d.dims).all (fun k => d.stride k % (m : Int) == 0))
  bits d.ctrl 15 10 == 0 && bits d.poolLkind 7 6 == 0 && d.tail == 0 && d.imode != 3 && d.lkind != 3 &&
  (if d.imode = 0 then
     (List.range 4).all (fun k => if k < d.dims then d.count_ k != 0 else d.count_ k == 0)
   else d.counts == 0 && bits d.idxB 63 32 == 0 && d.count != 0 && d.idxA % d.idxBytes == 0) &&
  (match i with
   | .stream => d.lkind == 0 || d.lkind == 2
   | .xfer => d.lkind == 1
   | .copy => d.lkind == 2) &&
  (d.lkind == 0 || d.pool == 0) &&
  (i != .xfer || (!d.init && !d.pack && !d.tag && d.sigPeg == 0xFFFF)) &&
  (!d.init || (d.lkind == 0 && d.local_ % 64 == 0 && decide (1 ≤ bits d.local_ 47 32) && decide (bits d.local_ 47 32 ≤ 32768) &&
     decide (bits d.local_ 31 0 + 64 * bits d.local_ 47 32 ≤ 2097152))) &&
  (match d.lkind with
   | 0 => bits d.local_ 63 48 == 0 && (d.init || d.local_ == 0)
   | 1 => bits d.local_ 63 32 == 0 && decide (d.local_ + (if d.scatter then d.bytes else 64 * d.units) ≤ tileBytes)
   | _ => true) &&
  (!d.whole || (d.elemM1 == 255 && aligned 256 && (d.lkind == 0 || d.local_ % 256 == 0))) &&
  (if d.tag then d.tagVa % 8 == 0
   else if d.scatter && d.pack then d.tagVa % 64 == 0 else d.tagVa == 0) &&
  (!d.pack || (d.elemM1 == 255 && aligned 4096 && vaSpace d.dataVa == 0))

/-! ### What is outstanding on a core (R119, R122) -/

/-- Two stretches share a 64 B line. -/
def shareLine (a n b m : Nat) : Bool :=
  n != 0 && m != 0 && decide (a / 64 ≤ (b + m - 1) / 64) && decide (b / 64 ≤ (a + n - 1) / 64)

/-- R122: an incoming transfer targets a line of the stretch (pending). -/
def CoreSt.pendingIn (c : CoreSt) (off n : Nat) : Bool :=
  c.xfers.any (fun p => let d := Desc.of p.2.desc; !d.scatter && shareLine d.local_ (64 * d.units) off n) ||
  c.days.any (fun p => match p.2.op with
    | .get => shareLine p.2.ts p.2.len off n
    | _ => false)

/-- R122: an outgoing transfer has yet to read a line of the stretch (sourcing). -/
def CoreSt.sourcingIn (c : CoreSt) (off n : Nat) : Bool :=
  c.xfers.any (fun p => let d := Desc.of p.2.desc; d.scatter && !p.2.sent && shareLine d.local_ d.bytes off n) ||
  c.days.any (fun p => match p.2.op with
    | .put => !p.2.sent && shareLine p.2.ts p.2.len off n
    | _ => false)

/-- A stretch of the tile store can be read now. -/
def CoreSt.canRead (c : CoreSt) (off n : Nat) : Bool := !c.pendingIn off n
/-- A stretch of the tile store can be written now. -/
def CoreSt.canWrite (c : CoreSt) (off n : Nat) : Bool := !c.pendingIn off n && !c.sourcingIn off n

/-- A register that an outstanding atomic will write (R121). -/
def CoreSt.xBusy (c : CoreSt) (r : Nat) : Bool :=
  r != 0 && c.days.any (fun p => match p.2.op with
    | .atom x _ => x == r
    | .held _ x _ _ _ => x == r
    | _ => false)

/-! ### The order of a core's transfers (R262) -/

/-- Two sets of stretches of memory share a 64 B line. -/
def meetLines (a b : List (Nat × Nat)) : Bool := a.any (fun p => b.any (fun q => shareLine p.1 p.2 q.1 q.2))

/-- An outstanding transfer issued before `ord` has still to be performed on a line of the stretches (R262). One whose stretches
are not known yet counts as touching every line (log entry 108). -/
def CoreSt.before (c : CoreSt) (ord : Nat) (reach : List (Nat × Nat)) : Bool :=
  c.xfers.any (fun p => decide (p.2.ord < ord) && (match p.2.reach with
    | some l => meetLines l reach
    | none => true)) ||
  c.days.any (fun p => decide (p.2.ord < ord) && (match p.2.op with
    | .atom _ _ => false
    | _ => meetLines [(p.2.va.toNat, p.2.len)] reach))

/-! ### Reading cores and clusters out of the state -/

def State.cluster (s : State) (c : Nat) : Cluster := mgetD s.eng.clusters c .reset
def State.setCluster (s : State) (c : Nat) (x : Cluster) : State :=
  { s with eng := { s.eng with clusters := mset s.eng.clusters c x } }
def State.core (s : State) (k : CoreRef) : CoreSt := mgetD (s.cluster k.cluster.val).cores k.core.val .reset
def State.setCore (s : State) (k : CoreRef) (x : CoreSt) : State :=
  let c := s.cluster k.cluster.val
  s.setCluster k.cluster.val { c with cores := mset c.cores k.core.val x }

end Sys2Proof.Machine
end

