-- ==== Sys2Proof/Machine/Queue.lean ====
section
/-! DEFINITION. Completing commands and signalling pegs: completion records, interrupts and ring faults (13_host_link.md R402
to R409), the peg array and its waits (02_fabric_time.md R45 to R51, R512, R513). -/

namespace Sys2Proof.Machine

/-! ### Status codes used by more than one family -/

def stOk : Nat := 0
def stContextReset : Nat := 5
def stTornPacket : Nat := 4
def stProgFault : Nat := 0x0201
def stPegNotOwned : Nat := 0x0503
def stPegTimeout : Nat := 0x0505
def stPegRange : Nat := 0x0506
def stNotDriver : Nat := 0x0508

/-! ### Packets (R398) -/

def ringKey (ctx ring : Nat) : Nat := 4 * ctx + ring
def pkSeq (h : Nat) : Nat := bits h 63 42
def pkContext (h : Nat) : Nat := bits h 41 32
def pkFence (h : Nat) : Bool := h.testBit 25
def pkIrq (h : Nat) : Bool := h.testBit 24
def pkLength (h : Nat) : Nat := bits h 23 16
def pkOpcode (h : Nat) : Nat := bits h 15 0

def Taken.header (t : Taken) : Nat := fld t.packet 0 8
def Taken.opcode (t : Taken) : Nat := pkOpcode t.header
/-- A parameter: `n` bytes at byte `off` of the packet. -/
def Taken.par (t : Taken) (off n : Nat) : Nat := fld t.packet off n

def State.findTaken (s : State) (q : CmdRef) : Option Taken := s.host.taken.find? (fun t => t.q == q)
def State.dropTaken (s : State) (q : CmdRef) : State :=
  { s with host := { s.host with taken := s.host.taken.filter (fun t => t.q != q) } }
/-- A command marked as started: it completes by a later row. -/
def State.startTaken (s : State) (q : CmdRef) : State :=
  { s with host := { s.host with
      taken := replaceFirst (fun t => t.q == q) (fun t => { t with started := true }) s.host.taken } }

def State.ring? (s : State) (ctx ring : Nat) : Option Ring := mget s.host.rings (ringKey ctx ring)
def State.setRing (s : State) (ctx ring : Nat) (r : Ring) : State :=
  { s with host := { s.host with rings := mset s.host.rings (ringKey ctx ring) r } }

/-! ### Completion records (R406 to R409) -/

/-- The 32 bytes of record `n` of a completion ring (R406, R407). -/
def completionBytes (n entries seq status r0 r1 time : Nat) : List Byte :=
  let phase := if n / entries % 2 = 0 then 1 else 0
  let valid := phase * 2 ^ 63 + (2 ^ 22 - 1 - seq % 2 ^ 22) * 2 ^ 38 + seq % 2 ^ 22 * 2 ^ 16 + status % 2 ^ 16
  leBytes 8 r0 ++ leBytes 8 r1 ++ leBytes 8 time ++ leBytes 8 valid

/-- A ring's interrupt sent: its pending count is cleared (R409). -/
def State.signalRing (s : State) (ctx ring : Nat) : State :=
  match s.ring? ctx ring with
  | none => s
  | some r => (s.setRing ctx ring { r with irqPending := 0, irqSince := none }).signalVector r.vector

/-- A ring fault (R402): the taking of packets stops on every ring of the context. -/
def State.faultRing (s : State) (ctx ring status seq : Nat) : State :=
  match s.ring? ctx ring, mget s.host.ctxs ctx with
  | some r, some c =>
    let s := s.setRing ctx ring { r with faulted := true }
    let s := { s with host := { s.host with ctxs := mset s.host.ctxs ctx { c with faulted := true } } }
    s.raise 0x0201 (srcCp ctx ring) (some ctx) [ctx, ring, status, seq]
  | _, _ => s

/-- A completion record written in two writes (R407), its interrupt counted (R409), and the ring faulted where the status does so (R402). -/
def State.writeRecord (s : State) (ctx ring seq status r0 r1 : Nat) (irq : Bool) : State :=
  match s.ring? ctx ring with
  | none => s
  | some r =>
    let n := r.cqTail.toNat
    let iova := r.cqIova + 32 * (n % r.cqEntries)
    let pending := if irq then r.irqPending + 1 else r.irqPending
    let since := if irq && r.irqPending = 0 then some s.local_ else r.irqSince
    let s := s.setRing ctx ring { r with cqTail := r.cqTail + 1, irqPending := pending, irqSince := since }
    let b := completionBytes n r.cqEntries seq status r0 r1 s.now
    let s := ((s.toHost (.completion ctx ring n iova (b.take 24))).toHost (.completion ctx ring n (iova + 24) (b.drop 24))).cpProgress ctx ring
    if status = stProgFault || status = stTornPacket then (s.faultRing ctx ring status seq).signalRing ctx ring
    else if irq && r.coalCount ≤ pending then s.signalRing ctx ring
    else s

/-- A taken command completes (R405 to R407). -/
def State.complete (s : State) (q : CmdRef) (status r0 r1 : Nat) : State :=
  match s.findTaken q with
  | none => s
  | some t =>
    ((s.dropTaken q).stallOff (.cmd q)).writeRecord q.ctx.val q.ring.val q.seq.toNat status r0 r1 (pkIrq t.header)

/-- Result word 1 (and 2) of a command that ends before its work: no failing record (R310), no awaited rank (R385), no failing
lane (07_hbm.md). -/
def bareWord (opcode : Nat) : Nat :=
  if opcode = 0x0400 ∨ opcode = 0x0500 then 2 ^ 64 - 2 ^ 32
  else if opcode = 0x0182 then 2 ^ 32 - 1
  else 0

/-- A taken command ends before its work. -/
def State.completeBare (s : State) (q : CmdRef) (status : Nat) : State :=
  s.complete q status 0 (bareWord (((s.findTaken q).map Taken.opcode).getD 0))

/-! ### The peg array (R45 to R48) -/

def pegCount : Nat := 16384

def State.pegOwned (s : State) (ctx i : Nat) : Bool :=
  match mget s.pegs.pegs i with
  | some p => p.owner == ctx
  | none => false

def Wait.met (w : Wait) (v : W64) : Bool := if w.eq then v == w.operand else decide (w.operand.toNat ≤ v.toNat)

/-- The physical core behind a logical one (R17, R130). -/
def State.physCore (s : State) (cluster logical : Nat) : Nat := mgetD s.rst.repair.coreMap (128 * cluster + logical) logical

/-- An instruction of a core completed by its engine, 0 matrix, 1 vector, 2 load/store (R437). -/
def State.engineProgress (s : State) (k : CoreRef) (engine : Nat) : State :=
  s.progress (unitKey (srcCluster k.cluster.val) (s.physCore k.cluster.val k.core.val) engine)
    ((s.cluster k.cluster.val).holder.getD 0)

/-- A core's peg wait ends: XRET receives the value and the core goes on (R162). -/
def State.endCoreWait (s : State) (k : CoreRef) (v : W64) : State :=
  let c := s.core k
  match c.wait with
  | some (.peg xret) =>
    ((s.setCore k ({ c with wait := none }.setX xret v).advance).stallOff (.core k)).engineProgress k 2
  | _ => s

/-- A wait satisfied by a value. -/
def State.satisfy (s : State) (w : Wait) (v : W64) : State :=
  match w.who with
  | .cmd q => s.complete q stOk v.toNat 0
  | .prog k => s.endCoreWait k v
  | .launch q =>
    { s with eng := { s.eng with
        launches := replaceFirst (fun l => l.q == q) (fun l => { l with pegMet := true }) s.eng.launches } }
  | .coll q =>
    { s with coll := { s.coll with queued := replaceFirst (fun c => c.q == q) (fun c => { c with pegMet := true }) s.coll.queued } }

/-- A deadline has passed: time is set and exceeds it (R38, R511; log entry 84). -/
def State.timePassed (s : State) (t : Nat) : Bool := s.time.state != .unset && t != 0 && decide (t < s.now)

/-- A peg takes a value: every wait on it that the value meets while fabric time is at or below the wait's timeout is satisfied, in
the order of the table (R47, R48). -/
def State.pegTake (s : State) (i : Nat) (v : W64) : State :=
  let hit := fun (w : Wait) => w.peg == i && w.met v && !s.timePassed w.timeout
  let met := s.pegs.waits.filter hit
  let s := { s with pegs := { s.pegs with
      pegs := (match mget s.pegs.pegs i with
        | some p => mset s.pegs.pegs i { p with value := v }
        | none => s.pegs.pegs)
      waits := s.pegs.waits.filter (fun w => !hit w) } }
  met.foldl (fun s w => s.satisfy w v) s

/-- Signal-add to an allocated local peg (R46); a wrap raises EV_PEG_WRAP. -/
def State.pegAdd (s : State) (i : Nat) (a : W64) : State :=
  match mget s.pegs.pegs i with
  | none => s
  | some p =>
    let v := p.value + a
    let s := if v.toNat < p.value.toNat then s.raise 0x0A08 srcTime (some p.owner) [i, v.toNat] else s
    s.pegTake i v

/-- The completion signal of a piece of work (R512). -/
def State.completionSignal (s : State) (ctx peg : Nat) (addend : W64) (unit : Nat) : State :=
  if peg < pegCount && s.pegOwned ctx peg then s.pegAdd peg addend
  else s.raise 0x0A0C srcTime (some ctx) [peg, ctx, unit]

/-- A new wait reaches the peg array (R47, R48, R49, R511): met at once, timed out at once, or entered in the table. The
answer says whether the wait table was full. -/
inductive WaitStart where
  | met (v : W64)
  | late (v : W64)
  | entered
  | full
  deriving DecidableEq, Repr

def State.startWait (s : State) (w : Wait) : State × WaitStart :=
  let v := ((mget s.pegs.pegs w.peg).map (·.value)).getD 0
  if w.met v then (s, .met v)
  else if s.timePassed w.timeout then (s.raise 0x0A07 srcTime (some w.ctx) [w.peg, v.toNat], .late v)
  else if Config.waitEntries ≤ s.pegs.waits.length then (s, .full)
  else ({ s with pegs := { s.pegs with waits := s.pegs.waits ++ [w] } }, .entered)

/-! ### Performing a packet row -/

/-- The first command of a ring, in the order of taking, whose turn has not come. -/
def State.nextTurn (s : State) (q : CmdRef) : Option CmdRef :=
  (s.host.taken.find? (fun t => t.q.ctx == q.ctx && t.q.ring == q.ring && !t.begun)).map (·.q)

/-- A packet row acts on a taken command of its opcode that has not started, in the order of its ring (R401), while the context
is not being reset (log entry 1). -/
def State.perform (s : State) (q : CmdRef) (opcode : Nat) (f : State → Taken → State) : State :=
  match s.findTaken q with
  | some t =>
    if s.alive && t.opcode = opcode && !t.started && !s.inL0 q.ctx.val && (t.begun || s.nextTurn q == some q) then
      f { s with host := { s.host with
          taken := replaceFirst (fun t => t.q == q) (fun t => { t with begun := true }) s.host.taken } } t
    else s
  | none => s

end Sys2Proof.Machine
end

