-- ==== Sys2Proof/Machine/Program.lean ====
section
/-! DEFINITION. How a core program runs (05_core_programs.md R136, R137, R165 to R168): fetching the word at a core's index,
the checks at issue, completing an instruction, program faults, memory errors (R133). -/

namespace Sys2Proof.Machine

/-! ### Fault codes (R167) -/

def pfOpcode : Nat := 0x01
def pfField : Nat := 0x02
def pfPc : Nat := 0x03
def pfFormat : Nat := 0x04
def pfAcc : Nat := 0x05
def pfPlacement : Nat := 0x06
def pfRounding : Nat := 0x07
def pfScale : Nat := 0x08
def pfBlockShape : Nat := 0x09
def pfAct : Nat := 0x0A
def pfScan : Nat := 0x0B
def pfLoop : Nat := 0x0C
def pfSpr : Nat := 0x0D
def pfTransfer : Nat := 0x0E
def pfDescriptor : Nat := 0x0F
def pfPeg : Nat := 0x12
def pfPegTimeout : Nat := 0x13

/-! ### The instruction word (R136) -/

def wClass (w : Nat) : Nat := bits w 3 0
def wOp (w : Nat) : Nat := bits w 11 4

/-- Operations that are not reserved, by class. -/
def opDefined (cls op : Nat) : Bool :=
  match cls with
  | 0x0 => decide (op ≤ 0x0E)
  | 0x1 => op == 0
  | 0x3 => decide (op ≤ 3)
  | 0x4 => decide (op ≤ 0x0C) || (decide (0x10 ≤ op) && decide (op ≤ 0x1A)) || (decide (0x20 ≤ op) && decide (op ≤ 0x2A)) ||
      (decide (0x30 ≤ op) && decide (op ≤ 0x33))
  | 0x5 => op == 0
  | 0x6 => decide (op ≤ 6)
  | 0x7 => decide (op ≤ 3)
  | 0x8 => op == 0
  | 0x9 => decide (op ≤ 3)
  | 0xA => decide (op ≤ 4)
  | 0xB => decide (op ≤ 2)
  | _ => false

/-- The word with the listed fields, class and operation cleared (log entry 64). -/
def unusedBits (w : Nat) (used : List (Nat × Nat)) : W128 :=
  BitVec.ofNat 128 w &&& ~~~(((11, 0) :: used).foldl (fun m f => m ||| BitVec.ofNat 128 ((2 ^ (f.1 + 1 - f.2) - 1) * 2 ^ f.2)) 0)

/-- R137: every bit that is no used field is zero. -/
def reservedClear (w : Nat) (used : List (Nat × Nat)) : Bool := unusedBits w used == 0

/-- An instruction about to issue: its core, the cluster, the core's state, the word, the context. -/
structure Issue where
  k : CoreRef
  cl : Cluster
  core : CoreSt
  w : Nat
  ctx : Nat
  deriving DecidableEq, Repr

/-! ### Elements (R252) -/

/-- The address of element `n`, with the address to report when it faults. -/
def State.elemVa (s : State) (ctx : Nat) (d : Desc) (who : Accessor) (n : Nat) : State × Got Nat × Nat :=
  let check := fun (s : State) (a : Int) =>
    let v := a.toNat
    if a < 0 ∨ 2 ^ 64 ≤ a ∨ vaSpace v ≠ vaSpace d.dataVa ∨ (v + d.elemLen - 1) / pageBytes ≠ v / pageBytes then
      (s, .fault pfAddress, v % 2 ^ 64)
    else (s, .ok v, v)
  if d.imode = 0 then check s (d.dataVa + d.affineOffset n)
  else
    let lva := d.idxA + n * d.idxBytes
    match s.readVa ctx lva d.idxBytes who false d.deadline with
    | (s, .ok b) => check s ((d.dataVa + leNat b * d.elemLen : Nat) : Int)
    | (s, .wait c) => (s, .wait c, lva)
    | (s, .fault c) => (s, .fault c, lva)
    | (s, .damaged l) => (s, .damaged l, lva)

/-- The destination of the units of a scatter transfer that have not landed becomes undefined (R165, R443). -/
def State.undefineUnits (s : State) (ctx : Nat) (d : Desc) (who : Accessor) (units : List Nat) : State :=
  units.foldl (fun s u =>
    let lo := 64 * u
    let hi := min d.bytes (64 * u + 64)
    ((List.range ((hi + d.elemLen - 1) / d.elemLen - lo / d.elemLen)).map (lo / d.elemLen + ·)).foldl (fun s n =>
      match (s.elemVa ctx d who n).2.1 with
      | .ok a =>
        let b := max lo (n * d.elemLen)
        let e := min hi ((n + 1) * d.elemLen)
        s.undefineVa ctx (a + (b - n * d.elemLen)) (e - b)
      | _ => s) s) s

/-- The same for the destination of either direction: a gather's is its local side, where that is memory (log entry 61). -/
def State.undefineTarget (s : State) (ctx : Nat) (d : Desc) (who : Accessor) (units : List Nat) : State :=
  if d.scatter then s.undefineUnits ctx d who units
  else if d.lkind = 2 then units.foldl (fun s u => s.undefineVa ctx (d.local_ + 64 * u) (min 64 (d.bytes - 64 * u))) s
  else s

/-- The units of a stream that have not landed. -/
def Stream.open_ (x : Stream) : List Nat :=
  ((List.range ((Desc.of x.desc).units - x.landed)).map (x.landed + ·)).filter (fun u => !x.ahead.contains u)

/-! ### Program faults (R165, R166) -/

def State.launch? (s : State) (q : CmdRef) : Option Launch := s.eng.launches.find? (fun l => l.q == q)
def State.setLaunch (s : State) (q : CmdRef) (f : Launch → Launch) : State :=
  { s with eng := { s.eng with launches := replaceFirst (fun l => l.q == q) f s.eng.launches } }

/-- The writes of some cores to the cluster buffer become visible to every core (R123, R129). -/
def Cluster.publish (c : Cluster) (who : Nat → Bool) : Cluster :=
  { c with buf := (c.hidden.filter (fun w => who w.core)).foldl (fun m w => memWrite m w.at_ w.bytes) c.buf
           hidden := c.hidden.filter (fun w => !who w.core) }

/-- The cluster buffer as one core sees it: with its own writes (R120, R123). -/
def Cluster.bufOf (c : Cluster) (core : Nat) : Mem :=
  (c.hidden.filter (fun w => w.core == core)).foldl (fun m w => memWrite m w.at_ w.bytes) c.buf

/-- A core's writes to the cluster buffer made visible, by a peg operation or by the end of its program (R123). -/
def State.publish (s : State) (k : CoreRef) : State :=
  s.setCluster k.cluster.val ((s.cluster k.cluster.val).publish (· == k.core.val))

/-- A cluster whose program was stopped: cores stand, scans and streams end, rows of an epilogue that were not sent are
discarded, what was issued drains (R165). -/
def Cluster.stopProgram (c : Cluster) : Cluster :=
  { c.publish (fun _ => true) with
      state := .draining, scans := [], streams := []
      cores := c.cores.map (fun p => (p.1, { p.2 with wait := none, ended := true, rows := [] })) }

/-- The streams of a cluster stop: what they have not delivered is undefined (R165). -/
def State.stopStreams (s : State) (ctx c : Nat) : State :=
  let s := (s.cluster c).streams.foldl (fun s x =>
    let d := Desc.of x.2.desc
    s.undefineTarget ctx d (.program d.pack) x.2.open_) s
  s.setCluster c { s.cluster c with streams := [] }

/-- A launch stopped before its end: its clusters drain, and streams of those that drained already stop; its cores' peg waits are
removed, and it will complete with a status. A launch that was stopped already keeps its first status. -/
def State.stopLaunch (s : State) (q : CmdRef) (status : Nat) (result1 : W64) : State :=
  match s.launch? q with
  | none => s
  | some l =>
    if l.phase = .running && l.stop.isNone then
      let mine := l.set.filter (fun c => (s.cluster c).launch == some q)
      let s := mine.foldl (fun s c =>
        let s := s.stopStreams q.ctx.val c
        if (s.cluster c).state = .running then s.setCluster c (s.cluster c).stopProgram else s) s
      let s := { s with pegs := { s.pegs with waits := s.pegs.waits.filter (fun w =>
        match w.who with
        | .prog k => !l.set.contains k.cluster.val
        | _ => true) } }
      s.setLaunch q (fun l => { l with stop := some status, result1 := result1 })
    else s

/-- A core faults (R165, R166): the cluster's fault is reported, the last fault registered, the launch stops. `cores` is the
number of cores of the cluster that fault with it. -/
def State.progFault (s : State) (k : CoreRef) (code pc : Nat) (addr : Nat) (cores : Nat) : State :=
  let c := k.cluster.val
  let cl := s.cluster c
  let ctx := cl.holder.getD 0
  let s := s.setCluster c { cl with fault := some ⟨code, pc, k.core.val, BitVec.ofNat 64 addr, cores⟩ }
  let s := { s with eng := { s.eng with faultLast := some (code, pc % 1024, k.core.val, c, ctx) } }
  let s := s.raise 0x0305 (srcCluster c) (some ctx)
    [c, code + (pc % 1024) * 2 ^ 8 + k.core.val * 2 ^ 18, addr, cores]
  match cl.launch with
  | some q => s.stopLaunch q stProgFault
      (BitVec.ofNat 64 (ctx + c * 2 ^ 10 + k.core.val * 2 ^ 19 + (pc % 1024) * 2 ^ 26 + code * 2 ^ 38))
  | none => s

/-- A fault reported against the instruction that issued a transfer, once its program has gone on (R165, R167): also while its
cluster drains, where no fault of the cluster came before it (R166). -/
def State.lateFault (s : State) (k : CoreRef) (code pc addr : Nat) : State :=
  let cl := s.cluster k.cluster.val
  if (cl.state == .running || cl.state == .draining) && cl.fault.isNone then s.progFault k code pc addr 1 else s

/-- A program fault is reported for one core, since the cores issue one at a time (log entry 100). -/
def Issue.fault (i : Issue) (s : State) (code : Nat) : State := s.progFault i.k code i.core.pc 0 1
def Issue.faultAt (i : Issue) (s : State) (code addr : Nat) : State := s.progFault i.k code i.core.pc addr 1

/-- The tile-store address of the first operand (address, length, alignment) that is misaligned or leaves the tile store. -/
def badPlace (l : List (Nat × Nat × Nat)) : Nat :=
  ((l.find? (fun x => x.1 % x.2.2 != 0 || decide (tileBytes < x.1 + x.2.1))).map (·.1)).getD 0

/-- The engine that runs a class (R136): 0 matrix, with the epilogue behind it, 1 vector, 2 load/store; none for the sequencer
(R437; log entry 124). -/
def engineOf (cls : Nat) : Option Nat :=
  match cls with
  | 0x1 | 0x3 | 0xB => some 0
  | 0x4 | 0x5 | 0x8 => some 1
  | 0x6 | 0x7 | 0x9 => some 2
  | _ => none

/-- The counter of an instruction's engine advances; the sequencer has none (R437). -/
def Issue.counted (i : Issue) (s : State) : State :=
  match engineOf (wClass i.w) with
  | some e => s.progress (unitKey (srcCluster i.k.cluster.val) (s.physCore i.k.cluster.val i.k.core.val) e) i.ctx
  | none => s

/-- The instruction has completed; the core's new index is already in `c`. -/
def Issue.jumped (i : Issue) (s : State) (c : CoreSt) : State := i.counted ((s.setCore i.k c).stallOff (.core i.k))

/-- The instruction completes with the core as given: the index moves on. -/
def Issue.done (i : Issue) (s : State) (c : CoreSt) : State := i.jumped s c.advance

/-- The instruction waits: the core's stall goes on under a cause (R267). -/
def Issue.stall (i : Issue) (s : State) (cause : Nat) : State := s.stallOn (.core i.k) i.ctx cause

/-- The cause that a transfer which has met no obstacle counts under: the tier of its data (R267; log entry 74). -/
def tierCause (va : Nat) : Nat :=
  match vaSpace va with
  | 1 => 1
  | 2 => 2
  | _ => 0

/-- The cause that a core's wait on its outstanding transfers takes: that of the oldest one (R267). -/
def CoreSt.transferCause (c : CoreSt) : Nat :=
  let l := c.xfers.map (fun p => (p.2.ord, p.2.cause.getD (tierCause (Desc.of p.2.desc).dataVa))) ++
    c.days.map (fun p => (p.2.ord, p.2.cause.getD (tierCause p.2.va.toNat)))
  match l with
  | [] => 0
  | x :: r => (r.foldl (fun a b => if b.1 < a.1 then b else a) x).2

def Issue.hazard (i : Issue) (s : State) : State := i.stall s i.core.transferCause

/-! ### Memory errors (R133) -/

/-- A read of a protected memory: corrected errors are counted and reported; an uncorrectable one, which any wrong bit of a
register file is, stops the read, resets the owner's context, and gives the core or bank to test and repair (log entry 109).
`place` is the physical core, or the bank of the cluster buffer; `lo` and `n` count 64-bit words (log entry 96). -/
def State.sramRead (s : State) (cluster place memory lo n ctx : Nat) : State × Bool :=
  let hit := s.eng.flips.filter (fun f =>
    f.cluster == cluster && f.core == place && f.memory == memory && decide (lo ≤ f.word) && decide (f.word < lo + n))
  match hit.find? (fun f => f.double || memory == 3) with
  | some f =>
    let s := { s with eng := { s.eng with sramUncorrectable := satAdd 32 s.eng.sramUncorrectable 1 } }
    let s := { s with rst := { s.rst with repair := { s.rst.repair with
      given := (cluster, place, memory) :: s.rst.repair.given.filter (· != (cluster, place, memory)) } } }
    let s := s.raise 0x0302 (srcCluster cluster) (some ctx) [cluster, place * 2 ^ 8 + memory, f.word, ctx]
    (s.startL0 ctx 10, false)
  | none =>
    let fix := fun (s : State) (f : Flip) =>
      let s := { s with eng := { s.eng with
        flips := s.eng.flips.filter (fun g => g != f), sramCorrected := satAdd 32 s.eng.sramCorrected 1 } }
      s.raiseLimited cluster 1000000 0x0301 (srcCluster cluster) (some ctx)
        (fun m => [cluster, place * 2 ^ 8 + memory, f.word, m])
    (hit.foldl fix s, true)

/-- The registers that an instruction of class 0x4 reads: VA, VB unless BSC is set, VC, XS. -/
def vectorSources (w : Nat) : List Nat × List Nat :=
  let op := wOp w
  let bsc := w.testBit 37
  let two := decide (op ≤ 0x06) || op == 0x08 || op == 0x09 || (decide (0x10 ≤ op) && decide (op ≤ 0x1A))
  (if (two && bsc) || (decide (0x30 ≤ op) && decide (op ≤ 0x32)) then [bits w 36 32] else [],
   (if op = 0x30 ∨ op = 0x32 then [] else [bits w 21 17]) ++ (if two && !bsc then [bits w 26 22] else []) ++
     (if op = 0x03 ∨ op = 0x09 then [bits w 31 27] else []))

/-- The scalar and vector registers that an instruction of a core reads (R139, R140, R152 to R164). -/
def sourceRegs (core w : Nat) : List Nat × List Nat :=
  let op := wOp w
  match wClass w with
  | 0x0 =>
    (if op = 0x0B ∨ op = 0x0E then []
     else if op = 0x0D ∨ (op ≤ 0x0A ∧ w.testBit 27 = false) then [bits w 21 17, bits w 26 22] else [bits w 21 17], [])
  | 0x1 => (if ((Fmt.ofCode (bits w 24 21)).map Fmt.isSb).getD false then [bits w 90 86, bits w 95 91] else [], [])
  | 0x3 =>
    (if op ≠ 0 then []
     else
       let sb := ((Fmt.ofCode (bits w 37 34)).map Fmt.isSb).getD false
       (if bits w 19 18 = 0 then [] else [bits w 72 68]) ++ (if sb then [bits w 72 68 + 1] else []) ++
         (if bits w 21 20 = 0 then [] else [bits w 77 73]) ++
         (if w.testBit 43 then (List.range (if sb then 4 else 2)).map (bits w 92 88 + ·) else []) ++
         (if bits w 39 38 = 2 ∨ w.testBit 42 then [bits w 82 78, bits w 82 78 + 1, bits w 82 78 + 2, bits w 87 83] else []), [])
  | 0x4 => vectorSources w
  | 0x5 =>
    let sb := fun (f : Nat) => ((Fmt.ofCode f).map Fmt.isSb).getD false
    let n := if sb (bits w 15 12) && sb (bits w 19 16) then 4 else if sb (bits w 15 12) || sb (bits w 19 16) then 2 else 0
    ([bits w 33 29, bits w 38 34, bits w 43 39, bits w 48 44, bits w 53 49] ++ (List.range n).map (bits w 58 54 + ·), [])
  | 0x6 =>
    (if op = 3 ∨ op = 4 then [bits w 41 37, bits w 36 32] else if op = 5 ∨ op = 6 then [bits w 36 32] else [], [])
  | 0x7 =>
    (if op = 3 then []
     else if op ≠ 2 ∨ bits w 48 45 = 0xD then [bits w 16 12]
     else [bits w 16 12, bits w 54 50] ++ (if bits w 48 45 = 0xC then [bits w 54 50 + 1] else []), [])
  | 0x8 =>
    ([], (if bits w 15 12 = 0 then [bits w 20 16] else []) ++
      (if 4 ≤ bits w 15 12 then [] else bits w 25 21 :: (if core = 0 then [bits w 30 26] else [])))
  | 0x9 => (if op ≤ 1 then [bits w 16 12, bits w 21 17] else [bits w 16 12, bits w 21 17, bits w 26 22], [])
  | 0xA =>
    (if op = 1 then (if w.testBit 25 then [bits w 16 12] else [bits w 16 12, bits w 21 17])
     else if op = 2 ∧ w.testBit 41 then [bits w 16 12] else [], [])
  | 0xB => (if op = 0 then [bits w 18 14, bits w 23 19] else [], if op = 2 then [bits w 28 24] else [])
  | _ => ([], [])

/-- The accumulator quarters that an instruction reads: EPI, ACC_READ, and MMA without ZERO. -/
def sourceQuarters (w : Nat) : List Nat :=
  if (wClass w = 0x3 ∧ wOp w ≤ 1) ∨ (wClass w = 0x1 ∧ w.testBit 17 = false) then accQuarters (bits w 16 12) else []

/-- The stretches of protected memories, in 64-bit words, that the issue of an instruction reads: its own word, its registers
(V0 to V31 before X0 to X31; log entry 109) and its accumulator quarters. -/
def issueWords (core w pc : Nat) : List (Nat × Nat × Nat) :=
  (2, 2 * pc, 2) :: (sourceRegs core w).1.map (fun r => (3, 256 + r, 1)) ++ (sourceRegs core w).2.map (fun r => (3, 8 * r, 8)) ++
    (sourceQuarters w).map (fun q => (1, 128 * q, 128))

/-- What the issue of an instruction reads is checked (R133). -/
def State.issueReads (s : State) (i : Issue) : State × Bool :=
  if s.eng.flips.isEmpty then (s, true)
  else
    (issueWords i.k.core.val i.w i.core.pc).foldl (fun r x =>
      if r.2 then r.1.sramRead i.k.cluster.val (s.physCore i.k.cluster.val i.k.core.val) x.1 x.2.1 x.2.2 i.ctx else r) (s, true)

/-! ### Issue (R137) -/

/-- The instruction at a core's index, when the core can issue: its cluster runs a program, the core has not ended and does
not wait, and its context is not being reset. -/
def State.issue? (s : State) (k : CoreRef) : Option Issue :=
  let cl := s.cluster k.cluster.val
  let c := s.core k
  let ctx := cl.holder.getD 0
  if s.alive && cl.state == .running && !c.ended && c.wait.isNone && !s.inL0 ctx then
    some ⟨k, cl, c, (cl.image.getD c.pc 0).toNat, ctx⟩
  else none

/-- A core-instruction row: the word at the core's index, when it is of this class and operation. An index beyond the image,
a reserved class or operation, and a reserved bit end in their program faults whichever row names the core (log entry 63). -/
def State.issueRow (s : State) (k : CoreRef) (cls op : Nat) (used : Nat → List (Nat × Nat)) (f : State → Issue → State) : State :=
  match s.issue? k with
  | none => s
  | some i =>
    if i.cl.image.length ≤ i.core.pc then i.fault s pfPc
    else if !opDefined (wClass i.w) (wOp i.w) then i.fault s pfOpcode
    else if wClass i.w ≠ cls ∨ wOp i.w ≠ op then s
    else if !reservedClear i.w (used i.w) then i.fault s pfField
    else
      let r := s.issueReads i
      if r.2 then f r.1 i else r.1

/-! ### Accesses to the tile store and the registers -/

/-- A tile-store read by an instruction: the stretch is free of pending lines and its words read well. -/
def Issue.reading (i : Issue) (s : State) (off n : Nat) (f : State → State) : State :=
  if !i.core.canRead off n then i.hazard s
  else
    let r := s.sramRead i.k.cluster.val (s.physCore i.k.cluster.val i.k.core.val) 0 (off / 8) ((n + 7) / 8) i.ctx
    if r.2 then f r.1 else r.1

/-- A tile-store write by an instruction waits for pending and sourcing lines (R122). -/
def Issue.writing (i : Issue) (s : State) (off n : Nat) (f : State → State) : State :=
  if i.core.canWrite off n then f s else i.hazard s

/-- Registers that an outstanding atomic will write make the instruction wait (R121). -/
def Issue.regs (i : Issue) (s : State) (rs : List Nat) (f : State → State) : State :=
  if rs.any i.core.xBusy then i.hazard s else f s

end Sys2Proof.Machine
end

