-- ==== Sys2Proof/Machine/Transport.lean ====
section
/-! DEFINITION. How blocks travel (11_guylines.md R326 to R346): building a block, choosing a port, the end-to-end store, the
port queues under the slot plan (02_fabric_time.md R39 to R44), flits and frames. -/

namespace Sys2Proof.Machine

/-! ### Ports -/

def State.port (s : State) (p : Nat) : PortSt := mgetD s.guy.ports p .reset
def State.setPort (s : State) (p : Nat) (x : PortSt) : State :=
  { s with guy := { s.guy with ports := mset s.guy.ports p x } }

def PortState.code : PortState → Nat
  | .disabled => 0 | .down => 1 | .training => 2 | .up => 3 | .lpi => 4 | .failed => 5

def PortSt.direct (x : PortSt) : Bool := x.mode == 1
def PortSt.switched (x : PortSt) : Bool := x.mode == 2
/-- A port that carries traffic: UP, or in low-power idle and still trained (R349). -/
def PortSt.usable (x : PortSt) : Bool := x.state == .up || x.state == .lpi

/-- The slot and port that a direct port reaches on its board (R328). -/
def wiring (sizeCode b p : Nat) : Option (Nat × Nat) :=
  match sizeCode with
  | 1 => if p < 4 then some ((1 + 2 - b) % 2, p) else none
  | 2 => if p < 6 then some ((b + p / 2 + 1) % 4, 2 * (2 - p / 2) + p % 2) else none
  | 3 => if p < 7 then some ((b + p + 1) % 8, 6 - p) else none
  | _ => none

/-- The port group of a port (R328, R344): the direct ports that reach the same peer. -/
def State.portGroup (s : State) (p : Nat) : List Nat :=
  if !(s.port p).direct then [p]
  else
    match wiring s.guy.boardSize s.guy.slot p with
    | none => [p]
    | some w => (List.range 12).filter (fun q =>
        (s.port q).direct && (wiring s.guy.boardSize s.guy.slot q).any (fun v => v.1 == w.1))

/-! ### Fields that the registers clamp -/

def State.etherType (s : State) : Nat :=
  let e := bits (s.reg rSwCtrl) 63 48
  if e < 0x0600 ∨ e = 0x88F7 then 0x88B5 else e
def State.frameMax (s : State) : Nat := max 4160 (min 9216 (bits (s.reg rSwCtrl) 47 32))
def State.macPrefix (s : State) : Nat := bits (s.reg rMacPrefix) 31 0
/-- Octet 0 of the MAC addresses is locally administered and individual (R338). -/
def State.macOk (s : State) : Bool := let o := s.macPrefix / 2 ^ 24; o.testBit 1 && !o.testBit 0
def State.idleMs (s : State) : Nat := max 1 (bits (s.reg rE2eCtrl) 63 48)
def State.rtoUs (s : State) : Nat := max 1 (bits (s.reg rE2eCtrl) 47 32)
def State.ackNs (s : State) : Nat := bits (s.reg rE2eCtrl) 31 16
def State.replayNs (s : State) (p : Nat) : Nat := max 200 (bits (s.reg (rPortCtrl p)) 15 0)

/-! ### Blocks (R329) -/

def tyWrite : Nat := 1
def tyWriteAck : Nat := 2
def tyReadReq : Nat := 3
def tyReadResp : Nat := 4
def tyPeg : Nat := 5
def tyColl : Nat := 6
def tyBeacon : Nat := 7
def tyE2eAck : Nat := 8
def tyE2eNak : Nat := 9

/-- A block's header and data, not yet under the end-to-end protocol. -/
def blockBytes (dest src ty cls ctx seq addr arg : Nat) (data : List Byte) : List Byte :=
  leBytes 2 dest ++ leBytes 2 src ++ leBytes 1 ty ++ leBytes 1 (cls % 8) ++ leBytes 2 (ctx % 1024) ++ leBytes 4 seq ++
    leBytes 4 data.length ++ leBytes 8 addr ++ leBytes 8 arg ++ data

def blkDest (b : List Byte) : Nat := fld b 0 2
def blkSrc (b : List Byte) : Nat := fld b 2 2
def blkType (b : List Byte) : Nat := fld b 4 1
def blkFlags (b : List Byte) : Nat := fld b 5 1
def blkCls (b : List Byte) : Nat := blkFlags b % 8
def blkRelayed (b : List Byte) : Bool := (blkFlags b).testBit 3
def blkE2e (b : List Byte) : Bool := (blkFlags b).testBit 4
def blkSyn (b : List Byte) : Bool := (blkFlags b).testBit 5
def blkCtx (b : List Byte) : Nat := fld b 6 2
def blkSeq (b : List Byte) : Nat := fld b 8 4
def blkLen (b : List Byte) : Nat := fld b 12 4 % 8192
def blkAddr (b : List Byte) : Nat := fld b 16 8
def blkArg (b : List Byte) : Nat := fld b 24 8
def blkData (b : List Byte) : List Byte := b.drop 32

/-- BFLAGS and MSG_SEQ written over. -/
def withSeq (b : List Byte) (flags seq : Nat) : List Byte :=
  b.take 5 ++ leBytes 1 flags ++ (b.drop 6).take 2 ++ leBytes 4 seq ++ b.drop 12

def withCrc (b : List Byte) : List Byte := b ++ leBytes 4 (crc32c b).toNat

/-! ### Slot plans (R39 to R43) -/

def planPeriod (b : List Byte) : Nat := fld b 0 4
def planLend (b : List Byte) : Bool := (fld b 8 4).testBit 0
def planEpoch (b : List Byte) : Nat := fld b 16 8
def planEntry (b : List Byte) (i : Nat) : Nat := fld b (32 + 8 * i) 4

/-- The valid entries: class and start. -/
def planSlots (b : List Byte) : List (Nat × Nat) :=
  ((List.range 16).map (planEntry b)).filter (fun e => e.testBit 31) |>.map (fun e => (bits e 26 24, bits e 19 0))

def risingStarts : List (Nat × Nat) → Bool
  | a :: b :: r => decide (a.2 < b.2) && risingStarts (b :: r)
  | _ => true

/-- R41. -/
def planValid (b : List Byte) : Bool :=
  let twin := fun (o n : Nat) => fld b (o + n) n == 2 ^ (8 * n) - 1 - fld b o n
  let es := (List.range 16).map (planEntry b)
  let slots := planSlots b
  twin 0 4 && twin 8 4 && twin 16 8 && (List.range 16).all (fun i => twin (32 + 8 * i) 4) &&
    decide (1000 ≤ planPeriod b) && decide (planPeriod b ≤ 1000000) && decide (fld b 8 4 < 2) &&
    (planEntry b 0).testBit 31 && bits (planEntry b 0) 19 0 == 0 &&
    (es.drop slots.length).all (fun e => !e.testBit 31) &&
    es.all (fun e => bits e 30 27 == 0 && bits e 23 20 == 0) &&
    risingStarts slots && slots.all (fun x => decide (x.2 < planPeriod b))

/-- The offsets in a plan of the fields that break R41 (log entry 89). -/
def planFaults (b : List Byte) : List Nat :=
  let twin := fun (o n : Nat) => fld b (o + n) n == 2 ^ (8 * n) - 1 - fld b o n
  let e := fun (i : Nat) => planEntry b i
  (if twin 0 4 && decide (1000 ≤ planPeriod b) && decide (planPeriod b ≤ 1000000) then [] else [0]) ++
    (if twin 8 4 && decide (fld b 8 4 < 2) then [] else [8]) ++ (if twin 16 8 then [] else [16]) ++
    ((List.range 16).filter (fun i =>
      let start := bits (e i) 19 0
      let first := i == 0 && (!(e i).testBit 31 || start != 0)
      let late := i != 0 && (e i).testBit 31 && (!(e (i - 1)).testBit 31 || decide (start ≤ bits (e (i - 1)) 19 0))
      !twin (32 + 8 * i) 4 || first || late || ((e i).testBit 31 && decide (planPeriod b ≤ start)) ||
        bits (e i) 30 27 != 0 || bits (e i) 23 20 != 0)).map (fun i => 32 + 8 * i)

/-- The first failing byte offset of a plan. -/
def planFault (b : List Byte) : Nat := (planFaults b).headD 0

/-- The slot at an offset of the period: its class and its end. -/
def slotAt (b : List Byte) (off : Nat) : Nat × Nat :=
  let slots := planSlots b
  let cur := (slots.filter (fun x => x.2 ≤ off)).getLast?.getD (7, 0)
  let fin := ((slots.find? (fun x => off < x.2)).map (·.2)).getD (planPeriod b)
  (cur.1, fin)

/-- The time that a port's live plan counts: after a step the old one, up to the next boundary (R35). -/
def PlanSt.count (x : PlanSt) (now : Nat) : Nat :=
  match x.phase with
  | some (d, until_) => if now < until_ then ((now : Int) - d).toNat else now
  | none => now

/-- A step of fabric time from `old` to `new`: the plan is re-phased at its next boundary (R35). -/
def PlanSt.step (x : PlanSt) (old new : Nat) : PlanSt :=
  match x.live with
  | some b =>
    let c := x.count old
    let left := planPeriod b - (c - planEpoch b) % planPeriod b
    { x with phase := some ((new : Int) - c, new + left) }
  | none => x

/-- A period boundary of a plan at a fabric time (R42). The count may step over it by one nanosecond (R33; log entry 84). -/
def atBoundary (b : List Byte) (now : Nat) : Bool :=
  decide (planEpoch b ≤ now) && decide ((now - planEpoch b) % planPeriod b < 2)

/-- A unit of a class and its length starts and ends within its own slot. -/
def inSlot (b : List Byte) (now : Nat) (x : Nat × Nat) : Bool :=
  let off := (now - planEpoch b) % planPeriod b
  let sl := slotAt b off
  x.1 == sl.1 && decide (100 * off + x.2 ≤ 100 * sl.2)

/-- The class whose unit may start now (R43, R44). `ready` lists the classes with a unit ready, lowest first, each with its
length on the line in bytes; a byte takes 10 ps. The answer is none while every ready class waits for its slot. -/
def pickClass (plan : Option (List Byte)) (timed : Bool) (now : Nat) (tc0 : Nat × Nat) (ready : List (Nat × Nat)) :
    Option Nat :=
  match plan, timed with
  | some b, true =>
    let period := planPeriod b
    let off := (now - planEpoch b) % period
    let idx := (now - planEpoch b) / period
    let sl := slotAt b off
    let used := if tc0.1 = idx then tc0.2 else 0
    let fits := fun (x : Nat × Nat) => decide (100 * off + x.2 ≤ 100 * sl.2)
    match ready.find? (fun x => x.1 == 0 && decide (used + x.2 ≤ 2 * period)) with
    | some _ => some 0
    | none =>
      match ready.find? (fun x => x.1 == sl.1 && x.1 != 0) with
      | some x => if fits x then some x.1 else none
      | none =>
        if planLend b then (ready.find? (fun x => x.1 != 0 && fits x)).map (·.1) else none
  | _, _ => ready.head?.map (·.1)

/-- The classes whose unit waits only for a slot of its class (R43): ready, not the one that starts, and outside its slot. TC0
may start in any slot. -/
def slotWaits (plan : Option (List Byte)) (timed : Bool) (now : Nat) (ready : List (Nat × Nat)) (pick : Option Nat) : List Nat :=
  match plan, timed with
  | some b, true =>
    (ready.filter (fun x => x.1 != 0 && pick != some x.1 && !inSlot b now x)).map (·.1)
  | _, _ => []

/-! ### Sending on a port -/

/-- MAC address of a node (R338). -/
def State.mac (s : State) (node : Nat) : List Byte := (leBytes 4 s.macPrefix).reverse ++ (leBytes 2 node).reverse

/-- An Ethernet frame with one block (R337). -/
def State.frameOf (s : State) (dest cls : Nat) (block : List Byte) : List Byte :=
  let tag :=
    if (s.reg rSwCtrl).testBit 31 then
      [0x81, 0x00] ++ (leBytes 2 (bits (s.reg rSwPcp) (3 * cls + 2) (3 * cls) * 2 ^ 13 + bits (s.reg rSwCtrl) 11 0)).reverse
    else []
  let body := s.mac dest ++ s.mac s.guy.node ++ tag ++ (leBytes 2 s.etherType).reverse ++ block
  let body := body ++ List.replicate (60 - body.length) 0
  body ++ leBytes 4 (crc32 body).toNat

/-- A flit (R332): type, SEQ, class, data; ACK and one class's credits from the port. -/
def flitBytes (ftype seq ack cls : Nat) (credit : Nat × Nat) (data : List Byte) : List Byte :=
  let body := leBytes 2 (seq % 4096 + ftype * 4096) ++ leBytes 2 (ack % 4096) ++ leBytes 1 cls ++ leBytes 1 credit.1 ++
    leBytes 2 credit.2 ++ leBytes 2 data.length ++ leBytes 2 0 ++ bsub data 0 240
  body ++ leBytes 4 (crc32c body).toNat

/-- SEQ of the last DATA flit received in order. -/
def PortSt.ack (x : PortSt) : Nat := (x.rxNext + 4095) % 4096
/-- The credits that the next flit returns. -/
def PortSt.creditOut (x : PortSt) : Nat × Nat := ((x.owed.find? (fun p => p.2 != 0))).getD (0, 0)
def PortSt.paid (x : PortSt) : PortSt :=
  { x with ackDue := false, owed := mdel x.owed x.creditOut.1 }

/-- Up to `n` bytes of a class's queue from a place in its head block: the bytes, the queue left, the place in it, and the
blocks that end in them. -/
def takeBytes : Nat → List Queued → Nat → Nat → List Byte × List Queued × Nat × List Nat
  | 0, q, sent, _ => ([], q, sent, [])
  | _, [], _, _ => ([], [], 0, [])
  | fuel + 1, b :: r, sent, n =>
    let left := b.bytes.drop sent
    if left.length ≤ n then
      let t := takeBytes fuel r 0 (n - left.length)
      (left ++ t.1, t.2.1, t.2.2.1, b.id :: t.2.2.2)
    else (left.take n, b :: r, sent + n, [])

/-- The octets of a PTP message, as IEEE 1588-2019 lays it out (log entry 44). -/
def ptpOctets : PtpBody → Nat
  | .announce _ => 64
  | .delayResp _ _ _ _ => 54
  | _ => 44

/-- The line bytes of the frame that carries a block or a PTP message, with the preamble and the gap (R337). `tag` counts the
addresses, the tag and the EtherType. -/
def Queued.lineBytes (b : Queued) (tag : Nat) : Nat :=
  match b.ptp with
  | some x => max 64 (ptpOctets x.body + 18) + 20
  | none => max 64 (b.bytes.length + tag + 4) + 20

/-- A beacon that leaves is stamped with the fabric time of its flit (R30): ADDR is t1 of a request, t3 of a reply. -/
def Queued.stamped (b : Queued) (now : Nat) : Queued :=
  if b.ptp.isNone && blkType b.bytes == tyBeacon then
    let n := b.bytes.length - 4
    { b with bytes := withCrc (b.bytes.take 16 ++ leBytes 8 now ++ (b.bytes.drop 24).take (n - 24)) }
  else b

/-- A class queue with the beacons stamped that have not begun to leave. -/
def stampQueue (q : List Queued) (sent now : Nat) : List Queued :=
  if sent = 0 then q.map (fun b => b.stamped now) else q.take 1 ++ (q.drop 1).map (fun b => b.stamped now)

def PortSt.queue (x : PortSt) (c : Nat) : List Queued := mgetD x.queues c []
def PortSt.credit (x : PortSt) (c : Nat) : Nat := mgetD x.credits c 64

/-- The classes with a unit ready, and the unit's bytes on the line. -/
def PortSt.ready (x : PortSt) (tag : Nat) : List (Nat × Nat) :=
  (List.range 8).filterMap (fun c =>
    match x.queue c with
    | [] => none
    | b :: _ =>
      if x.direct then
        if 0 < x.credit c ∧ x.unacked.length < 64 ∧ x.resent = x.unacked.length then some (c, 256) else none
      else some (c, b.lineBytes tag))

/-- The port after it has sent `n` bytes: the line is busy, and TC0's share is counted. -/
def State.sent (s : State) (p : Nat) (x : PortSt) (cls n : Nat) (o : GuyOut) : State :=
  let start := max x.busy (100 * s.local_)
  let plan := mgetD s.plans p .empty
  let tc0 := match plan.live with
    | some b =>
      let idx := (plan.count s.now - planEpoch b) / max 1 (planPeriod b)
      if cls = 0 then (idx, (if x.tc0.1 = idx then x.tc0.2 else 0) + n) else x.tc0
    | none => x.tc0
  let woke := x.state == .lpi
  let s := s.setPort p { x with
    busy := start + n, tc0 := tc0, state := if woke then .up else x.state
    lpiSent := x.lpiSent && !woke, lpiHeard := x.lpiHeard && !woke }
  { s with guy := { s.guy with out := s.guy.out ++ [o] } }

/-- What a clock keeps of a PTP message that leaves (R29): the stamp of its delay request. A Sync is followed by its Follow_Up, which
carries the Sync's stamp. -/
def State.ptpLeft (s : State) (p : Nat) (m : PtpMessage) : State :=
  match m.body with
  | .sync n _ _ _ =>
    let x := s.port p
    let f : Queued := ⟨s.guy.nextBlock, 0, 0, [], some { m with body := .followUp n s.now 0 }⟩
    ({ s with guy := { s.guy with nextBlock := s.guy.nextBlock + 1 } }).setPort p
      { x with queues := mset x.queues 0 (f :: x.queue 0) }
  | .delayReq n _ => { s with time := { s.time with ptp := { s.time.ptp with delayReq := some (n, (s.now : Int)) } } }
  | _ => s

/-- The request among the beacons of a queue that have not begun to leave. -/
def beaconWaits (q : List Queued) : Bool := q.any (fun b => b.ptp.isNone && blkType b.bytes == tyBeacon && blkArg b.bytes == 0)

/-- The unit of class `c` that a port sends now. -/
def State.sendUnit (s : State) (p : Nat) (x : PortSt) (c : Nat) : State :=
  if x.direct then
    let sent := mgetD x.sentBytes c 0
    let t := takeBytes 16 (if c = 0 then stampQueue (x.queue c) sent s.now else x.queue c) sent 240
    let s := if c = 0 && beaconWaits ((x.queue 0).drop (if sent = 0 then 0 else 1)) && s.time.beacon.isSome then
        { s with time := { s.time with beacon := some s.now } }
      else s
    let f : FlitCopy := ⟨x.txSeq, c, t.1, t.2.2.2⟩
    let y := { x.paid with
      txSeq := (x.txSeq + 1) % 4096, unacked := x.unacked ++ [f], resent := x.resent + 1
      advanceAt := if x.unacked.isEmpty then s.local_ else x.advanceAt
      credits := mset x.credits c (x.credit c - 1), queues := mset x.queues c t.2.1, sentBytes := mset x.sentBytes c t.2.2.1 }
    s.sent p y c 256 (.flit p (flitBytes 1 f.seq x.ack c x.creditOut f.data))
  else
    match x.queue c with
    | [] => s
    | b :: r =>
      let y := { x with queues := mset x.queues c r }
      match b.ptp with
      | some m => (s.sent p y c (b.lineBytes 18) (.ptp p m)).ptpLeft p m
      | none =>
        let f := s.frameOf b.dest c b.bytes
        s.sent p y c (f.length + 20) (.frame p f)

/-- The stall episodes of a port's classes that wait for their slots (R43, R267); `waits` lists them. -/
def State.slotStalls (s : State) (p : Nat) (x : PortSt) (waits : List Nat) : State :=
  if waits.isEmpty && !s.tier.episodes.any (fun e => e.cause == 8) then s
  else
    (List.range 8).foldl (fun s c =>
      let u : StallUnit := .port (Fin.ofNat 12 p) (Fin.ofNat 8 c)
      let ctx := ((x.queue c).head?.map (·.ctx)).getD 0
      if waits.contains c && mhas s.host.ctxs ctx then s.stallOn u ctx 8 else s.stallOff u) s

/-- What a port sends while no unit may start: a flit of low-power idle, or acknowledgements and credits in an IDLE flit. -/
def State.pumpIdle (s : State) (p : Nat) (x : PortSt) : State :=
  if x.direct && x.lpiDue then
    let s := s.sent p { x.paid with lpiDue := false, lpiSent := true } 0 256 (.flit p (flitBytes 3 0 x.ack 0 x.creditOut []))
    if x.lpiHeard then s.setPort p { s.port p with state := .lpi } else s
  else if x.direct && (x.ackDue || x.owed.any (fun o => o.2 != 0)) then
    s.sent p x.paid 0 256 (.flit p (flitBytes 0 0 x.ack 0 x.creditOut []))
  else s

/-- A port sends its next unit, if its line is free and one may start: a NAK, a flit to be sent again or a new unit of a class that
the plan allows (R43), or what needs no slot. -/
def State.pump (s : State) (p : Nat) : State :=
  let x := s.port p
  let plan := mgetD s.plans p .empty
  let timed := s.time.state != .unset
  let now := plan.count s.now
  if !x.usable || decide (100 * s.local_ < x.busy) then s
  else if x.direct && x.nakDue then
    s.sent p { x.paid with nakDue := false } 0 256 (.flit p (flitBytes 2 0 x.ack 0 x.creditOut []))
  else
    let again := if x.direct then x.unacked[x.resent]? else none
    let ready := match again with
      | some f => [(f.cls, 256)]
      | none => x.ready (if (s.reg rSwCtrl).testBit 31 then 18 else 14)
    let pick := pickClass plan.live timed now x.tc0 ready
    let s := s.slotStalls p x (slotWaits plan.live timed now ready pick)
    match again, pick with
    | some f, some _ =>
      s.sent p { x.paid with resent := x.resent + 1 } f.cls 256 (.flit p (flitBytes 1 f.seq x.ack f.cls x.creditOut f.data))
    | none, some c => s.sendUnit p x c
    | _, none => s.pumpIdle p x

def State.pumpAll (s : State) : State := (s.guy.ports.map (·.1)).foldl (fun s p => s.pump p) s

/-- EV_GL_PORT_DOWN: the port is not trained any more; sequence and replay state stay (R348). -/
def State.portDown (s : State) (p cause : Nat) (next : PortState) : State :=
  let x := s.port p
  (s.setPort p { x with state := next, neighbour := 0xFFFF, nbSlot := 0, nbPort := 0, lpiSent := false, lpiHeard := false }).raise
    0x0802 (srcPort p) none [p, cause, x.unacked.length, 0]

/-- A MAC prefix that is not locally administered and individual keeps every switched port DOWN (R338). A port that it takes down
names cause 3, a command (DESIGN CHOICE, log entry 105). -/
def State.macChecked (s : State) : State :=
  if s.macOk then s
  else
    (List.range 12).foldl (fun s p =>
      let x := s.port p
      if !x.switched then s
      else if x.usable then s.portDown p 3 .down
      else if x.state == .training then s.setPort p { x with state := .down }
      else s) s

/-! ### Choosing a port (R343 to R345) -/

inductive Route where
  | absent
  | corrupt (entry comp : W32)
  | ports (l : List Nat)
  deriving DecidableEq, Repr

def State.upPorts (s : State) (p : Nat) : List Nat := (s.portGroup p).filter (fun q => (s.port q).usable)

def State.routeOf (s : State) (dest : Nat) : Route :=
  let e := mgetD s.guy.routes dest (0, 0xFFFFFFFF)
  if e.2 ≠ ~~~e.1 then .corrupt e.1 e.2
  else
    let v := e.1.toNat
    let alt := bits v 11 8
    let prim := bits v 3 0
    if !v.testBit 31 || bits v 30 12 != 0 || bits v 7 4 != 0 || decide (11 < prim) || (decide (11 < alt) && alt != 15) then
      .absent
    else
      let l := s.upPorts prim
      .ports (if l.isEmpty && alt != 15 then s.upPorts alt else l)

def connKey (node cls : Nat) : Nat := 8 * node + cls

/-- Whether a block uses the end-to-end protocol on a port (R340). Acknowledgements and beacons carry no sequence of their
own. -/
def TxBlock.e2e (b : TxBlock) (x : PortSt) : Bool :=
  !b.relay && decide (blkType b.bytes < tyBeacon) && !(x.direct && x.neighbour == b.dest)

/-- The port that a waiting block can take now (R340, R344, R345). -/
def State.portFor (s : State) (b : TxBlock) : Option Nat :=
  match s.routeOf b.dest with
  | .ports l =>
    match l[b.unit % max 1 l.length]? with
    | none => none
    | some p =>
      let moved := s.guy.outstanding.any (fun o => o.unit == b.unit && o.dest == b.dest && o.port != p)
      let behind := b.peg && s.tier.remotes.any (fun r =>
        r.2.write && !r.2.acked && r.2.node == some b.dest && r.2.unit == b.unit && decide (r.1 < b.after))
      let full := b.e2e (s.port p) &&
        ((match mget s.guy.senders (connKey b.dest b.cls) with
          | none => decide (4096 ≤ s.guy.senders.length)
          | some c => decide (64 ≤ c.unacked.length)) ||
         decide (2048 ≤ ((s.guy.senders.map (fun c => (c.2.unacked.filter (fun u => u.port == p)).length)).foldl (· + ·) 0)))
      if moved || behind || full then none else some p
  | _ => none

/-- A block in a port's class queue (log entry 79). -/
def State.enqueue (s : State) (p cls : Nat) (q : Queued) : State :=
  let x := s.port p
  s.setPort p { x with queues := mset x.queues cls (x.queue cls ++ [q]) }

/-- A block takes its port: it enters the re-send store of its connection when it goes end to end. -/
def State.assign (s : State) (b : TxBlock) (p : Nat) : State :=
  let x := s.port p
  let note := fun (s : State) =>
    if b.relay || decide (tyBeacon ≤ blkType b.bytes) then s
    else { s with guy := { s.guy with outstanding := s.guy.outstanding ++ [⟨b.id, b.unit, b.dest, p⟩] } }
  if b.e2e x then
    let key := connKey b.dest b.cls
    let f := s.free
    let c : Sender := (mget s.guy.senders key).getD ⟨f.1.toNat % 2 ^ 32, [], s.local_, 1000 * s.rtoUs, s.local_⟩
    let s := if mhas s.guy.senders key then s else f.2
    let syn := !mhas s.guy.senders key
    let bytes := withSeq b.bytes (b.cls + 16 + (if syn then 32 else 0)) c.next
    let c' : Sender := { c with
      next := (c.next + 1) % 2 ^ 32, unacked := c.unacked ++ [⟨c.next, b.id, p, blkCtx bytes, bytes⟩], idleSince := s.local_
      advanceAt := if c.unacked.isEmpty then s.local_ else c.advanceAt }
    let s := { s with guy := { s.guy with senders := mset s.guy.senders key c' } }
    note (s.enqueue p b.cls ⟨b.id, b.dest, blkCtx bytes, withCrc bytes, none⟩)
  else note (s.enqueue p b.cls ⟨b.id, b.dest, blkCtx b.bytes, withCrc b.bytes, none⟩)

/-- EV_GL_NO_ROUTE or EV_GL_ROUTE_CORRUPT of a block that is not sent (R344), of the block's context where its type has one. -/
def State.noRoute (s : State) (unit dest : Nat) (bytes : List Byte) (r : Route) : State :=
  let ctx := blkCtx bytes
  let of_ := if blkType bytes < tyBeacon then some ctx else none
  match r with
  | .absent => s.raise 0x0804 unit of_ [dest, unit, ctx, 0]
  | .corrupt e c =>
    let s := { s with guy := { s.guy with routeCorrupt := satAdd 32 s.guy.routeCorrupt 1 } }
    s.raise 0x0805 unit of_ [dest, e.toNat, c.toNat]
  | .ports _ => s

/-- A block that cannot be relayed: discarded, counted, EV_GL_MISROUTE (R346). -/
def State.misroute (s : State) (p : Nat) (b : List Byte) (cause : Nat) : State :=
  { s with guy := { s.guy with discarded := satAdd 32 s.guy.discarded 1 } }.raise 0x0806 (srcPort p) none
    [p, blkSrc b, blkDest b, cause]

/-- The request that a block carried is turned down: its unit meets an address fault (R344). -/
def State.requestLost (s : State) (b : TxBlock) : State :=
  let ty := blkType b.bytes
  if ty = tyWrite ∨ ty = tyReadReq then
    match s.tier.remotes.find? (fun r =>
      r.2.node == some b.dest && r.2.write == (ty == tyWrite) && r.1 % 65536 == blkArg b.bytes % 65536 && !r.2.acked &&
        r.2.data.isNone && r.2.code == 0) with
    | none => s
    | some (k, r) =>
      match r.owner with
      | .epi c => ({ s with tier := { s.tier with remotes := mdel s.tier.remotes k } }).lateFault c pfAddress r.pc r.va
      | _ => { s with tier := { s.tier with remotes := mset s.tier.remotes k { r with code := 5 } } }
  else s

/-- The waits of issuing units for a port, an entry or room in the re-send store (R340, R342, R344): PEER_LATE. -/
def State.senderStalls (s : State) : State :=
  let waits := s.guy.waiting.filter (fun b => !b.relay && decide (blkType b.bytes < tyBeacon) && mhas s.host.ctxs (blkCtx b.bytes))
  let on := waits.map (fun b => (StallUnit.sender b.unit b.dest, blkCtx b.bytes))
  let off := (s.tier.episodes.map (·.unit)).filter (fun u =>
    match u with
    | .sender _ _ => !on.any (fun x => x.1 == u)
    | _ => false)
  let s := off.foldl State.stallOff s
  on.foldl (fun s x => if s.tier.episodes.any (fun e => e.unit == x.1) then s else s.stallOn x.1 x.2 2) s

/-- Waiting blocks take their ports in order; a block stays behind an earlier one of its unit and destination. One whose route is
gone is not sent (R344). -/
def State.release (s : State) : State :=
  let r := s.guy.waiting.foldl (fun (acc : State × List TxBlock) b =>
    if acc.2.any (fun w => w.unit == b.unit && w.dest == b.dest) then (acc.1, acc.2 ++ [b])
    else
      match acc.1.routeOf b.dest with
      | .ports _ =>
        (match acc.1.portFor b with
         | some p => (acc.1.assign b p, acc.2)
         | none => (acc.1, acc.2 ++ [b]))
      | x => (if b.relay then acc.1.misroute (b.unit % 256) b.bytes 2 else (acc.1.noRoute b.unit b.dest b.bytes x).requestLost b, acc.2))
    (s, [])
  ({ r.1 with guy := { r.1.guy with waiting := r.2 } }).senderStalls.pumpAll

/-- A block sent to another node. The answer is false when there is no route, and an event says so (R344). -/
def State.sendBlock (s : State) (unit dest cls : Nat) (relay peg : Bool) (bytes : List Byte) : State × Bool :=
  match s.routeOf dest with
  | .ports _ =>
    let b : TxBlock := ⟨s.guy.nextBlock, unit, dest, cls, relay, peg, s.tier.nextRemote, bytes⟩
    let s := { s with guy := { s.guy with nextBlock := s.guy.nextBlock + 1, waiting := s.guy.waiting ++ [b] } }
    (s.release, true)
  | r => (s.noRoute unit dest bytes r, false)

/-- A block sent on a named port, whatever the routing table says: a beacon (R30), which goes to the neighbour. -/
def State.sendOn (s : State) (p cls : Nat) (bytes : List Byte) : State :=
  let id := s.guy.nextBlock
  let s := { s with guy := { s.guy with nextBlock := id + 1 } }
  (s.enqueue p cls ⟨id, blkDest bytes, blkCtx bytes, withCrc bytes, none⟩).pump p

/-- Blocks acknowledged by the link or end to end: their units may use another port (R345). -/
def State.blocksAcked (s : State) (ids : List Nat) : State :=
  { s with guy := { s.guy with outstanding := s.guy.outstanding.filter (fun o => !ids.contains o.id) } }

end Sys2Proof.Machine
end

