-- ==== Sys2Proof/Machine/Access.lean ====
section
/-! DEFINITION. Accesses to any space (08_tiers_and_streams.md R233, R247, R249, R262, R264): local memory at once, the host
tier and peers through requests that are remembered until they are answered. -/

namespace Sys2Proof.Machine

def peerNode (va : Nat) : Nat := bits va 55 40
def peerOffset (va : Nat) : Nat := bits va 39 0
def peerVa (node off : Nat) : Nat := 2 * 2 ^ 60 + node * 2 ^ 40 + off

/-- The unit that issues an owner's requests (R344). -/
def Owner.unit : Owner → Nat
  | .xfer k _ => srcCluster k.cluster.val
  | .daypack k _ => srcCluster k.cluster.val
  | .stream c _ => srcCluster c.val
  | .copy q => srcCp q.ctx.val q.ring.val
  | .epi k => srcCluster k.cluster.val
  | .descriptor q => srcCp q.ctx.val q.ring.val
  | .cons _ n => srcCons n

/-- A context's export window at an offset (R249): the local address, or the rejection code. -/
def exportWindow (s : State) (ctx off n : Nat) (write : Bool) : Except Nat Nat :=
  match mget s.host.ctxs ctx, mget s.tier.exports ctx with
  | some _, some e =>
    if e.size = 0 then .error 1
    else if e.size < off + n then .error 2
    else if write && !e.write then .error 3
    else .ok (e.base + off)
  | _, _ => .error 1

/-- A request that still holds its tag: nothing has answered it yet (R264). -/
def Remote.holdsTag (r : Remote) : Bool := !r.acked && r.data.isNone && r.code == 0

/-- Request tags in use (R264): one for each request that is not answered yet. A local request is answered within the row that
makes it (log entry 74). -/
def State.tagsInUse (s : State) : Nat := (s.tier.remotes.filter (fun r => r.2.holdsTag)).length

/-- The share of the request tags that an owner's requests take from, by a number of its own, and how many tags it has: each
cluster router, each conservator, and the hub's other requesters (R264). -/
def Owner.share : Owner → Nat × Nat
  | .xfer k _ => (k.cluster.val, 2048)
  | .daypack k _ => (k.cluster.val, 2048)
  | .stream c _ => (c.val, 2048)
  | .epi k => (k.cluster.val, 2048)
  | .cons _ n => (1000 + n, 16384)
  | .copy _ => (2000, 32768)
  | .descriptor _ => (2000, 32768)

/-- A requester whose share is used up waits under the cause of the tier of its oldest outstanding request (R264). -/
def State.shareWait (s : State) (o : Owner) : Option Nat :=
  let mine := s.tier.remotes.filter (fun r => r.2.holdsTag && r.2.owner.share.1 == o.share.1)
  if mine.length < o.share.2 then none else mine.head?.map (fun r => vaSpace r.2.va)

/-- A remote request entered, and the peak of tags in use. -/
def State.addRemote (s : State) (r : Remote) : State :=
  let s := { s with tier := { s.tier with
    remotes := mset s.tier.remotes s.tier.nextRemote r, nextRemote := s.tier.nextRemote + 1 } }
  { s with tier := { s.tier with tagPeak := max s.tier.tagPeak s.tagsInUse } }

def State.findRemote (s : State) (o : Owner) (i : Nat) (write : Bool) : Option Remote :=
  (s.tier.remotes.find? (fun r => r.2.owner == o && r.2.index == i && r.2.write == write)).map (·.2)

/-- The requests of an owner forgotten. -/
def State.dropRemotes (s : State) (o : Owner) : State :=
  { s with tier := { s.tier with remotes := s.tier.remotes.filter (fun r => r.2.owner != o) } }

/-- The rejection of an own request at the own window: EV_PEER_REJECT, and an address fault at the issuer (R249; log entry 81). -/
def State.ownReject (s : State) (ctx off code : Nat) : State :=
  s.raise 0x0408 (srcHub 7 0) (some ctx) [s.guy.node, ctx, off, code]

/-- A piece of the host tier or of a peer asked for. -/
def State.requestPiece (s : State) (o : Owner) (pc ctx i va n : Nat) (noalloc : Bool) (deadline : Nat) :
    State × Got (List Byte) :=
  let r : Remote := ⟨o, o.unit, pc, ctx, i, va, n, false, none, none, false, 0⟩
  if vaSpace va = 1 then
    match hostLookup s ctx va false, hostLookup s ctx (va + n - 1) false with
    | some iova, some last =>
      if last + 1 = iova + n then ((s.addRemote r).toHost (.read s.tier.nextRemote iova n), .wait 1) else (s, .fault pfAddress)
    | _, _ => (s, .fault pfAddress)
  else if peerNode va = s.guy.node then
    match exportWindow s ctx (peerOffset va) n false with
    | .ok lva =>
      match s.readVa ctx lva n (.other false) noalloc deadline with
      | (s, .fault _) => (s.ownReject ctx (peerOffset va) 5, .fault pfAddress)
      | e => e
    | .error c => (s.ownReject ctx (peerOffset va) c, .fault pfAddress)
  else
    let id := s.tier.nextRemote
    let blk := blockBytes (peerNode va) s.guy.node tyReadReq 5 ctx 0 (peerOffset va) (id % 65536 + n % 8192 * 65536) []
    let t := s.sendBlock o.unit (peerNode va) 5 false false blk
    if t.2 then (t.1.addRemote { r with node := some (peerNode va) }, .wait 2) else (t.1, .fault pfAddress)

/-- One piece read from the space that it lies in. -/
def State.readPiece (s : State) (o : Owner) (pc ctx i va n : Nat) (who : Accessor) (noalloc : Bool) (deadline : Nat) :
    State × Got (List Byte) :=
  if vaSpace va = 0 then
    match s.shareWait o with
    | some c => (s, .wait c)
    | none => s.readVa ctx va n who noalloc deadline
  else if !vaMbz va || (vaSpace va != 1 && vaSpace va != 2) then (s, .fault pfAddress)
  else
    match s.findRemote o i false with
    | some r =>
      if r.code ≠ 0 then (s, .fault pfAddress)
      else
        match r.data with
        | some d => (s, .ok d)
        | none => (s, .wait (vaSpace va))
    | none =>
      match s.shareWait o with
      | some c => (s, .wait c)
      | none => s.requestPiece o pc ctx i va n noalloc deadline

/-- A piece sent to the host tier or to a peer. Peer traffic is class 5, that of REC_EXPORT class 6 (log entry 48). -/
def State.sendPiece (s : State) (o : Owner) (pc ctx i va : Nat) (bs : List Byte) (deadline : Nat) : State × Got Unit :=
  let r : Remote := ⟨o, o.unit, pc, ctx, i, va, bs.length, true, none, none, false, 0⟩
  if vaSpace va = 1 then
    match hostLookup s ctx va true, hostLookup s ctx (va + bs.length - 1) true with
    | some iova, some last =>
      if last + 1 = iova + bs.length then
        let up := s.host.link.dlUp
        ((s.addRemote { r with acked := up }).toHost (.tier ctx va iova bs), if up then .ok () else .wait 1)
      else (s, .fault pfAddress)
    | _, _ => (s, .fault pfAddress)
  else if peerNode va = s.guy.node then
    match exportWindow s ctx (peerOffset va) bs.length true with
    | .ok lva =>
      match s.writeVa ctx lva bs (.other false) deadline with
      | (s, .ok _) => (s.addRemote { r with acked := true }, .ok ())
      | (s, .fault _) => (s.ownReject ctx (peerOffset va) 5, .fault pfAddress)
      | e => e
    | .error c => (s.ownReject ctx (peerOffset va) c, .fault pfAddress)
  else
    let id := s.tier.nextRemote
    let cls := match o with
      | .cons _ _ => 6
      | _ => 5
    let blk := blockBytes (peerNode va) s.guy.node tyWrite cls ctx 0 (peerOffset va) (id % 65536) bs
    let s := s.addRemote { r with node := some (peerNode va) }
    let t := s.sendBlock o.unit (peerNode va) cls false false blk
    if t.2 then (t.1, .wait 2)
    else ({ t.1 with tier := { t.1.tier with remotes := mdel t.1.tier.remotes id } }, .fault pfAddress)

/-- One piece written to the space that it lies in. A request that was made is not made again. -/
def State.writePiece (s : State) (o : Owner) (pc ctx i va : Nat) (bs : List Byte) (who : Accessor) (deadline : Nat)
    (whole : Bool := false) : State × Got Unit :=
  if vaSpace va = 0 then
    match s.shareWait o with
    | some c => (s, .wait c)
    | none => s.writeVa ctx va bs who deadline whole
  else if !vaMbz va || (vaSpace va != 1 && vaSpace va != 2) then (s, .fault pfAddress)
  else
    match s.findRemote o i true with
    | some r => if r.code ≠ 0 then (s, .fault pfAddress) else if r.acked then (s, .ok ()) else (s, .wait (vaSpace va))
    | none =>
      match s.shareWait o with
      | some c => (s, .wait c)
      | none => s.sendPiece o pc ctx i va bs deadline

/-! ### Stretches in pieces -/

/-- A piece: its number within its owner's work, address, length. -/
structure Piece where
  index : Nat
  va : Nat
  len : Nat
  deriving DecidableEq, Repr

/-- A contiguous stretch in pieces of at most 256 B that cross no 256 B boundary (R264). -/
def chunks (va n : Nat) : List Piece :=
  (List.range (if n = 0 then 0 else (n + va - 1) / 256 + 1 - va / 256)).map (fun j =>
    let lo := max va ((va / 256 + j) * 256)
    let hi := min (va + n) ((va / 256 + j + 1) * 256)
    ⟨j, lo, hi - lo⟩)

/-- Of two causes that hold at once, the one that counts (R267). -/
def mainCause (a b : Nat) : Nat :=
  let order := [3, 6, 4, 7, 8, 5, 2, 1, 0]
  if order.idxOf b < order.idxOf a then b else a

/-- Every piece read, in order; what must wait is asked for all the same. -/
def State.readPieces (s : State) (o : Owner) (pc ctx : Nat) (who : Accessor) (noalloc : Bool) (deadline : Nat) :
    List Piece → State × Got (List Byte)
  | [] => (s, .ok [])
  | p :: r =>
    match s.readPiece o pc ctx p.index p.va p.len who noalloc deadline with
    | (s, .ok b) =>
      match s.readPieces o pc ctx who noalloc deadline r with
      | (s, .ok bs) => (s, .ok (b ++ bs))
      | e => e
    | (s, .wait c) =>
      match s.readPieces o pc ctx who noalloc deadline r with
      | (s, .ok _) => (s, .wait c)
      | (s, .wait d) => (s, .wait (mainCause c d))
      | e => e
    | e => e

/-- Whether every local piece of a write can be written now. -/
def State.checkWrites (s : State) (ctx : Nat) (who : Accessor) (deadline : Nat) : List Piece → State × Got Unit
  | [] => (s, .ok ())
  | p :: r =>
    if vaSpace p.va ≠ 0 then s.checkWrites ctx who deadline r
    else
      match s.parts ctx p.va p.len true who deadline with
      | (s, .ok _) => s.checkWrites ctx who deadline r
      | (s, .wait c) => (s, .wait c)
      | (s, .fault c) => (s, .fault c)
      | (s, .damaged l) => (s, .damaged l)

def State.writeEach (s : State) (o : Owner) (pc ctx : Nat) (who : Accessor) (deadline : Nat) (whole : Bool) :
    List Piece → List Byte → State × Got Unit
  | [], _ => (s, .ok ())
  | p :: r, bs =>
    match s.writePiece o pc ctx p.index p.va (bs.take p.len) who deadline whole with
    | (s, .ok _) => s.writeEach o pc ctx who deadline whole r (bs.drop p.len)
    | (s, .wait c) =>
      match s.writeEach o pc ctx who deadline whole r (bs.drop p.len) with
      | (s, .ok _) => (s, .wait c)
      | (s, .wait d) => (s, .wait (mainCause c d))
      | e => e
    | e => e

/-- Every piece written, once all of them can be. -/
def State.writePieces (s : State) (o : Owner) (pc ctx : Nat) (who : Accessor) (deadline : Nat) (ps : List Piece)
    (bs : List Byte) : State × Got Unit :=
  match s.checkWrites ctx who deadline ps with
  | (s, .ok _) => s.writeEach o pc ctx who deadline false ps bs
  | e => e

/-- Every piece of a write has been sent: the data behind it is needed no more (R122). -/
def State.piecesSent (s : State) (o : Owner) (ps : List Piece) : Bool :=
  ps.all (fun p => vaSpace p.va != 0 && (s.findRemote o p.index true).isSome)

/-- A row of the core's epilogues that is under way touches a line of the stretches (R262). -/
def State.rowsMeet (s : State) (k : CoreRef) (reach : List (Nat × Nat)) : Bool :=
  s.tier.remotes.any (fun r => r.2.owner == .epi k && !r.2.acked && meetLines [(r.2.va, r.2.len)] reach)

/-- A core's epilogue writes that are not acknowledged. Each row counts against the limit of 8, as R154 has it where R114 speaks
of one transfer (log entry 66). -/
def State.epiOpen (s : State) (k : CoreRef) : Nat :=
  (s.tier.remotes.filter (fun r => r.2.owner == .epi k && !r.2.acked)).length

end Sys2Proof.Machine
end

