-- ==== Sys2Proof/Machine/Pack.lean ====
section
/-! DEFINITION. The pack format (09_pack_format.md R272 to R286): encoder, decoder, metadata bytes, and a pack block of a
stream or copy as it is read and written. -/

namespace Sys2Proof.Machine

/-! ### Elements -/

/-- 16-bit elements of a block. -/
def elems16 : List Byte → List Nat
  | a :: b :: r => (a.toNat + 256 * b.toNat) :: elems16 r
  | _ => []

/-- Biased exponent of a 16-bit element: BF16 (etype 0) or FP16 (1). -/
def packExp (etype c : Nat) : Nat := if etype = 0 then bits c 14 7 else bits c 14 10
/-- Width of a field of mode 0b11 (R276), and of its fraction. -/
def fieldBits (etype : Nat) : Nat := if etype = 0 then 11 else 14
def fracBits (etype : Nat) : Nat := fieldBits etype - 4

/-- The lowest entry of a table that holds an exponent. -/
def tableIndex (t : List Nat) (e : Nat) : Option Nat :=
  match t with
  | [] => none
  | x :: r => if x = e then some 0 else (tableIndex r e).map (· + 1)

/-- The mask of a list of elements: one bit each, set where the element is present. -/
def packMask (n : Nat) (es : List Nat) : List Byte :=
  (List.range (n / 8)).map (fun j => BitVec.ofNat 8
    (((es.drop (8 * j)).take 8).zipIdx.foldl (fun a p => if p.1 = 0 then a else a + 2 ^ p.2) 0))

def unitsOf (c : Nat) : Nat := (c + 4 + 63) / 64

/-- A payload of content `c`: padded to whole units, closed by its CRC (R275). -/
def sealPayload (c : List Byte) : List Byte :=
  let u := unitsOf c.length
  let body := c ++ List.replicate (64 * u - 4 - c.length) 0
  body ++ leBytes 4 (crc32c body).toNat

/-! ### The encoder (R279) -/

/-- The content of a block in mode 0b10, elements of `w` bytes. -/
def maskContent (w : Nat) (es : List Nat) : List Byte :=
  leBytes 1 (w - 1) ++ List.replicate 15 0 ++ packMask es.length es ++ (es.filter (· != 0)).flatMap (leBytes w)

/-- Escapes: present elements whose exponent stands in no table entry, with their index (R277). -/
def packEscapes (etype : Nat) (table : List Nat) (es : List Nat) : List (Nat × Nat) :=
  es.zipIdx.filterMap (fun p => if p.1 != 0 && (tableIndex table (packExp etype p.1)).isNone then some (p.2, p.1) else none)

/-- The field of a present element (R276); zero for an escape. -/
def packField (etype : Nat) (table : List Nat) (c : Nat) : Nat :=
  match tableIndex table (packExp etype c) with
  | none => 0
  | some j => c / 2 ^ 15 * 2 ^ (fieldBits etype - 1) + j * 2 ^ fracBits etype + c % 2 ^ fracBits etype

/-- The content of a block in mode 0b11. -/
def tableContent (etype : Nat) (table : List Nat) (es : List Nat) : List Byte :=
  let esc := packEscapes etype table es
  let present := es.filter (· != 0)
  let f := fieldBits etype
  let v := present.foldr (fun c a => packField etype table c + 2 ^ f * a) 0
  leBytes 1 (2 + etype) ++ leBytes 1 esc.length ++ List.replicate 6 0 ++ (bsub (table.flatMap (leBytes 1)) 0 8) ++
    packMask es.length es ++ leBytes ((present.length * f + 7) / 8) v ++ esc.flatMap (fun p => leBytes 2 p.1 ++ leBytes 2 p.2)

/-- An encoded block: metadata byte, bytes to write from the slot's start, and whether escapes shut out mode 0b11. -/
structure PackEnc where
  meta_ : Nat
  payload : List Byte
  fellBack : Bool
  deriving DecidableEq, Repr

/-- `table`: element type and entries of a usable record that holds a table. -/
def packEncode (x : List Byte) (table : Option (Nat × List Nat)) : PackEnc :=
  if x.all (· == 0) then ⟨0x40, [], false⟩
  else
    let e8 := x.map (·.toNat)
    let e16 := elems16 x
    let c0 := maskContent 1 e8
    let c1 := maskContent 2 e16
    let best : Nat × List Byte := if unitsOf c1.length < unitsOf c0.length then (2, c1) else (2, c0)
    let esc := table.map (fun t => (packEscapes t.1 t.2 e16).length)
    let fell := esc.any (fun n => decide (64 < n))
    let best :=
      match table with
      | some t =>
        if fell then best
        else
          let c2 := tableContent t.1 t.2 e16
          if unitsOf c2.length < unitsOf best.2.length then (3, c2) else best
      | none => best
    let u := unitsOf best.2.length
    if 64 ≤ u then ⟨0x3F, x, fell⟩ else ⟨best.1 * 64 + (u - 1), sealPayload best.2, fell⟩

/-! ### The decoder (R274, R275, R278, R285) -/

/-- A metadata byte that R274 allows. -/
def metaValid (b : Nat) : Bool :=
  match b / 64 with
  | 0 => b == 0x3F
  | 1 => b == 0x40
  | _ => b % 64 != 63

/-- The set bits of a mask, in order. -/
def maskBits (m : List Byte) : List Nat := bitSet m

/-- Values of the present elements of mode 0b10 laid out over `n` elements. -/
def spread (n w : Nat) (present : List Nat) (vals : List Nat) : List Byte :=
  let m := present.zip vals
  (List.range n).flatMap (fun e => leBytes w (((m.find? (fun p => p.1 == e)).map (·.2)).getD 0))

def rising : List Nat → Bool
  | a :: b :: r => decide (a < b) && rising (b :: r)
  | _ => true

/-- A packed payload decoded: the bytes, or the first failing check. -/
def packDecode (mode : Nat) (p : List Byte) : Except Nat (List Byte) :=
  let u := p.length / 64
  let fmt := fld p 0 1
  let nesc := fld p 1 1
  let table := (List.range 8).map (fun j => fld p (8 + j) 1)
  let etype := fmt % 2
  let suits := if mode = 2 then decide (fmt < 2) else fmt == 2 || fmt == 3
  if !suits || decide (64 < nesc) || (mode == 2 && nesc != 0) || !zeroBytes p 2 8 || (mode == 2 && !zeroBytes p 8 16) ||
      (mode == 3 && etype == 1 && table.any (fun e => decide (31 < e))) then .error 2
  else
    let w := if fmt = 0 then 1 else 2
    let n := 4096 / w
    let m := n / 8
    if u < unitsOf (16 + m) then .error 3
    else
      let present := maskBits (bsub p 16 m)
      let k := present.length
      let f := if mode = 2 then 8 * w else fieldBits etype
      let vlen := (k * f + 7) / 8
      let c := 16 + m + vlen + 4 * nesc
      if unitsOf c ≠ u then .error 3
      else
        let v := leNat (bsub p (16 + m) vlen)
        let fields := (List.range k).map (fun j => bits v (f * j + f - 1) (f * j))
        let esc := (List.range nesc).map (fun j => (fld p (16 + m + vlen + 4 * j) 2, fld p (16 + m + vlen + 4 * j + 2) 2))
        if !zeroBytes p c (64 * u - 4) || v / 2 ^ (k * f) != 0 then .error 4
        else if fld p (64 * u - 4) 4 ≠ (crc32c (p.take (64 * u - 4))).toNat then .error 5
        else if mode = 2 then
          if fields.any (· == 0) then .error 6 else .ok (spread n w present fields)
        else
          let value := fun (q : Nat × Nat) =>
            match esc.find? (fun x => x.1 == q.1) with
            | some x => x.2
            | none =>
              let j := bits q.2 (f - 2) (f - 4)
              q.2 / 2 ^ (f - 1) * 2 ^ 15 + table.getD j 0 * 2 ^ fracBits etype + q.2 % 2 ^ fracBits etype
          let pairs := present.zip fields
          let badEsc := !rising (esc.map (·.1)) || esc.any (fun x => x.2 == 0 ||
            (match pairs.find? (fun q => q.1 == x.1) with
             | none => true
             | some q => q.2 != 0))
          let vals := pairs.map value
          if badEsc || vals.any (· == 0) then .error 6 else .ok (spread n 2 present vals)

/-! ### Slots and metadata (R273) -/

def metaAddr (pa : Nat) : Nat := 0xFFE0000000 + pa / 4096
def slotMetaAddr (slot : Nat) : Nat := 0xFFF0000000 + 512 * slot

/-- How the fetch of a block came out. -/
inductive Block4k where
  | ok (mode : Nat) (bytes : List Byte)
  | bad (code meta_ : Nat)
  | damaged (line : Nat)
  deriving DecidableEq, Repr

/-- A block fetched from its slot: the metadata byte, then the declared units (R284). -/
def HbmSt.packFetch (h : HbmSt) (pa : Nat) : Block4k :=
  match h.damagedIn (metaAddr pa) 1 with
  | some l => .damaged l
  | none =>
    let b := (h.byte (metaAddr pa)).toNat
    if !metaValid b then .bad 1 b
    else
      let mode := b / 64
      let n := if mode = 1 then 0 else 64 * (b % 64 + 1)
      match h.damagedIn pa n with
      | some l => if n = 0 then .ok 1 (List.replicate 4096 0) else .damaged l
      | none =>
        if mode = 0 then .ok 0 (h.peek pa 4096)
        else if mode = 1 then .ok 1 (List.replicate 4096 0)
        else
          match packDecode mode (h.peek pa n) with
          | .ok x => .ok mode x
          | .error c => .bad c b

/-- What a fetch reads can be read now: the metadata byte, and the units that it declares (R284). -/
def HbmSt.packReady (h : HbmSt) (parts : List (Nat × Nat)) : Bool :=
  parts.all (fun p =>
    let b := (h.byte (metaAddr p.1)).toNat
    let n := if !metaValid b || b / 64 == 1 then 0 else 64 * (b % 64 + 1)
    h.stacksReady [(metaAddr p.1, 1), (p.1, n)])

/-- A block stored in its slot, the metadata byte last (R280). -/
def HbmSt.packStore (h : HbmSt) (ctx now pa : Nat) (e : PackEnc) : HbmSt :=
  (h.write ctx now pa e.payload).write ctx now (metaAddr pa) [BitVec.ofNat 8 e.meta_]

/-! ### Blocks of a stream or copy -/

/-- Who moves pack blocks: its context and step, the reader code of R208, the cluster or 0xFFFF, the accessor. -/
structure PackUser where
  ctx : Nat
  step : Nat
  reader : Nat
  cluster : Nat
  who : Accessor
  deriving DecidableEq, Repr

/-- How a step of pack work ended: with a value, waiting, with a fault, at an uncorrectable line, or with the context's reset
(R286). -/
inductive PackGot (α : Type) where
  | ok (x : α)
  | wait (cause : Nat)
  | fault (code : Nat)
  | damaged (line : Nat)
  | reset
  deriving DecidableEq, Repr

/-- One block gathered (R284 to R286). A block that fails its check is fetched again by the next step. -/
def State.packGather (s : State) (u : PackUser) (run : PackRun) (va index deadline : Nat) :
    State × PackRun × PackGot (List Byte) :=
  match s.partsWhen HbmSt.packReady u.ctx va 4096 false u.who deadline with
  | (s, .ok ((pa, _) :: _)) =>
    match s.hbm.packFetch pa with
    | .ok mode x =>
      let declared := if mode = 1 then 0 else 64 * ((s.hbm.byte (metaAddr pa)).toNat % 64 + 1)
      let s := { s with hbm := (s.hbm.readLines (metaAddr pa) 1 false).readLines pa declared false
                        pack := { s.pack with dec := mupd s.pack.dec mode 0 (wrapAdd 64 · 1) } }
      if run.refetch.contains index then
        let s := { s with pack := { s.pack with refetched := satAdd 32 s.pack.refetched 1 } }
        let src := if u.cluster = 0xFFFF then srcHub 4 0 else srcCluster u.cluster
        let s := s.raiseLimited u.cluster 1000000 0x0502 src (some u.ctx) (fun n => [pa, u.cluster, n, 0])
        (s, { run with refetch := run.refetch.filter (· != index) }, .ok x)
      else (s, run, .ok x)
    | .bad code m =>
      if run.refetch.contains index then
        let s := { s with pack := { s.pack with damaged := satAdd 32 s.pack.damaged 1 } }
        let src := if u.cluster = 0xFFFF then srcHub 4 0 else srcCluster u.cluster
        ((s.raise 0x0501 src (some u.ctx) [pa, va, code + m * 256, u.ctx]).startL0 u.ctx 10, run, .reset)
      else (s, { run with refetch := index :: run.refetch }, .wait 5)
    | .damaged l => (s, run, .damaged l)
  | (s, .ok []) => (s, run, .fault pfAddress)
  | (s, .wait c) => (s, run, .wait c)
  | (s, .fault c) => (s, run, .fault c)
  | (s, .damaged l) => (s, run, .damaged l)

/-- The table record of a pack scatter read once (R282): its first 64 bytes, or nothing when the descriptor names none. -/
def State.packTable (s : State) (u : PackUser) (run : PackRun) (d : Desc) (deadline : Nat) :
    State × PackGot PackRun :=
  match run.table with
  | some _ => (s, .ok run)
  | none =>
    if d.tag || d.tagVa = 0 then (s, .ok { run with table := some [] })
    else
      match s.readVa u.ctx d.tagVa 64 (match u.who with | .program _ => .program false | _ => .other false) false deadline with
      | (s, .ok b) =>
        let s := if fld b 0 4 = u.step then s
          else s.raise 0x0503 (if u.cluster = 0xFFFF then srcHub 4 0 else srcCluster u.cluster) (some u.ctx)
            [d.tagVa, fld b 0 4, u.step, u.cluster]
        (s, .ok { run with table := some b })
      | (s, .wait c) => (s, .wait c)
      | (s, .fault c) => (s, .fault c)
      | (s, .damaged l) => (s, .damaged l)

/-- Counts of a block for the table record (R282): exponents of its present 16-bit elements, one block, its units. -/
def countBlock (h : Map Nat) (etype : Nat) (x : List Byte) (meta_ : Nat) : Map Nat :=
  let h := (elems16 x).foldl (fun h c => if c = 0 then h else mupd h (packExp etype c) 0 (· + 1)) h
  let units := match meta_ / 64 with
    | 0 => 64
    | 1 => 0
    | _ => meta_ % 64 + 1
  mupd (mupd h 256 0 (· + 1)) 257 0 (· + units)

/-- Whether a scatter packs (CUR_ENVELOPE.COMPRESS, 14_curator.md): off, on, or by the loop and the HBM use of the last
millisecond, which the block does not show and which is free (log entry 3). -/
def State.packing (s : State) : State × Bool :=
  match bits (s.reg rEnvelope) 17 16 with
  | 0 => (s, false)
  | 1 => (s, true)
  | _ =>
    let mhz := bits (s.reg rClockLimits) 31 16
    if 2250 - 150 * s.cur.loop < mhz then
      let f := s.free
      (f.2, !f.1.getLsbD 0)
    else (s, true)

/-- One block scattered (R279, R280, R282), its table record read already. -/
def State.packScatter (s : State) (u : PackUser) (run : PackRun) (va deadline : Nat) (x : List Byte) :
    State × PackRun × PackGot Unit :=
  let rec_ := run.table.getD []
  let named := !rec_.isEmpty
  let usable := named && fld rec_ 0 4 == u.step
  let etype := fld rec_ 4 1 % 2
  let table := if usable && (fld rec_ 5 1).testBit 0 then some (etype, (List.range 8).map (fun j => fld rec_ (8 + j) 1)) else none
  let on := s.packing
  let e := if on.2 then packEncode x table else ⟨0x3F, x, false⟩
  let ready := fun (h : HbmSt) (parts : List (Nat × Nat)) =>
    parts.all (fun p => h.stacksReady [(metaAddr p.1, 1), (p.1, e.payload.length)])
  match on.1.partsWhen ready u.ctx va 4096 true u.who deadline with
  | (s, .ok ((pa, _) :: _)) =>
    let s := ({ s with hbm := s.hbm.packStore u.ctx s.local_ pa e }).settleWc s.hbm.wc
    let s := { s with
      pack := { s.pack with
        enc := mupd s.pack.enc (e.meta_ / 64) 0 (wrapAdd 64 · 1)
        escFallback := if e.fellBack then satAdd 32 s.pack.escFallback 1 else s.pack.escFallback
        tableMiss := if named && !usable then satAdd 32 s.pack.tableMiss 1 else s.pack.tableMiss } }
    (s, if usable then { run with hist := countBlock run.hist etype x e.meta_ } else run, .ok ())
  | (s, .ok []) => (s, run, .fault pfAddress)
  | (s, .wait c) => (s, run, .wait c)
  | (s, .fault c) => (s, run, .fault c)
  | (s, .damaged l) => (s, run, .damaged l)

/-- Where a table record holds a count (R281): blocks, units, or an exponent's. -/
def histOffset (k : Nat) : Nat := if k = 256 then 16 else if k = 257 then 24 else 64 + 8 * k

/-- The physical address at an offset of a stretch. -/
def partAt : List (Nat × Nat) → Nat → Nat
  | [], _ => 0
  | p :: r, off => if off < p.2 then p.1 + off else partAt r (off - p.2)

/-- The atomic addition of an INT64 (R222). -/
def HbmSt.addWord (h : HbmSt) (ctx now pa n : Nat) : HbmSt :=
  h.atomic ctx now pa (leBytes 8 ((leNat (h.peek pa 8) + n) % 2 ^ 64))

/-- INT64 additions into a table record at its stream's completion (R282). -/
def State.packMerge (s : State) (u : PackUser) (run : PackRun) (d : Desc) (deadline : Nat) : State × Got Unit :=
  if run.hist.isEmpty then (s, .ok ())
  else
    let who : Accessor := match u.who with | .program _ => .program false | _ => .other false
    match s.reachVa u.ctx d.tagVa 2112 who deadline with
    | (s, .ok l) =>
      let hbm := run.hist.foldl (fun (h : HbmSt) x => h.addWord u.ctx s.local_ (partAt l (histOffset x.1)) x.2) s.hbm
      (({ s with hbm := hbm }).settleWc s.hbm.wc, .ok ())
    | (s, .wait c) => (s, .wait c)
    | (s, .fault c) => (s, .fault c)
    | (s, .damaged l) => (s, .damaged l)

end Sys2Proof.Machine
end

