-- ==== Sys2Proof/Machine/StatProgram.lean ====
section
/-! DEFINITION. Statistics records and slots (06_scaling.md R175, R179 to R181) and the statistics instructions
(05_core_programs.md R164). -/

namespace Sys2Proof.Machine

/-! ### Statistics records (R175) -/

/-- A statistics record's fields. -/
structure StatRecord where
  tid : Nat
  step : Nat
  stats : Stats
  flags : Nat
  deriving DecidableEq, Repr

def StatRecord.of (b : List Byte) : StatRecord :=
  { tid := fld b 0 4, step := fld b 4 4, flags := fld b 60 2
    stats := { elements := fld b 8 8, zeros := fld b 16 8, sats := fld b 24 8, nonfin := fld b 32 8, clipped := fld b 40 8
               amax := BitVec.ofNat 32 (fld b 48 4), min := BitVec.ofNat 32 (fld b 52 4), max := BitVec.ofNat 32 (fld b 56 4) } }

def StatRecord.bytes (r : StatRecord) : List Byte :=
  leBytes 4 r.tid ++ leBytes 4 r.step ++ leBytes 8 r.stats.elements ++ leBytes 8 r.stats.zeros ++ leBytes 8 r.stats.sats ++
    leBytes 8 r.stats.nonfin ++ leBytes 8 r.stats.clipped ++ leBytes 4 r.stats.amax.toNat ++ leBytes 4 r.stats.min.toNat ++
    leBytes 4 r.stats.max.toNat ++ leBytes 2 r.flags ++ leBytes 2 0

/-- A merge at a record (R180), one atomic access to each line of it in the slice (R222): applied when tensor id and step agree,
otherwise rejected and counted. A record that is not 64 B aligned is the 64 bytes at its address, over two lines (log
entry 116). -/
def State.statMerge (s : State) (cluster ctx : Nat) (step : W32) (t : Slot) : State × Got Unit :=
  match s.reachVa ctx t.record.toNat 64 (.program false) 0 with
  | (s, .ok l) =>
    let r := StatRecord.of (peekParts s.hbm l)
    if r.tid = t.tid.toNat ∧ r.step = step.toNat then
      let s := s.atomicParts ctx l (StatRecord.bytes { r with stats := r.stats.merge t.stats })
      ({ s with stat := { s.stat with merged := wrapAdd 32 s.stat.merged 1 } }, .ok ())
    else
      let s := s.atomicParts ctx l (peekParts s.hbm l)
      let s := { s with stat := { s.stat with rejected := satAdd 32 s.stat.rejected 1 } }
      (s.raise 0x0310 (srcCluster cluster) (some ctx)
        [cluster, t.record.toNat, t.tid.toNat + step.toNat * 2 ^ 32, if r.tid = t.tid.toNat then 2 else 1], .ok ())
  | (s, .wait c) => (s, .wait c)
  | (s, .fault c) => (s, .fault c)
  | (s, .damaged l) => (s, .damaged l)

/-- The step of the launch that a cluster runs. -/
def State.clusterStep (s : State) (c : Nat) : W32 :=
  match (s.cluster c).launch.bind s.launch? with
  | some l => l.step
  | none => 0

/-- The end of an instruction that accessed memory: it goes on, waits, faults, or its context is reset (R167, R208). -/
def Issue.outcome (i : Issue) (s : State) {α : Type} (g : Got α) (addr : Nat) (f : α → State → State) : State :=
  match g with
  | .ok x => f x s
  | .wait c => i.stall s c
  | .fault code => i.faultAt s code addr
  | .damaged line => s.uncorrectable 0 (some i.ctx) line 0

/-! ### Instructions (R164) -/

def stSlot (w : Nat) : Nat := bits w 13 12
def stXtid (w : Nat) : Nat := bits w 18 14
def stXaddr (w : Nat) : Nat := bits w 23 19
def stVa (w : Nat) : Nat := bits w 28 24

def execSbind (k : CoreRef) (s : State) : Host.Outcome State Fault Refusal :=
  .next (s.issueRow k 0xB 0x00 (fun _ => [(23, 12)]) (fun s i =>
    i.regs s [stXtid i.w, stXaddr i.w] (fun s =>
      let t : Slot := ⟨i.core.x32 (stXtid i.w), i.core.getX (stXaddr i.w), .empty⟩
      i.done s { i.core with slots := mset i.core.slots (stSlot i.w) t })))

def execSflush (k : CoreRef) (s : State) : Host.Outcome State Fault Refusal :=
  .next (s.issueRow k 0xB 0x01 (fun _ => [(13, 12)]) (fun s i =>
    match mget i.core.slots (stSlot i.w) with
    | none => i.fault s pfTransfer
    | some t =>
      let r := s.statMerge k.cluster.val i.ctx (s.clusterStep k.cluster.val) t
      i.outcome r.1 r.2 t.record.toNat (fun _ s =>
        i.done s { i.core with slots := mset i.core.slots (stSlot i.w) { t with stats := .empty } })))

/-- Values counted into a slot in their order (R115). -/
def countAll (t : Stats) (l : List (W32 × Class)) : Stats := l.foldl (fun t p => t.count p.1 p.2) t

def execSvec (k : CoreRef) (s : State) : Host.Outcome State Fault Refusal :=
  .next (s.issueRow k 0xB 0x02 (fun _ => [(13, 12), (28, 24)]) (fun s i =>
    match mget i.core.slots (stSlot i.w) with
    | none => i.fault s pfTransfer
    | some t =>
      let l := (lanes (i.core.getV (stVa i.w))).map (fun v => (v, classF32 v))
      i.done s { i.core with slots := mset i.core.slots (stSlot i.w) { t with stats := countAll t.stats l } }))

/-- The flush of every bound slot at END (R164), in slot order, as SFLUSH does it: up to the first that does not go, with the
address of its record. -/
def State.flushSlots (s : State) (i : Issue) : List (Nat × Slot) → State × Got Unit × Nat
  | [] => (s, .ok (), 0)
  | p :: r =>
    match s.statMerge i.k.cluster.val i.ctx (s.clusterStep i.k.cluster.val) p.2 with
    | (s, .ok _) =>
      let c := s.core i.k
      (s.setCore i.k { c with slots := mdel c.slots p.1 }).flushSlots i r
    | (s, g) => (s, g, p.2.record.toNat)

end Sys2Proof.Machine
end

