-- ==== Sys2Proof/Machine/Statistics.lean ====
section
/-! DEFINITION. The statistics commands (06_scaling.md R174 to R191): STAT_INIT, STAT_CLOSE, GSCALE_INIT, GSCALE_ADVANCE. -/

namespace Sys2Proof.Machine

def stStatStep : Nat := 0x0210
def stStatInvalid : Nat := 0x0211
def stStatSummary : Nat := 0x0212

/-! ### Commands that read and write memory -/

/-- A command that has to wait leaves everything as it was, but for the pages it touched; its stall goes on. -/
def State.cmdWait (s touched : State) (q : CmdRef) (cause : Nat) : State :=
  { s with tier := touched.tier }.stallOn (.cmd q) q.ctx.val cause

/-- What a command does with the outcome of its accesses: it ends with `bad` at an address fault, waits, or is reset with its
context at an uncorrectable read (reader code 5). `s` is the state before the command. -/
def State.cmdOutcome (s : State) (q : CmdRef) (bad : Nat) {α : Type} (r : State × Got α) (f : State → α → State) : State :=
  match r.2 with
  | .ok x => f r.1 x
  | .wait c => s.cmdWait r.1 q c
  | .fault _ => s.complete q bad 0 0
  | .damaged line => s.uncorrectable 5 (some q.ctx.val) line 0

/-- A local, 64 B aligned address (R190). -/
def local64 (va : Nat) : Bool := va % 64 == 0 && vaSpace va == 0

/-! ### The scale record (R176, R177) -/

/-- RANGE of a format, as an FP32 value; none for statistics-only formats (R177). -/
def scaleRange (f : Fmt) : Option Nat :=
  match f with
  | .e4m3 => some 448
  | .e5m2 => some 57344
  | .e2m1 => some 6
  | .fp16 => some 65504
  | .int8 | .uint8 => some 255
  | .int4 | .uint4 => some 15
  | .sb8f => some 200704
  | .sb4f => some 2688
  | .sb8u => some 114240
  | .sb4u => some 6720
  | _ => none

def hasTensorZp (f : Fmt) : Bool :=
  match f with
  | .int8 | .uint8 | .int4 | .uint4 => true
  | _ => false

def scFmt (c : List Byte) : Fmt := (Fmt.ofCode (fld c 14 1 % 16)).getD .fp32
def scS (c : List Byte) : W32 := BitVec.ofNat 32 (fld c 0 4)
def scStep (c : List Byte) : Nat := fld c 8 4
def scZp (c : List Byte) : Nat := fld c 12 1
def scFlag (c : List Byte) (i : Nat) : Bool := (fld c 25 1).testBit i

/-- INV_S = RNE(1 ÷ S). -/
def invS (s : W32) : W32 := F32.div F32.one s

/-- A 64 B scale record with new values of step-dependent fields. -/
def scaleWith (c : List Byte) (s inv : W32) (step zp pzp : Nat) (ps pinv : W32) : List Byte :=
  leBytes 4 s.toNat ++ leBytes 4 inv.toNat ++ leBytes 4 step ++ leBytes 1 zp ++ leBytes 1 pzp ++ bsub c 14 2 ++
    leBytes 4 ps.toNat ++ leBytes 4 pinv.toNat ++ bsub c 24 40

/-! ### Closing (R183 to R185) -/

/-- Alarm bits of a closed record, at their places in FLAGS. -/
def alarms (r : Stats) (c : List Byte) : Nat :=
  let excess := fun (n frac : Nat) => frac != 0 && decide (frac * r.elements < n * 2 ^ 16)
  bit01 (fld c 28 4 != 0 && decide (fld c 28 4 ≤ r.nonfin)) * 16 + bit01 (excess r.sats (fld c 32 2)) * 32 +
    bit01 (excess r.clipped (fld c 34 2)) * 64 + bit01 (excess r.zeros (fld c 36 2)) * 128

/-- R183: values gathered after scaling are brought back to unscaled ones. -/
def unscale (r : Stats) (c : List Byte) : Stats :=
  if scFlag c 2 && F32.le r.min r.max then
    let s := scS c
    if hasTensorZp (scFmt c) then
      let z := F32.ofInt (zpVal (scFmt c) (scZp c))
      let mn := F32.mul (F32.sub r.min z) s
      let mx := F32.mul (F32.sub r.max z) s
      { r with min := mn, max := mx, amax := F32.maxNum (F32.abs mn) (F32.abs mx) }
    else { r with amax := F32.mul r.amax s, min := F32.mul r.min s, max := F32.mul r.max s }
  else r
where
  zpVal (f : Fmt) (raw : Nat) : Int := intOfCode f (raw % 2 ^ f.bits)

/-- The smallest power of two not below a positive FP32 value. -/
def pow2Ceil (s : W32) : W32 :=
  match f32 s with
  | .fin false m e => F32.pow2 (e + (if m = 2 ^ m.log2 then (m.log2 : Int) else (m.log2 : Int) + 1))
  | _ => s

/-- The scale record of step t + 1 (R184), and whether the scale was held for want of data. `ring` holds the closed records. -/
def deriveScale (c : List Byte) (ring : List StatRecord) (t : Nat) : List Byte × Bool :=
  let f := scFmt c
  let s := scS c
  let inv := BitVec.ofNat 32 (fld c 4 4)
  let step := (t + 1) % 2 ^ 32
  let keep := scaleWith c s inv step (scZp c) (scZp c) s inv
  match scaleRange f with
  | none => (keep, false)
  | some range =>
    if scFlag c 1 then (keep, false)
    else
      let w := fld c 15 1
      let e := ring.filter (fun r => r.flags % 2 == 1 && decide (t + 1 ≤ r.step + w) && decide (r.step ≤ t))
      let ranged := hasTensorZp f || f.isSbU
      let lo := e.foldl (fun m r => F32.minNum m r.stats.min) 0
      let hi := e.foldl (fun m r => F32.maxNum m r.stats.max) 0
      let a := if ranged then F32.sub hi lo else e.foldl (fun m r => F32.maxNum m r.stats.amax) 0
      if (f32 a).isZero then (keep, true)
      else
        let x := F32.div (F32.mul a (F32.pow2 (fld c 24 1))) (F32.ofInt range)
        let x := if scFlag c 0 then pow2Ceil x else x
        let x := F32.minNum (F32.maxNum x (F32.pow2 (-126))) (F32.pow2 127)
        let i := invS x
        let zp :=
          if hasTensorZp f then
            let q := f.int?.getD (0, 0)
            codeOfInt f (min q.2 (max q.1 (q.1 + roundToInt .rne (f32 (F32.mul (lo ^^^ 0x80000000) i)))))
          else scZp c
        (scaleWith c x i step zp (scZp c) s inv, false)

/-- An open record for a step. -/
def openRecord (tid step : Nat) : StatRecord := ⟨tid, step, .empty, 0⟩

/-- How an item of a list came out: a status, or what it waits for. -/
inductive ItemEnd where
  | done
  | refused (status : Nat)
  | wait (cause : Nat)
  | damaged (line : Nat)
  deriving DecidableEq, Repr

/-- An access of a list item: an address fault refuses the item. -/
def ItemEnd.ofGot {α : Type} (g : Got α) : ItemEnd :=
  match g with
  | .ok _ => .done
  | .wait c => .wait c
  | .fault _ => .refused stStatInvalid
  | .damaged l => .damaged l

/-- The events and counts of a closed block (R183, R185). -/
def State.closed (s : State) (q : CmdRef) (va t tid al : Nat) (held : Bool) : State :=
  let s := { s with stat := { s.stat with closed := wrapAdd 32 s.stat.closed 1 } }
  let s :=
    if al = 0 then s
    else ({ s with stat := { s.stat with alarms := satAdd 32 s.stat.alarms 1, alarmBits := al / 16 } }).raise
      0x0231 (srcCp q.ctx.val q.ring.val) (some q.ctx.val) [va, t, al / 16, tid]
  if held then s.raise 0x0232 (srcCp q.ctx.val q.ring.val) (some q.ctx.val) [va, (t + 1) % 2 ^ 32, tid] else s

/-- The ring of a block as the derivation of its next scale reads it; a scale that is carried unchanged reads none (R184). -/
def State.readRing (s : State) (ctx va : Nat) (c : List Byte) : State × Got (List StatRecord) :=
  if (scaleRange (scFmt c)).isNone || scFlag c 1 then (s, .ok [])
  else
    match s.readVa ctx (va + 128) 1024 (.other false) false 0 with
    | (s, .ok b) => (s, .ok ((List.range 16).map (fun j => StatRecord.of (bsub b (64 * j) 64))))
    | (s, .wait w) => (s, .wait w)
    | (s, .fault w) => (s, .fault w)
    | (s, .damaged l) => (s, .damaged l)

/-- The three writes of a close, in their order: the ring entry, the scale record, the live record (R183). -/
def State.closeWrites (s : State) (q : CmdRef) (va t : Nat) (r : StatRecord) (c : List Byte) : State × ItemEnd :=
  let ctx := q.ctx.val
  let st := unscale r.stats c
  let al := alarms st c
  let closed : StatRecord := { r with stats := st, flags := 1 + al }
  match s.writeVa ctx (va + 128 + 64 * (t % 16)) closed.bytes (.other false) 0 with
  | (s, .ok _) =>
    match s.readRing ctx va c with
    | (s, .ok ring) =>
      let d := deriveScale c ring t
      match s.writeVa ctx (va + 64) d.1 (.other false) 0 with
      | (s, .ok _) =>
        match s.writeVa ctx va (openRecord r.tid ((t + 1) % 2 ^ 32)).bytes (.other false) 0 with
        | (s, .ok _) => (s.closed q va t r.tid al d.2, .done)
        | (s, g) => (s, .ofGot g)
      | (s, g) => (s, .ofGot g)
    | (s, g) => (s, .ofGot g)
  | (s, g) => (s, .ofGot g)

/-- STAT_CLOSE of one block for step t: its pages are reached before anything is written. -/
def State.closeBlock (s : State) (q : CmdRef) (va t : Nat) : State × ItemEnd :=
  let ctx := q.ctx.val
  if !local64 va then (s, .refused stStatInvalid)
  else
    match s.parts ctx va 1152 true (.other false) 0 with
    | (s, .ok _) =>
      match s.readVa ctx va 128 (.other false) false 0 with
      | (s, .ok b) =>
        let r := StatRecord.of b
        let c := bsub b 64 64
        if r.step ≠ t ∨ scStep c ≠ t then (s, .refused stStatStep) else s.closeWrites q va t r c
      | (s, g) => (s, .ofGot g)
    | (s, g) => (s, .ofGot g)

/-- STAT_CLOSE of one block, with a refusal counted. -/
def State.closeItem (s : State) (q : CmdRef) (va t : Nat) : State × ItemEnd :=
  match s.closeBlock q va t with
  | (s, .refused st) => ({ s with stat := { s.stat with refused := satAdd 32 s.stat.refused 1 } }, .refused st)
  | r => r

/-- A list of items run in order: how many succeeded, and the first refusal with its index. -/
def runItems (f : State → Nat → State × ItemEnd) (s : State) (i done : Nat) (bad : Option (Nat × Nat)) :
    List Nat → State × ItemEnd × Nat × Option (Nat × Nat)
  | [] => (s, .done, done, bad)
  | x :: r =>
    match f s x with
    | (s, .done) => runItems f s (i + 1) (done + 1) bad r
    | (s, .refused st) => runItems f s (i + 1) done (bad.or (some (st, i))) r
    | (s, e) => (s, e, done, bad)

/-- The end of a list command: its status is that of the first refused item, result word 1 its index; a success signals. One that
waits runs its list again later; what an uncorrectable read cuts off keeps what its earlier items did. -/
def State.listEnd (s0 : State) (q : CmdRef) (t : Taken) (r : State × ItemEnd × Nat × Option (Nat × Nat)) : State :=
  match r with
  | (s, .wait c, _, _) => s0.cmdWait s q c
  | (s, .damaged line, _, _) => s.uncorrectable 5 (some q.ctx.val) line 0
  | (s, _, n, some (st, i)) => s.complete q st n i
  | (s, _, n, none) =>
    let s := s.complete q stOk n 0
    if (t.par 36 2).testBit 0 then
      s.completionSignal q.ctx.val (t.par 32 4) (BitVec.ofNat 64 (t.par 40 8)) (srcCp q.ctx.val q.ring.val)
    else s

/-! ### Parameter checks (R190, R510) -/

def checkStatInit (p : List Byte) : Option Nat :=
  let c := bsub p 64 64
  let f := Fmt.ofCode (fld c 14 1 % 16)
  let flags := fld c 25 1
  if local64 (fld p 16 8) && zeroBytes p 32 64 && zeroBytes c 4 12 && fld c 13 1 == 0 && f.isSome && fld c 14 1 < 16 &&
      scaleValid (scS c) && decide (1 ≤ fld c 15 1) && decide (fld c 15 1 ≤ 16) && zeroBytes c 16 24 &&
      decide (fld c 24 1 ≤ 31) && decide (flags < 8) && zeroBytes c 26 28 && zeroBytes c 38 64 &&
      !(flags.testBit 2 && (f.any Fmt.isSb || (f.bind scaleRange).isNone)) &&
      (f.any hasTensorZp || fld c 12 1 == 0) then none
  else some stStatInvalid

def checkStatList (pairBytes : Nat) (p : List Byte) : Option Nat :=
  let n := fld p 24 4
  if local64 (fld p 16 8) && decide (1 ≤ n) && decide (n ≤ 4096) && decide (fld p 36 2 < 2) && fld p 38 2 == 0 &&
      zeroBytes p 48 64 && pairBytes != 0 then none
  else some stStatInvalid

def checkGscaleInit (p : List Byte) : Option Nat :=
  let sb := fun (o : Nat) => (BitVec.ofNat 8 (fld p o 1)).toInt
  if local64 (fld p 16 8) && decide (sb 29 ≤ sb 28) && decide (sb 28 ≤ sb 30) && decide (-126 ≤ sb 29) &&
      decide (1 ≤ fld p 31 1) && decide (1 ≤ fld p 32 1) && decide (fld p 32 1 ≤ 16) && fld p 34 2 == 0 &&
      zeroBytes p 40 64 then none
  else some stStatInvalid

/-! ### Commands -/

/-- A list of addresses read from memory, then its items. -/
def State.listCommand (s : State) (q : CmdRef) (t : Taken) (each : Nat) (f : State → Nat → State × ItemEnd)
    (items : List Byte → List Nat) : State :=
  s.cmdOutcome q stStatInvalid (s.readVa q.ctx.val (t.par 16 8) (each * t.par 24 4) (.other false) false 0)
    (fun s1 b => s.listEnd q t (runItems f s1 0 0 none (items b)))

def execStatInit (q : CmdRef) (s : State) : Host.Outcome State Fault Refusal :=
  .next (s.perform q 0x0800 (fun s t =>
    let c := bsub t.packet 64 64
    let inv := invS (scS c)
    let step := t.par 28 4
    let scale := scaleWith c (scS c) inv step (scZp c) (scZp c) (scS c) inv
    let bytes := (openRecord (t.par 24 4) step).bytes ++ scale ++ List.replicate 1024 0
    s.cmdOutcome q stStatInvalid (s.writeVa q.ctx.val (t.par 16 8) bytes (.other false) 0)
      (fun s _ => s.complete q stOk 0 0)))

def execStatClose (q : CmdRef) (s : State) : Host.Outcome State Fault Refusal :=
  .next (s.perform q 0x0801 (fun s t =>
    s.listCommand q t 8 (fun s va => s.closeItem q va (t.par 28 4))
      (fun b => (List.range (t.par 24 4)).map (fun i => fld b (8 * i) 8))))

/-- The bytes of a gradient scale entry (R186). -/
def gscaleBytes (k pk : Int) (limits : List Byte) (stepK clean : Nat) (mid : List Byte) (pow ppow : W32) (ring : List Byte) :
    List Byte :=
  [BitVec.ofInt 8 k, BitVec.ofInt 8 pk] ++ limits ++ leBytes 4 stepK ++ leBytes 1 clean ++ mid ++ leBytes 4 pow.toNat ++
    leBytes 4 ppow.toNat ++ List.replicate 8 0 ++ ring ++ List.replicate 16 0

def execGscaleInit (q : CmdRef) (s : State) : Host.Outcome State Fault Refusal :=
  .next (s.perform q 0x0802 (fun s t =>
    let k := (BitVec.ofNat 8 (t.par 28 1)).toInt
    let mid := bsub t.packet 31 3 ++ bsub t.packet 36 4
    let bytes := gscaleBytes k k (bsub t.packet 29 2) (t.par 24 4) 0 mid (F32.pow2 k) (F32.pow2 k) (List.replicate 16 0x80)
    s.cmdOutcome q stStatInvalid (s.writeVa q.ctx.val (t.par 16 8) bytes (.other false) 0)
      (fun s _ => s.complete q stOk 0 0)))

def s8 (b : List Byte) (o : Nat) : Int := (BitVec.ofNat 8 (fld b o 1)).toInt

/-- R188 on an entry and a health word: the new entry, the new k and the cause of a fall. -/
def advanceGscale (g h : List Byte) (step : Nat) : List Byte × Int × Nat :=
  let k0 := s8 g 0
  let nonfin := fld h 4 4
  let sat := fld h 8 4
  let e := (BitVec.ofNat 16 (fld h 12 2)).toInt
  let slot := step % 16
  let bad := decide (0 < nonfin) || decide (fld g 12 4 < sat)
  let entry : Int := if bad || e == -32768 then -128 else min 127 (max (-127) (e - k0))
  let ring := (List.range 16).map (fun j => if j = slot then entry else s8 g (32 + j))
  let cause := if bad then (if 0 < nonfin then 1 else 2) else 0
  let run := min 255 (fld g 8 1 + 1)
  let raised := !bad && decide (fld g 9 1 ≤ run)
  let k := if bad then k0 - 1 else if raised then k0 + 1 else k0
  let clean := if bad || raised then 0 else run
  let u := ((List.range (fld g 10 1)).filter (fun d => d ≤ step)).map (fun d => ring.getD ((step - d) % 16) (-128)) |>.filter
    (fun x => x != -128)
  let cap := s8 g 11 - u.foldl max (-128)
  let capped := !u.isEmpty && decide (cap < k)
  let k' := if capped then cap else k
  let cause := if capped && cause == 0 && decide (k' < k0) then 3 else cause
  let k' := min (s8 g 3) (max (s8 g 2) k')
  (gscaleBytes k' k0 (bsub g 2 2) ((step + 1) % 2 ^ 32) clean (bsub g 9 7) (F32.pow2 k') (BitVec.ofNat 32 (fld g 16 4))
    (ring.map (BitVec.ofInt 8)), k', cause)

/-- GSCALE_ADVANCE of one pair: entry address in the low 64 bits, health-word address above. -/
def State.advanceEntry (s : State) (q : CmdRef) (step : Nat) (pair : Nat) : State × ItemEnd :=
  let ctx := q.ctx.val
  let ev := pair % 2 ^ 64
  let hv := pair / 2 ^ 64
  if !local64 ev || !(hv % 16 == 0 && vaSpace hv == 0) then (s, .refused stStatInvalid)
  else
    match s.readVa ctx ev 64 (.other false) false 0 with
    | (s, .ok g) =>
      match s.readVa ctx hv 16 (.other false) false 0 with
      | (s, .ok h) =>
        if fld g 4 4 ≠ step then (s, .refused stStatStep)
        else if fld h 0 4 ≠ step then (s, .refused stStatSummary)
        else
          let a := advanceGscale g h step
          match s.writeVa ctx ev a.1 (.other false) 0 with
          | (s, .ok _) =>
            let k0 := s8 g 0
            let s := { s with stat := { s.stat with
              advances := wrapAdd 32 s.stat.advances 1
              downs := if a.2.1 < k0 then satAdd 16 s.stat.downs 1 else s.stat.downs
              ups := if k0 < a.2.1 then satAdd 16 s.stat.ups 1 else s.stat.ups } }
            let s :=
              if a.2.1 < k0 then
                s.raise 0x0233 (srcCp ctx q.ring.val) (some ctx)
                  [ev, step, (BitVec.ofInt 8 a.2.1).toNat + (BitVec.ofInt 8 k0).toNat * 2 ^ 8, a.2.2]
              else s
            (s, .done)
          | (s, x) => (s, .ofGot x)
      | (s, x) => (s, .ofGot x)
    | (s, x) => (s, .ofGot x)

def execGscaleAdvance (q : CmdRef) (s : State) : Host.Outcome State Fault Refusal :=
  .next (s.perform q 0x0803 (fun s t =>
    s.listCommand q t 16 (fun s pair => s.advanceEntry q (t.par 28 4) pair)
      (fun b => (List.range (t.par 24 4)).map (fun i => fld b (16 * i) 16))))

end Sys2Proof.Machine
end

