-- ==== Sys2Proof/Machine/CollPlan.lean ====
section
/-! DEFINITION. What a collective computes from its descriptor and rank map alone (12_collectives.md R354 to R373, R379, R380):
geometry, streams, chunk conversion, health words, the plan of a PERMUTE. -/

namespace Sys2Proof.Machine

/-! ### The descriptor (R357, R359) -/

structure CollD where
  op : Nat
  algo : Nat
  red : Nat
  wire : Nat
  sfmt : Nat
  dfmt : Nat
  tc : Nat
  flags : Nat
  tag : Nat
  tensor : Nat
  count : Nat
  base : Nat
  src : Nat
  dst : Nat
  map_ : Nat
  scratch : Nat
  scratchSize : Nat
  health : Nat
  aux : Nat
  deadline : Nat
  endDeadline : Nat
  root : Nat
  unitLog : Nat
  moves : Nat
  movesVa : Nat
  tagVa : Nat
  deriving DecidableEq, Repr

def CollD.of (b : List Byte) : CollD :=
  { op := fld b 0 1, algo := fld b 1 1, red := fld b 2 1, wire := fld b 3 1, sfmt := fld b 4 1, dfmt := fld b 5 1
    tc := fld b 6 1, flags := fld b 7 1, tag := fld b 8 4, tensor := fld b 12 4, count := fld b 16 8, base := fld b 24 8
    src := fld b 32 8, dst := fld b 40 8, map_ := fld b 48 8, scratch := fld b 56 8, scratchSize := fld b 64 8
    health := fld b 72 8, aux := fld b 80 8, deadline := fld b 88 8, endDeadline := fld b 96 8, root := fld b 104 2
    unitLog := fld b 106 1, moves := fld b 108 4, movesVa := fld b 112 8, tagVa := fld b 120 8 }

def CollD.grad (d : CollD) : Bool := d.flags.testBit 0
def CollD.rescale (d : CollD) : Bool := d.flags.testBit 1
def CollD.fmode (d : CollD) : Nat := bits d.flags 3 2
def CollD.stripes (d : CollD) : Nat := bits d.flags 6 4 + 1
def CollD.tagged (d : CollD) : Bool := d.flags.testBit 7
def CollD.raw (d : CollD) : Bool := d.wire == 3
def CollD.reducing (d : CollD) : Bool := decide (d.op < 2)
def CollD.unit (d : CollD) : Nat := 2 ^ d.unitLog
/-- Bytes of an element of a buffer; RAW counts bytes. -/
def CollD.srcBytes (d : CollD) : Nat := if d.raw then 1 else if d.sfmt = 0 then 4 else 2
def CollD.dstBytes (d : CollD) : Nat := if d.raw then 1 else if d.dfmt = 0 then 4 else 2

/-- ALGO allowed for OP (R358). -/
def algoAllowed (op algo : Nat) : Bool :=
  match op with
  | 0 => decide (algo < 4)
  | 1 => decide (algo < 3)
  | 2 => decide (algo < 2)
  | 3 => algo == 0 || algo == 1 || algo == 3
  | _ => algo == 0

/-- The part of R359 that needs no rank map (log entry 86). -/
def CollD.fieldsOk (b : List Byte) : Bool :=
  let d := CollD.of b
  decide (d.op < 8) && algoAllowed d.op d.algo && (if d.reducing then decide (d.red < 4) else d.red == 0) && decide (d.wire < 4) &&
    (if d.raw then d.sfmt == 0 && d.dfmt == 0 else decide (d.sfmt < 2) && decide (d.dfmt < 2)) && decide (1 ≤ d.tc) &&
    decide (d.tc ≤ 7) && d.fmode != 3 && fld b 107 1 == 0 && !(d.raw && d.reducing) && (d.op != 7 || d.raw) &&
    (d.stripes == 1 || d.algo == 1 || d.algo == 2) && (!d.tagged || d.op == 2) &&
    (d.fmode == 0 || (d.reducing && d.algo != 1)) && decide (d.base < 2 ^ 48) &&
    (d.op != 7 || (decide (12 ≤ d.unitLog) && decide (d.unitLog ≤ 30))) &&
    (d.aux == 0 || d.fmode == 1 || d.tagged) &&
    local64 d.src && local64 d.dst && local64 d.map_ && d.scratch % 4096 == 0 && vaSpace d.scratch == 0 &&
    d.scratchSize % 4096 == 0 && d.health % 16 == 0 && vaSpace d.health == 0 && local64 d.aux &&
    d.movesVa % 16 == 0 && vaSpace d.movesVa == 0 && local64 d.tagVa

/-! ### Geometry (R358, R360, R364 to R368) -/

/-- A collective as one rank sees it. -/
structure CollG where
  d : CollD
  n : Nat
  inner : Nat
  me : Nat
  deriving DecidableEq, Repr

def CollG.two (g : CollG) : Bool := g.d.algo == 2
def CollG.outer (g : CollG) : Nat := g.n / max 1 g.inner
def CollG.innerIdx (g : CollG) : Nat := g.me % max 1 g.inner
def CollG.outerIdx (g : CollG) : Nat := g.me / max 1 g.inner
/-- The tensor is one shard: BROADCAST, SEND, RECV and TREE. -/
def CollG.whole (g : CollG) : Bool := g.d.op == 3 || g.d.op == 4 || g.d.op == 5 || g.d.algo == 3
/-- Elements (bytes for RAW) of a shard and of a chunk; chunks of a shard, and shards. -/
def CollG.shardLen (g : CollG) : Nat := if g.whole then g.d.count else g.d.count / max 1 g.n
def CollG.chunkLen (g : CollG) : Nat := if g.d.raw then 4096 else 1024
def CollG.perShard (g : CollG) : Nat := (g.shardLen + g.chunkLen - 1) / g.chunkLen
def CollG.shards (g : CollG) : Nat := if g.whole then 1 else g.n
/-- First element and length of a chunk. -/
def CollG.start (g : CollG) (i : Nat) : Nat := i / max 1 g.perShard * g.shardLen + i % max 1 g.perShard * g.chunkLen
def CollG.len (g : CollG) (i : Nat) : Nat := min g.chunkLen (g.shardLen - i % max 1 g.perShard * g.chunkLen)
/-- The chunks of `k` shards from shard `q`. -/
def CollG.chunksFrom (g : CollG) (q k : Nat) : List Nat := (List.range (k * g.perShard)).map (q * g.perShard + ·)
def CollG.all (g : CollG) : List Nat := g.chunksFrom 0 g.shards
def CollG.stripe (g : CollG) (i : Nat) : Nat := i % max 1 g.perShard % g.d.stripes

/-- The inner shard of an inner index: OUTER ring shards. -/
def CollG.innerShard (g : CollG) (i : Nat) : List Nat := g.chunksFrom (i * g.outer) g.outer

/-- The ranks among which stage 0 of MESH and TWO_LEVEL adds, in order. -/
def CollG.meshGroup (g : CollG) : List Nat :=
  if g.two then (List.range g.inner).map (g.outerIdx * g.inner + ·) else List.range g.n
/-- The chunks that a rank of that group reduces. -/
def CollG.meshChunks (g : CollG) (rank : Nat) : List Nat :=
  if g.two then g.innerShard (rank % max 1 g.inner) else g.chunksFrom rank 1

/-- The ring: its size, own place, the rank at a place, the first shard, its stages of reduction and gather. -/
def CollG.ringSize (g : CollG) : Nat := if g.two then g.outer else g.n
def CollG.ringPos (g : CollG) : Nat := if g.two then g.outerIdx else g.me
def CollG.ringRank (g : CollG) (p : Nat) : Nat := if g.two then p * g.inner + g.innerIdx else p
def CollG.ringShard (g : CollG) (i : Nat) : Nat :=
  if g.two then i / max 1 g.perShard - g.innerIdx * g.outer else i / max 1 g.perShard
def CollG.ringRed (g : CollG) : Nat := if g.two then 1 else 0
def CollG.ringGather (g : CollG) : Nat := if g.two then 2 else 1
def CollG.ringChunks (g : CollG) (q : Nat) : List Nat :=
  if g.whole then g.all else if g.two then g.chunksFrom (g.innerIdx * g.outer + q) 1 else g.chunksFrom q 1
def CollG.pred (g : CollG) (r : Nat) : Nat := (g.ringPos + g.ringSize - (2 * r + 1) % max 1 g.ringSize) % max 1 g.ringSize
def CollG.succ (g : CollG) (r : Nat) : Nat := (g.ringPos + (2 * r + 1)) % max 1 g.ringSize

/-- The tree: own position, the rank at a position, parent and children by rank (R368). -/
def CollG.treeRoot (g : CollG) : Nat := if g.d.op = 3 then g.d.root else 0
def CollG.treePos (g : CollG) (rank : Nat) : Nat := (rank + g.n - g.treeRoot) % max 1 g.n
def CollG.treeRank (g : CollG) (t : Nat) : Nat := (t + g.treeRoot) % max 1 g.n
def CollG.parent (g : CollG) : Option Nat :=
  let t := g.treePos g.me
  if t = 0 then none else some (g.treeRank ((t - 1) / 2))
def CollG.children (g : CollG) : List Nat :=
  let t := g.treePos g.me
  ([2 * t + 1, 2 * t + 2].filter (fun u => u < g.n)).map g.treeRank

/-- Positions of the subtree of a position, by levels: first and last of each. -/
def subtreeSize : Nat → Nat → Nat → Nat → Nat
  | 0, _, _, _ => 0
  | f + 1, lo, hi, n => if n ≤ lo then 0 else min hi (n - 1) + 1 - lo + subtreeSize f (2 * lo + 1) (2 * hi + 2) n

/-! ### Streams (R362, R364) -/

def flow (out : Bool) (stage stripe peer : Nat) (chunks : List Nat) : Flow := ⟨out, stage, stripe, peer, chunks, 0, 0⟩

def CollG.meshReduce (g : CollG) : List Flow :=
  (g.meshGroup.filter (fun p => p != g.me)).flatMap (fun p =>
    [flow true 0 0 p (g.meshChunks p), flow false 0 0 p (g.meshChunks g.me)])

def CollG.meshGather (g : CollG) (stage : Nat) : List Flow :=
  (g.meshGroup.filter (fun p => p != g.me)).flatMap (fun p =>
    [flow true stage 0 p (g.meshChunks g.me), flow false stage 0 p (g.meshChunks p)])

/-- The ring shards of all places but one, of one stripe. -/
def CollG.ringBut (g : CollG) (r but : Nat) : List Nat :=
  (((List.range g.ringSize).filter (fun q => q != but)).flatMap g.ringChunks).filter (fun i => g.stripe i == r)

def CollG.ringReduce (g : CollG) : List Flow :=
  if g.ringSize ≤ 1 then []
  else (List.range g.d.stripes).flatMap (fun r =>
    [flow true g.ringRed r (g.ringRank (g.succ r)) (g.ringBut r g.ringPos),
     flow false g.ringRed r (g.ringRank (g.pred r)) (g.ringBut r (g.pred r))])

def CollG.ringPass (g : CollG) : List Flow :=
  if g.ringSize ≤ 1 then []
  else (List.range g.d.stripes).flatMap (fun r =>
    [flow true g.ringGather r (g.ringRank (g.succ r)) (g.ringBut r (g.succ r)),
     flow false g.ringGather r (g.ringRank (g.pred r)) (g.ringBut r g.ringPos)])

def CollG.treeUp (g : CollG) : List Flow :=
  (g.children.map (fun c => flow false 0 0 c g.all)) ++
    (match g.parent with
     | some p => [flow true 0 0 p g.all]
     | none => [])

def CollG.treeDown (g : CollG) : List Flow :=
  (g.children.map (fun c => flow true 1 0 c g.all)) ++
    (match g.parent with
     | some p => [flow false 1 0 p g.all]
     | none => [])

/-- BROADCAST on the ring: the root's chunks go round until the place before it. -/
def CollG.ringCast (g : CollG) : List Flow :=
  if g.n ≤ 1 then []
  else (List.range g.d.stripes).flatMap (fun r =>
    let mine := g.all.filter (fun i => g.stripe i == r)
    (if g.succ r = g.d.root then [] else [flow true 1 r (g.succ r) mine]) ++
      (if g.me = g.d.root then [] else [flow false 1 r (g.pred r) mine]))

def CollG.others (g : CollG) : List Nat := (List.range g.n).filter (fun p => p != g.me)

/-- The streams of every operation but PERMUTE. -/
def CollG.flows (g : CollG) : List Flow :=
  let l :=
    match g.d.op with
    | 0 =>
      match g.d.algo with
      | 0 => g.meshReduce ++ g.meshGather 1
      | 1 => g.ringReduce ++ g.ringPass
      | 2 => g.meshReduce ++ g.ringReduce ++ g.ringPass ++ g.meshGather 3
      | _ => g.treeUp ++ g.treeDown
    | 1 =>
      match g.d.algo with
      | 0 => g.meshReduce
      | 1 => g.ringReduce
      | _ => g.meshReduce ++ g.ringReduce ++ g.ringPass
    | 2 => if g.d.algo = 0 then g.meshGather 1 else g.ringPass
    | 3 =>
      match g.d.algo with
      | 0 =>
        if g.me = g.d.root then g.others.map (fun p => flow true 1 0 p g.all) else [flow false 1 0 g.d.root g.all]
      | 1 => g.ringCast
      | _ => g.treeDown
    | 4 => [flow true 1 0 g.d.root g.all]
    | 5 => [flow false 1 0 g.d.root g.all]
    | 6 => g.others.flatMap (fun p => [flow true 1 0 p (g.chunksFrom p 1), flow false 1 0 p (g.chunksFrom g.me 1)])
    | _ => []
  l.filter (fun f => !f.chunks.isEmpty)

/-- Whether a stage adds. -/
def CollG.adds (g : CollG) (stage : Nat) : Bool := g.d.reducing && decide (stage ≤ (if g.two then 1 else 0))
/-- The stage in which a final value is converted for its gather (R364, R369); none where there is no gather. -/
def CollG.gatherStage (g : CollG) : Option Nat :=
  if g.two then some 2 else if g.d.op = 1 then none else some 1
/-- Stage 0 of MESH, TREE and TWO_LEVEL: late mode acts there (R375). -/
def CollG.lateStage (g : CollG) (stage : Nat) : Bool := g.d.fmode != 0 && stage == 0

/-- Buffers: addresses of a chunk, and lengths in bytes (R358). -/
def CollG.srcVa (g : CollG) (i : Nat) : Nat :=
  g.d.src + (g.start i - (if g.d.op = 2 then g.me * g.shardLen else 0)) * g.d.srcBytes
def CollG.dstVa (g : CollG) (from_ i : Nat) : Nat :=
  g.d.dst + g.d.dstBytes *
    (if g.d.op = 6 then from_ * g.shardLen + i % max 1 g.perShard * g.chunkLen
     else g.start i - (if g.d.op = 1 then (if g.two then g.innerIdx * g.outer * g.shardLen else g.me * g.shardLen) else 0))
/-- The chunk's place in the carry buffer, in FP32 values of the shard that this rank reduces. -/
def CollG.carryVa (g : CollG) (i : Nat) : Nat :=
  g.d.aux + 4 * (g.start i - (if g.whole then 0 else if g.two then g.innerIdx * g.outer * g.shardLen else g.me * g.shardLen))
def CollG.srcSize (g : CollG) : Nat :=
  match g.d.op with
  | 2 => g.shardLen * g.d.srcBytes
  | 3 => if g.me = g.d.root then g.d.count * g.d.srcBytes else 0
  | 5 => 0
  | 7 => 0
  | _ => g.d.count * g.d.srcBytes
def CollG.dstSize (g : CollG) : Nat :=
  match g.d.op with
  | 1 => g.shardLen * (if g.two then g.outer else 1) * g.d.dstBytes
  | 4 => 0
  | 7 => 0
  | _ => g.d.count * g.d.dstBytes
def CollG.carrySize (g : CollG) : Nat :=
  if g.d.fmode = 1 then 4 * g.shardLen * (if g.two then g.outer else 1) else 0

/-- The rest of R359, once the rank map is known; `streams` counts the incoming ones. -/
def CollG.ok (g : CollG) (streams : Nat) : Bool :=
  let d := g.d
  let unit :=
    if d.raw then (if d.op = 3 ∨ d.op = 4 ∨ d.op = 5 then 64 else 64 * g.n)
    else if d.reducing || d.op == 2 || d.op == 6 then 1024 * g.n * d.stripes else 1024
  d.count % max 1 unit == 0 &&
    (List.range d.stripes).all (fun r => decide (g.ringSize ≤ 1) || !(d.algo == 1 || d.algo == 2) ||
      (2 * r + 1).gcd g.ringSize == 1) &&
    (!(d.op == 3 || d.op == 4 || d.op == 5) || decide (d.root < g.n)) && !((d.op == 4 || d.op == 5) && d.root == g.me) &&
    (d.op == 7 || streams == 0 || decide (16 * 4096 * streams ≤ d.scratchSize))

/-! ### Health words (R371, R372) -/

def HealthW.join (a b : HealthW) : HealthW :=
  ⟨satAdd 32 a.nonfin b.nonfin, satAdd 32 a.sats b.sats, max a.maxexp b.maxexp, satAdd 16 a.missing b.missing⟩

def HealthW.bytes (h : HealthW) (step : Nat) : List Byte :=
  leBytes 4 step ++ leBytes 4 h.nonfin ++ leBytes 4 h.sats ++ leBytes 2 (BitVec.ofInt 16 h.maxexp).toNat ++ leBytes 2 h.missing

def HealthW.of (b : List Byte) : HealthW :=
  ⟨fld b 4 4, fld b 8 4, (BitVec.ofNat 16 (fld b 12 2)).toInt, fld b 14 2⟩

/-- The word of source values. -/
def HealthW.source (l : List W32) : HealthW :=
  ⟨(l.filter (fun x => !F32.isFinite x)).length, 0,
    l.foldl (fun m x => match f32 x with
      | .fin _ k e => if k = 0 then m else max m ((k.log2 : Int) + e)
      | _ => m) (-32768), 0⟩

/-! ### Adding and converting chunks (R363, R365 to R369) -/

def collOp (red : Nat) (a b : W32) : W32 :=
  match red with
  | 2 => F32.maxNum a b
  | 3 => F32.minNum a b
  | _ => F32.add a b

/-- One ⊕ over a chunk: finite operands with a non-finite result are counted. -/
def ChunkVal.plus (red : Nat) (a b : ChunkVal) : ChunkVal :=
  let z := a.vals.zip b.vals
  let vs := z.map (fun p => collOp red p.1 p.2)
  let born := (z.zip vs).filter (fun p => F32.isFinite p.1.1 && F32.isFinite p.1.2 && !F32.isFinite p.2)
  let h := a.health.join b.health
  ⟨vs, { h with nonfin := satAdd 32 h.nonfin born.length }⟩

/-- f of R369, and the value multiplied by it. -/
def CollG.scaleFinal (g : CollG) (v : ChunkVal) : ChunkVal :=
  let left := if g.d.rescale then g.n - v.health.missing else g.n
  let f :=
    if g.d.red = 0 then (if g.d.rescale then F32.div (F32.ofInt g.n) (F32.ofInt left) else F32.one)
    else if g.d.red = 1 then F32.div F32.one (F32.ofInt left)
    else F32.one
  if g.d.red = 1 || g.d.rescale then { v with vals := v.vals.map (F32.mul f) } else v

/-- The scale exponent of an E4M3 chunk. -/
def chunkScale (l : List W32) : Int :=
  let amax := (finiteOf l).foldl (fun m x => F32.maxNum m (F32.abs x)) 0
  if (f32 amax).isZero then 0
  else (((List.range 254).find? (fun (j : Nat) => !F32.ltVal (.fin false 448 ((j : Int) - 126)) (f32 amax))).getD 253 : Nat) - 126

/-- The wire form of a chunk: converted in a stage with the random bits of R363. `key` makes those of an origin. -/
def CollG.toWire (g : CollG) (key : Nat → SrKey) (stage i : Nat) (v : ChunkVal) : ChunkWire :=
  if g.d.wire = 0 then ⟨v.health, F32.one, v.vals.flatMap (fun x => leBytes 4 x.toNat)⟩
  else
    let k := if g.d.wire = 2 then chunkScale v.vals else 0
    let fmt := if g.d.wire = 2 then e4m3Fmt else bf16Fmt
    let cs := (v.vals.zipIdx).map (fun p =>
      let x := match f32 p.1 with
        | .fin s m e => FVal.fin s m (e - k)
        | y => y
      (p.1, convFloat fmt (RM.sr.rnd (key (1 + stage)) (g.d.base + g.start i + p.2)) false x))
    let sats := (cs.filter (fun c => c.2.cls.sat)).length
    let born := (cs.filter (fun c => F32.isFinite c.1 && !(fmt.decode c.2.code).isFin)).length
    ⟨{ v.health with nonfin := satAdd 32 v.health.nonfin born, sats := satAdd 32 v.health.sats sats }, F32.pow2 k,
      packCodes fmt.width (cs.map (·.2.code))⟩

/-- w(): the values of a wire form. -/
def CollG.ofWire (g : CollG) (w : ChunkWire) : ChunkVal :=
  let n := g.chunkLen
  let vs :=
    match g.d.wire with
    | 0 => (List.range n).map (fun j => BitVec.ofNat 32 (fld w.payload (4 * j) 4))
    | 1 => (List.range n).map (fun j => BF16.widen (fld w.payload (2 * j) 2))
    | _ => (List.range n).map (fun j => toF32 ((e4m3Fmt.decode (fld w.payload j 1)).mul (f32 w.scale)))
  ⟨vs, w.health⟩

/-- Values as bytes of DST_FMT: RNE, or SR when GRAD is set (stage 15). -/
def CollG.toDst (g : CollG) (key : Nat → SrKey) (i : Nat) (vs : List W32) : List Byte :=
  if g.d.dfmt = 0 then vs.flatMap (fun x => leBytes 4 x.toNat)
  else (vs.zipIdx).flatMap (fun p =>
    let rm : RM := if g.d.grad then .sr else .rne
    leBytes 2 (convFloat bf16Fmt (rm.rnd (key 16) (g.d.base + g.start i + p.2)) false (f32 p.1)).code)

/-- Source bytes as values with their word. -/
def CollG.ofSrc (g : CollG) (b : List Byte) : ChunkVal :=
  let vs := (List.range g.chunkLen).map (fun j =>
    if g.d.sfmt = 0 then BitVec.ofNat 32 (fld b (4 * j) 4) else BF16.widen (fld b (2 * j) 2))
  ⟨vs, .source vs⟩

/-- Bytes of a whole wire payload of a chunk. -/
def CollG.payloadLen (g : CollG) (i : Nat) : Nat :=
  match g.d.wire with
  | 0 => 4096
  | 1 => 2048
  | 2 => 1024
  | _ => if g.d.op = 7 then 4096 else g.len i

/-! ### The plan of a PERMUTE (R379, R380) -/

/-- Insertion by a key, ascending. -/
def insertBy {α : Type} (key : α → Nat) (x : α) : List α → List α
  | [] => [x]
  | y :: r => if key x < key y then x :: y :: r else y :: insertBy key x r

def sortBy {α : Type} (key : α → Nat) : List α → List α
  | [] => []
  | x :: r => insertBy key x (sortBy key r)

/-- The moves of a map, as read. -/
def movesOf (b : List Byte) (n : Nat) : List Move :=
  (List.range n).map (fun j => ⟨fld b (16 * j) 2, fld b (16 * j + 8) 4, fld b (16 * j + 2) 2, fld b (16 * j + 12) 4, 0, false⟩)

/-- R379. -/
def movesOk (b : List Byte) (n ranks : Nat) : Bool :=
  let l := movesOf b n
  (List.range n).all (fun j => fld b (16 * j + 4) 4 == 0) && l.all (fun m => decide (m.src < ranks) && decide (m.dst < ranks)) &&
    (l.map (fun m => (m.src, m.su))).Nodup && (l.map (fun m => (m.dst, m.du))).Nodup

/-- The move that reads a move's destination. -/
def readerOf (l : List Move) (m : Move) : Option Move := l.find? (fun x => x.src == m.dst && x.su == m.du)

/-- The moves downstream of a move, until none or the move `stop` is met. -/
def downstream (l : List Move) (stop : Move) : Nat → Move → List Move
  | 0, _ => []
  | n + 1, m =>
    match readerOf l m with
    | none => []
    | some r => if r = stop then [] else r :: downstream l stop n r

def moveKey (m : Move) : Nat := m.src * 2 ^ 32 + m.su

/-- The cycle of a move, itself first; none on a path. -/
def cycleOf (l : List Move) (m : Move) : Option (List Move) :=
  let c := m :: downstream l m l.length m
  match c.getLast? with
  | some x => if readerOf l x = some m then some c else none
  | none => none

/-- The parked moves of all cycles in order, each with its round: `cap` parked units fit on a rank. -/
def parkRounds (cap : Nat) : List Move → Nat → Map Nat → List (Move × Nat)
  | [], _, _ => []
  | m :: r, round, used =>
    if mgetD used m.src 0 + 1 ≤ cap then (m, round) :: parkRounds cap r round (mupd used m.src 0 (· + 1))
    else (m, round + 1) :: parkRounds cap r (round + 1) [(m.src, 1)]

/-- The plan: moves with their rounds, in the order of rounds and of distance from the end of their path. -/
def permutePlan (l : List Move) (cap : Nat) : List Move :=
  let lows := l.filter (fun m => match cycleOf l m with
    | some c => c.all (fun x => moveKey m ≤ moveKey x)
    | none => false)
  let rounds := parkRounds cap (sortBy moveKey lows) 0 []
  let placed := l.map (fun m =>
    match cycleOf l m with
    | none => ((downstream l m l.length m).length, m)
    | some c =>
      match rounds.find? (fun (p : Move × Nat) => c.contains p.1) with
      | none => (0, m)
      | some p => (if m = p.1 then c.length - 1 else (downstream l p.1 l.length m).length, { m with round := p.2, parked := m == p.1 }))
  (sortBy (fun x => (x.2.round * 2 ^ 32 + x.1) * 2 ^ 48 + moveKey x.2) placed).map (·.2)

/-- Chunks of a unit, and the streams of a plan: chunk indices count on from move to move. -/
def CollG.unitChunks (g : CollG) : Nat := g.d.unit / 4096

def CollG.moveFlows (g : CollG) (plan : List Move) : List Flow :=
  let u := g.unitChunks
  let idx := fun (p : Move → Bool) => (plan.zipIdx).flatMap (fun m => if p m.1 then (List.range u).map (m.2 * u + ·) else [])
  (g.others.flatMap (fun p =>
    [flow true 1 0 p (idx (fun m => m.src == g.me && m.dst == p)), flow false 1 0 p (idx (fun m => m.src == p && m.dst == g.me))])).filter
      (fun f => !f.chunks.isEmpty)

end Sys2Proof.Machine
end

