-- ==== Sys2Proof/Machine/Delivery.lean ====
section
/-! DEFINITION. Blocks that arrived and wait for their delivery (11_guylines.md R335, R341): finding one, and what its
delivery gives back to the link and to its connection. -/

namespace Sys2Proof.Machine

/-- The first block of a type in a port's receive buffers that has no earlier block of its own class before it. -/
def firstOfType (ty : Nat) : List InBlock → List Nat → Option InBlock
  | [], _ => none
  | b :: r, seen =>
    if blkType b.bytes = ty ∧ !seen.contains b.cls then some b else firstOfType ty r (b.cls :: seen)

def State.arrived (s : State) (p ty : Nat) : Option InBlock := firstOfType ty (s.port p).inbox []

/-- Bytes moved onward out of the flit buffers of a class: what the buffers still hold, and how many flits are free. -/
def freeFlits : List Nat → Nat → List Nat × Nat
  | [], _ => ([], 0)
  | a :: r, n =>
    if a ≤ n then
      let t := freeFlits r (n - a)
      (t.1, t.2 + 1)
    else ((a - n) :: r, 0)

/-- Credits for `n` bytes of a class that a direct port has moved onward (R335). -/
def PortSt.moved (x : PortSt) (cls n : Nat) : PortSt :=
  if x.direct then
    let t := freeFlits (mgetD x.buffered cls []) n
    { x with buffered := mset x.buffered cls t.1, owed := mupd x.owed cls 0 (· + t.2) }
  else x

/-- An E2E_ACK with the last sequence delivered of a connection (R341). -/
def State.sendE2eAck (s : State) (p node cls : Nat) : State :=
  match mget s.guy.receivers (connKey node cls) with
  | none => s
  | some c =>
    let s := { s with guy := { s.guy with receivers := mset s.guy.receivers (connKey node cls) { c with due := 0 } } }
    (s.sendBlock (srcPort p) node 0 false false (blockBytes node s.guy.node tyE2eAck 0 0 c.last 0 cls [])).1

/-- A block delivered counts towards the acknowledgement of its connection: 16 of them send it at once (R341). -/
def State.countDelivered (s : State) (p : Nat) (b : List Byte) : State :=
  if !blkE2e b then s
  else
    let key := connKey (blkSrc b) (blkCls b)
    match mget s.guy.receivers key with
    | none => s
    | some c =>
      let c := { c with last := blkSeq b, due := c.due + 1, dueSince := if c.due = 0 then s.local_ else c.dueSince }
      let s := { s with guy := { s.guy with receivers := mset s.guy.receivers key c } }
      if 16 ≤ c.due then s.sendE2eAck p (blkSrc b) (blkCls b) else s

/-- A block leaves the receive buffers: its credits and its acknowledgement are no longer withheld (R350). -/
def State.delivered (s : State) (p : Nat) (b : InBlock) : State :=
  let x := s.port p
  let x := { x with inbox := x.inbox.erase b }
  let s := s.setPort p (x.moved b.cls (b.bytes.length + 4))
  (s.countDelivered p b.bytes).pump p

/-- A row that delivers the next block of a type: its effect comes first, then the block leaves. -/
def State.deliver (s : State) (p ty : Nat) (f : State → List Byte → State) : State :=
  match (if s.alive then s.arrived p ty else none) with
  | some b => (f s b.bytes).delivered p b
  | none => s

/-- EV_GL_BAD_BLOCK, and its count (R330). -/
def State.badBlock (s : State) (p src cause : Nat) : State :=
  let s := { s with guy := { s.guy with discarded := satAdd 32 s.guy.discarded 1 } }
  s.raiseLimited p 1000000 0x0807 (srcPort p) none (fun n => [p, src, cause, n])

end Sys2Proof.Machine
end

