-- ==== Sys2Proof/Machine/Repair.lean ====
section
/-! DEFINITION. Fenced engines, spare cores and their swaps (04_cores.md R130 to R132; 15_recovery_and_test.md R459 to R464). -/

namespace Sys2Proof.Machine

def coreKey (c p : Nat) : Nat := 128 * c + p

/-- R459: a core with a fenced engine. -/
def State.isFenced (s : State) (c p : Nat) : Bool := mhas s.rst.repair.fenced (coreKey c p)
def State.fencedCores (s : State) (c : Nat) : List Nat := (List.range 84).filter (s.isFenced c)
/-- ASIDE of a cluster, none when it reads 0xFF. -/
def State.aside (s : State) (c : Nat) : Option Nat := mget s.rst.repair.aside c
/-- R460: repair spares stand outside the serving cores, unfenced, and not aside. -/
def State.spares (s : State) (c : Nat) : List Nat :=
  let serving := (List.range Config.cores).map (s.physCore c)
  (List.range 84).filter (fun p => !serving.contains p && !s.isFenced c p && s.aside c != some p)

/-- R132, R444, R452: the cluster is never given to a launch. -/
def State.clusterOut (s : State) (c : Nat) : Bool :=
  decide (5 ≤ (s.fencedCores c).length) || s.rst.repair.out.contains c

/-- A cluster that runs nothing shows OUT_OF_SERVICE as soon as it is; one that runs a program shows it at its end. -/
def State.showOut (s : State) (c : Nat) : State :=
  let cl := s.cluster c
  if s.clusterOut c && (cl.state == .idle || cl.state == .gated) then s.setCluster c { cl with state := .outOfService } else s

def State.setRepair (s : State) (f : RepairSt → RepairSt) : State := { s with rst := { s.rst with repair := f s.rst.repair } }
def State.setRotate (s : State) (f : RotateSt → RotateSt) : State := { s with rst := { s.rst with rotate := f s.rst.rotate } }

/-- A cluster goes out of service for a reason of its own: stream engine, buffer bank, corrupt map entry. -/
def State.outOfService (s : State) (c : Nat) : State :=
  if s.clusterOut c then s
  else
    let s := s.setRepair (fun r => { r with out := c :: r.out })
    (s.raise 0x0304 (srcCluster c) none [c, 84 - (s.fencedCores c).length, 0, 0]).showOut c

/-- A use of a cluster's repair map entry (R10, R461): where a mask and its complement do not match the entry is absent, which is
reported, and puts the cluster out of service until a TEST_RUN builds the entry again. -/
def State.mapMet (s : State) (c : Nat) : State :=
  let r := s.rst.repair
  if (mgetD r.fencedC c 0 == 0 && mgetD r.fusedC c 0 == 0) || r.absent.contains c then s
  else
    let s := s.setRepair (fun r => { r with absent := c :: r.absent })
    (s.raise 0x0D0B srcRst none [c, if mgetD r.fencedC c 0 != 0 then 1 else 2, 0, 0]).outOfService c

/-- ASIDE follows the fences (R460): with four cores fenced rotation halts, and a fenced core aside gives its place to the
highest repair spare. -/
def State.asideAfterFence (s : State) (c p : Nat) : State :=
  if 4 ≤ (s.fencedCores c).length then
    if (s.aside c).isNone then s
    else
      let s := s.setRepair (fun r => { r with aside := mdel r.aside c })
      s.raise 0x0D06 srcRst none [c, (s.fencedCores c).length, 0, 0]
  else if s.aside c = some p then
    match (s.spares c).getLast? with
    | some q => s.setRepair (fun r => { r with aside := mset r.aside c q })
    | none => s.setRepair (fun r => { r with aside := mdel r.aside c })
  else s

/-- An engine fenced (R459): EV_ENGINE_FENCED; `how` is 1 L1, 2 cold, 3 TEST_RUN, 4 rotation. -/
def State.fence (s : State) (c p engine : Nat) (signature : W64) (how : Nat) : State :=
  let old := mgetD s.rst.repair.fenced (coreKey c p) []
  if old.contains engine then s
  else
    let was := s.clusterOut c
    let s := s.setRepair (fun r => { r with fenced := mset r.fenced (coreKey c p) (engine :: old) })
    let s := (s.raise 0x0D03 (srcCluster c) none [c, p + engine * 2 ^ 8, signature.toNat, how]).asideAfterFence c p
    if s.clusterOut c && !was then
      (s.raise 0x0304 (srcCluster c) none [c, 84 - (s.fencedCores c).length, 0, 0]).showOut c
    else s

/-- The lowest repair spare takes a fenced core's logical position (R459). -/
def State.repairCore (s : State) (c l : Nat) : State :=
  let p := s.physCore c l
  if !s.isFenced c p then s
  else
    match s.spares c with
    | [] => s
    | q :: _ =>
      let s := s.setRepair (fun r => { r with coreMap := mset r.coreMap (coreKey c l) q })
      s.raise 0x0303 (srcCluster c) none [c, l, p * 2 ^ 8 + q, 0]

def State.rotationNs (s : State) : Nat := max 1 (bits (s.reg rRotation) 63 32) * 1000000000

/-- The next core that rotation tests: one given to test and repair (R133; log entry 109), otherwise the one that the pointer
names, in increasing index, past fenced cores and the core aside (log entry 83). -/
def State.rotationNext (s : State) (c : Nat) : Option Nat :=
  let p := mgetD s.rst.rotate.pointer c 0
  let given := (s.rst.repair.given.filter (fun g => g.1 == c && g.2.2 != 4)).map (·.2.1)
  ((given ++ (List.range 84).map (fun j => (p + j) % 84)).filter (fun q => !s.isFenced c q && s.aside c != some q)).head?

/-- A rotation swap (R463): the core at the pointer gives its logical position to the core aside and is tested. -/
def State.rotateSwap (s : State) (c : Nat) : State :=
  match s.aside c, s.rotationNext c with
  | some a, some p =>
    if !(s.reg rRotation).testBit 0 || mhas s.rst.rotate.testing c ||
        decide (s.local_ < mgetD s.rst.rotate.lastSwap c 0 + s.rotationNs) then s
    else
      let wrapped := decide (p < mgetD s.rst.rotate.pointer c 0) || p == 83
      let s := s.setRotate (fun r => { r with
        pointer := mset r.pointer c ((p + 1) % 84), lastSwap := mset r.lastSwap c s.local_
        testing := mset r.testing c (s.cur.departures, s.cur.monitorsOut.length)
        round := if wrapped && !r.round.contains c then c :: r.round else r.round })
      let at_ := (List.range Config.cores).find? (fun l => s.physCore c l == p)
      let s := s.setRepair (fun r => { r with aside := mset r.aside c p })
      match at_ with
      | some l =>
        let s := s.setRepair (fun r => { r with coreMap := mset r.coreMap (coreKey c l) a })
        s.raise 0x0303 (srcCluster c) none [c, l, p * 2 ^ 8 + a, 1]
      | none => s
  | _, _ => s

/-- A core has been tested: it is no longer given to test and repair. -/
def State.tested (s : State) (c p : Nat) : State :=
  s.setRepair (fun r => { r with given := r.given.filter (fun g => !(g.1 == c && g.2.1 == p && g.2.2 != 4)) })

/-- A program boundary of a cluster (R130): repairs first, then the rotation swap. -/
def State.boundary (s : State) (c : Nat) : State :=
  let s := s.mapMet c
  ((List.range Config.cores).foldl (fun s l => s.repairCore c l) s).rotateSwap c

end Sys2Proof.Machine
end

