-- ==== Sys2Proof/Machine/Launch.lean ====
section
/-! DEFINITION. Launches and cluster grants (05_core_programs.md R144 to R151, R168; 04_cores.md R97, R124, R134). -/

namespace Sys2Proof.Machine

def stImageInvalid : Nat := 0x0202
def stClusterUnavailable : Nat := 0x0203
def stClusterNotHeld : Nat := 0x0204
def stClusterHeld : Nat := 0x0205
def stProgAborted : Nat := 0x0206
def stLaunchInvalid : Nat := 0x0207
def stCtxAbsent : Nat := 0x0703

/-- The clusters that a CLUSTER_SET of 40 bytes names (R146). -/
def clusterSet (p : List Byte) (off : Nat) : List Nat := bitSet (bsub p off 40)

/-! ### Power (14_curator.md R430) -/

/-- The package leaves Idle or Rest: the clocks return at WAKE_COMPLETE. -/
def State.beginWake (s : State) : State :=
  if s.cur.power = .active || s.cur.waking.isSome then s
  else { s with cur := { s.cur with waking := some (s.cur.power, s.local_) } }

/-! ### Parameter checks (R147, R148, R510) -/

def checkLaunch (p : List Byte) : Option Nat :=
  if decide (fld p 24 2 < 4) && fld p 26 2 == 0 && zeroBytes p 56 64 && zeroBytes p 104 128 && !(clusterSet p 64).isEmpty then
    none
  else some stLaunchInvalid

def checkAbort (p : List Byte) : Option Nat := if zeroBytes p 16 64 then none else some stLaunchInvalid
def checkGrant (p : List Byte) : Option Nat :=
  if zeroBytes p 18 24 then none else some stLaunchInvalid

/-! ### Images (R144) -/

/-- The words of an image's body. -/
def imageWords (b : List Byte) (n : Nat) : List W128 := (List.range n).map (fun i => BitVec.ofNat 128 (fld b (16 * i) 16))

/-- A launch refused before its start, or ended: its record and its counts. -/
def State.endLaunch (s : State) (q : CmdRef) (status r0 : Nat) (r1 : W64) : State :=
  let s := { s with
    eng := { s.eng with
      launches := s.eng.launches.filter (fun l => l.q != q), completed := wrapAdd 32 s.eng.completed 1
      faulted := if status = stProgFault then satAdd 32 s.eng.faulted 1 else s.eng.faulted }
    pegs := { s.pegs with waits := s.pegs.waits.filter (fun w => w.who != Waiter.launch q) } }
  s.complete q status r0 r1.toNat

/-- EV_LAUNCH_END of a launch that had started, after its record (R150). -/
def State.launchEnded (s : State) (q : CmdRef) (status started : Nat) : State :=
  s.raise 0x0222 (srcCp q.ctx.val q.ring.val) (some q.ctx.val) [q.seq.toNat, status, s.now - started, 0]

/-- EV_PROG_IMAGE_INVALID, and the launch's end. -/
def State.badImage (s : State) (q : CmdRef) (va cause : Nat) : State :=
  (s.raise 0x0223 (srcCp q.ctx.val q.ring.val) (some q.ctx.val) [q.seq.toNat, va, cause, 0]).endLaunch q stImageInvalid 0 0

/-- The image fetched and checked. -/
def State.withImage (s : State) (q : CmdRef) (va : Nat) (f : State → List W128 → State) : State :=
  let ctx := q.ctx.val
  if va % 64 ≠ 0 ∨ vaSpace va ≠ 0 then s.badImage q va 4
  else
    let step := fun (r : State × Got (List Byte)) (f : State → List Byte → State) =>
      match r.2 with
      | .ok b => f r.1 b
      | .wait c => ({ s with tier := r.1.tier }).stallOn (.cmd q) ctx c
      | .fault _ => r.1.badImage q va 4
      | .damaged line => r.1.uncorrectable 5 (some ctx) line 0
    step (s.readVa ctx va 64 (.other false) false 0) (fun s1 h =>
      let n := fld h 4 2
      if fld h 0 4 ≠ 0x50470A10 then s1.badImage q va 1
      else if n = 0 ∨ 1024 < n ∨ fld h 6 2 ≠ 0 ∨ !zeroBytes h 12 64 then s1.badImage q va 2
      else
        step (s1.readVa ctx (va + 64) (16 * n) (.other false) false 0) (fun s2 b =>
          if (crc32c b).toNat ≠ fld h 8 4 then s2.badImage q va 3 else f s2 (imageWords b n)))

/-! ### The peg condition (R148) -/

/-- A refusal of a launch whose clusters are not there: not held, or out of service (log entry 83). -/
def State.launchRefusal (s : State) (ctx : Nat) (set : List Nat) : Option Nat :=
  if set.any (fun c => (s.cluster c).holder != some ctx) then some stClusterNotHeld
  else if set.any s.clusterOut then some stClusterUnavailable
  else none

/-- The first queued launch of a ring. -/
def State.firstQueued (s : State) (ctx ring : Nat) : Option Launch :=
  s.eng.launches.find? (fun l => l.phase == .queued && l.q.ctx.val == ctx && l.q.ring.val == ring)

/-- The first queued launch of a ring reaches its peg condition: refused, met, or waiting. A refused one lets the next one
reach its own. -/
def State.launchPegs (s : State) (ctx ring : Nat) : Nat → State
  | 0 => s
  | n + 1 =>
    match s.firstQueued ctx ring with
    | none => s
    | some l =>
      if !l.waitEn || l.pegMet || s.pegs.waits.any (fun w => w.who == Waiter.launch l.q) then s
      else if pegCount ≤ l.waitPeg then (s.endLaunch l.q stPegRange 0 0).launchPegs ctx ring n
      else if !s.pegOwned ctx l.waitPeg then (s.endLaunch l.q stPegNotOwned 0 0).launchPegs ctx ring n
      else
        let r := s.startWait ⟨.launch l.q, ctx, l.waitPeg, false, l.waitValue, 0⟩
        match r.2 with
        | .met _ => (r.1.setLaunch l.q (fun l => { l with pegMet := true })).stallOff (.cmd l.q)
        | _ => r.1.stallOn (.cmd l.q) ctx 7

/-! ### Commands -/

def execProgLaunch (q : CmdRef) (s : State) : Host.Outcome State Fault Refusal :=
  .next (s.perform q 0x0200 (fun s t =>
    let set := clusterSet t.packet 64
    let s := set.foldl State.mapMet s
    match s.launchRefusal q.ctx.val set with
    | some st => s.endLaunch q st 0 0
    | none =>
      s.withImage q (t.par 16 8) (fun s image =>
        let l : Launch :=
          { q := q, progVa := BitVec.ofNat 64 (t.par 16 8), waitEn := (t.par 24 2).testBit 0, waitPeg := t.par 32 4
            waitValue := BitVec.ofNat 64 (t.par 40 8), sigEn := (t.par 24 2).testBit 1, sigPeg := t.par 36 4
            sigAddend := BitVec.ofNat 64 (t.par 48 8), step := BitVec.ofNat 32 (t.par 28 4), set := set
            args := (List.range 8).map (fun i => BitVec.ofNat 64 (t.par (128 + 8 * i) 8)), image := image, phase := .queued
            pegMet := false, started := 0, stop := none, result1 := 0 }
        let s := (s.startTaken q).stallOff (.cmd q)
        let s := { s with eng := { s.eng with launches := s.eng.launches ++ [l] } }
        s.launchPegs q.ctx.val q.ring.val 1)))

/-- PROG_ABORT stops every launch of the context that has started (R168). -/
def execProgAbort (q : CmdRef) (s : State) : Host.Outcome State Fault Refusal :=
  .next (s.perform q 0x0201 (fun s _ =>
    let mine := s.eng.launches.filter (fun l => l.q.ctx == q.ctx && l.phase == .running && l.stop.isNone)
    (mine.foldl (fun s l => s.stopLaunch l.q stProgAborted 0) s).complete q stOk mine.length 0))

/-- CLUSTER_GRANT. A cluster that the context holds already stays as it is, and a release that waits for its boundary still takes
effect there (log entry 112). -/
def execClusterGrant (q : CmdRef) (s : State) : Host.Outcome State Fault Refusal :=
  .next (s.perform q 0x0202 (fun s t =>
    let ctx := t.par 16 2
    let set := clusterSet t.packet 24
    if !mhas s.host.ctxs ctx then s.complete q stCtxAbsent 0 0
    else if set.any (fun c => (s.cluster c).holder.any (· != ctx)) then s.complete q stClusterHeld 0 0
    else
      (set.foldl (fun s c => s.setCluster c { s.cluster c with holder := some ctx }) s).complete q stOk 0 0))

/-- A cluster given back: its buffer is cleared (R124, R145). -/
def State.giveBack (s : State) (c : Nat) : State :=
  let cl := s.cluster c
  s.setCluster c { cl with holder := none, releasing := false, buf := [], hidden := [], pools := [] }

def Cluster.busy (cl : Cluster) : Bool := cl.state == .loading || cl.state == .running || cl.state == .draining

def execClusterRelease (q : CmdRef) (s : State) : Host.Outcome State Fault Refusal :=
  .next (s.perform q 0x0203 (fun s t =>
    let ctx := t.par 16 2
    if !mhas s.host.ctxs ctx then s.complete q stCtxAbsent 0 0
    else
      let mine := (clusterSet t.packet 24).filter (fun c => (s.cluster c).holder == some ctx)
      let s := mine.foldl (fun s c =>
        if (s.cluster c).busy then s.setCluster c { s.cluster c with releasing := true } else s.giveBack c) s
      s.complete q stOk 0 0))

/-! ### The life of a launch -/

/-- A cluster starts a program: pending swaps take effect, core state is cleared, every core stands at index 0. -/
def State.startCluster (s : State) (q : CmdRef) (image : List W128) (c : Nat) : State :=
  let s := s.boundary c
  let cl := s.cluster c
  s.setCluster c { cl with
    state := .running, launch := some q, image := image, cores := [], scans := [], pools := [], streams := [], fault := none
    startClock := s.cur.clock }

def execLaunchStart (q : CmdRef) (s : State) : Host.Outcome State Fault Refusal :=
  .next (
    match (if s.alive && !s.inL0 q.ctx.val then s.launch? q else none) with
    | none => s
    | some _ =>
      let s := s.launchPegs q.ctx.val q.ring.val 1
      match s.launch? q with
      | none => s
      | some l =>
        let first := (s.firstQueued q.ctx.val q.ring.val).any (fun f => f.q == q)
        if l.phase ≠ .queued || !first || (l.waitEn && !l.pegMet) then s
        else
          let s := l.set.foldl State.mapMet s
          match s.launchRefusal q.ctx.val l.set with
          | some st => s.endLaunch q st 0 0
          | none =>
            if l.set.any (fun c => (s.cluster c).state != .idle && (s.cluster c).state != .gated) then s
            else if s.cur.power ≠ .active then s.beginWake
            else
              let s := l.set.foldl (fun s c => s.startCluster q l.image c) s
              let s := s.setLaunch q (fun l => { l with phase := .running, started := s.now })
              let s := s.raise 0x0221 (srcCp q.ctx.val q.ring.val) (some q.ctx.val)
                [q.seq.toNat, l.progVa.toNat, l.step.toNat, l.set.length]
              s.launchPegs q.ctx.val q.ring.val s.eng.launches.length)

def execClusterProgramEnd (c : ClusterNo) (s : State) : Host.Outcome State Fault Refusal :=
  .next (
    let cl := s.cluster c.val
    let ended := (List.range Config.cores).all (fun k => (mgetD cl.cores k .reset).ended)
    if s.alive && cl.state == .running && ended && !s.inL0 (cl.holder.getD 0) then
      s.setCluster c.val { cl with state := .draining }
    else s)

/-- Nothing of a cluster's program is outstanding. -/
def State.drained (s : State) (c : ClusterNo) : Bool :=
  let cl := s.cluster c.val
  cl.streams.isEmpty && cl.cores.all (fun p => p.2.xfers.isEmpty && p.2.days.isEmpty) &&
    !s.tier.remotes.any (fun r => match r.2.owner with
      | .epi k => k.cluster == c && !r.2.acked
      | _ => false)

/-- A cluster that has finished: IDLE, or OUT_OF_SERVICE; a release that waited for the boundary takes effect. -/
def State.idleCluster (s : State) (c : Nat) : State :=
  let cl := s.cluster c
  let s := s.setCluster c { cl with state := .idle, launch := none, idleSince := s.local_, scans := [] }
  let s := { s with cur := { s.cur with busyUntil := s.local_ } }
  (if cl.releasing then s.giveBack c else s).showOut c

def execClusterDrained (c : ClusterNo) (s : State) : Host.Outcome State Fault Refusal :=
  .next (
    let cl := s.cluster c.val
    if s.alive && cl.state == .draining && s.drained c && !s.inL0 (cl.holder.getD 0) then s.idleCluster c.val else s)

def execLaunchComplete (q : CmdRef) (s : State) : Host.Outcome State Fault Refusal :=
  .next (
    match (if s.alive && !s.inL0 q.ctx.val then s.launch? q else none) with
    | none => s
    | some l =>
      if l.phase ≠ .running || l.set.any (fun c => (s.cluster c).launch == some q) then s
      else
        let st := l.stop.getD stOk
        let s := (s.endLaunch q st l.started l.result1).launchEnded q st l.started
        if l.sigEn && st == stOk then s.completionSignal q.ctx.val l.sigPeg l.sigAddend (srcCp q.ctx.val q.ring.val) else s)

/-- R134: an IDLE cluster that no context holds is power-gated after IDLE_US, and its buffer cleared. -/
def execClusterGateTimeout (c : ClusterNo) (s : State) : Host.Outcome State Fault Refusal :=
  .next (
    let cl := s.cluster c.val
    let us := bits (s.reg rEnvelope) 63 32
    if s.alive && cl.state == .idle && cl.holder.isNone && us != 0 && decide (cl.idleSince + 1000 * us ≤ s.local_) then
      s.setCluster c.val { cl with state := .gated, buf := [], hidden := [] }
    else s)

end Sys2Proof.Machine
end

