-- ==== Sys2Proof/Machine/Collective.lean ====
section
/-! DEFINITION. The collective engines at work (12_collectives.md R360 to R382): what a running collective can do next, its
blocks as they arrive, its deadlines, its start and its end. -/

namespace Sys2Proof.Machine

def stCollInvalid : Nat := 0x0401
def stCollRankmap : Nat := 0x0402
def stCollDeadline : Nat := 0x0403
def stCollCancelled : Nat := 0x0404
def stCollLate : Nat := 0x0405
def stCollFault : Nat := 0x0406
def stCollBusy : Nat := 0x0407

def checkCollStart (p : List Byte) : Option Nat :=
  if decide (fld p 20 1 < 3) && zeroBytes p 21 24 && decide (fld p 40 2 < 4) && zeroBytes p 42 48 then none else some stCollInvalid

def checkCollCancel (p : List Byte) : Option Nat := if zeroBytes p 20 64 then none else some stCollInvalid

/-! ### A collective's parts -/

def Coll.d (c : Coll) : CollD := CollD.of c.desc
def Coll.g (c : Coll) : CollG := ⟨c.d, c.ranks.length, c.inner, c.me⟩
def Coll.ctx (c : Coll) : Nat := c.q.ctx.val
def Coll.node (c : Coll) (rank : Nat) : Nat := c.ranks.getD rank 0xFFFF

def partKey (stage sender i : Nat) : Nat := (stage * 2 ^ 16 + sender) * 2 ^ 32 + i

/-- A contribution that has arrived whole. -/
def Coll.part (c : Coll) (stage sender i : Nat) : Option ChunkWire :=
  match mget c.parts (partKey stage sender i) with
  | some w => if w.payload.length = c.g.payloadLen i then some w else none
  | none => none

def Coll.dropPart (c : Coll) (stage sender i : Nat) : Coll := { c with parts := mdel c.parts (partKey stage sender i) }

/-- Whether a gather still has to send a chunk on. -/
def Coll.needsOut (c : Coll) (i : Nat) : Bool :=
  c.flows.any (fun f => f.out && !c.g.adds f.stage && (f.chunks.drop f.pos).contains i)

def Coll.setFlow (c : Coll) (k : Nat) (f : Flow) : Coll := { c with flows := c.flows.set k f }

def State.setColl (s : State) (c : Coll) : State :=
  { s with coll := { s.coll with running := replaceFirst (fun x => x.q == c.q) (fun _ => c) s.coll.running } }
def State.coll? (s : State) (q : CmdRef) : Option Coll := s.coll.running.find? (fun c => c.q == q)

/-- What an action of a collective came to: it moved on, it could not, an address fault, an uncorrectable line. -/
inductive CollDo where
  | moved
  | still
  | fault
  | damaged (line : Nat)
  deriving DecidableEq, Repr

abbrev CollTry := State → Coll → State × Coll × CollDo

/-- The outcome of an access inside an action; `s0` and `c` are as before the action. What it waits for is noted (R267). -/
def collGot {α : Type} (s0 : State) (c : Coll) (r : State × Got α) (f : State → α → State × Coll × CollDo) :
    State × Coll × CollDo :=
  match r with
  | (s, .ok x) => f s x
  | (s, .wait cause) => ({ s0 with tier := s.tier }, { c with held := cause :: c.held }, .still)
  | (s, .fault _) => (s, c, .fault)
  | (s, .damaged l) => (s, c, .damaged l)

/-- The random bits of an origin on this Askax (R363). -/
def State.collKey (s : State) (c : Coll) (origin : Nat) : SrKey :=
  match mget s.host.ctxs c.ctx with
  | some x => ⟨x.seed, tKey origin x.rank c.d.tensor, c.step⟩
  | none => ⟨0, tKey origin 0 c.d.tensor, c.step⟩

/-- The own source elements of a chunk. -/
def State.collOwn (s : State) (c : Coll) (i : Nat) : State × Got ChunkVal :=
  match s.readVa c.ctx (c.g.srcVa i) (c.g.len i * c.d.srcBytes) (.other false) false c.endDeadline with
  | (s, .ok b) => (s, .ok (c.g.ofSrc b))
  | (s, .wait x) => (s, .wait x)
  | (s, .fault x) => (s, .fault x)
  | (s, .damaged l) => (s, .damaged l)

/-- The own source chunk in the wire form of a stage. -/
def State.collSource (s : State) (c : Coll) (stage i : Nat) : State × Got ChunkWire :=
  match s.readVa c.ctx (c.g.srcVa i) (c.g.len i * c.d.srcBytes) (.other false) false c.endDeadline with
  | (s, .ok b) => (s, .ok (if c.d.raw then ⟨.empty, F32.one, b⟩ else c.g.toWire (s.collKey c) stage i (c.g.ofSrc b)))
  | (s, .wait x) => (s, .wait x)
  | (s, .fault x) => (s, .fault x)
  | (s, .damaged l) => (s, .damaged l)

/-- A collective engine's counter: a chunk sent, reduced or delivered (R437). -/
def State.collProgress (s : State) (c : Coll) : State := s.progress (unitKey (srcColl c.engine)) c.ctx

/-- A chunk delivered: its bytes written, its word kept for the summary, and the engine's count. -/
def State.collWrite (s0 s : State) (c0 c : Coll) (va key : Nat) (h : HealthW) (bs : List Byte) : State × Coll × CollDo :=
  collGot s0 c0 (s.writeVa c.ctx va bs (.other false) c.endDeadline) (fun s _ =>
    ({ s with coll := { s.coll with chunks := mupd s.coll.chunks c.engine 0 (wrapAdd 48 · 1) } }.collProgress c,
      { c with delivered := mset c.delivered key h }, .moved))

/-- A chunk in its wire form delivered to DST; it is kept while it must be sent on. -/
def State.collDeliver (s0 s : State) (c0 c : Coll) (from_ i : Nat) (w : ChunkWire) : State × Coll × CollDo :=
  let g := c.g
  let bs := if c.d.raw then w.payload else g.toDst (s.collKey c) i (g.ofWire w).vals
  let key := if c.d.op = 6 then from_ * g.perShard + i % max 1 g.perShard else i
  let c := if c.needsOut i then { c with finals := mset c.finals i w } else c
  s0.collWrite s c0 c (g.dstVa from_ i) key w.health bs

/-- The end of a chunk's reduction (R369). -/
def State.collFinish (s0 s : State) (c0 c : Coll) (i : Nat) (v : ChunkVal) : State × Coll × CollDo :=
  let v := c.g.scaleFinal v
  match c.g.gatherStage with
  | some st => s0.collDeliver s c0 c c.me i (c.g.toWire (s.collKey c) st i v)
  | none => s0.collWrite s c0 c (c.g.dstVa c.me i) i v.health (c.g.toDst (s.collKey c) i v.vals)

/-! ### Additions (R365 to R368, R375, R376) -/

/-- The carry buffer's term added to a chunk, and the buffer zeroed. -/
def State.collCarry (s0 s : State) (c0 c : Coll) (i : Nat) (v : ChunkVal) (f : State → ChunkVal → State × Coll × CollDo) :
    State × Coll × CollDo :=
  if c.d.fmode ≠ 1 then f s v
  else
    let va := c.g.carryVa i
    collGot s0 c0 (s.readVa c.ctx va 4096 (.other false) false c.endDeadline) (fun s b =>
      let t : ChunkVal := ⟨(List.range 1024).map (fun j => BitVec.ofNat 32 (fld b (4 * j) 4)), .empty⟩
      collGot s0 c0 (s.writeVa c.ctx va (List.replicate 4096 0) (.other false) c.endDeadline) (fun s _ =>
        f s (v.plus c.d.red t)))

/-- A fold of stage 0: the contributions of the ranks in order, the own one among them, without what late ranks still owe;
`weight` is the count that a late rank leaves out. -/
def State.collFold (order : List Nat) (weight : Nat → Nat) (i : Nat) : CollTry := fun s c =>
  let there := order.all (fun p => p == c.me || (c.part 0 p i).isSome || c.late.contains p)
  if c.localDone.contains i || !there then (s, c, .still)
  else
    collGot s c (s.collOwn c i) (fun s1 x =>
      let terms := order.filterMap (fun p => if p = c.me then some x else (c.part 0 p i).map c.g.ofWire)
      let gone := ((order.filter (fun p => p != c.me && (c.part 0 p i).isNone)).map weight).foldl (· + ·) 0
      let v := match terms with
        | t :: r => r.foldl (ChunkVal.plus c.d.red) t
        | [] => x
      let v := { v with health := { v.health with missing := satAdd 16 v.health.missing gone } }
      let c1 := { (order.filter (fun p => (c.part 0 p i).isSome)).foldl (fun c p => c.dropPart 0 p i) c with
        localDone := i :: c.localDone, left := c.left + gone }
      s.collCarry s1 c c1 i v (fun s2 v =>
        let ends := if c.d.algo = 3 then c.g.parent.isNone else !c.g.two || decide (c.g.ringSize ≤ 1)
        if ends then s.collFinish (s2.collProgress c) c c1 i v
        else (s2.collProgress c, { c1 with reduced := mset c1.reduced i v }, .moved)))

/-- The folds that a rank makes in stage 0; a ring of one rank reduces its own chunks so (R366). -/
def Coll.folds (c : Coll) : List CollTry :=
  let g := c.g
  if !c.d.reducing || (c.d.algo == 1 && decide (1 < g.ringSize)) then []
  else if c.d.algo = 3 then
    g.all.map (State.collFold (c.me :: g.children) (fun p => let t := g.treePos p; subtreeSize 20 t t g.n))
  else (g.meshChunks c.me).map (State.collFold g.meshGroup (fun _ => 1))

/-- A hop of the ring: the first chunk of a stream that has arrived, added to the own value. -/
def State.collHop (f : Flow) : CollTry := fun s c =>
  let g := c.g
  match (f.chunks.take f.pos).find? (fun i => (c.part f.stage f.peer i).isSome && (!g.two || mhas c.reduced i)) with
  | none => (s, c, .still)
  | some i =>
    match c.part f.stage f.peer i with
    | none => (s, c, .still)
    | some w =>
      let x : State × Got ChunkVal := if g.two then (s, .ok (mgetD c.reduced i ⟨[], .empty⟩)) else s.collOwn c i
      collGot s c x (fun s1 x =>
        let v := (g.ofWire w).plus c.d.red x
        let c1 := c.dropPart f.stage f.peer i
        let c1 := if g.two then { c1 with reduced := mdel c1.reduced i } else c1
        if g.ringShard i = g.ringPos then s.collFinish (s1.collProgress c) c c1 i v
        else (s1.collProgress c, { c1 with reduced := mset c1.reduced (2 ^ 32 + i) v }, .moved))

/-! ### PERMUTE (R380) -/

def Coll.unitVa (c : Coll) (u : Nat) : Nat := c.d.dst + u * c.d.unit

/-- Whether the own move at a place of the plan has been sent, or done here. -/
def Coll.moveSent (c : Coll) (j : Nat) (m : Move) : Bool :=
  if m.dst = c.me then c.localDone.contains (2 ^ 33 + j)
  else c.flows.any (fun f => f.out && f.peer == m.dst && (f.chunks.take f.pos).contains (j * c.g.unitChunks + c.g.unitChunks - 1))

/-- Whether a unit of this rank has been read by every move that reads it. -/
def Coll.destFree (c : Coll) (m : Move) : Bool :=
  (c.moves.zipIdx).all (fun x =>
    !(x.1.src == m.dst && x.1.su == m.du) || (if x.1.parked then c.parkedDone.contains x.2 else c.moveSent x.2 x.1))

/-- The scratch place of a parked move: parked moves of the same rank and round before it. -/
def Coll.parkVa (c : Coll) (j : Nat) (m : Move) : Nat :=
  c.d.scratch + c.d.unit * ((c.moves.take j).filter (fun x => x.parked && x.src == m.src && x.round == m.round)).length

/-- Where a move's bytes are read: its unit, or the scratch once it is parked there. -/
def Coll.moveSource (c : Coll) (j : Nat) (m : Move) : Option Nat :=
  if m.parked then (if c.parkedDone.contains j then some (c.parkVa j m) else none) else some (c.unitVa m.su)

/-- A unit copied within this rank's memory. -/
def State.unitCopy (s0 : State) (c0 : Coll) (from_ target_ : Nat) (c : Coll) : State × Coll × CollDo :=
  collGot s0 c0 (s0.readVa c0.ctx from_ c0.d.unit (.other false) false c0.endDeadline) (fun s b =>
    collGot s0 c0 (s.writeVa c0.ctx target_ b (.other false) c0.endDeadline) (fun s _ => (s, c, .moved)))

/-- A parked source copied to scratch, once the rank's parked moves of earlier rounds have left it. -/
def State.collPark (j : Nat) (m : Move) : CollTry := fun s c =>
  if !m.parked || m.src != c.me || c.parkedDone.contains j ||
      (c.moves.zipIdx).any (fun x => x.1.parked && x.1.src == c.me && decide (x.1.round < m.round) && !c.moveSent x.2 x.1) then
    (s, c, .still)
  else s.unitCopy c (c.unitVa m.su) (c.parkVa j m) { c with parkedDone := j :: c.parkedDone }

/-- A move within this rank. -/
def State.collLocal (j : Nat) (m : Move) : CollTry := fun s c =>
  if m.src != c.me || m.dst != c.me || c.localDone.contains (2 ^ 33 + j) || !c.destFree m then (s, c, .still)
  else
    match c.moveSource j m with
    | none => (s, c, .still)
    | some va => s.unitCopy c va (c.unitVa m.du) { c with localDone := (2 ^ 33 + j) :: c.localDone }

/-! ### Sending (R360, R362, R370) -/

def collAddr (tag stage stripe kind : Nat) : Nat := tag + stage * 2 ^ 32 + stripe * 2 ^ 36 + kind * 2 ^ 40

/-- A block of a collective to a rank. -/
def State.collSend (s : State) (c : Coll) (peer cls stage stripe kind arg : Nat) (data : List Byte) : State × Bool :=
  s.sendBlock (srcColl c.engine) (c.node peer) cls false false
    (blockBytes (c.node peer) s.guy.node tyColl cls c.ctx 0 (collAddr c.d.tag stage stripe kind) arg data)

/-- A chunk in its one or two blocks. -/
def State.sendChunk (s : State) (c : Coll) (f : Flow) (i : Nat) (w : ChunkWire) : State × Bool :=
  if c.d.raw then s.collSend c f.peer c.d.tc f.stage f.stripe 0 (i + c.step * 2 ^ 32) w.payload
  else
    let tail := leBytes 4 w.scale.toNat ++ List.replicate 12 0
    if c.d.wire = 0 then
      let r := s.collSend c f.peer c.d.tc f.stage f.stripe 0 i (w.health.bytes c.step ++ tail ++ w.payload.take 2048)
      if r.2 then
        r.1.collSend c f.peer c.d.tc f.stage f.stripe 0 (i + 2 ^ 32)
          (leBytes 4 c.step ++ List.replicate 12 0 ++ tail ++ w.payload.drop 2048)
      else r
    else s.collSend c f.peer c.d.tc f.stage f.stripe 0 i (w.health.bytes c.step ++ tail ++ w.payload)

/-- EV_COLL_PHASE, when a stage is entered (R364). -/
def State.collEnter (s : State) (c : Coll) (stage : Nat) : State × Coll :=
  if c.stages.contains stage then (s, c)
  else
    let n := ((c.flows.filter (fun f => f.stage == stage)).flatMap (·.chunks)).eraseDups.length
    (s.raise 0x0903 (srcColl c.engine) (some c.ctx) [c.d.tag, stage, n, 0], { c with stages := stage :: c.stages })

/-- The wire form of the next chunk of a stream, once it is there, and the collective without what it was made from. -/
def State.collNext (s : State) (c : Coll) (f : Flow) (i : Nat) : State × Option (Got (ChunkWire × Coll)) :=
  let g := c.g
  let ofGot := fun (r : State × Got ChunkWire) =>
    match r with
    | (s, .ok w) => (s, some (Got.ok (w, c)))
    | (s, .wait x) => (s, some (.wait x))
    | (s, .fault x) => (s, some (.fault x))
    | (s, .damaged l) => (s, some (.damaged l))
  let ofVal := fun (k : Nat) =>
    match mget c.reduced k with
    | some v => (s, some (Got.ok (g.toWire (s.collKey c) f.stage i v, { c with reduced := mdel c.reduced k })))
    | none => (s, none)
  if g.adds f.stage then
    if c.d.algo = 3 then ofVal i
    else if f.stage = 0 ∧ c.d.algo ≠ 1 then ofGot (s.collSource c 0 i)
    else if g.ringShard i = g.pred f.stripe then (if g.two then ofVal i else ofGot (s.collSource c f.stage i))
    else ofVal (2 ^ 32 + i)
  else if c.d.op = 4 ∨ c.d.op = 6 then ofGot (s.collSource c f.stage i)
  else if c.d.op = 7 then
    let u := max 1 g.unitChunks
    match c.moves[i / u]? with
    | none => (s, none)
    | some m =>
      match c.moveSource (i / u) m with
      | none => (s, none)
      | some va =>
        ofGot (match s.readVa c.ctx (va + i % u * 4096) 4096 (.other false) false c.endDeadline with
          | (s, .ok b) => (s, .ok ⟨.empty, F32.one, b⟩)
          | (s, .wait x) => (s, .wait x)
          | (s, .fault x) => (s, .fault x)
          | (s, .damaged l) => (s, .damaged l))
  else
    match mget c.finals i with
    | some w => (s, some (.ok (w, c)))
    | none => (s, none)

/-- The next chunk of an outgoing stream sent, while credits last. -/
def State.collPush (k : Nat) : CollTry := fun s c =>
  match c.flows[k]? with
  | none => (s, c, .still)
  | some f =>
    match (if f.out && decide (f.pos < f.credit) then f.chunks[f.pos]? else none) with
    | none => (s, c, .still)
    | some i =>
      match s.collNext c f i with
      | (_, none) => (s, c, .still)
      | (s1, some got) =>
        collGot s c (s1, got) (fun s1 wc =>
          let e := s1.collEnter wc.2 f.stage
          let c1 := e.2.setFlow k { f with pos := f.pos + 1 }
          let c1 := if c1.needsOut i then c1 else { c1 with finals := mdel c1.finals i }
          let r := e.1.sendChunk c1 f i wc.1
          if r.2 then (r.1.collProgress c, c1, .moved) else (r.1, c1, .fault))

/-! ### What has arrived, and the own chunks of operations without a reduction -/

/-- The first chunk of an incoming gather stream that has arrived, delivered. -/
def State.collTake (f : Flow) : CollTry := fun s c =>
  match (f.chunks.take f.pos).find? (fun i => (c.part f.stage f.peer i).isSome) with
  | none => (s, c, .still)
  | some i =>
    match c.part f.stage f.peer i with
    | none => (s, c, .still)
    | some w =>
      let c1 := c.dropPart f.stage f.peer i
      if c.d.op = 7 then
        let u := max 1 c.g.unitChunks
        match c.moves[i / u]? with
        | none => (s, c1, .moved)
        | some m => s.collWrite s c c1 (c.unitVa m.du + i % u * 4096) i .empty w.payload
      else s.collDeliver s c c1 f.peer i w

/-- An own chunk of ALL_GATHER, BROADCAST or ALL_TO_ALL converted and delivered here (R370). -/
def State.collSelf (i : Nat) : CollTry := fun s c =>
  if c.localDone.contains (2 ^ 32 + i) || (c.d.tagged && !c.tagOk) then (s, c, .still)
  else
    collGot s c (s.collSource c 1 i) (fun s1 w =>
      s.collDeliver s1 c { c with localDone := (2 ^ 32 + i) :: c.localDone } c.me i w)

def Coll.selfChunks (c : Coll) : List Nat :=
  match c.d.op with
  | 2 => c.g.chunksFrom c.me 1
  | 3 => if c.me = c.d.root then c.g.all else []
  | 6 => c.g.chunksFrom c.me 1
  | _ => []

/-! ### Headers (R370) -/

/-- An own header sent to a rank, once every chunk of the shard has been sent; the receiver writes it when the shard is in place
(log entry 121). -/
def State.collHeaderOut (peer : Nat) : CollTry := fun s c =>
  let mine := c.g.chunksFrom c.me 1
  if peer == c.me || !c.tagOk || c.headersOut.contains peer ||
      c.flows.any (fun f => f.out && (f.peer == peer || c.d.algo == 1) && (f.chunks.drop f.pos).any (fun i => mine.contains i)) then (s, c, .still)
  else
    let r := s.collSend c peer 0 1 0 3 (c.step * 2 ^ 32) c.header
    (r.1, { c with headersOut := peer :: c.headersOut }, if r.2 then .moved else .fault)

/-- A header written last, when its shard is in place. -/
def State.collHeaderIn (rank : Nat) : CollTry := fun s c =>
  match (if rank = c.me then (if c.tagOk then some c.header else none) else mget c.headersIn rank) with
  | none => (s, c, .still)
  | some h =>
    if c.headersDone.contains rank || !(c.g.chunksFrom rank 1).all (fun i => mhas c.delivered i) then (s, c, .still)
    else
      collGot s c (s.writeVa c.ctx (c.d.aux + 64 * rank) h (.other false) c.endDeadline) (fun s _ =>
        (s, { c with headersDone := rank :: c.headersDone }, .moved))

/-! ### The summary (R373) -/

/-- The chunks whose words this rank must hold. -/
def Coll.expected (c : Coll) : List Nat :=
  let g := c.g
  match c.d.op with
  | 1 => g.meshChunks c.me
  | 4 => []
  | 6 => List.range (g.n * g.perShard)
  | 7 => (c.flows.filter (fun f => !f.out)).flatMap (·.chunks)
  | _ => g.all

def Coll.allHere (c : Coll) : Bool :=
  c.expected.all (fun i => mhas c.delivered i) &&
    (c.moves.zipIdx).all (fun x => !(x.1.src == c.me && x.1.dst == c.me) || c.localDone.contains (2 ^ 33 + x.2))

/-- The words that this rank contributes: each chunk's once. -/
def Coll.ownWord (c : Coll) : HealthW :=
  let mine := c.delivered.filter (fun p => !(c.d.op == 1 && c.g.two) || c.g.ringShard p.1 == c.g.ringPos)
  mine.foldl (fun h p => h.join p.2) .empty

def Coll.exchanges (c : Coll) : Bool := c.d.op == 1 || decide (4 ≤ c.d.op)
/-- The ranks that take part, in order. -/
def Coll.sumRanks (c : Coll) : List Nat :=
  if c.d.op = 4 ∨ c.d.op = 5 then [min c.me c.d.root, max c.me c.d.root] else List.range c.ranks.length
def Coll.sumPos (c : Coll) : Nat := c.sumRanks.idxOf c.me
def Coll.sumChildren (c : Coll) : List Nat :=
  let t := c.sumPos
  [2 * t + 1, 2 * t + 2].filterMap (fun u => c.sumRanks[u]?)
def Coll.sumParent (c : Coll) : Option Nat := if c.sumPos = 0 then none else c.sumRanks[(c.sumPos - 1) / 2]?

/-- SUMMARY blocks to some ranks. -/
def State.sendSummary (s : State) (c : Coll) (stage : Nat) (h : HealthW) : List Nat → State × Bool
  | [] => (s, true)
  | p :: r =>
    let t := s.collSend c p 0 stage 0 2 0 (h.bytes c.step)
    if t.2 then t.1.sendSummary c stage h r else t

/-- The partial summary goes up, or the whole one down, or is known at once. -/
def State.collSum : CollTry := fun s c =>
  if c.sumSent || !c.allHere || !(c.sumChildren.all (fun p => !c.exchanges || mhas c.sumIn p)) then (s, c, .still)
  else
    let h := if c.exchanges then c.sumIn.foldl (fun h p => h.join p.2) c.ownWord else c.ownWord
    let c1 := { c with sumSent := true }
    if !c.exchanges then (s, { c1 with sumAll := some h }, .moved)
    else
      match c.sumParent with
      | some p => let r := s.sendSummary c 0 h [p]; (r.1, c1, if r.2 then .moved else .fault)
      | none => let r := s.sendSummary c 1 h c.sumChildren; (r.1, { c1 with sumAll := some h }, if r.2 then .moved else .fault)

/-- The summary written, once all else is in place. -/
def State.collHealth : CollTry := fun s c =>
  match c.sumAll with
  | none => (s, c, .still)
  | some h =>
    if c.sumDone || !c.allHere then (s, c, .still)
    else
      collGot s c (s.writeVa c.ctx c.d.health (h.bytes c.step) (.other false) c.endDeadline) (fun s _ =>
        (s, { c with sumDone := true }, .moved))

/-! ### The work of a collective -/

/-- Every action, in the order in which they are tried. -/
def Coll.actions (c : Coll) : List CollTry :=
  let ins := c.flows.filter (fun f => !f.out)
  (ins.filter (fun f => !c.g.adds f.stage)).map State.collTake ++ c.folds ++
    (ins.filter (fun f => c.g.adds f.stage && (c.d.algo == 1 || f.stage == 1))).map State.collHop ++
    c.selfChunks.map State.collSelf ++ (c.moves.zipIdx).flatMap (fun x => [State.collPark x.2 x.1, State.collLocal x.2 x.1]) ++
    (List.range c.flows.length).map State.collPush ++
    (if c.d.tagged then (List.range c.ranks.length).flatMap (fun r => [State.collHeaderOut r, State.collHeaderIn r]) else []) ++
    [State.collSum, State.collHealth]

def tryActions (s : State) (c : Coll) : List CollTry → State × Coll × CollDo
  | [] => (s, c, .still)
  | a :: r =>
    match a s c with
    | (s, c, .still) => tryActions s c r
    | x => x

/-- Actions until none moves on. -/
def collLoop (s : State) (c : Coll) : Nat → State × Coll × CollDo
  | 0 => (s, c, .still)
  | n + 1 =>
    match tryActions s c c.actions with
    | (s, c, .moved) => collLoop s c n
    | x => x

/-- More actions than a collective can take. -/
def Coll.fuel (c : Coll) : Nat :=
  4 * (((c.flows.map (·.chunks.length)).foldl (· + ·) 0) + 2 * c.g.n * c.g.perShard + 2 * c.g.n + 2 * c.moves.length + 8)

/-- The partial sums that a stream's slots hold until they are forwarded: those of a ring stream's chunks, and those of the fold of
stage 0 in the slots of its first other rank (R362; log entry 86). -/
def Coll.sumsHeld (c : Coll) (f : Flow) : Nat :=
  let folded := f.stage == 0 && c.d.algo != 1
  let first := if c.d.algo = 3 then c.g.children.head? else (c.g.meshGroup.filter (fun p => p != c.me)).head?
  if folded && first != some f.peer then 0
  else ((f.chunks.take f.pos).filter (fun i => mhas c.reduced (if folded then i else 2 ^ 32 + i))).length

/-- The credits that an incoming stream can have: slots that are free or were freed; for PERMUTE the units that may be
overwritten (R362, R380). -/
def Coll.grant (c : Coll) (f : Flow) : Nat :=
  if c.d.op = 7 then
    (f.chunks.takeWhile (fun i => (c.moves[i / max 1 c.g.unitChunks]?).any c.destFree)).length
  else
    let streams := (c.flows.filter (fun f => !f.out)).length
    let slots := c.d.scratchSize / (4096 * max 1 streams)
    let held := (f.chunks.filter (fun i => mhas c.parts (partKey f.stage f.peer i))).length +
      (if c.g.adds f.stage then c.sumsHeld f else ((f.chunks.take f.pos).filter (fun i => mhas c.finals i)).length)
    min f.chunks.length (slots + f.pos - held)

/-- READY blocks for the credits that have become free. -/
def State.collGrants (s : State) (c : Coll) : List Nat → State × Coll × Bool
  | [] => (s, c, true)
  | k :: r =>
    match c.flows[k]? with
    | none => s.collGrants c r
    | some f =>
      let n := c.grant f
      if f.out || decide (n ≤ f.credit) then s.collGrants c r
      else
        let t := s.collSend c f.peer 0 f.stage f.stripe 1 n []
        if t.2 then t.1.collGrants (c.setFlow k { f with credit := n }) r else (t.1, c, false)

/-! ### Ends (R374, R378, R382) -/

/-- The largest MISSING of any chunk. -/
def Coll.missing (c : Coll) : Nat := c.delivered.foldl (fun m p => max m p.2.missing) 0

/-- A stretch of DST and HEALTH_VA that an ended collective leaves undefined. -/
def State.collUndef (s : State) (c : Coll) : State :=
  let s := s.undefineVa c.ctx c.d.health 16
  if c.d.op = 7 then
    (c.moves.filter (fun m => m.dst == c.me)).foldl (fun s m => s.undefineVa c.ctx (c.unitVa m.du) c.d.unit) s
  else s.undefineVa c.ctx c.d.dst c.g.dstSize

/-- A running collective leaves its engine with a status: counts and event; a failed one's destination is undefined. -/
def State.dropColl (s : State) (c : Coll) (status : Nat) : State :=
  let failed := status == stCollDeadline || status == stCollFault || status == stCollCancelled ||
    status == stContextReset
  let s := if failed then s.collUndef c else s
  let s := { s with coll := { s.coll with
    running := s.coll.running.filter (fun x => x.q != c.q)
    completed := wrapAdd 32 s.coll.completed 1
    failed := if failed then satAdd 32 s.coll.failed 1 else s.coll.failed
    late := if status = stCollLate then satAdd 32 s.coll.late 1 else s.coll.late
    missing := satAdd 32 s.coll.missing c.left } }
  (s.stallOff (.cmd c.q)).raise 0x0902 (srcColl c.engine) (some c.ctx)
    [c.d.tag, status, s.now - c.started, c.missing]

/-- Its command completes: result word 1 holds the largest MISSING and, above it, the awaited rank. -/
def State.endColl (s : State) (c : Coll) (status rank : Nat) : State :=
  -- R382: the record is written, then EV_COLL_END is raised
  (s.complete c.q status (c.delivered.length) (c.missing + 2 ^ 32 * rank)).dropColl c status

def noRank : Nat := 0xFFFFFFFF

/-- The ranks that still owe a contribution of stage 0. -/
def Coll.owing (c : Coll) : List Nat :=
  sortBy id ((c.flows.filter (fun f => !f.out && f.stage == 0 && decide (f.pos < f.chunks.length))).map (·.peer))

/-- Once DEADLINE has passed, those ranks are late (R375). -/
def State.collLate (s : State) (c : Coll) : Coll :=
  if c.d.fmode = 0 || c.dead || !s.timePassed c.deadline then c else { c with dead := true, late := c.owing }

/-- The lowest rank from which a chunk, a credit or a SUMMARY is awaited, with the stage. -/
def Coll.awaited (c : Coll) : Option (Nat × Nat) :=
  let l := (c.flows.filter (fun f => decide (f.pos < f.chunks.length) &&
    (if f.out then decide (f.credit ≤ f.pos) else !(c.g.lateStage f.stage && c.late.contains f.peer)))).map
    (fun f => (f.peer, f.stage))
  let top := c.stages.foldl max 0
  let l := l ++ (if c.exchanges then
      (c.sumChildren.filter (fun p => !mhas c.sumIn p)).map (fun p => (p, top)) ++
        (match c.sumParent with
         | some p => if c.sumAll.isNone then [(p, top)] else []
         | none => [])
    else [])
  (sortBy (fun x => x.1 * 16 + x.2) l).head?

/-- A collective that has not completed when END_DEADLINE has passed ends (R374, R511). -/
def State.deadlineColl (s : State) (c : Coll) : State :=
  let a := c.awaited.getD (noRank, c.stages.foldl max 0)
  (s.raise 0x0904 (srcColl c.engine) (some c.ctx) [c.d.tag, a.2, a.1, c.node a.1]).endColl c stCollDeadline a.1

/-- What a collective step waits for counts as its stall (R267): a tag, and what its accesses met. -/
def State.collStall (s : State) (c : Coll) : State :=
  match (if c.tagOk then c.held else 6 :: c.held) with
  | [] => s.stallOff (.cmd c.q)
  | x :: r => s.stallOn (.cmd c.q) c.ctx (r.foldl mainCause x)

/-- What the work of a collective leaves: its credits are granted; a refused access or a damaged line ends it. -/
def collSettle : State × Coll × CollDo → State
  | (s, c, .fault) => (s.setColl c).endColl c stCollFault noRank
  | (s, c, .damaged line) => (s.setColl c).uncorrectable 3 (some c.ctx) line 0
  | (s, c, _) =>
    match (s.collStall c).collGrants c (List.range c.flows.length) with
    | (s, c, true) => s.setColl c
    | (s, c, false) => (s.setColl c).endColl c stCollFault noRank

/-- A collective works as far as it can. -/
def State.collWork (s : State) (c : Coll) : State :=
  if s.inL0 c.ctx then s.setColl c
  else if s.timePassed c.endDeadline then (s.setColl c).deadlineColl c
  else collSettle (collLoop s { s.collLate c with held := [] } c.fuel)

/-- Everything is sent, received and written. -/
def Coll.finished (c : Coll) : Bool :=
  c.sumDone && c.flows.all (fun f =>
    f.pos == f.chunks.length || (!f.out && c.g.lateStage f.stage && c.late.contains f.peer)) &&
    (!c.d.tagged || (c.headersDone.length == c.ranks.length && c.headersOut.length + 1 == c.ranks.length))

/-- A late window opens; of more than 64 on an engine, the oldest closes (R377). -/
def State.openWindow (s : State) (c : Coll) : State :=
  let w : List CollWindow := s.coll.windows ++ [⟨c, s.now + 1000000000⟩]
  let mine := w.filter (fun x => x.coll.engine == c.engine)
  let w := if 64 < mine.length then
      (match mine with
       | o :: _ => w.filter (fun x => x.coll.q != o.coll.q)
       | [] => w)
    else w
  { s with coll := { s.coll with windows := w } }

def execCollectiveComplete (q : CmdRef) (s : State) : Host.Outcome State Fault Refusal :=
  .next (
    match (if s.alive && !s.inL0 q.ctx.val then s.coll? q else none) with
    | none => s
    | some c =>
      let s := s.collWork c
      match s.coll? q with
      | none => s
      | some c =>
        if !c.finished then s
        else
          let st := if c.missing = 0 then stOk else stCollLate
          let t := s.findTaken q
          let s :=
            if st = stOk then s
            else
              s.raise 0x0905 (srcColl c.engine) (some c.ctx)
                [c.d.tag, c.late.length, (c.late.foldl min noRank), c.left]
          let s := s.endColl c st noRank
          let s := if c.d.fmode = 0 then s else s.openWindow c
          match t with
          | some t =>
            if (t.par 40 2).testBit 1 then
              s.completionSignal c.ctx (t.par 36 4) (BitVec.ofNat 64 (t.par 56 8)) (srcColl c.engine)
            else s
          | none => s)

/-! ### Starting (R354 to R359, R381) -/

def State.dropQueued (s : State) (q : CmdRef) : State :=
  { s with coll := { s.coll with queued := s.coll.queued.filter (fun c => c.q != q) } }

/-- A command that ends before its collective runs. -/
def State.refuseColl (s : State) (q : CmdRef) (status : Nat) : State :=
  let s := { s with coll := { s.coll with
    completed := wrapAdd 32 s.coll.completed 1
    failed := if status = stCollFault then satAdd 32 s.coll.failed 1 else s.coll.failed } }
  (s.dropQueued q).complete q status 0 (2 ^ 32 * noRank)

/-- The first COLL_START of a ring that has not started reaches its peg condition; a refused one lets the next one come. -/
def State.collPegs (s : State) (ctx ring : Nat) : Nat → State
  | 0 => s
  | n + 1 =>
    match s.coll.queued.find? (fun c => c.q.ctx.val == ctx && c.q.ring.val == ring) with
    | none => s
    | some c =>
      match s.findTaken c.q with
      | none => s
      | some t =>
        let peg := t.par 32 4
        if !(t.par 40 2).testBit 0 || c.pegMet || s.pegs.waits.any (fun w => w.who == Waiter.coll c.q) then s
        else if pegCount ≤ peg then (s.refuseColl c.q stPegRange).collPegs ctx ring n
        else if !s.pegOwned ctx peg then (s.refuseColl c.q stPegNotOwned).collPegs ctx ring n
        else
          let r := s.startWait ⟨.coll c.q, ctx, peg, false, BitVec.ofNat 64 (t.par 48 8), 0⟩
          match r.2 with
          | .met _ =>
            { r.1 with coll := { r.1.coll with
                queued := replaceFirst (fun x => x.q == c.q) (fun x => { x with pegMet := true }) r.1.coll.queued } }
          | _ => r.1.stallOn (.cmd c.q) ctx 7

/-- COLL_START joins its engine's queue. -/
def execCollStart (q : CmdRef) (s : State) : Host.Outcome State Fault Refusal :=
  .next (s.perform q 0x0400 (fun s _ =>
    let s := s.startTaken q
    let x : CollQueued := ⟨q, false⟩
    let s := { s with coll := { s.coll with queued := s.coll.queued ++ [x] } }
    s.collPegs q.ctx.val q.ring.val 1))

/-- Why the first 64 B of a rank map make it invalid before its entries are read: a wrong complement, or a SIZE out of range. -/
def mapHead (head : List Byte) : Option (Option Nat) :=
  let twin := fun (o : Nat) => fld head o 4 + fld head (o + 4) 4 == 2 ^ 32 - 1
  if !twin 0 || !twin 8 then some (some 0xFFFFFFFF)
  else if fld head 0 4 = 0 ∨ 65535 < fld head 0 4 then some none
  else none

/-- The rank map's node ids, INNER, or why it is invalid; `some i` names an entry whose complement is wrong. -/
def rankMap (own : Nat) (head entries : List Byte) : Except (Option Nat) (List Nat × Nat) :=
  let n := fld head 0 4
  let twin := fun (b : List Byte) (o : Nat) => fld b o 4 + fld b (o + 4) 4 == 2 ^ 32 - 1
  match mapHead head, (List.range n).find? (fun r => !twin entries (8 * r)) with
  | some why, _ => .error why
  | none, some r => .error (some r)
  | none, none =>
      let inner := fld head 8 4
      let ids := (List.range n).map (fun r => fld entries (8 * r) 2)
      if !zeroBytes head 16 64 ∨ !(inner == 1 || inner == 2 || inner == 4 || inner == 8) ∨ n % max 1 inner ≠ 0 ∨
          (List.range n).any (fun r => fld entries (8 * r + 2) 2 != 0) ∨ !ids.Nodup ∨ ids.contains 0xFFFF ∨ !ids.contains own then
        .error none
      else .ok (ids, inner)

/-- The stretches of memory that a collective names; those of the first `units` units for PERMUTE. -/
def CollG.stretches (g : CollG) (units : Nat) : List (Nat × Nat) :=
  let d := g.d
  [(d.src, g.srcSize), (d.dst, if d.op = 7 then units * d.unit else g.dstSize), (d.scratch, d.scratchSize),
    (d.health, 16), (d.aux, if d.tagged then 64 * g.n else g.carrySize), (d.tagVa, if d.tagged then 64 else 0)].filter
    (fun x => x.2 != 0)

/-- Buffers of a collective: whether every page of them is there, and whether one is a RECORDS or PACK page. -/
def State.collPages (s : State) (ctx : Nat) (g : CollG) (units : Nat) : Bool × Bool :=
  let pages := (g.stretches units).flatMap (fun x => pagesOf x.1 x.2)
  (pages.all (fun p => match (if vaSpace p.1 == 0 then walk s ctx (vpnOf p.1) else .none) with
    | .entry _ => true
    | _ => false),
   pages.any (fun p => match (if vaSpace p.1 == 0 then walk s ctx (vpnOf p.1) else .none) with
    | .entry v => pteRecords v || ptePack v
    | _ => decide (vaSpace p.1 ≠ 0)))

/-- What a start reads, in order: descriptor, head of the rank map, its entries, the map of a PERMUTE. A rank map is read only
behind valid fields, its entries behind a valid SIZE, a PERMUTE's map only behind a valid rank map. A descriptor that is not 64 B
aligned is invalid (log entry 86). -/
def State.collRead (s : State) (ctx va : Nat) (own : Nat) :
    State × Got (List Byte × Option (Except (Option Nat) (List Nat × Nat)) × List Byte) :=
  let o : Accessor := .other false
  let go := fun {α : Type} (r : State × Got (List Byte)) (f : State → List Byte → State × Got α) =>
    (match r with
    | (s, .ok b) => f s b
    | (s, .wait c) => (s, .wait c)
    | (s, .fault c) => (s, .fault c)
    | (s, .damaged l) => (s, .damaged l) : State × Got α)
  if va % 64 ≠ 0 then (s, .ok ([], none, []))
  else go (s.readVa ctx va 128 o false 0) (fun s b =>
    let d := CollD.of b
    if !CollD.fieldsOk b then (s, .ok (b, none, []))
    else
      go (s.readVa ctx d.map_ 64 o false 0) (fun s h =>
        let n := fld h 0 4
        go (if mapHead h = none then s.readVa ctx (d.map_ + 64) (8 * n) o false 0 else (s, .ok [])) (fun s e =>
          let m := rankMap own h e
          match m with
          | .error _ => (s, .ok (b, some m, []))
          | .ok _ =>
            go (if d.op = 7 ∧ d.moves ≠ 0 then s.readVa ctx d.movesVa (16 * d.moves) o false 0 else (s, .ok [])) (fun s v =>
              (s, .ok (b, some m, v))))))

/-- The tag of a tagged ALL_GATHER read again (R370). -/
def State.collTag (s : State) (c : Coll) : State :=
  if c.tagOk then s.setColl c
  else
    match s.readVa c.ctx c.d.tagVa 64 (.other false) false c.endDeadline with
    | (s, .ok b) =>
      let ok := fld b 0 4 == c.step && fld b 4 4 + c.step == 2 ^ 32 - 1
      let u : StallUnit := .cmd c.q
      let s := if ok then s.stallOff u else s.stallOn u c.ctx 6
      s.collWork { c with tagOk := ok, header := if ok then b else c.header, lastTag := s.local_ }
    | (s, .wait _) => s.setColl { c with lastTag := s.local_ }
    | (s, .fault _) => (s.setColl c).endColl c stCollFault noRank
    | (s, .damaged l) => (s.setColl c).uncorrectable 3 (some c.ctx) l 0

/-- A collective with valid parameters starts. One whose END_DEADLINE has passed ends at once, with nothing sent (R374, R511). -/
def State.beginColl (s : State) (q : CmdRef) (t : Taken) (g : CollG) (desc : List Byte) (ranks : List Nat) (plan : List Move) :
    State :=
  let d := g.d
  let c : Coll :=
    { q := q, engine := t.par 20 1, step := t.par 16 4, desc := desc, ranks := ranks, inner := g.inner, me := g.me
      started := s.now, deadline := d.deadline, endDeadline := d.endDeadline
      flows := if d.op = 7 then g.moveFlows plan else g.flows
      parts := [], reduced := [], finals := [], delivered := [], stages := [], dead := false, late := [], left := 0
      tagOk := !d.tagged, lastTag := s.local_, header := [], headersIn := [], headersDone := [], headersOut := []
      sumIn := [], sumSent := false, sumAll := none, sumDone := false, moves := plan, parkedDone := [], localDone := [], held := [] }
  let s := (s.dropQueued q).stallOff (.cmd q)
  let wins := if d.fmode = 1 then
      s.coll.windows.filter (fun w => !(w.coll.ctx == c.ctx && w.coll.d.fmode == 1 && w.coll.d.aux == d.aux))
    else s.coll.windows
  let s := { s with coll := { s.coll with running := s.coll.running ++ [c], windows := wins } }
  let s := s.raise 0x0901 (srcColl c.engine) (some c.ctx)
    [d.tag, d.op + d.algo * 2 ^ 8 + d.wire * 2 ^ 16, c.step, ranks.length]
  if s.timePassed c.endDeadline then s.deadlineColl c
  else
  let e := s.collEnter c (if d.reducing then 0 else 1)
  if d.tagged then (e.1.setColl e.2).collTag e.2 |> fun s => (match s.coll? q with
    | some c => s.collWork c
    | none => s)
  else e.1.collWork e.2

/-! ### Blocks that arrive (R361, R362, R375, R376) -/

/-- The block is discarded as stray: counted, and EV_COLL_STRAY (log entry 86). -/
def State.stray (s : State) (b : List Byte) (cause : Nat) (engine : Nat := 0) : State :=
  let s := { s with
    guy := { s.guy with discarded := satAdd 32 s.guy.discarded 1 }
    coll := { s.coll with
      stray := if cause = 2 then s.coll.stray else satAdd 32 s.coll.stray 1
      stepMiss := if cause = 2 then satAdd 32 s.coll.stepMiss 1 else s.coll.stepMiss } }
  s.raise 0x0907 (srcColl engine) (some (blkCtx b)) [blkSrc b, blkAddr b % 2 ^ 32, blkCtx b, cause]

/-- The collective of a block: running, or in its late window. -/
def State.collOf (s : State) (b : List Byte) : Option (Coll × Bool) :=
  let hit := fun (c : Coll) => c.ctx == blkCtx b && c.d.tag == blkAddr b % 2 ^ 32 && c.ranks.contains (blkSrc b)
  match s.coll.running.find? hit with
  | some c => some (c, false)
  | none => (s.coll.windows.find? (fun w => hit w.coll && decide (s.now < w.closes))).map (fun w => (w.coll, true))

def collStage (b : List Byte) : Nat := bits (blkAddr b) 35 32
def collStripe (b : List Byte) : Nat := bits (blkAddr b) 39 36
def collKind (b : List Byte) : Nat := bits (blkAddr b) 42 40

/-- A collective put back where it came from. -/
def State.putColl (s : State) (c : Coll) (window : Bool) : State :=
  if window then
    { s with coll := { s.coll with
        windows := s.coll.windows.map (fun w => if w.coll.q == c.q then { w with coll := c } else w) } }
  else s.setColl c

/-- A late contribution: dropped, or added to the carry buffer. The answer is none while the buffer cannot be reached. -/
def State.lateArrival (s : State) (c : Coll) (rank i : Nat) (w : ChunkWire) : Option State :=
  let ev := fun (s : State) (what : Nat) =>
    s.raise 0x0906 (srcColl c.engine) (some c.ctx) [c.d.tag, rank, 1, what]
  if c.d.fmode = 2 then some (ev s 2)
  else
    match s.readVa c.ctx (c.g.carryVa i) 4096 (.other false) false c.endDeadline with
    | (s1, .ok b) =>
      let old : ChunkVal := ⟨(List.range 1024).map (fun j => BitVec.ofNat 32 (fld b (4 * j) 4)), .empty⟩
      let v := old.plus c.d.red (c.g.ofWire w)
      match s1.writeVa c.ctx (c.g.carryVa i) (v.vals.flatMap (fun x => leBytes 4 x.toNat)) (.other false) c.endDeadline with
      | (s2, .ok _) => some (ev s2 1)
      | _ => none
    | (s1, .damaged line) => some (s1.uncorrectable 3 (some c.ctx) line 0)
    | (_, .wait _) => none
    | (s1, .fault _) => some (ev s1 2)

/-- Where a chunk that arrives comes to lie: its unit or its place in DST; one that waits to be added, in the scratch area
(R362). -/
def Coll.landing (c : Coll) (f : Flow) (i : Nat) : Nat × Nat :=
  if c.d.op = 7 then
    ((match c.moves[i / max 1 c.g.unitChunks]? with
      | some m => c.unitVa m.du
      | none => c.d.dst) + i % max 1 c.g.unitChunks * 4096, 4096)
  else if c.g.adds f.stage then (c.d.scratch, c.d.scratchSize)
  else (c.g.dstVa f.peer i, c.g.len i * c.d.dstBytes)

/-- Whether the memory behind a stretch takes writes: no page of it lies on a stack that is not ready (R350). -/
def State.takesWrites (s : State) (ctx : Nat) (x : Nat × Nat) : Bool :=
  (pagesOf x.1 x.2).all (fun p =>
    match (if vaSpace p.1 == 0 then lookup s ctx p.1 true (.other false) else .wait) with
    | .pa a => s.hbm.stacksReady [(a, p.2)]
    | _ => true)

/-- What has arrived of a chunk, with the data of a block. -/
def Coll.gathered (c : Coll) (have_ : Option ChunkWire) (data : List Byte) (i : Nat) : ChunkWire :=
  let n := if c.d.wire = 0 then 2048 else c.g.payloadLen i
  match have_ with
  | some w => { w with payload := w.payload ++ bsub data 32 n }
  | none =>
    if c.d.raw then ⟨.empty, F32.one, bsub data 0 n⟩
    else ⟨.of data, BitVec.ofNat 32 (fld data 16 4), bsub data 32 n⟩

/-- A chunk's data joins what has arrived of it in its flow; a whole chunk moves the flow on. A late one is dropped or carried. -/
def State.takeChunk (s : State) (c : Coll) (window isLate : Bool) (k : Nat) (f : Flow) (rank i : Nat) (w : ChunkWire) : Option State :=
  let key := partKey f.stage rank i
  if w.payload.length < c.g.payloadLen i then some (s.putColl { c with parts := mset c.parts key w } window)
  else
    let c1 := c.setFlow k { f with pos := f.pos + 1 }
    if isLate then
      (s.lateArrival c rank i w).map (fun s =>
        let c2 := { c1 with parts := mdel c1.parts key }
        if window then
          let t := s.collGrants c2 (List.range c2.flows.length)
          t.1.putColl t.2.1 true
        else s.collWork c2)
    else some (s.collWork { c1 with parts := mset c1.parts key w })

/-- A DATA block of a collective, running or in its late window; none while memory does not take its chunk. -/
def State.collChunk (s : State) (c : Coll) (window : Bool) (b : List Byte) : Option State :=
  let data := blkData b
  let step := if c.d.raw then blkArg b / 2 ^ 32 else fld data 0 4
  let rank := c.ranks.idxOf (blkSrc b)
  let i := blkArg b % 2 ^ 32
  let second := !c.d.raw && (blkArg b).testBit 32
  let stage := collStage b
  let isLate := c.g.lateStage stage && c.late.contains rank && c.localDone.contains i
  if step ≠ c.step then some (s.stray b 2 c.engine)
  else if window && !isLate then some (s.stray b 3 c.engine)
  else
    match c.flows.findIdx? (fun f => !f.out && f.stage == stage && f.stripe == collStripe b && f.peer == rank) with
    | none => some (s.stray b 3 c.engine)
    | some k =>
      match c.flows[k]? with
      | none => some (s.stray b 3 c.engine)
      | some f =>
        let have_ := mget c.parts (partKey stage rank i)
        if f.chunks[f.pos]? != some i || decide (f.credit ≤ f.pos) || second != have_.isSome || (second && c.d.wire != 0) then
          some (s.stray b 3 c.engine)
        else if !window && !s.takesWrites c.ctx (c.landing f i) then none
        else
          let w := c.gathered have_ data i
          let e := s.collEnter c stage
          e.1.takeChunk e.2 window isLate k f rank i w

/-- A DATA block, on a port whose group's engine is `group` (R16). -/
def State.collData (s : State) (group : Nat) (b : List Byte) : Option State :=
  match s.collOf b with
  | none => some (s.stray b 1 group)
  | some (c, window) => s.collChunk (if window then c else s.collLate c) window b

/-- A READY or SUMMARY block that comes before its collective has started here waits for it (log entry 101). -/
def State.collHeld (s : State) (group : Nat) (b : List Byte) : State :=
  if mhas s.host.ctxs (blkCtx b) then { s with coll := { s.coll with early := s.coll.early ++ [b] } } else s.stray b 1 group

/-- A READY block: credits of an outgoing stream; in a late window nothing is left to send. -/
def State.collReady (s : State) (group : Nat) (b : List Byte) : State :=
  match s.collOf b with
  | some (c, false) =>
    let rank := c.ranks.idxOf (blkSrc b)
    match c.flows.findIdx? (fun f => f.out && f.stage == collStage b && f.stripe == collStripe b && f.peer == rank) with
    | none => s
    | some k =>
      match c.flows[k]? with
      | none => s
      | some f => s.collWork (c.setFlow k { f with credit := max f.credit (blkArg b % 2 ^ 32) })
  | some (_, true) => s
  | none => s.collHeld group b

/-- A SUMMARY block: a partial summary from below in stage 0, the whole one from above in stage 1. -/
def State.collSummary (s : State) (group : Nat) (b : List Byte) : State :=
  match s.collOf b with
  | some (c, false) =>
    let rank := c.ranks.idxOf (blkSrc b)
    let h := HealthW.of (blkData b)
    if fld (blkData b) 0 4 ≠ c.step then s.stray b 2 c.engine
    else if collStage b = 0 then s.collWork { c with sumIn := mset c.sumIn rank h }
    else
      let r := s.sendSummary c 1 h c.sumChildren
      if r.2 then r.1.collWork { c with sumAll := some h } else (r.1.setColl c).endColl c stCollFault noRank
  | some (_, true) => s
  | none => s.collHeld group b

/-- A block that names a collective of a context by its tag. -/
def ofTag (ctx tag : Nat) (b : List Byte) : Bool := blkCtx b == ctx && blkAddr b % 2 ^ 32 == tag

/-- The READY and SUMMARY blocks that waited for a collective that has started. -/
def State.collEarly (s : State) (q : CmdRef) : State :=
  match s.coll? q with
  | none => s
  | some c =>
    let mine := fun (b : List Byte) => ofTag c.ctx c.d.tag b && c.ranks.contains (blkSrc b)
    let l := s.coll.early.filter mine
    let s := { s with coll := { s.coll with early := s.coll.early.filter (fun b => !mine b) } }
    l.foldl (fun s b => if collKind b = 1 then s.collReady c.engine b else s.collSummary c.engine b) s

def execCollectiveStart (q : CmdRef) (s : State) : Host.Outcome State Fault Refusal :=
  .next (
    if !s.alive || s.inL0 q.ctx.val then s
    else
      let s := s.collPegs q.ctx.val q.ring.val 1
      let first := (s.coll.queued.find? (fun c => c.q.ctx == q.ctx && c.q.ring == q.ring)).filter (fun c => c.q == q)
      match first, s.findTaken q with
      | some c, some t =>
        let engine := t.par 20 1
        let full := decide (256 ≤ (s.coll.running.filter (fun x => x.engine == engine)).length)
        if full || ((t.par 40 2).testBit 0 && !c.pegMet) then s
        else
          let next := fun (s : State) => s.collPegs q.ctx.val q.ring.val s.coll.queued.length
          let ctx := q.ctx.val
          match s.collRead ctx (t.par 24 8) s.guy.node with
          | (s1, .wait cause) => ({ s with tier := s1.tier }).stallOn (.cmd q) ctx cause
          | (s1, .fault _) => next (s1.refuseColl q stCollFault)
          | (s1, .damaged line) => s1.uncorrectable 3 (some ctx) line 0
          | (s1, .ok (_, none, _)) => next (s1.refuseColl q stCollInvalid)
          | (s1, .ok (b, some (.error bad), _)) =>
            let d := CollD.of b
            let s1 := match bad with
              | some i => s1.raise 0x0908 (srcColl engine) (some ctx) [d.map_, i, 0, 0]
              | none => s1
            next (s1.refuseColl q stCollRankmap)
          | (s1, .ok (b, some (.ok (ranks, inner)), mv)) =>
            let d := CollD.of b
            let g : CollG := ⟨d, ranks.length, inner, ranks.idxOf s.guy.node⟩
            let moves := if d.op = 7 then movesOf mv d.moves else []
            let movesFine := d.op != 7 || (movesOk mv d.moves ranks.length &&
              (decide (d.unit ≤ d.scratchSize) || moves.all (fun m => (cycleOf moves m).isNone)))
            let units := (moves.filter (fun m => m.src == g.me || m.dst == g.me)).foldl
              (fun n m => max n (max (if m.src = g.me then m.su + 1 else 0) (if m.dst = g.me then m.du + 1 else 0))) 0
            let streams := (g.flows.filter (fun f => !f.out)).length
            let pages := s1.collPages ctx g units
            if s1.coll.running.any (fun x => x.ctx == ctx && x.d.tag == d.tag) then next (s1.refuseColl q stCollBusy)
            else if !g.ok streams || !movesFine || pages.2 then next (s1.refuseColl q stCollInvalid)
            else if !pages.1 then next ((s1.walksMet ctx (g.stretches units)).refuseColl q stCollFault)
            else next ((s1.beginColl q t g b ranks (permutePlan moves (d.scratchSize / d.unit))).collEarly q)
      | _, _ => s)

/-- A HEADER block: it waits for its shard. -/
def State.collHeader (s : State) (group : Nat) (b : List Byte) : State :=
  match s.collOf b with
  | some (c, false) =>
    if blkArg b / 2 ^ 32 ≠ c.step then s.stray b 2 c.engine
    else s.collWork { c with headersIn := mset c.headersIn (c.ranks.idxOf (blkSrc b)) (bsub (blkData b) 0 64) }
  | _ => s.stray b 1 group

/-- The first block of a kind that no earlier block of its class precedes. -/
def firstOfKind (kind : Nat) : List InBlock → List Nat → Option InBlock
  | [], _ => none
  | b :: r, seen =>
    if blkType b.bytes = tyColl ∧ collKind b.bytes = kind ∧ !seen.contains b.cls then some b else firstOfKind kind r (b.cls :: seen)

/-- Reserved fields of a float DATA block that are not zero (R360): only its collective's descriptor tells that it is one. -/
def State.collReserved (s : State) (b : List Byte) : Bool :=
  match s.collOf b with
  | some (c, _) => collKind b == 0 && !c.d.raw && (decide (2 ^ 33 ≤ blkArg b) || !zeroBytes (blkData b) 20 32)
  | none => false

/-- A collective that a block names ends first, where its END_DEADLINE has passed (R374). -/
def State.collDue (s : State) (b : List Byte) : State :=
  match s.collOf b with
  | some (c, false) => if s.timePassed c.endDeadline && !s.inL0 c.ctx then s.deadlineColl c else s
  | _ => s

/-- A row that delivers the next COLL block of a kind; `f` also takes the engine of the port's group. It stays in its buffer while
memory does not take it (R350). -/
def State.deliverColl (s : State) (p kind : Nat) (f : State → Nat → List Byte → Option State) : State :=
  match (if s.alive then firstOfKind kind (s.port p).inbox [] else none) with
  | none => s
  | some b =>
    let s := s.collDue b.bytes
    if s.collReserved b.bytes then (s.badBlock p (blkSrc b.bytes) 3).delivered p b
    else
      match f s (p / 4) b.bytes with
      | some s => s.delivered p b
      | none => s.beginWake

def execCollDataReceived (p : Port) (s : State) : Host.Outcome State Fault Refusal :=
  .next (s.deliverColl p.val 0 (fun s e b => s.collData e b))
def execCollReadyReceived (p : Port) (s : State) : Host.Outcome State Fault Refusal :=
  .next (s.deliverColl p.val 1 (fun s e b => some (s.collReady e b)))
def execCollSummaryReceived (p : Port) (s : State) : Host.Outcome State Fault Refusal :=
  .next (s.deliverColl p.val 2 (fun s e b => some (s.collSummary e b)))
def execCollHeaderReceived (p : Port) (s : State) : Host.Outcome State Fault Refusal :=
  .next (s.deliverColl p.val 3 (fun s e b => some (s.collHeader e b)))

/-! ### Tags, deadlines, windows, cancelling -/

def execCollTagReread (q : CmdRef) (s : State) : Host.Outcome State Fault Refusal :=
  .next (
    match (if s.alive && !s.inL0 q.ctx.val then s.coll? q else none) with
    | some c => if c.d.tagged && !c.tagOk && decide (c.lastTag + 1000 ≤ s.local_) then s.collTag c else s
    | none => s)

/-- DEADLINE: the ranks that still owe a contribution are late (R375). -/
def execCollDeadlineExpiry (q : CmdRef) (s : State) : Host.Outcome State Fault Refusal :=
  .next (
    match (if s.alive && !s.inL0 q.ctx.val then s.coll? q else none) with
    | some c =>
      if c.d.fmode = 0 || c.dead || !s.timePassed c.deadline then s
      else s.collWork { c with dead := true, late := c.owing }
    | none => s)

def execCollEndDeadlineExpiry (q : CmdRef) (s : State) : Host.Outcome State Fault Refusal :=
  .next (
    match (if s.alive && !s.inL0 q.ctx.val then s.coll? q else none) with
    | some c =>
      if s.timePassed c.endDeadline then s.deadlineColl c else s
    | none => s)

def execLateWindowExpiry (ctx : Ctx) (tag : W32) (s : State) : Host.Outcome State Fault Refusal :=
  .next (
    if s.alive then
      { s with coll := { s.coll with windows := s.coll.windows.filter (fun w =>
          !(w.coll.ctx == ctx.val && w.coll.d.tag == tag.toNat && decide (w.closes ≤ s.now))) } }
    else s)

/-- COLL_CANCEL (R378). -/
def execCollCancel (q : CmdRef) (s : State) : Host.Outcome State Fault Refusal :=
  .next (s.perform q 0x0401 (fun s t =>
    let mine := fun (c : Coll) => c.ctx == q.ctx.val && c.d.tag == t.par 16 4
    let s := { s with coll := { s.coll with
      windows := s.coll.windows.filter (fun w => !mine w.coll), early := s.coll.early.filter (fun b => !ofTag q.ctx.val (t.par 16 4) b) } }
    match s.coll.running.find? mine with
    | some c => (s.endColl c stCollCancelled noRank).complete q stOk 1 0
    | none => s.complete q stOk 0 0))

/-- The running collectives of a context are cancelled by its reset, with the status that R378 names (R404, log entry 86). -/
def State.cancelColls (s : State) (ctx : Nat) : State :=
  let s := (s.coll.running.filter (fun c => c.ctx == ctx)).foldl (fun s c => s.endColl c stCollCancelled noRank) s
  { s with coll := { s.coll with
      queued := s.coll.queued.filter (fun c => c.q.ctx.val != ctx)
      windows := s.coll.windows.filter (fun w => w.coll.ctx != ctx), early := s.coll.early.filter (fun b => blkCtx b != ctx) } }

end Sys2Proof.Machine
end

