-- ==== Sys2Proof/Machine/RecordMath.lean ====
section
/-! DEFINITION. The arithmetic of parameter records (10_conservators.md R292 to R307): layouts, wide masters, the schedule, the
constants of an update, the update of one parameter, working values. Everything here is a function of its arguments. -/

namespace Sys2Proof.Machine

/-! ### Layouts (R292 to R294) -/

/-- Parameters of a record, by OPT. -/
def optParams : Nat → Nat
  | 1 => 16
  | 2 => 24
  | 3 => 24
  | 4 => 40
  | _ => 0

/-- Bytes of one element of m and v: FP32, or BF16 in ADAM16. -/
def optMoment (opt : Nat) : Nat := if opt = 2 then 2 else 4

/-- Layouts with a first moment, and with a second. -/
def optHasM (opt : Nat) : Bool := opt == 1 || opt == 2 || opt == 3
def optHasV (opt : Nat) : Bool := opt == 1 || opt == 2

def optExt (opt : Nat) : Nat := 16 + 4 * optParams opt
def optM (opt : Nat) : Nat := 16 + 6 * optParams opt
def optV (opt : Nat) : Nat := optM opt + optMoment opt * optParams opt

/-! ### Wide masters (R295, R296) -/

/-- The exact value of a master with its extension. -/
def wide (a : W32) (e : Nat) : FVal :=
  match f32 a with
  | .fin s m x => .fin s (m * 65536 + e) (x - 16)
  | v => v

/-- round40, split back into master and extension. -/
def round40 (y : FVal) : W32 × Nat :=
  match y with
  | .nan => (f32NaN, 0)
  | .inf s => (if s then f32NegInf else f32PosInf, 0)
  | .fin s m e =>
    if m = 0 then (0, 0)
    else
      let q := max ((m.log2 : Int) + e) (-126) - 39
      let n := roundToUnit .rne m e q false
      let c := if n = 2 ^ 40 then (2 ^ 39, q + 1) else (n, q)
      if F32.ltVal (.fin false c.1 c.2) (.fin false 1 128) then (toF32 (.fin s (c.1 / 65536) (c.2 + 16)), c.1 % 65536)
      else (if s then f32NegInf else f32PosInf, 0)

/-- RNE_FP32(W). -/
def narrow (w : FVal) : W32 := toF32 w

/-! ### The learning-rate schedule (R301, R302) -/

def segKind (b : List Byte) (j : Nat) : Nat := fld b 0 4 / 16 ^ j % 16
def segField (b : List Byte) (j o : Nat) : Nat := fld b (16 + 16 * j + o) 4

def scheduleValid (b : List Byte) : Bool :=
  let n := fld b 4 1
  decide (1 ≤ n) && decide (n ≤ 8) && zeroBytes b 5 16 && segField b 0 0 == 0 &&
    (List.range 8).all (fun j =>
      if j < n then
        decide (segKind b j < 4) && (segKind b j == 0 || decide (1 ≤ segField b j 4)) &&
          (j == 0 || decide (segField b (j - 1) 0 < segField b j 0))
      else segKind b j == 0 && zeroBytes b (16 + 16 * j) (32 + 16 * j))

/-- π in units of 2^-320, rounded down. -/
def pi320 : Nat := 6710401180212168915155840974220003240804194089427148950727106424351713218671805380099500388914039

/-- The series of the cosine in units of 2^-320, from its term k on: `t` is the term, `x2` the square of the angle. -/
def cosSeries : Nat → Nat → Int → Int → Int
  | 0, _, _, _ => 0
  | n + 1, k, t, x2 => t + cosSeries n (k + 1) (-(t * x2 / 2 ^ 320) / ((2 * k + 1) * (2 * k + 2))) x2

/-- Correctly rounded cos(π·f) for f from 0 to 1: computed to 300 bits, more than any FP32 f needs to decide a rounding. -/
def cosPi (f : W32) : W32 :=
  let half : FVal := .fin false 1 (-1)
  let at_ := fun (v : FVal) (neg : Bool) =>
    match v with
    | .fin _ m e =>
      let x := pi320 * m * 2 ^ e.toNat / 2 ^ (-e).toNat
      let c := cosSeries 64 0 (2 ^ 320) ((x * x / 2 ^ 320 : Nat) : Int)
      toF32 (.fin neg c.toNat (-320))
    | _ => f32NaN
  if (f32 f).isZero then F32.one
  else if F32.eqVal (f32 f) half then 0
  else if F32.le F32.one f then 0xBF800000
  else if F32.ltVal (f32 f) half then at_ (f32 f) false
  else at_ ((FVal.fin false 1 0).add (f32 f).negate) true

/-- lr of a valid schedule at a step. -/
def scheduleAt (b : List Byte) (step : Nat) : W32 :=
  let n := fld b 4 1
  let j := ((List.range n).filter (fun j => decide (segField b j 0 ≤ step))).getLast?.getD 0
  let w := fun (o : Nat) => BitVec.ofNat 32 (segField b j o)
  let t := step - segField b j 0
  let len := F32.ofInt (segField b j 4)
  let f := F32.div (F32.ofInt (min t (segField b j 4) : Nat)) len
  match segKind b j with
  | 0 => w 8
  | 1 => F32.fma (F32.sub (w 12) (w 8)) f (w 8)
  | 2 => F32.fma (F32.sub (w 8) (w 12)) (F32.mul 0x3F000000 (F32.add F32.one (cosPi f))) (w 12)
  | _ => F32.mul (w 8) (F32.sqrt (F32.div len (F32.add (F32.ofInt t) len)))

/-! ### The descriptor (R297, R298) -/

/-- An update descriptor's fields. -/
structure Shard where
  layer : Nat
  opt : Nat
  flags : Nat
  wfmt : Nat
  margin : Nat
  nparam : Nat
  step0 : Nat
  beta1 : W32
  beta2 : W32
  eps : W32
  wd : W32
  lrMul : W32
  gmul : W32
  clipMax : W32
  ratioHi : W32
  ratioLo : W32
  sched : Nat
  recs : Nat
  wc : Nat
  side : Nat
  hdr : Nat
  commit : Nat
  lstat : Nat
  owner : Nat
  role : Nat
  deriving DecidableEq, Repr

def Shard.of (b : List Byte) : Shard :=
  let w := fun (o : Nat) => BitVec.ofNat 32 (fld b o 4)
  { layer := fld b 0 2, opt := fld b 2 1, flags := fld b 3 1, wfmt := fld b 4 1, margin := fld b 5 1, nparam := fld b 8 4
    step0 := fld b 12 4, beta1 := w 16, beta2 := w 20, eps := w 24, wd := w 28, lrMul := w 32, gmul := w 36, clipMax := w 40
    ratioHi := w 44, ratioLo := w 48, sched := fld b 56 8, recs := fld b 64 8, wc := fld b 72 8, side := fld b 80 8
    hdr := fld b 88 8, commit := fld b 96 8, lstat := fld b 104 8, owner := fld b 112 2, role := fld b 114 1 }

def Shard.biasCorr (d : Shard) : Bool := d.flags.testBit 0
def Shard.clipMode (d : Shard) : Nat := bits d.flags 2 1
def Shard.pow2 (d : Shard) : Bool := d.flags.testBit 3
def Shard.gbf16 (d : Shard) : Bool := d.flags.testBit 4
def Shard.shadow (d : Shard) : Bool := d.role.testBit 0
def Shard.params (d : Shard) : Nat := optParams d.opt
def Shard.count (d : Shard) : Nat := d.nparam / max 1 d.params
def Shard.fmt (d : Shard) : Fmt := (Fmt.ofCode d.wfmt).getD .bf16
def Shard.isSb (d : Shard) : Bool := d.fmt.isSb
/-- Bytes of the element plane and of the side plane. -/
def Shard.planeBytes (d : Shard) : Nat := d.nparam * d.fmt.bits / 8
def Shard.sideBytes (d : Shard) : Nat := if d.isSb then d.nparam / 32 * 2 else 0
def Shard.gradBytes (d : Shard) : Nat := d.nparam * (if d.gbf16 then 2 else 4)

/-- R298, but for the pages. -/
def Shard.valid (b : List Byte) (step : Nat) : Bool :=
  let d := Shard.of b
  let unit := fun (x : W32) => F32.le 0 x && F32.lt x F32.one
  zeroBytes b 6 8 && zeroBytes b 52 56 && zeroBytes b 115 128 && decide (d.flags < 32) && d.clipMode != 3 &&
    decide (d.role < 2) && decide (d.margin ≤ 31) && [1, 3, 4, 0xB, 0xD].contains d.wfmt && d.params != 0 &&
    d.nparam != 0 && d.nparam % (if d.isSb then d.params.lcm 32 else max 1 d.params) == 0 &&
    d.recs % (if d.isSb then 4096 else 256) == 0 && (d.isSb || d.side == 0) &&
    [d.wc, d.side, d.hdr, d.lstat].all local64 && vaSpace d.recs == 0 && vaSpace d.commit == 0 &&
    (!optHasV d.opt || (!F32.le d.eps 0 && unit d.beta1 && unit d.beta2)) && (d.opt != 3 || unit d.beta1) &&
    !(d.clipMode != 0 && F32.le d.clipMax 0) && !(d.biasCorr && decide (step < d.step0))

/-! ### The constants of an update (R303, R304) -/

/-- pow(β, t): the bits of t from the lowest, `fuel` of them. -/
def powLoop : Nat → W32 → W32 → Nat → W32
  | 0, r, _, _ => r
  | n + 1, r, b, t =>
    if t = 0 then r else powLoop n (if t % 2 = 1 then F32.mul r b else r) (F32.mul b b) (t / 2)

def powF (b : W32) (t : Nat) : W32 := powLoop 33 F32.one b t

/-- What every parameter of an update uses. -/
structure UpdConst where
  lr : W32
  cg : W32
  dw : W32
  ob1 : W32
  ob2 : W32
  alpha : W32
  eps : W32
  deriving DecidableEq, Repr

/-- c_g for a gradient scale exponent. -/
def gradFactor (d : Shard) (k : Int) : W32 := toF32 ((f32 d.gmul).mul (.fin false 1 (-k)))

def updConst (d : Shard) (sched : List Byte) (step : Nat) (k : Int) : UpdConst :=
  let lr := F32.mul (scheduleAt sched step) d.lrMul
  let t := step + 1 - d.step0
  let q := F32.sqrt (F32.sub F32.one (powF d.beta2 t))
  let bc := d.biasCorr && optHasV d.opt
  { lr := lr, cg := gradFactor d k, dw := F32.mul lr d.wd, ob1 := F32.sub F32.one d.beta1, ob2 := F32.sub F32.one d.beta2
    alpha := if bc then F32.div (F32.mul lr q) (F32.sub F32.one (powF d.beta1 t)) else lr
    eps := if bc then F32.mul d.eps q else d.eps }

/-- k_s of a gradient scale entry, when it holds step s or s + 1 (R187, R303). -/
def gscaleK (g : List Byte) (step : Nat) : Option Int :=
  if fld g 4 4 = step then some (s8 g 0) else if fld g 4 4 = (step + 1) % 2 ^ 32 then some (s8 g 1) else none

/-- The clip factor; none for an invalid list. -/
def clipFactor (d : Shard) (l : List W32) : Option W32 :=
  if d.clipMode = 0 then some F32.one
  else if l.isEmpty || l.any (fun x => F32.isNaN x || F32.lt x 0) then none
  else
    let n := F32.sqrt (toF32 (FVal.sum (.fin false 0 0) (l.map f32)))
    some (if F32.lt d.clipMax n then F32.div d.clipMax n else F32.one)

/-! ### One parameter, one record (R305, R308, R309) -/

/-- What the update of a parameter gives: master and extension, m, v, the unclipped gradient and Δ. -/
structure ParamUpd where
  a : W32
  e : Nat
  m : W32
  v : W32
  g : W32
  delta : W32
  deriving DecidableEq, Repr

def updateParam (d : Shard) (k : UpdConst) (c : W32) (a : W32) (e : Nat) (m v grad : W32) : ParamUpd :=
  let g0 := F32.mul grad k.cg
  let g := if c = F32.one then g0 else F32.mul g0 c
  let w := wide a e
  let x := narrow w
  let dd := F32.mul k.dw x
  let m' :=
    if optHasV d.opt then F32.fma d.beta1 m (F32.mul k.ob1 g) else if d.opt = 3 then F32.fma d.beta1 m g else m
  let v' := if optHasV d.opt then F32.fma d.beta2 v (F32.mul k.ob2 (F32.mul g g)) else v
  let delta :=
    if optHasV d.opt then F32.fma k.alpha (F32.div m' (F32.add (F32.sqrt v') k.eps)) dd
    else F32.fma k.lr (if d.opt = 3 then m' else g) dd
  let r := round40 (w.add (f32 delta).negate)
  ⟨r.1, r.2, m', v', g0, delta⟩

/-- The wide masters of a record. -/
def recordMaster (d : Shard) (r : List Byte) (j : Nat) : W32 × Nat :=
  (BitVec.ofNat 32 (fld r (16 + 4 * j) 4), fld r (optExt d.opt + 2 * j) 2)

def recordWide (d : Shard) (r : List Byte) : List FVal :=
  (List.range d.params).map (fun j => let p := recordMaster d r j; wide p.1 p.2)

/-- A moment as FP32. -/
def recordMoment (d : Shard) (r : List Byte) (base j : Nat) : W32 :=
  if d.opt = 2 then BF16.widen (fld r (base + 2 * j) 2) else BitVec.ofNat 32 (fld r (base + 4 * j) 4)

def momentBytes (d : Shard) (x : W32) : List Byte :=
  if d.opt = 2 then leBytes 2 (bf16Fmt.ofVal (f32 x)) else leBytes 4 x.toNat

/-- The header of a record (R292). -/
def recordHeader (d : Shard) (tag : Nat) (skipped clipped : Bool) : List Byte :=
  leBytes 4 tag ++ leBytes 4 (2 ^ 32 - 1 - tag % 2 ^ 32) ++ leBytes 2 d.layer ++ leBytes 1 d.opt ++
    leBytes 1 (bit01 skipped + 2 * bit01 clipped + 4 * bit01 d.shadow) ++ leBytes 2 d.owner ++ leBytes 2 0

/-- The body of a record, from its parameters. -/
def recordBody (d : Shard) (ps : List ParamUpd) : List Byte :=
  let b := ps.flatMap (fun p => leBytes 4 p.a.toNat) ++ ps.flatMap (fun p => leBytes 2 p.e) ++
    (if optHasM d.opt then ps.flatMap (fun p => momentBytes d p.m) else []) ++
    (if optHasV d.opt then ps.flatMap (fun p => momentBytes d p.v) else [])
  bsub b 0 240

/-- The update of a record, with its gradients. -/
def updateRecord (d : Shard) (k : UpdConst) (c : W32) (r : List Byte) (grads : List W32) : List ParamUpd :=
  (List.range d.params).map (fun j =>
    let p := recordMaster d r j
    updateParam d k c p.1 p.2 (if optHasM d.opt then recordMoment d r (optM d.opt) j else 0)
      (if optHasV d.opt then recordMoment d r (optV d.opt) j else 0) (grads.getD j 0))

/-- Why a record is absent: 1 complement, 2 layer, 3 optimizer code, 4 reserved bits; 0 when it is not. -/
def recordCause (d : Shard) (r : List Byte) : Nat :=
  if fld r 0 4 + fld r 4 4 ≠ 2 ^ 32 - 1 then 1
  else if fld r 8 2 ≠ d.layer then 2
  else if fld r 10 1 ≠ d.opt then 3
  else if 8 ≤ fld r 11 1 ∨ fld r 14 2 ≠ 0 ∨ (d.opt = 1 ∧ !zeroBytes r 240 256) then 4
  else 0

/-! ### Working values (R306, R307) -/

/-- next_scale: S and INV_S of the working copy of the next tag. -/
def nextScale (d : Shard) (amax s inv : W32) : W32 × W32 :=
  if d.fmt = .bf16 then (F32.one, F32.one)
  else if (f32 amax).isZero then (s, inv)
  else
    let x := F32.div (F32.mul amax (F32.pow2 d.margin)) (F32.ofInt ((scaleRange d.fmt).getD 1 : Nat))
    let x := if d.pow2 then pow2Ceil x else x
    let x := F32.minNum (F32.maxNum x (F32.pow2 (-126))) (F32.pow2 127)
    (x, invS x)

/-- The working values of wide masters: codes with their saturations, and the side entries of the blocks. -/
structure Working where
  codes : List (Nat × Bool)
  side : List Nat
  deriving DecidableEq, Repr

/-- Blocks of 32 values, `n` at most. -/
def blocks32 {α : Type} : Nat → List α → List (List α)
  | 0, _ => []
  | n + 1, l => if l.isEmpty then [] else l.take 32 :: blocks32 n (l.drop 32)

/-- The working codes of masters, from the header's S and INV_S (R306). A scaled-block format is encoded with whatever S the header
holds: R69 names a program fault alone, and a conservator runs no program (DESIGN CHOICE, log entry 106). -/
def working (d : Shard) (s inv : W32) (ws : List FVal) : Working :=
  if d.isSb then
    let bs := (blocks32 (ws.length / 32 + 1) ws).map (fun l => encodeBlock d.fmt s false (l.map narrow) (fun _ => .rne))
    ⟨bs.flatMap (fun b => b.elems.map (fun c => (c.code, c.cls.sat))), bs.map (sideEntry d.fmt)⟩
  else
    ⟨ws.map (fun w =>
      let v := if d.fmt = .bf16 then w else f32 (F32.mul (narrow w) inv)
      let c := convFloat (d.fmt.float?.getD bf16Fmt) .rne false v
      (c.code, c.cls.sat)), []⟩

/-- The largest finite magnitude of masters. -/
def amaxOf (ws : List FVal) : W32 := (finiteOf (ws.map narrow)).foldl (fun m x => F32.maxNum m (F32.abs x)) 0

/-! ### Shard header, commit line, layer statistics (R299, R300, R319) -/

def tagPair (tag : Nat) : List Byte := leBytes 4 tag ++ leBytes 4 (2 ^ 32 - 1 - tag % 2 ^ 32)

def shardHeader (d : Shard) (tag : Nat) (s inv amax : W32) : List Byte :=
  tagPair tag ++ leBytes 4 s.toNat ++ leBytes 4 inv.toNat ++ leBytes 4 amax.toNat ++ leBytes 2 d.layer ++ leBytes 1 d.wfmt ++
    leBytes 1 0 ++ leBytes 4 d.nparam ++ List.replicate 36 0

def commitLine (d : Shard) (tag : Nat) : List Byte :=
  tagPair tag ++ leBytes 2 d.layer ++ leBytes 2 d.owner ++ leBytes 4 d.count ++ List.replicate 48 0

/-- The tag of a tag word with its complement. -/
def tagOf (b : List Byte) : Option Nat := if fld b 0 4 + fld b 4 4 = 2 ^ 32 - 1 then some (fld b 0 4) else none

/-- The exact sum of squares, rounded once. -/
def sumSquares (l : List W32) : W32 := toF32 (FVal.sum (.fin false 0 0) (l.map (fun x => (f32 x).mul (f32 x))))

/-- The update ratio (R319). -/
def updRatio (w2 d2 : W32) : W32 :=
  if (f32 d2).isZero then 0
  else if (f32 w2).isZero && F32.lt 0 d2 then f32PosInf
  else F32.sqrt (F32.div d2 w2)

end Sys2Proof.Machine
end

