-- ==== Sys2Proof/Machine/Transfer.lean ====
section
/-! DEFINITION. The load/store engine of a core: descriptor transfers, daypack transfers and atomics, cluster-buffer copies,
credits and stream waits (05_core_programs.md R157 to R160; 08_tiers_and_streams.md R252 to R262; 07_hbm.md R222). -/

namespace Sys2Proof.Machine

/-- The pieces behind bytes `lo` to `hi` of the local side, over the elements listed. -/
def State.elemPieces (s : State) (ctx : Nat) (d : Desc) (who : Accessor) (lo hi index : Nat) :
    List Nat → State × Got (List Piece) × Nat
  | [] => (s, .ok [], 0)
  | n :: r =>
    match s.elemVa ctx d who n with
    | (s, .ok a, _) =>
      let b := max lo (n * d.elemLen)
      let e := min hi ((n + 1) * d.elemLen)
      match s.elemPieces ctx d who lo hi (index + 1) r with
      | (s, .ok ps, x) => (s, .ok (⟨index, a + (b - n * d.elemLen), e - b⟩ :: ps), x)
      | x => x
    | (s, .wait c, x) => (s, .wait c, x)
    | (s, .fault c, x) => (s, .fault c, x)
    | (s, .damaged l, x) => (s, .damaged l, x)

def State.dataPieces (s : State) (ctx : Nat) (d : Desc) (who : Accessor) (lo hi index : Nat) :
    State × Got (List Piece) × Nat :=
  let first := lo / d.elemLen
  s.elemPieces ctx d who lo hi index ((List.range ((hi + d.elemLen - 1) / d.elemLen - first)).map (first + ·))

/-! ### Pieces translated, read and written -/

/-- A piece translated, and asked for where it must come from outside. -/
def State.askPiece (s : State) (o : Owner) (pc ctx : Nat) (who : Accessor) (noalloc write : Bool) (deadline : Nat)
    (p : Piece) : State × Got Unit :=
  if vaSpace p.va = 0 then
    match s.parts ctx p.va p.len write who deadline with
    | (s, .ok l) =>
      match (if write then none else l.findSome? (fun x => s.hbm.damagedIn x.1 x.2)) with
      | some line => (s, .damaged line)
      | none => (s, .ok ())
    | (s, .wait c) => (s, .wait c)
    | (s, .fault c) => (s, .fault c)
    | (s, .damaged l) => (s, .damaged l)
  else if write then (s, .ok ())
  else
    match s.readPiece o pc ctx p.index p.va p.len who noalloc deadline with
    | (s, .ok _) => (s, .ok ())
    | (s, .wait c) => (s, .wait c)
    | (s, .fault c) => (s, .fault c)
    | (s, .damaged l) => (s, .damaged l)

/-- Every piece translated and asked for. A fault ends it; a wait lets the later pieces be asked for all the same. -/
def State.askPieces (s : State) (o : Owner) (pc ctx : Nat) (who : Accessor) (noalloc write : Bool) (deadline : Nat) :
    List Piece → State × Got Unit × Nat
  | [] => (s, .ok (), 0)
  | p :: r =>
    match s.askPiece o pc ctx who noalloc write deadline p with
    | (s, .ok _) => s.askPieces o pc ctx who noalloc write deadline r
    | (s, .wait c) =>
      match s.askPieces o pc ctx who noalloc write deadline r with
      | (s, .ok _, x) => (s, .wait c, x)
      | (s, .wait d, x) => (s, .wait (mainCause c d), x)
      | x => x
    | (s, g) => (s, g, p.va)

/-- A read of every piece, once all are there. -/
def State.gatherPieces (s : State) (o : Owner) (pc ctx : Nat) (who : Accessor) (noalloc : Bool) (deadline : Nat)
    (ps : List Piece) : State × Got (List Byte) × Nat :=
  match s.askPieces o pc ctx who noalloc false deadline ps with
  | (s, .ok _, x) => let r := s.readPieces o pc ctx who noalloc deadline ps; (r.1, r.2, x)
  | (s, .wait c, x) => (s, .wait c, x)
  | (s, .fault c, x) => (s, .fault c, x)
  | (s, .damaged l, x) => (s, .damaged l, x)

/-- A write of every piece, once all can be reached; `whole` for elements that are moved whole (R251). -/
def State.scatterPieces (s : State) (o : Owner) (pc ctx : Nat) (who : Accessor) (deadline : Nat) (whole : Bool) (ps : List Piece)
    (bs : List Byte) : State × Got Unit × Nat :=
  match s.askPieces o pc ctx who false true deadline ps with
  | (s, .ok _, _) =>
    let r := s.writeEach o pc ctx who deadline whole ps bs
    (r.1, r.2, ((ps.find? (fun p => vaSpace p.va != 0)).map (·.va)).getD 0)
  | (s, .wait c, x) => (s, .wait c, x)
  | (s, .fault c, x) => (s, .fault c, x)
  | (s, .damaged l, x) => (s, .damaged l, x)

/-! ### Lateness (R259) -/

/-- The cause that a unit is stalled on, or that of the tier its data stands in (log entry 74). -/
def State.causeOf (s : State) (u : StallUnit) (va : Nat) : Nat :=
  ((s.tier.episodes.find? (fun e => e.unit == u)).map (·.cause)).getD (tierCause va)

/-- EV_STREAM_LATE: `who` is ARG_0. -/
def State.late (s : State) (ctx src who deadline landed cause : Nat) : State :=
  { s with tier := { s.tier with late := mupd s.tier.late ctx 0 (satAdd 32 · 1) } }.raise 0x0401 src (some ctx)
    [who, deadline, landed, cause]

/-- An outstanding transfer's own record changed. -/
def State.updXfer (s : State) (k : CoreRef) (tag : Nat) (f : Xfer → Xfer) : State :=
  match mget (s.core k).xfers tag with
  | none => s
  | some x => s.setCore k { s.core k with xfers := mset (s.core k).xfers tag (f x) }
def State.updDay (s : State) (k : CoreRef) (dtag : Nat) (f : Day → Day) : State :=
  match mget (s.core k).days dtag with
  | none => s
  | some x => s.setCore k { s.core k with days := mset (s.core k).days dtag (f x) }

/-- Units of an owner's requests that have been answered. -/
def State.unitsAnswered (s : State) (o : Owner) : Nat :=
  (s.tier.remotes.foldl (fun n r => if r.2.owner == o && !r.2.holdsTag && r.2.code == 0 then n + r.2.len else n) 0) / 64

/-- A transfer whose deadline has passed is marked late, once: EV_STREAM_LATE names the cause it waits under (R259, R260). -/
def State.xferLate (s : State) (k : CoreRef) (tag : Nat) : State :=
  match mget (s.core k).xfers tag with
  | none => s
  | some x =>
    if x.late || !s.timePassed x.deadline then s
    else
      (s.updXfer k tag (fun x => { x with late := true })).late
        ((s.cluster k.cluster.val).holder.getD 0) (srcCluster k.cluster.val) (k.cluster.val + tag * 2 ^ 16) x.deadline
        (s.unitsAnswered (.xfer k (Fin.ofNat 8 tag))) (x.cause.getD (tierCause (Desc.of x.desc).dataVa))

/-! ### XFER, XWAIT (R157, R158, R260) -/

def xfSid (w : Nat) : Nat := bits w 31 26
def xfTag (w : Nat) : Nat := bits w 25 22
def xfLine (w : Nat) : Nat := bits w 21 12

/-- Every piece of an XFER. -/
def State.xferPieces (s : State) (ctx : Nat) (d : Desc) : State × Got (List Piece) × Nat :=
  s.dataPieces ctx d (.program false) 0 d.bytes 0

/-- The stretches of memory behind pieces. -/
def reachOf (ps : List Piece) : List (Nat × Nat) := ps.map (fun p => (p.va, p.len))

/-- XFER enters the transfer. A DESC_LINE of 768 or more is a placement outside the tile store (log entry 113). -/
def execXfer (k : CoreRef) (s : State) : Host.Outcome State Fault Refusal :=
  .next (s.issueRow k 0x6 0x00 (fun _ => [(25, 12)]) (fun s i =>
    let tag := xfTag i.w
    let off := 64 * xfLine i.w
    if 8 ≤ tag then i.fault s pfField
    else if tileBytes ≤ off then i.faultAt s pfPlacement off
    else if mhas i.core.xfers tag then i.fault s pfTransfer
    else
      i.reading s off 64 (fun s =>
        let bs := i.core.tsRead off 64
        let d := Desc.of bs
        if !d.valid .xfer then i.fault s pfDescriptor
        else if 8 ≤ i.core.xfers.length + s.epiOpen k then i.hazard s
        else if (if d.scatter then !i.core.canRead d.local_ d.bytes else !i.core.canWrite d.local_ (64 * d.units)) then
          i.hazard s
        else
          let go := fun (s : State) (reach : Option (List (Nat × Nat))) (cause : Option Nat) =>
            (i.done s { i.core with
              xfers := mset i.core.xfers tag ⟨i.core.pc, bs, d.deadline, false, i.core.nextOrd, reach, false, cause⟩
              nextOrd := i.core.nextOrd + 1 }).xferLate k tag
          match s.xferPieces i.ctx d with
          | (s, .ok ps, _) =>
            match s.askPieces (.xfer k (Fin.ofNat 8 tag)) i.core.pc i.ctx (.program false) d.noalloc d.scatter d.deadline ps with
            | (s, .fault c, x) => i.faultAt s c x
            | (s, .damaged line, _) => s.uncorrectable 0 (some i.ctx) line 0
            | (s, .wait c, _) => go s (some (reachOf ps)) (some c)
            | (s, .ok _, _) => go s (some (reachOf ps)) none
          | (s, .wait c, _) => go s none (some c)
          | (s, .fault c, x) => i.faultAt s c x
          | (s, .damaged line, _) => s.uncorrectable 0 (some i.ctx) line 0)))

/-- The transfers of a core can go on: its cluster runs or drains, and its context is not being reset. -/
def State.moving (s : State) (cluster : Nat) : Bool :=
  let cl := s.cluster cluster
  s.alive && (cl.state == .running || cl.state == .draining) && !s.inL0 (cl.holder.getD 0)

/-- The end of a late step of a transfer: done, waiting under a cause, faulted with its entry removed, or reset with its
context. -/
def State.lateOutcome (s : State) (k : CoreRef) (pc reader : Nat) {α : Type} (r : Got α × Nat) (drop : State → State)
    (held : State → Nat → State) (f : State → α → State) : State :=
  match r.1 with
  | .ok x => f s x
  | .wait c => held s c
  | .fault c => (drop s).lateFault k c pc r.2
  | .damaged line => s.uncorrectable reader (some ((s.cluster k.cluster.val).holder.getD 0)) line 0

/-- A transfer removed, with its requests: it has completed, or it cannot go on. -/
def State.dropXfer (s : State) (k : CoreRef) (tag : Fin 8) : State :=
  let c := s.core k
  (s.setCore k { c with xfers := mdel c.xfers tag.val }).dropRemotes (.xfer k tag)
def State.dropDay (s : State) (k : CoreRef) (dtag : Fin 16) : State :=
  let c := s.core k
  (s.setCore k { c with days := mdel c.days dtag.val }).dropRemotes (.daypack k dtag)

/-- Tile-store bytes that an outgoing transfer reads; it reads them once (R122), checked (R133). -/
def State.sourceRead (s : State) (k : CoreRef) (sent : Bool) (off n ctx : Nat) : State × Bool :=
  if sent then (s, true)
  else s.sramRead k.cluster.val (s.physCore k.cluster.val k.core.val) 0 (off / 8) ((n + 7) / 8) ctx

/-- The data of an XFER moves, its pieces known. -/
def State.xferMove (s : State) (k : CoreRef) (tag : Fin 8) (x : Xfer) (ps : List Piece) : State :=
  let d := Desc.of x.desc
  let ctx := (s.cluster k.cluster.val).holder.getD 0
  let o : Owner := .xfer k tag
  let held := fun (s : State) (c : Nat) => s.updXfer k tag.val (fun x => { x with cause := some c })
  if d.scatter then
    let m := s.sourceRead k x.sent d.local_ d.bytes ctx
    if !m.2 then m.1
    else
      let r := m.1.scatterPieces o x.pc ctx (.program false) d.deadline d.whole ps ((m.1.core k).tsRead d.local_ d.bytes)
      let t := if r.1.piecesSent o ps then r.1.updXfer k tag.val (fun x => { x with sent := true }) else r.1
      t.lateOutcome k x.pc 0 r.2 (·.dropXfer k tag) held (fun s _ => s.dropXfer k tag)
  else
    let r := s.gatherPieces o x.pc ctx (.program false) d.noalloc d.deadline ps
    r.1.lateOutcome k x.pc 0 r.2 (·.dropXfer k tag) held (fun s bs =>
      (s.setCore k ((s.core k).tsWrite d.local_ (bsub bs 0 (64 * d.units)))).dropXfer k tag)

/-- An XFER lands whole, waits for what it misses or for an earlier transfer to its lines (R262), or faults (R260; log
entry 62). -/
def execTransferComplete (k : CoreRef) (tag : Fin 8) (s : State) : Host.Outcome State Fault Refusal :=
  .next (
    match (if s.moving k.cluster.val then mget (s.core k).xfers tag.val else none) with
    | none => s
    | some x =>
      let s := s.xferLate k tag.val
      let r := s.xferPieces ((s.cluster k.cluster.val).holder.getD 0) (Desc.of x.desc)
      r.1.lateOutcome k x.pc 0 r.2 (·.dropXfer k tag) (fun s c => s.updXfer k tag.val (fun x => { x with cause := some c }))
        (fun s ps =>
          let s := s.updXfer k tag.val (fun x => { x with reach := some (reachOf ps) })
          if (s.core k).before x.ord (reachOf ps) || s.rowsMeet k (reachOf ps) then s else s.xferMove k tag x ps))

/-- XWAIT: the transfer of TAG, or all of them, have completed. -/
def execXwait (k : CoreRef) (s : State) : Host.Outcome State Fault Refusal :=
  .next (s.issueRow k 0x6 0x02 (fun _ => [(56, 56), (25, 22)]) (fun s i =>
    if 8 ≤ xfTag i.w then i.fault s pfField
    else if (if i.w.testBit 56 then !i.core.xfers.isEmpty else mhas i.core.xfers (xfTag i.w)) then i.hazard s
    else i.done s i.core))

/-! ### The cluster buffer (R124, R157) -/

def bufferBytes : Nat := 2097152

/-- A stretch of whole lines of the cluster buffer read, line by line through its banks (R133). -/
def State.bufferRead (s : State) (cluster ctx : Nat) : List Nat → State × Bool
  | [] => (s, true)
  | line :: r =>
    let m := s.sramRead cluster (line % 16) 4 (line / 16 * 8) 8 ctx
    if m.2 then m.1.bufferRead cluster ctx r else m

def linesFrom (off n : Nat) : List Nat := (List.range (n / 64)).map (off / 64 + ·)

/-- The operands of CBLD and CBST: buffer address, tile-store address, length; or the address of the one that is badly placed: a
misaligned one, a length that is no multiple of 64, a range beyond its memory, a TS_LINE of 768 or more (R138; log entry 113). -/
def cbOperands (i : Issue) : Except Nat (Nat × Nat × Nat) :=
  let cb := (i.core.getX (bits i.w 41 37)).toNat
  let n := (i.core.getX (bits i.w 36 32)).toNat
  let ts := 64 * bits i.w 51 42
  if cb % 64 ≠ 0 ∨ n % 64 ≠ 0 ∨ bufferBytes < cb + n then .error cb
  else if tileBytes ≤ ts ∨ tileBytes < ts + n then .error ts
  else .ok (cb, ts, n)

def execCbld (k : CoreRef) (s : State) : Host.Outcome State Fault Refusal :=
  .next (s.issueRow k 0x6 0x03 (fun _ => [(51, 32)]) (fun s i =>
    i.regs s [bits i.w 41 37, bits i.w 36 32] (fun s =>
      match cbOperands i with
      | .error a => i.faultAt s pfPlacement a
      | .ok (cb, ts, n) =>
        i.writing s ts n (fun s =>
          let r := s.bufferRead k.cluster.val i.ctx (linesFrom cb n)
          if r.2 then i.done r.1 (i.core.tsWrite ts (memRead (i.cl.bufOf k.core.val) cb n)) else r.1))))

/-- CBST: the write is visible to the core itself at once, to the others with a barrier or a peg operation (R120, R123; log
entry 114). -/
def execCbst (k : CoreRef) (s : State) : Host.Outcome State Fault Refusal :=
  .next (s.issueRow k 0x6 0x04 (fun _ => [(51, 32)]) (fun s i =>
    i.regs s [bits i.w 41 37, bits i.w 36 32] (fun s =>
      match cbOperands i with
      | .error a => i.faultAt s pfPlacement a
      | .ok (cb, ts, n) =>
        i.reading s ts n (fun s =>
          let s := i.done s i.core
          let cl := s.cluster k.cluster.val
          s.setCluster k.cluster.val { cl with hidden := cl.hidden ++ [⟨k.core.val, cb, i.core.tsRead ts n⟩] }))))

/-! ### Credits and stream waits (R254, R256) -/

/-- CREDIT: what the core has written to a scatter ring is there for the stream engine (R123, R255; log entry 114). -/
def execCredit (k : CoreRef) (s : State) : Host.Outcome State Fault Refusal :=
  .next (s.issueRow k 0x6 0x05 (fun _ => [(55, 52), (36, 32)]) (fun s i =>
    i.regs s [bits i.w 36 32] (fun s =>
      let n := (i.core.getX (bits i.w 36 32)).toNat
      match mget i.cl.pools (bits i.w 55 52) with
      | none => i.fault s pfTransfer
      | some p =>
        if p.units < p.credits + n then i.fault s pfTransfer
        else
          let s := (i.done s i.core).publish k
          let cl := s.cluster k.cluster.val
          s.setCluster k.cluster.val { cl with pools := mset cl.pools (bits i.w 55 52) { p with credits := p.credits + n } })))

def execSwait (k : CoreRef) (s : State) : Host.Outcome State Fault Refusal :=
  .next (s.issueRow k 0x6 0x06 (fun _ => [(36, 26)]) (fun s i =>
    i.regs s [bits i.w 36 32] (fun s =>
      match mget i.cl.streams (xfSid i.w) with
      | none => i.done s i.core
      | some x =>
        if (i.core.getX (bits i.w 36 32)).toNat ≤ x.landed then i.done s i.core
        else i.stall s (s.causeOf (.stream k.cluster (Fin.ofNat 64 (xfSid i.w))) (Desc.of x.desc).dataVa))))

/-! ### Daypack transfers (R159, R160, R261) -/

def dpXaddr (w : Nat) : Nat := bits w 16 12
def dpLen (w : Nat) : Nat := bits w 24 17 + 1
def dpTs (w : Nat) : Nat := bits w 40 25
def dpTag (w : Nat) : Nat := bits w 44 41
def dpAop (w : Nat) : Nat := bits w 48 45

/-- DP_GET and DP_PUT: the transfer is entered; its data moves when it completes. -/
def daypack (op : Nat) (put : Bool) (k : CoreRef) (s : State) : State :=
  s.issueRow k 0x7 op (fun _ => [(44, 12)]) (fun s i =>
    i.regs s [dpXaddr i.w] (fun s =>
      let va := (i.core.getX (dpXaddr i.w)).toNat
      let n := dpLen i.w
      let ts := dpTs i.w
      if mhas i.core.days (dpTag i.w) then i.fault s pfTransfer
      else if 256 < va % 256 + n then i.faultAt s pfTransfer va
      else if tileBytes < ts + n then i.faultAt s pfPlacement ts
      else if (if put then !i.core.canRead ts n else !i.core.canWrite ts n) then i.hazard s
      else
        let go := fun (s : State) (cause : Option Nat) =>
          let x : Day := ⟨i.core.pc, if put then .put else .get, ts, n, BitVec.ofNat 64 va, i.core.nextOrd, false, cause⟩
          i.done s { i.core with days := mset i.core.days (dpTag i.w) x, nextOrd := i.core.nextOrd + 1 }
        match s.askPiece (.daypack k (Fin.ofNat 16 (dpTag i.w))) i.core.pc i.ctx (.program false) false put 0 ⟨0, va, n⟩ with
        | (s, .fault c) => i.faultAt s c va
        | (s, .damaged line) => s.uncorrectable 0 (some i.ctx) line 0
        | (s, .wait c) => go s (some c)
        | (s, .ok _) => go s none))

def execDpGet (k : CoreRef) (s : State) : Host.Outcome State Fault Refusal := .next (daypack 0x00 false k s)
def execDpPut (k : CoreRef) (s : State) : Host.Outcome State Fault Refusal := .next (daypack 0x01 true k s)

def execDpWait (k : CoreRef) (s : State) : Host.Outcome State Fault Refusal :=
  .next (s.issueRow k 0x7 0x03 (fun _ => [(60, 60), (44, 41)]) (fun s i =>
    if (if i.w.testBit 60 then !i.core.days.isEmpty else mhas i.core.days (dpTag i.w)) then i.hazard s
    else i.done s i.core))

/-! ### Atomics (R222) -/

/-- Bytes of an atomic's operand in memory. -/
def atomBytes (aop : Nat) (w64 : Bool) : Nat :=
  match aop with
  | 0x1 => 2
  | 0x5 => 2
  | 0x7 => 2
  | 0x3 => 8
  | 0xD => 64
  | _ => if decide (8 ≤ aop) && w64 then 8 else 4

/-- The new value in memory, from the old one, the operand and the value to store on equality. -/
def atomApply (aop n : Nat) (old x y : W64) : W64 :=
  let o32 : W32 := old.setWidth 32
  let x32 : W32 := x.setWidth 32
  let o16 := old.toNat % 2 ^ 16
  let x16 := x.toNat % 2 ^ 16
  match aop with
  | 0x0 => (F32.add o32 x32).setWidth 64
  | 0x1 => BitVec.ofNat 64 (BF16.add o16 x16)
  | 0x2 => (o32 + x32).setWidth 64
  | 0x3 => old + x
  | 0x4 => (F32.minNum o32 x32).setWidth 64
  | 0x5 => BitVec.ofNat 64 (BF16.minNum o16 x16)
  | 0x6 => (F32.maxNum o32 x32).setWidth 64
  | 0x7 => BitVec.ofNat 64 (BF16.maxNum o16 x16)
  | 0x8 => old &&& x
  | 0x9 => old ||| x
  | 0xA => old ^^^ x
  | 0xB => x
  | _ => if old.toNat % 2 ^ (8 * n) = x.toNat % 2 ^ (8 * n) then y else old

/-- LINE-ADD over a line of 16 FP32 values. -/
def lineAdd (old x : List Byte) : List Byte :=
  (List.range 16).flatMap (fun j =>
    leBytes 4 (F32.add (BitVec.ofNat 32 (fld old (4 * j) 4)) (BitVec.ofNat 32 (fld x (4 * j) 4))).toNat)

/-- The fields that each atomic uses; LINE-ADD takes its operand from the tile store and returns nothing. -/
def atomFields (w : Nat) : List (Nat × Nat) :=
  let a := dpAop w
  if a = 0xD then [(16, 12), (48, 25)]
  else [(16, 12), (48, 41), (59, 50)] ++ (if 8 ≤ a ∧ a ≤ 0xC then [(49, 49)] else [])

/-- The address that a badly placed DP_ATOM reports: its memory address where that is misaligned, or its tile-store address. -/
def atomPlace (va n ts : Nat) : Nat := if va % n ≠ 0 then va else ts

/-- An atomic applied whole in the slice (R222, R223): the old value. -/
def State.applyAtom (s : State) (ctx aop n pa : Nat) (x y : W64) (line : List Byte) : State × W64 :=
  let old := s.hbm.peek pa n
  let new := if aop = 0xD then lineAdd old line else leBytes n (atomApply aop n (BitVec.ofNat 64 (leNat old)) x y).toNat
  ({ s with hbm := s.hbm.atomic ctx s.local_ pa new }, BitVec.ofNat 64 (leNat old))

/-- An atomic tried at its address. -/
def State.tryAtom (s : State) (ctx aop n va : Nat) (x y : W64) (line : List Byte) : State × Got W64 :=
  match s.reachVa ctx va n (.program false) 0 with
  | (s, .ok ((pa, _) :: _)) => let r := s.applyAtom ctx aop n pa x y line; (r.1, .ok r.2)
  | (s, .ok []) => (s, .fault pfAddress)
  | (s, .wait c) => (s, .wait c)
  | (s, .fault c) => (s, .fault c)
  | (s, .damaged l) => (s, .damaged l)

/-- A DP_ATOM of one code. It is applied when the slice accepts it: at issue, or when it completes where its page is away or an
earlier transfer touches its line (R261, R262). The old value reaches XRET when the response completes; one that asks for no old
value and is applied at issue is complete at once. -/
def daypackAtom (aop : Nat) (k : CoreRef) (s : State) : State :=
  s.issueRow k 0x7 0x02 atomFields (fun s i =>
    if 0xE ≤ dpAop i.w then i.fault s pfField
    else if dpAop i.w ≠ aop then s
    else
      let line := aop == 0xD
      let xo := bits i.w 54 50
      let xret := if line then 0 else bits i.w 59 55
      let cas := aop == 0xC
      if cas && decide (31 < xo + 1) then i.fault s pfField
      else
        i.regs s [dpXaddr i.w, if line then 0 else xo, if cas then xo + 1 else 0, xret] (fun s =>
          let va := (i.core.getX (dpXaddr i.w)).toNat
          let n := atomBytes aop (i.w.testBit 49)
          if mhas i.core.days (dpTag i.w) then i.fault s pfTransfer
          else if va % n ≠ 0 ∨ (line ∧ (dpTs i.w % 64 ≠ 0 ∨ tileBytes < dpTs i.w + 64)) then
            i.faultAt s pfPlacement (atomPlace va n (dpTs i.w))
          else if vaSpace va ≠ 0 then i.faultAt s pfAddress va
          else
            i.reading s (if line then dpTs i.w else 0) (if line then 64 else 0) (fun s =>
              let bytes := if line then i.core.tsRead (dpTs i.w) 64 else []
              let enter := fun (s : State) (op : DayOp) (cause : Option Nat) =>
                let x : Day := ⟨i.core.pc, op, 0, n, BitVec.ofNat 64 va, i.core.nextOrd, false, cause⟩
                i.done s { i.core with days := mset i.core.days (dpTag i.w) x, nextOrd := i.core.nextOrd + 1 }
              let hold := DayOp.held aop xret (i.core.getX xo) (i.core.getX (xo + 1)) bytes
              if i.core.before i.core.nextOrd [(va, n)] || s.rowsMeet k [(va, n)] then enter s hold none
              else
                match s.tryAtom i.ctx aop n va (i.core.getX xo) (i.core.getX (xo + 1)) bytes with
                | (s, .ok old) => if xret = 0 then i.done s i.core else enter s (.atom xret old) none
                | (s, .wait c) => enter s hold (some c)
                | (s, .fault c) => i.faultAt s c va
                | (s, .damaged l) => s.uncorrectable 0 (some i.ctx) l 0)))

def execDpAtomAddFp32 (k : CoreRef) (s : State) : Host.Outcome State Fault Refusal := .next (daypackAtom 0x0 k s)
def execDpAtomAddBf16 (k : CoreRef) (s : State) : Host.Outcome State Fault Refusal := .next (daypackAtom 0x1 k s)
def execDpAtomAddInt32 (k : CoreRef) (s : State) : Host.Outcome State Fault Refusal := .next (daypackAtom 0x2 k s)
def execDpAtomAddInt64 (k : CoreRef) (s : State) : Host.Outcome State Fault Refusal := .next (daypackAtom 0x3 k s)
def execDpAtomMinFp32 (k : CoreRef) (s : State) : Host.Outcome State Fault Refusal := .next (daypackAtom 0x4 k s)
def execDpAtomMinBf16 (k : CoreRef) (s : State) : Host.Outcome State Fault Refusal := .next (daypackAtom 0x5 k s)
def execDpAtomMaxFp32 (k : CoreRef) (s : State) : Host.Outcome State Fault Refusal := .next (daypackAtom 0x6 k s)
def execDpAtomMaxBf16 (k : CoreRef) (s : State) : Host.Outcome State Fault Refusal := .next (daypackAtom 0x7 k s)
def execDpAtomAnd (k : CoreRef) (s : State) : Host.Outcome State Fault Refusal := .next (daypackAtom 0x8 k s)
def execDpAtomOr (k : CoreRef) (s : State) : Host.Outcome State Fault Refusal := .next (daypackAtom 0x9 k s)
def execDpAtomXor (k : CoreRef) (s : State) : Host.Outcome State Fault Refusal := .next (daypackAtom 0xA k s)
def execDpAtomExchange (k : CoreRef) (s : State) : Host.Outcome State Fault Refusal := .next (daypackAtom 0xB k s)
def execDpAtomCompareExchange (k : CoreRef) (s : State) : Host.Outcome State Fault Refusal := .next (daypackAtom 0xC k s)
def execDpAtomLineAdd (k : CoreRef) (s : State) : Host.Outcome State Fault Refusal := .next (daypackAtom 0xD k s)

/-! ### The completion of daypack transfers (R261, R262) -/

/-- A daypack transfer completes, waits for what it misses or for an earlier transfer to its lines, or faults. -/
def execDaypackComplete (k : CoreRef) (dtag : Fin 16) (s : State) : Host.Outcome State Fault Refusal :=
  .next (
    match (if s.moving k.cluster.val then mget (s.core k).days dtag.val else none) with
    | none => s
    | some x =>
      let ctx := (s.cluster k.cluster.val).holder.getD 0
      let o : Owner := .daypack k dtag
      let ps : List Piece := [⟨0, x.va.toNat, x.len⟩]
      let held := fun (s : State) (c : Nat) => s.updDay k dtag.val (fun x => { x with cause := some c })
      let early := (s.core k).before x.ord (reachOf ps) || s.rowsMeet k (reachOf ps)
      match x.op with
      | .atom xret old => (s.setCore k ((s.core k).setX xret old)).dropDay k dtag
      | .held aop xret a b line =>
        if early then s
        else
          let r := s.tryAtom ctx aop x.len x.va.toNat a b line
          r.1.lateOutcome k x.pc 0 (r.2, x.va.toNat) (·.dropDay k dtag) held (fun s old =>
            (s.setCore k ((s.core k).setX xret old)).dropDay k dtag)
      | .get =>
        if early then s
        else
          let r := s.gatherPieces o x.pc ctx (.program false) false 0 ps
          r.1.lateOutcome k x.pc 0 r.2 (·.dropDay k dtag) held (fun s bs =>
            (s.setCore k ((s.core k).tsWrite x.ts bs)).dropDay k dtag)
      | .put =>
        if early then s
        else
          let m := s.sourceRead k x.sent x.ts x.len ctx
          if !m.2 then m.1
          else
            let r := m.1.scatterPieces o x.pc ctx (.program false) 0 false ps ((m.1.core k).tsRead x.ts x.len)
            let t := if r.1.piecesSent o ps then r.1.updDay k dtag.val (fun x => { x with sent := true }) else r.1
            t.lateOutcome k x.pc 0 r.2 (·.dropDay k dtag) held (fun s _ => s.dropDay k dtag))

end Sys2Proof.Machine
end

