-- ==== Sys2Proof/Machine/Streams.lean ====
section
/-! DEFINITION. Streams and copies (08_tiers_and_streams.md R251 to R263): issuing a stream, its credits, tag and deadline,
the units as they land, completion, and the COPY command. -/

namespace Sys2Proof.Machine

/-! ### Who moves units -/

/-- A stream or a copy as it moves its units: reader code of R208, cluster or 0xFFFF for a copy. -/
structure Mover where
  owner : Owner
  pc : Nat
  ctx : Nat
  step : Nat
  reader : Nat
  cluster : Nat
  deriving DecidableEq, Repr

def Mover.who (m : Mover) (pack : Bool) : Accessor := if m.cluster = 0xFFFF then .other pack else .program pack
def Mover.user (m : Mover) : PackUser := ⟨m.ctx, m.step, m.reader, m.cluster, m.who true⟩
def Mover.src (m : Mover) : Nat := m.owner.unit

/-- Units that land together: those of one pack block, of one whole element, or one. -/
def Desc.group (d : Desc) : Nat := if d.pack then 64 else if d.whole then 4 else 1

/-- The state of the ring that a stream of LKIND 0 works on: cluster, ring base and units, position of its first unit. -/
structure RingSide where
  cluster : Nat
  base : Nat
  units : Nat
  pos : Nat
  deriving DecidableEq, Repr

/-- Buffer addresses of units `lo` to `hi`. -/
def RingSide.places (g : RingSide) (lo hi : Nat) : List Nat :=
  (List.range (hi - lo)).map (fun j => g.base + 64 * ((g.pos + lo + j) % max 1 g.units))

/-- How a step ended, with the address of a fault. -/
abbrev Moved (α : Type) := State × PackGot α × Nat

def Got.toPack {α : Type} : Got α → PackGot α
  | .ok x => .ok x
  | .wait c => .wait c
  | .fault c => .fault c
  | .damaged l => .damaged l

/-! ### The local side -/

/-- Bytes of units `lo` to `hi`, the padding of the last unit left out. -/
def Desc.span (d : Desc) (lo hi : Nat) : Nat := min (64 * hi) d.bytes - 64 * lo

/-- The place of units `lo` to `hi` at OTHER_VA: a scatter reads its elements alone, a gather writes whole units (R252). -/
def otherPieces (d : Desc) (lo hi : Nat) : List Piece :=
  (chunks (d.local_ + 64 * lo) (if d.scatter then d.span lo hi else 64 * (hi - lo))).map (fun p => { p with index := lo * 64 + p.index })

/-- The local side's destination can take the units: a ring always can, since a credit was taken. -/
def State.sideReady (s : State) (m : Mover) (d : Desc) (ring : Option RingSide) (lo hi : Nat) : State × Got Unit × Nat :=
  match ring with
  | some _ => (s, .ok (), 0)
  | none => s.askPieces m.owner m.pc m.ctx (m.who false) false true d.deadline (otherPieces d lo hi)

/-- Units written to the local side, in whole units. -/
def State.sideWrite (s : State) (m : Mover) (d : Desc) (ring : Option RingSide) (lo hi : Nat) (bs : List Byte) :
    State × Got Unit × Nat :=
  match ring with
  | some g =>
    let cl := s.cluster g.cluster
    let buf := (g.places lo hi).zipIdx.foldl (fun b p => memWrite b p.1 (bsub bs (64 * p.2) 64)) cl.buf
    (s.setCluster g.cluster { cl with buf := buf }, .ok (), 0)
  | none => s.scatterPieces m.owner m.pc m.ctx (m.who false) d.deadline false (otherPieces d lo hi) bs

/-- Units read from the local side. The last flag is false when a memory error has reset the context. -/
def State.sideRead (s : State) (m : Mover) (d : Desc) (ring : Option RingSide) (lo hi : Nat) : Moved (List Byte) :=
  match ring with
  | some g =>
    let r := s.bufferRead g.cluster m.ctx ((g.places lo hi).map (· / 64))
    if r.2 then (r.1, .ok ((g.places lo hi).flatMap (fun a => memRead (s.cluster g.cluster).buf a 64)), 0) else (r.1, .reset, 0)
  | none =>
    let r := s.gatherPieces m.owner m.pc m.ctx (m.who false) false d.deadline (otherPieces d lo hi)
    (r.1, r.2.1.toPack, r.2.2)

/-! ### One group of units (R252, R256, R258) -/

/-- The data behind a group read. -/
def State.groupRead (s : State) (m : Mover) (d : Desc) (run : PackRun) (lo hi : Nat) :
    State × PackRun × PackGot (List Byte) × Nat :=
  if d.pack then
    match s.elemVa m.ctx d (m.who false) (lo / 64) with
    | (s, .ok va, _) =>
      let r := s.packGather m.user run va (lo / 64) d.deadline
      (r.1, r.2.1, r.2.2, va)
    | (s, .wait c, x) => (s, run, .wait c, x)
    | (s, .fault c, x) => (s, run, .fault c, x)
    | (s, .damaged l, x) => (s, run, .damaged l, x)
  else
    match s.dataPieces m.ctx d (m.who false) (64 * lo) (64 * lo + d.span lo hi) (64 * lo) with
    | (s, .ok ps, _) =>
      let r := s.gatherPieces m.owner m.pc m.ctx (m.who false) d.noalloc d.deadline ps
      (r.1, run, r.2.1.toPack, r.2.2)
    | (s, .wait c, x) => (s, run, .wait c, x)
    | (s, .fault c, x) => (s, run, .fault c, x)
    | (s, .damaged l, x) => (s, run, .damaged l, x)

/-- The data behind a group written. -/
def State.groupWrite (s : State) (m : Mover) (d : Desc) (run : PackRun) (lo hi : Nat) (bs : List Byte) :
    State × PackRun × PackGot Unit × Nat :=
  if d.pack then
    match s.packTable m.user run d d.deadline with
    | (s, .ok run) =>
      match s.elemVa m.ctx d (m.who false) (lo / 64) with
      | (s, .ok va, _) =>
        let r := s.packScatter m.user run va d.deadline bs
        (r.1, r.2.1, r.2.2, va)
      | (s, .wait c, x) => (s, run, .wait c, x)
      | (s, .fault c, x) => (s, run, .fault c, x)
      | (s, .damaged l, x) => (s, run, .damaged l, x)
    | (s, .wait c) => (s, run, .wait c, d.tagVa)
    | (s, .fault c) => (s, run, .fault c, d.tagVa)
    | (s, .damaged l) => (s, run, .damaged l, d.tagVa)
    | (s, .reset) => (s, run, .reset, 0)
  else
    match s.dataPieces m.ctx d (m.who false) (64 * lo) (64 * lo + d.span lo hi) (64 * lo) with
    | (s, .ok ps, _) =>
      let r := s.scatterPieces m.owner m.pc m.ctx (m.who false) d.deadline d.whole ps (bs.take (d.span lo hi))
      (r.1, run, r.2.1.toPack, r.2.2)
    | (s, .wait c, x) => (s, run, .wait c, x)
    | (s, .fault c, x) => (s, run, .fault c, x)
    | (s, .damaged l, x) => (s, run, .damaged l, x)

/-- A group moved between the data and the local side. -/
def State.moveGroup (s : State) (m : Mover) (d : Desc) (ring : Option RingSide) (run : PackRun) (lo hi : Nat) :
    State × PackRun × PackGot Unit × Nat :=
  if d.scatter then
    match s.sideRead m d ring lo hi with
    | (s, .ok bs, _) => s.groupWrite m d run lo hi bs
    | (s, .wait c, x) => (s, run, .wait c, x)
    | (s, .fault c, x) => (s, run, .fault c, x)
    | (s, .damaged l, x) => (s, run, .damaged l, x)
    | (s, .reset, x) => (s, run, .reset, x)
  else
    match s.sideReady m d ring lo hi with
    | (s, .ok _, _) =>
      match s.groupRead m d run lo hi with
      | (s, run, .ok bs, _) =>
        let r := s.sideWrite m d ring lo hi (bsub bs 0 (64 * (hi - lo)))
        (r.1, run, r.2.1.toPack, r.2.2)
      | (s, run, .wait c, x) => (s, run, .wait c, x)
      | (s, run, .fault c, x) => (s, run, .fault c, x)
      | (s, run, .damaged l, x) => (s, run, .damaged l, x)
      | (s, run, .reset, x) => (s, run, .reset, x)
    | (s, .wait c, x) => (s, run, .wait c, x)
    | (s, .fault c, x) => (s, run, .fault c, x)
    | (s, .damaged l, x) => (s, run, .damaged l, x)

/-! ### Tags (R257) -/

/-- The number of a tag's read among its owner's requests: no unit has it. -/
def tagIndex : Nat := 2 ^ 40

/-- How a tag read came out, in whichever space the tag lies: whether it matched the step, and whether its complement was
wrong. -/
def State.readTag (s : State) (m : Mover) (d : Desc) (reported : Bool) : State × Got (Bool × Bool) :=
  match s.readPiece m.owner m.pc m.ctx tagIndex d.tagVa 8 (m.who false) false d.deadline with
  | (s, .ok b) =>
    let s := { s with tier := { s.tier with
      remotes := s.tier.remotes.filter (fun r => !(r.2.owner == m.owner && r.2.index == tagIndex)) } }
    let v := fld b 0 4
    let bad := fld b 4 4 != 0xFFFFFFFF - v
    let s := if bad && !reported then s.raise 0x0409 m.src (some m.ctx) [m.cluster, d.tagVa, v, m.step] else s
    (s, .ok (!bad && v == m.step % 2 ^ 32, bad || reported))
  | (s, .wait c) => (s, .wait c)
  | (s, .fault c) => (s, .fault c)
  | (s, .damaged l) => (s, .damaged l)

/-! ### Streams of a cluster -/

def State.stream? (s : State) (c sid : Nat) : Option Stream := mget (s.cluster c).streams sid
def State.setStream (s : State) (c sid : Nat) (x : Stream) : State :=
  let cl := s.cluster c
  s.setCluster c { cl with streams := mset cl.streams sid x }

def State.streamMover (s : State) (c : ClusterNo) (sid : Fin 64) (x : Stream) : Mover :=
  ⟨.stream c sid, x.pc, (s.cluster c.val).holder.getD 0, (s.clusterStep c.val).toNat, 1, c.val⟩

def State.ringSide (s : State) (c : Nat) (x : Stream) : Option RingSide :=
  let d := Desc.of x.desc
  if d.lkind = 0 then (mget (s.cluster c).pools d.pool).map (fun p => ⟨c, p.base, p.units, x.pos⟩) else none

/-- A stream removed: from its slot and from its pool's queue; its requests are forgotten and its stall ends (log entry 82). -/
def State.dropStream (s : State) (c : ClusterNo) (sid : Fin 64) : State :=
  let cl := s.cluster c.val
  let cl := { cl with streams := mdel cl.streams sid.val
                      pools := cl.pools.map (fun p => (p.1, { p.2 with queue := p.2.queue.filter (· != sid.val) })) }
  ((s.setCluster c.val cl).dropRemotes (.stream c sid)).stallOff (.stream c sid)

/-- A stream that meets an outcome other than success: it stalls, its program faults, or its context is reset. -/
def State.streamBad (s : State) (c : ClusterNo) (sid : Fin 64) (x : Stream) {α : Type} (g : PackGot α) (addr : Nat) : State :=
  let ctx := (s.cluster c.val).holder.getD 0
  match g with
  | .ok _ => s
  | .wait cause => s.stallOn (.stream c sid) ctx cause
  | .fault code => (s.dropStream c sid).lateFault ⟨c, Fin.ofNat 80 x.core⟩ code x.pc addr
  | .damaged line => s.uncorrectable 1 (some ctx) line 0
  | .reset => s

/-- A late stream is marked, once (R259). -/
def State.streamLate (s : State) (c : ClusterNo) (sid : Fin 64) : State :=
  match s.stream? c.val sid.val with
  | none => s
  | some x =>
    if x.late || !s.timePassed x.deadline then s
    else
      (s.setStream c.val sid.val { x with late := true }).late ((s.cluster c.val).holder.getD 0) (srcCluster c.val)
        (c.val + sid.val * 2 ^ 16) x.deadline (x.landed + x.ahead.length)
        (s.causeOf (.stream c sid) (Desc.of x.desc).dataVa)

/-- A tag that has not matched yet is read (R257). -/
def State.streamTag (s : State) (c : ClusterNo) (sid : Fin 64) : State :=
  match s.stream? c.val sid.val with
  | none => s
  | some x =>
    if x.tagOk then s
    else
      match s.readTag (s.streamMover c sid x) (Desc.of x.desc) x.tagBad with
      | (s, .ok (ok, bad)) =>
        let s := s.setStream c.val sid.val { x with tagOk := ok, tagBad := bad, lastTag := s.local_ }
        if ok then s.stallOff (.stream c sid) else s.stallOn (.stream c sid) ((s.cluster c.val).holder.getD 0) 6
      | (s, g) => (s.setStream c.val sid.val { x with lastTag := s.local_ }).streamBad c sid x g.toPack (Desc.of x.desc).tagVa

/-- The pool that a stream of LKIND 0 works on, after INIT: none where R253 finds the descriptor invalid. -/
def poolFor (cl : Cluster) (d : Desc) : Option Pool :=
  if d.init then
    let units := bits d.local_ 47 32
    some ⟨bits d.local_ 31 0, units, d.scatter, if d.scatter then 0 else units, 0, []⟩
  else
    match mget cl.pools d.pool with
    | some p => if p.scatter == d.scatter then some p else none
    | none => none

/-- STREAM: the descriptor is handed to the cluster stream engine. -/
def execStream (k : CoreRef) (s : State) : Host.Outcome State Fault Refusal :=
  .next (s.issueRow k 0x6 0x01 (fun _ => [(31, 26), (21, 12)]) (fun s i =>
    let sid := xfSid i.w
    let off := 64 * xfLine i.w
    if tileBytes ≤ off then i.faultAt s pfPlacement off
    else if mhas i.cl.streams sid then i.fault s pfTransfer
    else
      i.reading s off 64 (fun s =>
        let bs := i.core.tsRead off 64
        let d := Desc.of bs
        let n := Fin.ofNat 64 sid
        if !d.valid .stream then i.fault s pfDescriptor
        else
          let start := fun (s : State) (pos : Nat) =>
            let s := (i.done s i.core).publish k
            let s := s.setStream k.cluster.val sid
              ⟨k.core.val, i.core.pc, bs, pos, 0, 0, [], d.deadline, !d.tag, false, s.local_, false, .start⟩
            (s.streamTag k.cluster n).streamLate k.cluster n
          if d.lkind ≠ 0 then start s 0
          else
            match poolFor i.cl d with
            | none => i.fault s pfDescriptor
            | some p =>
              let cl := s.cluster k.cluster.val
              let p' := { p with pos := (p.pos + d.units) % max 1 p.units, queue := p.queue ++ [sid] }
              start (s.setCluster k.cluster.val { cl with pools := mset cl.pools d.pool p' }) p.pos)))

/-- A stream's next request (R254, R255): a unit of LKIND 0 takes a credit, once earlier streams on the pool have taken
theirs. A gather's data is asked for. -/
def execStreamRequestIssue (c : ClusterNo) (sid : Fin 64) (s : State) : Host.Outcome State Fault Refusal :=
  .next (
    match (if s.moving c.val then s.stream? c.val sid.val else none) with
    | none => s
    | some x =>
      let d := Desc.of x.desc
      let m := s.streamMover c sid x
      let cl := s.cluster c.val
      let last := x.issued + 1 == d.units
      let ask := fun (s : State) =>
        let s := (s.setStream c.val sid.val { x with issued := x.issued + 1 }).stallOff (.stream c sid)
        if d.scatter || d.pack then s
        else
          match s.dataPieces m.ctx d (m.who false) (64 * x.issued) (64 * x.issued + d.span x.issued (x.issued + 1))
              (64 * (x.issued / d.group * d.group)) with
          | (s, .ok ps, _) =>
            if d.whole then s
            else
              match s.askPieces m.owner m.pc m.ctx (m.who false) d.noalloc false d.deadline ps with
              | (s, .ok _, _) => s
              | (s, g, a) => s.streamBad c sid x g.toPack a
          | (s, g, a) => s.streamBad c sid x g.toPack a
      if d.units ≤ x.issued then s
      else if !x.tagOk then s.stallOn (.stream c sid) m.ctx 6
      else if d.lkind ≠ 0 then ask s
      else
        match mget cl.pools d.pool with
        | none => s
        | some p =>
          if p.queue.head? ≠ some sid.val ∨ p.credits = 0 then s.stallOn (.stream c sid) m.ctx 4
          else
            let p' := { p with credits := p.credits - 1, queue := if last then p.queue.drop 1 else p.queue }
            ask (s.setCluster c.val { cl with pools := mset cl.pools d.pool p' }))

/-- Units from `lo` to `hi` landed: the unbroken prefix, and those beyond it. -/
def landUnits (x : Stream) (lo hi : Nat) : Stream :=
  let all := x.ahead ++ (List.range (hi - lo)).map (lo + ·)
  let rec grow : Nat → Nat → Nat
    | 0, p => p
    | f + 1, p => if all.contains p then grow f (p + 1) else p
  let p := grow all.length x.landed
  { x with landed := p, ahead := all.filter (fun u => decide (p ≤ u)) }

/-- A stream whose units have all landed completes: its pack record is merged, then its peg is signalled (R256, R286, R512). -/
def State.endStream (s : State) (c : ClusterNo) (sid : Fin 64) (y : Stream) : State :=
  let d := Desc.of y.desc
  let m := s.streamMover c sid y
  match s.packMerge m.user y.pack d d.deadline with
  | (s, .ok _) =>
    let s := ((s.setStream c.val sid.val y).streamLate c sid).dropStream c sid
    if d.sigPeg = 0xFFFF then s else s.completionSignal m.ctx d.sigPeg 1 (srcCluster c.val)
  | (s, g) => (s.setStream c.val sid.val y).streamBad c sid y g.toPack d.tagVa

/-- A unit lands, with its group; the last one completes the stream. -/
def execStreamUnitLanded (c : ClusterNo) (sid : Fin 64) (unit : Nat) (s : State) : Host.Outcome State Fault Refusal :=
  .next (
    match (if s.moving c.val then s.stream? c.val sid.val else none) with
    | none => s
    | some x =>
      let d := Desc.of x.desc
      let g := d.group
      let lo := unit / g * g
      let hi := min (lo + g) d.units
      if d.units ≤ x.landed then s.endStream c sid x
      else if x.issued < hi ∨ hi ≤ lo ∨ lo < x.landed ∨ x.ahead.contains lo ∨ (d.scatter ∧ lo ≠ x.landed) then s
      else
        let m := s.streamMover c sid x
        match s.moveGroup m d (s.ringSide c.val x) x.pack lo hi with
        | (s, run, .ok _, _) =>
          let y := landUnits { x with pack := run } lo hi
          let s := s.progress (unitKey (srcCluster c.val) 0xFF 3) m.ctx (hi - lo)
          if y.landed < d.units then (s.setStream c.val sid.val y).stallOff (.stream c sid)
          else s.endStream c sid y
        | (s, run, g, a) => (s.setStream c.val sid.val { x with pack := run }).streamBad c sid x g a)

/-! ### Copies (R263) -/

def stCopyFault : Nat := 0x0109

def checkCopy (p : List Byte) : Option Nat :=
  if zeroBytes p 20 64 && (Desc.of (bsub p 64 64)).valid .copy then none else some stCopyFault

def State.copy? (s : State) (q : CmdRef) : Option Copy := s.tier.copies.find? (fun c => c.q == q)
def State.setCopy (s : State) (x : Copy) : State :=
  { s with tier := { s.tier with copies := replaceFirst (fun c => c.q == x.q) (fun _ => x) s.tier.copies } }
def Copy.mover (x : Copy) : Mover := ⟨.copy x.q, 0, x.q.ctx.val, x.step.toNat, 5, 0xFFFF⟩

/-- A copy ends with a status; its signal follows its record. -/
def State.endCopy (s : State) (x : Copy) (status : Nat) : State :=
  let d := Desc.of x.desc
  let s := { s with tier := { s.tier with copies := s.tier.copies.filter (fun c => c.q != x.q) } }
  let s := ((s.dropRemotes (.copy x.q)).complete x.q status (if status = 0 then d.bytes else 0) 0)
  if status = 0 && d.sigPeg != 0xFFFF then s.completionSignal x.q.ctx.val d.sigPeg 1 (srcCp x.q.ctx.val x.q.ring.val) else s

def State.copyBad (s : State) (x : Copy) {α : Type} (g : PackGot α) : State :=
  match g with
  | .ok _ => s
  | .wait cause => s.stallOn (.cmd x.q) x.q.ctx.val cause
  | .fault _ => s.endCopy x stCopyFault
  | .damaged line => s.uncorrectable 5 (some x.q.ctx.val) line 0
  | .reset => s

def State.copyLate (s : State) (q : CmdRef) : State :=
  match s.copy? q with
  | none => s
  | some x =>
    if x.late || !s.timePassed x.deadline then s
    else
      (s.setCopy { x with late := true }).late q.ctx.val (srcCp q.ctx.val q.ring.val) (0xFFFF + q.seq.toNat % 2 ^ 16 * 2 ^ 16)
        x.deadline x.landed (s.causeOf (.cmd q) (Desc.of x.desc).dataVa)

def State.copyTag (s : State) (q : CmdRef) : State :=
  match s.copy? q with
  | none => s
  | some x =>
    if x.tagOk then s
    else
      match s.readTag x.mover (Desc.of x.desc) x.tagBad with
      | (s, .ok (ok, bad)) =>
        let s := s.setCopy { x with tagOk := ok, tagBad := bad, lastTag := s.local_ }
        if ok then s.stallOff (.cmd q) else s.stallOn (.cmd q) q.ctx.val 6
      | (s, g) => (s.setCopy { x with lastTag := s.local_ }).copyBad x g.toPack

/-- COPY starts: its descriptor is taken from the packet. -/
def execCopy (q : CmdRef) (s : State) : Host.Outcome State Fault Refusal :=
  .next (s.perform q 0x0300 (fun s t =>
    let bs := bsub t.packet 64 64
    let d := Desc.of bs
    if !d.valid .copy then s.complete q stCopyFault 0 0
    else
      let x : Copy := ⟨q, bs, BitVec.ofNat 32 (t.par 16 4), d.deadline, !d.tag, false, false, s.local_, 0, .start⟩
      let s := s.startTaken q
      let s := { s with tier := { s.tier with copies := s.tier.copies ++ [x] } }
      (s.copyTag q).copyLate q))

/-- The groups of a copy moved, from the first that has not landed; `n` bounds their number. -/
def State.copyGroups (s : State) (x : Copy) : Nat → State × Copy × PackGot Unit
  | 0 => (s, x, .ok ())
  | n + 1 =>
    let d := Desc.of x.desc
    if d.units ≤ x.landed then (s, x, .ok ())
    else
      let hi := min (x.landed + d.group) d.units
      match s.moveGroup x.mover d none x.pack x.landed hi with
      | (s, run, .ok _, _) =>
        let s := s.progress (unitKey (srcCp x.q.ctx.val x.q.ring.val) 0xFF 0) x.q.ctx.val (hi - x.landed)
        s.copyGroups { x with landed := hi, pack := run } n
      | (s, run, g, _) => (s, { x with pack := run }, g)

/-- COPY_COMPLETE: every write is performed and visible, and the copy ends. -/
def execCopyComplete (q : CmdRef) (s : State) : Host.Outcome State Fault Refusal :=
  .next (
    match (if s.alive && !s.inL0 q.ctx.val then s.copy? q else none) with
    | none => s
    | some x =>
      if !x.tagOk then s
      else
        let s := s.copyLate q
        let x := { x with late := x.late || s.timePassed x.deadline }
        match s.copyGroups x (Desc.of x.desc).units with
        | (s, y, .ok _) =>
          match s.packMerge y.mover.user y.pack (Desc.of y.desc) y.deadline with
          | (s, .ok _) => s.endCopy y stOk
          | (s, g) => (s.setCopy y).copyBad y g.toPack
        | (s, y, g) => (s.setCopy y).copyBad y g)

/-! ### Rows of time: tags, deadlines, stalls -/

/-- Every 1 µs a waiting stream or copy reads its tag again. A descriptor transfer has none. -/
def execStreamTagReread (r : StreamRef) (s : State) : Host.Outcome State Fault Refusal :=
  .next (
    match r with
    | .stream c sid =>
      match s.stream? c.val sid.val with
      | some x => if s.moving c.val && !x.tagOk && decide (x.lastTag + 1000 ≤ s.local_) then s.streamTag c sid else s
      | none => s
    | .copy q =>
      match s.copy? q with
      | some x => if s.alive && !s.inL0 q.ctx.val && !x.tagOk && decide (x.lastTag + 1000 ≤ s.local_) then s.copyTag q else s
      | none => s
    | .xfer _ _ => s)

def execStreamDeadlineExpiry (r : StreamRef) (s : State) : Host.Outcome State Fault Refusal :=
  .next (
    match r with
    | .stream c sid => if s.moving c.val then s.streamLate c sid else s
    | .copy q => if s.alive && !s.inL0 q.ctx.val then s.copyLate q else s
    | .xfer k tag => if s.moving k.cluster.val then s.xferLate k tag.val else s)

/-- The unit of a stall, coded as SOURCE. -/
def stallSource : StallUnit → Nat
  | .core k => srcCluster k.cluster.val
  | .stream c _ => srcCluster c.val
  | .cmd q => srcCp q.ctx.val q.ring.val
  | .port p _ => srcPort p.val
  | .sender u _ => u
  | .ring c r => srcCp c.val r.val
  | .read _ n _ => srcStack n.val

/-- A stall episode that has lasted STALL_REPORT_US is reported, once (R268). -/
def execStallReportTimeout (c : Ctx) (unit : StallUnit) (s : State) : Host.Outcome State Fault Refusal :=
  .next (
    match (if s.alive then s.tier.episodes.find? (fun e => e.unit == unit && e.ctx == c.val) else none) with
    | none => s
    | some e =>
      let d := s.local_ - e.since
      if e.reported || s.stallReportUs = 0 || decide (d < 1000 * s.stallReportUs) then s
      else
        let s := { s with tier := { s.tier with
          episodes := replaceFirst (fun x => x == e) (fun x => { x with reported := true }) s.tier.episodes } }
        s.raise 0x040A (stallSource unit) (some e.ctx) [e.ctx, e.cause, d, (stallSource unit)])

end Sys2Proof.Machine
end

