-- ==== Sys2Proof/Machine/Conservator.lean ====
section
/-! DEFINITION. The conservators' commands (10_conservators.md R289 to R325): updates, norms, initialising, exporting,
importing and sweeping shards, and their starts and completions. -/

namespace Sys2Proof.Machine

def stUpdInvalid : Nat := 0x0301
def stUpdTag : Nat := 0x0302
def stUpdCorrupt : Nat := 0x0303
def stUpdSummary : Nat := 0x0304
def stUpdGscale : Nat := 0x0305
def stUpdNorm : Nat := 0x0306
def stUpdSchedule : Nat := 0x0307
def stUpdSweep : Nat := 0x0308

/-! ### Parameter checks (R323, R510) -/

def checkUpdApply (p : List Byte) : Option Nat :=
  if zeroBytes p 20 24 && local64 (fld p 24 8) && local64 (fld p 32 8) && local64 (fld p 40 8) && fld p 48 8 % 16 == 0 &&
      decide (1 ≤ fld p 56 4) && decide (fld p 56 4 ≤ 4096) && decide (fld p 60 4 ≤ 4096) && fld p 64 8 % 4 == 0 &&
      decide (fld p 76 2 < 4) && zeroBytes p 78 80 && zeroBytes p 88 128 &&
      ((fld p 76 2).testBit 1 || fld p 56 4 == 1) then none
  else some stUpdInvalid

def checkUpdNorm (p : List Byte) : Option Nat :=
  if zeroBytes p 20 24 && local64 (fld p 24 8) && local64 (fld p 32 8) && local64 (fld p 40 8) && fld p 48 8 % 4 == 0 &&
      decide (fld p 60 2 < 2) && zeroBytes p 62 64 && zeroBytes p 72 128 then none
  else some stUpdInvalid

def checkRecords (p : List Byte) : Option Nat :=
  if zeroBytes p 20 24 && local64 (fld p 24 8) && fld p 32 8 % 64 == 0 && zeroBytes p 40 64 then none else some stUpdInvalid

def checkSweep (p : List Byte) : Option Nat :=
  if decide (fld p 20 4 < 2) && local64 (fld p 24 8) && local64 (fld p 32 8) && zeroBytes p 40 64 then none
  else some stUpdInvalid

/-! ### Several accesses as one -/

/-- An access after another: a wait, fault or damaged line of either ends both. -/
def State.andThen {α β : Type} (r : State × Got α) (f : State → α → State × Got β) : State × Got β :=
  match r with
  | (s, .ok x) => f s x
  | (s, .wait c) => (s, .wait c)
  | (s, .fault c) => (s, .fault c)
  | (s, .damaged l) => (s, .damaged l)

/-- Stretches that can all be written now; nothing is written. -/
def State.allWritable (s : State) (ctx : Nat) : List (Nat × Nat × Accessor) → State × Got Unit
  | [] => (s, .ok ())
  | x :: r => State.andThen (s.parts ctx x.1 x.2.1 true x.2.2 0) (fun s _ => s.allWritable ctx r)

/-- Writes in order. A conservator marks those of its records whole (R221). -/
def State.writeAll (s : State) (ctx : Nat) (who : Accessor) : List (Nat × List Byte) → State × Got Unit
  | [] => (s, .ok ())
  | w :: r =>
    State.andThen (s.writeVa ctx w.1 w.2 who 0 (who == .conservator && w.1 % 256 == 0 && w.2.length % 256 == 0))
      (fun s _ => s.writeAll ctx who r)

/-! ### The command and its shard -/

def State.consCmd? (s : State) (q : CmdRef) : Option ConsCmd := s.cons.cmds.find? (fun c => c.q == q)
def State.setConsCmd (s : State) (x : ConsCmd) : State :=
  { s with cons := { s.cons with cmds := replaceFirst (fun c => c.q == x.q) (fun _ => x) s.cons.cmds } }

/-- The conservator of an address: that of the stack that holds it (R289). -/
def State.consOf (s : State) (ctx va : Nat) : Nat :=
  match walk s ctx (vpnOf va) with
  | .entry v => (s.hbm.stackMap (pteLocation v * pageBytes + va % pageBytes)).1
  | _ => 0

/-- The physical address of a local address, 0 where it has none. -/
def State.physOf (s : State) (ctx va : Nat) : Nat :=
  match (if vaSpace va == 0 then walk s ctx (vpnOf va) else .none) with
  | .entry v => pteLocation v * pageBytes + va % pageBytes
  | _ => 0

/-- R298 on pages: records and commit line on RECORDS pages, no die-local page for scaled blocks. -/
def State.shardPages (s : State) (ctx : Nat) (d : Shard) : Bool :=
  (pagesOf d.recs (256 * d.count) ++ pagesOf d.commit 64).all (fun p =>
    match walk s ctx (vpnOf p.1) with
    | .entry v => pteRecords v
    | _ => false) &&
  (!d.isSb || (pagesOf d.recs (256 * d.count)).all (fun p =>
    match walk s ctx (vpnOf p.1) with
    | .entry v => pteMode v == 0
    | _ => false)) &&
  ([(d.wc, d.planeBytes), (d.hdr, 64), (d.lstat, 64)] ++ (if d.isSb then [(d.side, d.sideBytes)] else [])).all (fun x =>
    (pagesOf x.1 x.2).all (fun p =>
      match walk s ctx (vpnOf p.1) with
      | .entry v => !pteRecords v && !ptePack v
      | _ => false))

/-- The stretches that a shard's pages are checked on. -/
def Shard.stretches (d : Shard) : List (Nat × Nat) :=
  [(d.recs, 256 * d.count), (d.commit, 64), (d.wc, d.planeBytes), (d.hdr, 64), (d.lstat, 64)] ++
    (if d.isSb then [(d.side, d.sideBytes)] else [])

/-- A conservator command leaves the list and completes. -/
def State.endCons (s : State) (q : CmdRef) (status r0 r1 : Nat) : State :=
  let unit := ((s.consCmd? q).map (·.unit)).getD 0
  let s := { s with cons := { s.cons with cmds := s.cons.cmds.filter (fun c => c.q != q) } }
  ((s.dropRemotes (.cons q unit)).dropRemotes (.cons q 0)).complete q status r0 r1

/-- A command that ends before its work leaves its conservators. -/
def State.refuseCons (s : State) (q : CmdRef) (status : Nat) : State :=
  s.endCons q status 0 (bareWord (((s.findTaken q).map Taken.opcode).getD 0))

/-- What a command does with the outcome of its accesses: an address fault is R298's (0x0301), an uncorrectable read resets
its context (R317). `s` is the state before. -/
def State.consOutcome (s : State) (q : CmdRef) {α : Type} (r : State × Got α) (f : State → α → State) : State :=
  match r.2 with
  | .ok x => f r.1 x
  | .wait c => s.cmdWait r.1 q c
  | .fault _ => s.refuseCons q stUpdInvalid
  | .damaged line => s.uncorrectable 2 (some q.ctx.val) line 0

/-! ### Findings (R308) -/

/-- The counts and the first event of the records found absent and of those found at a strange tag. `l` lists the failing
records, in order: index, cause (0 for a strange tag), tag. -/
def State.reportRecords (s : State) (ctx : Nat) (base step : Nat) (l : List (Nat × Nat × Nat)) : State :=
  let bad := l.filter (fun x => x.2.1 != 0)
  let old := l.filter (fun x => x.2.1 == 0)
  let s := { s with cons := { s.cons with
    corrupt := satAdd 32 s.cons.corrupt bad.length, stale := satAdd 32 s.cons.stale old.length } }
  let s := match bad with
    | [] => s
    | x :: _ =>
      let va := base + 256 * x.1
      s.raise 0x0703 (srcCons (s.consOf ctx va)) (some ctx) [va, s.physOf ctx va, x.2.1, ctx]
  match old with
  | [] => s
  | x :: _ =>
    let va := base + 256 * x.1
    s.raise 0x0704 (srcCons (s.consOf ctx va)) (some ctx) [va, x.2.2, step, ctx]

/-- The status of a command whose first failing record is given. -/
def failStatus (x : Nat × Nat × Nat) : Nat := if x.2.1 = 0 then stUpdTag else stUpdCorrupt

/-- Records written: counted for their conservators. -/
def State.countRecords (s : State) (ctx : Nat) (vas : List Nat) : State :=
  vas.foldl (fun s va => { s with cons := { s.cons with
    records := mupd s.cons.records (s.consOf ctx va) 0 (wrapAdd 64 · 1) } }) s

/-! ### Writes of the working copy (R306) -/

/-- The writes of working values: of the parameters of the records in `live`; a block of a scaled-block format is written when
every record of it is. -/
def workingWrites (d : Shard) (w : Working) (live : List Bool) : List (Nat × List Byte) :=
  let p := max 1 d.params
  let ok := fun (i : Nat) => live.getD (i / p) false
  if d.isSb then
    ((List.range (d.nparam / 32)).filter (fun b => (List.range 32).all (fun j => ok (32 * b + j)))).flatMap (fun b =>
      [(d.wc + b * (32 * d.fmt.bits / 8), packCodes d.fmt.bits (((w.codes.drop (32 * b)).take 32).map (·.1))),
       (d.side + 2 * b, leBytes 2 (w.side.getD b 0))])
  else
    ((List.range d.count).filter (fun r => live.getD r false)).map (fun r =>
      (d.wc + r * p * d.fmt.bits / 8, packCodes d.fmt.bits (((w.codes.drop (r * p)).take p).map (·.1))))

/-- Saturations of the parameters of some records. -/
def saturations (d : Shard) (w : Working) (live : List Bool) : Nat :=
  ((w.codes.zipIdx).filter (fun x => x.1.2 && live.getD (x.2 / max 1 d.params) false)).length

/-! ### UPD_APPLY (R303 to R310) -/

/-- What an update reads, beside its descriptor: the gradient is read only where a record is updated from it (R290, R310). -/
structure UpdInputs where
  sched : List Byte
  gscale : List Byte
  health : List Byte
  clip : List Byte
  commit : List Byte
  header : List Byte
  grads : List Byte
  recs : List Byte
  deriving DecidableEq, Repr

/-- The records of a shard out of their bytes. -/
def recordsOf (b : List Byte) (n : Nat) : List (List Byte) := (List.range n).map (fun i => bsub b (256 * i) 256)

/-- How a record stands: 0 absent or strange, 1 at s, 2 at s + 1. -/
def recordStand (d : Shard) (step : Nat) (r : List Byte) : Nat :=
  if recordCause d r ≠ 0 then 0
  else if fld r 0 4 = step then 1
  else if fld r 0 4 = (step + 1) % 2 ^ 32 then 2
  else 0

/-- The health words' non-finite counts, one of which skips the update (R309). -/
def skipWords (t : Taken) (health : List Byte) : List Nat := (List.range (t.par 56 4)).map (fun j => fld health (16 * j + 4) 4)

/-- An update needs its gradient: it is not skipped, and a record is at its step. -/
def gradNeeded (d : Shard) (t : Taken) (health recs : List Byte) : Bool :=
  !(skipWords t health).any (fun n => n != 0) &&
    (recordsOf recs d.count).any (fun r => recordStand d (t.par 16 4) r == 1)

def State.updInputs (s : State) (ctx : Nat) (d : Shard) (t : Taken) : State × Got UpdInputs :=
  let o : Accessor := .other false
  State.andThen (s.readVa ctx d.sched 144 o false 0) (fun s a =>
    State.andThen (s.readVa ctx (t.par 40 8) 64 o false 0) (fun s b =>
      State.andThen (s.readVa ctx (t.par 48 8) (16 * t.par 56 4) o false 0) (fun s c =>
        State.andThen (if t.par 60 4 = 0 then (s, .ok []) else s.readVa ctx (t.par 64 8) (4 * t.par 60 4) o false 0)
          (fun s e =>
            State.andThen (s.readVa ctx d.commit 64 .conservator false 0) (fun s f =>
              State.andThen (s.readVa ctx d.hdr 64 o false 0) (fun s g =>
                State.andThen (s.readVa ctx d.recs (256 * d.count) .conservator false 0) (fun s r =>
                  State.andThen (if gradNeeded d t c r then s.readVa ctx (t.par 32 8) d.gradBytes o false 0 else (s, .ok []))
                    (fun s h => (s, .ok ⟨a, b, c, e, f, g, h, r⟩)))))))))

/-- Gradient values as FP32. -/
def gradValues (d : Shard) (b : List Byte) : List W32 :=
  (List.range d.nparam).map (fun i =>
    if d.gbf16 then BF16.widen (fld b (2 * i) 2) else BitVec.ofNat 32 (fld b (4 * i) 4))

/-- The failing records of a list: neither at one of the tags. -/
def failing (d : Shard) (tags : List Nat) (rs : List (List Byte)) : List (Nat × Nat × Nat) :=
  (rs.zipIdx).filterMap (fun x =>
    let c := recordCause d x.1
    if c ≠ 0 then some (x.2, c, 0)
    else if tags.contains (fld x.1 0 4) then none
    else some (x.2, 0, fld x.1 0 4))

/-- The layer statistics record (R319). -/
def layerStats (d : Shard) (step flags : Nat) (g2 w2 d2 ratio clip lr : W32) (updated already sats nonfin : Nat) (amax : W32) :
    List Byte :=
  leBytes 4 step ++ leBytes 2 d.layer ++ leBytes 1 flags ++ leBytes 1 0 ++ leBytes 4 g2.toNat ++ leBytes 4 w2.toNat ++
    leBytes 4 d2.toNat ++ leBytes 4 ratio.toNat ++ leBytes 4 clip.toNat ++ leBytes 4 lr.toNat ++ leBytes 8 updated ++
    leBytes 8 already ++ leBytes 4 (min sats (2 ^ 32 - 1)) ++ leBytes 4 (min nonfin (2 ^ 32 - 1)) ++ leBytes 4 amax.toNat ++
    leBytes 4 0

/-- The run of an update whose inputs are valid. -/
def State.applyRun (s : State) (x : ConsCmd) (t : Taken) (d : Shard) (i : UpdInputs) (k : Int) (c : W32) : State :=
  let ctx := x.q.ctx.val
  let step := t.par 16 4
  let next := (step + 1) % 2 ^ 32
  let words := skipWords t i.health
  let skip := words.any (fun n => n != 0)
  let con := updConst d i.sched step k
  let rs := recordsOf i.recs d.count
  let grads := gradValues d i.grads
  let committed := tagOf i.commit == some next
  let stands := rs.map (recordStand d step)
  let upd := stands.map (fun v => v == 1)
  let bad := failing d [step, next] rs
  let clipped := F32.lt c F32.one
  -- every record with what the update makes of it
  let outs := (rs.zipIdx).map (fun r =>
    if !upd.getD r.2 false then (r.1, ([] : List ParamUpd))
    else if skip then (recordHeader d next true false ++ bsub r.1 16 240, [])
    else
      let ps := updateRecord d con c r.1 ((grads.drop (d.params * r.2)).take d.params)
      (recordHeader d next false clipped ++ recordBody d ps, ps))
  let updated := (upd.filter (fun b => b)).length
  let already := (stands.filter (fun v => v == 2)).length
  let done := committed && bad.isEmpty && updated == 0
  let ws := outs.map (fun o => recordWide d o.1)
  let ps := outs.flatMap (·.2)
  let newWs := ((ws.zip upd).filter (fun p => p.2)).flatMap (·.1)
  let hs := BitVec.ofNat 32 (fld i.header 8 4)
  let hinv := BitVec.ofNat 32 (fld i.header 12 4)
  let hamax := BitVec.ofNat 32 (fld i.header 16 4)
  let sc := if skip || done then (hs, hinv) else nextScale d hamax hs hinv
  let amax := if skip || done then hamax else amaxOf ws.flatten
  let wk := working d sc.1 sc.2 ws.flatten
  let live := stands.map (fun v => !skip && (v == 1 || (v == 2 && !committed)))
  let sats := if skip then 0 else saturations d wk upd
  let nonfin := (newWs.filter (fun w => !w.isFin)).length
  let g2 := if skip then 0 else sumSquares (ps.map (·.g))
  let d2 := if skip then 0 else sumSquares (ps.map (·.delta))
  let w2 := sumSquares (newWs.map narrow)
  let ratio := updRatio w2 d2
  let hi := !skip && !(f32 d.ratioHi).isZero && F32.lt d.ratioHi ratio
  let lo := !skip && !(f32 d.ratioLo).isZero && F32.lt ratio d.ratioLo
  let recovered := decide (0 < already)
  let isClip := clipped && !skip
  let stats := layerStats d step
    (bit01 skip + 2 * bit01 isClip + 4 * bit01 recovered + 8 * bit01 hi + 16 * bit01 lo)
    g2 w2 d2 ratio c con.lr updated already sats nonfin amax
  let recWrites := ((outs.zipIdx).filter (fun o => upd.getD o.2 false)).map (fun o => (d.recs + 256 * o.2, o.1.1))
  let wkWrites := workingWrites d wk live
  let targets : List (Nat × Nat × Accessor) :=
    recWrites.map (fun w => (w.1, 256, .conservator)) ++ wkWrites.map (fun w => (w.1, w.2.length, .other false)) ++
      [(d.lstat, 64, .other false), (d.hdr, 64, .other false), (d.commit, 64, .conservator)]
  let src := srcCons x.unit
  let r1 := already + 2 ^ 32 * ((bad.head?.map (·.1)).getD 0xFFFFFFFF)
  s.consOutcome x.q (State.andThen (s.allWritable ctx targets) (fun s _ =>
    State.andThen (s.writeAll ctx .conservator recWrites) (fun s _ => s.writeAll ctx (.other false) wkWrites))) (fun s _ =>
      let s := s.countRecords ctx (recWrites.map (·.1))
      let s := s.reportRecords ctx d.recs step bad
      let s :=
        if skip && !done then
          ({ s with cons := { s.cons with skipped := satAdd 32 s.cons.skipped 1 } }).raise 0x0702 src (some ctx)
            [d.layer, step, words.foldl max 0, if (t.par 76 2).testBit 1 then 2 else 1]
        else s
      let s := if !skip && nonfin != 0 then s.raise 0x0707 src (some ctx) [d.layer, step, nonfin, 0] else s
      let s := if hi || lo then s.raise 0x0706 src (some ctx) [d.layer, step, ratio.toNat, if hi then 1 else 2] else s
      match bad with
      | b :: _ =>
        let w := s.writeVa ctx d.lstat stats (.other false) 0
        w.1.endCons x.q (failStatus b) updated r1
      | [] =>
        let writes := [(d.lstat, stats)] ++
          (if done then [] else [(d.hdr, shardHeader d next sc.1 sc.2 amax), (d.commit, commitLine d next)])
        let ev := if done then []
          else [(0x0701, [d.layer, step, updated, bit01 skip + 2 * bit01 isClip + 4 * bit01 recovered + 8 * bit01 d.shadow])]
        s.setConsCmd { x with ran := some ⟨stOk, updated, r1, writes, ev, !done, none⟩ })

/-- The checks of an update on its inputs, then its run. -/
def State.applyStart (s : State) (x : ConsCmd) (t : Taken) (d : Shard) : State :=
  let step := t.par 16 4
  s.consOutcome x.q (s.updInputs x.q.ctx.val d t) (fun s i =>
    let clip := (List.range (t.par 60 4)).map (fun j => BitVec.ofNat 32 (fld i.clip (4 * j) 4))
    if d.sched % 16 ≠ 0 ∨ !scheduleValid i.sched then s.refuseCons x.q stUpdSchedule
    else
      match gscaleK i.gscale step with
      | none => s.refuseCons x.q stUpdGscale
      | some k =>
        match clipFactor d clip with
        | none => s.refuseCons x.q stUpdNorm
        | some c =>
          if (List.range (t.par 56 4)).any (fun j => fld i.health (16 * j) 4 != step) then s.refuseCons x.q stUpdSummary
          else s.applyRun x t d i k c)

/-! ### UPD_NORM (R321) -/

def State.normRun (s : State) (x : ConsCmd) (t : Taken) (d : Shard) : State :=
  let ctx := x.q.ctx.val
  let o : Accessor := .other false
  s.consOutcome x.q (State.andThen (s.readVa ctx (t.par 40 8) 64 o false 0) (fun s g =>
    State.andThen (s.readVa ctx (t.par 32 8) d.gradBytes o false 0) (fun s b =>
      State.andThen (s.parts ctx (t.par 48 8) 4 true o 0) (fun s _ => (s, .ok (g, b)))))) (fun s i =>
      match gscaleK i.1 (t.par 16 4) with
      | none => s.refuseCons x.q stUpdGscale
      | some k =>
        let cg := gradFactor d k
        let n := sumSquares ((gradValues d i.2).map (fun v => F32.mul v cg))
        s.setConsCmd { x with ran := some ⟨stOk, n.toNat, 0, [(t.par 48 8, leBytes 4 n.toNat)], [], false, none⟩ })

/-! ### Shards written whole: REC_INIT and REC_IMPORT (R322) -/

/-- Records and working values written now, header and commit line left for the completion. -/
def State.shardRun (s : State) (x : ConsCmd) (d : Shard) (tag : Nat) (recs : List (List Byte)) (sc : W32 × W32)
    (header : List Byte) : State :=
  let ctx := x.q.ctx.val
  let wk := working d sc.1 sc.2 (recs.flatMap (recordWide d))
  let recWrites := (recs.zipIdx).map (fun r => (d.recs + 256 * r.2, r.1))
  let wkWrites := workingWrites d wk (recs.map (fun _ => true))
  let targets : List (Nat × Nat × Accessor) :=
    recWrites.map (fun w => (w.1, 256, .conservator)) ++ wkWrites.map (fun w => (w.1, w.2.length, .other false)) ++
      [(d.hdr, 64, .other false), (d.commit, 64, .conservator)]
  s.consOutcome x.q (State.andThen (s.allWritable ctx targets) (fun s _ =>
    State.andThen (s.writeAll ctx .conservator recWrites) (fun s _ => s.writeAll ctx (.other false) wkWrites))) (fun s _ =>
      let s := s.countRecords ctx (recWrites.map (·.1))
      s.setConsCmd { x with ran := some ⟨stOk, d.count, 0, [(d.hdr, header), (d.commit, commitLine d tag)], [], true, none⟩ })

/-- A record of given masters: extension and moments 0, flags clear (R322). -/
def freshRecord (d : Shard) (tag : Nat) (vals : List W32) : List Byte :=
  recordHeader { d with role := 0 } tag false false ++
    recordBody d (vals.map (fun v => ⟨v, 0, 0, 0, 0, 0⟩))

def State.initRun (s : State) (x : ConsCmd) (t : Taken) (d : Shard) : State :=
  let ctx := x.q.ctx.val
  let tag := t.par 16 4
  let o : Owner := .cons x.q 0
  s.consOutcome x.q (State.andThen (s.readPieces o 0 ctx (.other false) false 0 (chunks (t.par 32 8) (4 * d.nparam))) (fun s b =>
    State.andThen (s.readVa ctx d.hdr 64 (.other false) false 0) (fun s h => (s, .ok (b, h))))) (fun s i =>
      let vals := (List.range d.nparam).map (fun j => BitVec.ofNat 32 (fld i.1 (4 * j) 4))
      let recs := (List.range d.count).map (fun r => freshRecord d tag ((vals.drop (d.params * r)).take d.params))
      let amax := (finiteOf vals).foldl (fun m v => F32.maxNum m (F32.abs v)) 0
      let sc := nextScale d amax (BitVec.ofNat 32 (fld i.2 8 4)) (BitVec.ofNat 32 (fld i.2 12 4))
      s.shardRun x d tag recs sc (shardHeader d tag sc.1 sc.2 amax))

/-- The first failure of a copy against a tag: commit line, header, records (R322; log entry 85), with the record that failed. -/
def copyFailure (d : Shard) (tag : Nat) (commit header : List Byte) (rs : List (List Byte)) :
    Option (Nat × List (Nat × Nat × Nat)) :=
  let word := fun (b : List Byte) =>
    match tagOf b with
    | none => some (stUpdCorrupt, [])
    | some v => if v = tag then none else some (stUpdTag, [])
  ((word commit).or (word header)).or ((failing d [tag] rs).head?.map (fun x => (failStatus x, [x])))

def State.importRun (s : State) (x : ConsCmd) (t : Taken) (d : Shard) : State :=
  let ctx := x.q.ctx.val
  let tag := t.par 16 4
  let src := t.par 32 8
  let n := 128 + 256 * d.count
  s.consOutcome x.q (s.readPieces (.cons x.q 0) 0 ctx (.other false) false 0 (chunks src n)) (fun s b =>
    let rs := recordsOf (b.drop 128) d.count
    match copyFailure d tag (bsub b 0 64) (bsub b 64 64) rs with
    | some st => (s.reportRecords ctx (src + 128) tag st.2).endCons x.q st.1 0 0
    | none =>
      let recs := rs.map (fun r =>
        bsub r 0 11 ++ leBytes 1 (fld r 11 1 % 4 + 4 * bit01 d.shadow) ++ leBytes 2 d.owner ++ bsub r 14 242)
      s.shardRun x d tag recs (BitVec.ofNat 32 (fld b 72 4), BitVec.ofNat 32 (fld b 76 4)) (bsub b 64 64))

/-! ### REC_EXPORT (R322) -/

/-- The shard as it stands: commit line, header, records. -/
def State.readShard (s : State) (ctx : Nat) (d : Shard) : State × Got (List Byte) :=
  State.andThen (s.readVa ctx d.commit 64 .conservator false 0) (fun s a =>
    State.andThen (s.readVa ctx d.hdr 64 (.other false) false 0) (fun s b =>
      State.andThen (s.readVa ctx d.recs (256 * d.count) .conservator false 0) (fun s c => (s, .ok (a ++ b ++ c)))))

/-- A failed REC_EXPORT: the destination is undefined, where the command could have written it. -/
def State.exportFailed (s : State) (x : ConsCmd) (dest n status : Nat) : State :=
  ((pagesOf dest n).foldl (fun s p =>
    match lookup s x.q.ctx.val p.1 true (.other false) with
    | .pa _ => s.undefineVa x.q.ctx.val p.1 p.2
    | _ => s) s).endCons x.q status 0 0

def State.exportRun (s : State) (x : ConsCmd) (t : Taken) (d : Shard) : State :=
  let ctx := x.q.ctx.val
  let tag := t.par 16 4
  let dest := t.par 32 8
  let n := 128 + 256 * d.count
  s.consOutcome x.q (s.readShard ctx d) (fun s b =>
    let rs := recordsOf (b.drop 128) d.count
    match copyFailure d tag (bsub b 0 64) (bsub b 64 64) rs with
    | some st => (s.reportRecords ctx d.recs tag st.2).exportFailed x dest n st.1
    | none =>
      match s.writePieces (.cons x.q x.unit) 0 ctx (.other false) 0 (chunks dest n) b with
      | (s, .ok _) => s.setConsCmd { x with ran := some ⟨stOk, n, 0, [], [], false, none⟩ }
      | (s, .wait c) => s.stallOn (.cmd x.q) ctx c
      | (s, .fault _) => s.exportFailed x dest n stUpdInvalid
      | (s, .damaged line) => s.uncorrectable 2 (some ctx) line 0)

/-! ### CONS_SWEEP (R318) -/

/-- Stored and derived values that differ: number, stored, derived. -/
def differing (stored derived : List Nat) (ok : Nat → Bool) : List (Nat × Nat × Nat) :=
  ((stored.zip derived).zipIdx).filterMap (fun x => if ok x.2 && x.1.1 != x.1.2 then some (x.2, x.1.1, x.1.2) else none)

/-- The element codes of a plane. -/
def planeCodes (bitsOf : Nat) (b : List Byte) (n : Nat) : List Nat :=
  (List.range n).map (fun i =>
    if bitsOf = 4 then fld b (i / 2) 1 / 16 ^ (i % 2) % 16 else fld b (i * (bitsOf / 8)) (bitsOf / 8))

/-- CONS_SWEEP over a whole shard (R318; log entry 85). -/
def State.sweepRun (s : State) (x : ConsCmd) (t : Taken) (d : Shard) : State :=
  let ctx := x.q.ctx.val
  let tag := t.par 16 4
  let derive_ := (t.par 20 4).testBit 0
  let out := t.par 32 8
  s.consOutcome x.q (State.andThen (s.readShard ctx d) (fun s b =>
    State.andThen (if derive_ then s.readVa ctx d.wc d.planeBytes (.other false) false 0 else (s, .ok [])) (fun s w =>
      State.andThen (if derive_ && d.isSb then s.readVa ctx d.side d.sideBytes (.other false) false 0 else (s, .ok []))
        (fun s e => State.andThen (s.parts ctx out 64 true (.other false) 0) (fun s _ => (s, .ok (b, w, e))))))) (fun s i =>
    let b := i.1
    let rs := recordsOf (b.drop 128) d.count
    let live := rs.map (fun r => recordCause d r == 0)
    let bad := (failing d [] rs).filter (fun f => f.2.1 != 0)
    let others := (rs.filter (fun r => recordCause d r == 0 && fld r 0 4 != tag)).length
    let wk := working d (BitVec.ofNat 32 (fld b 72 4)) (BitVec.ofNat 32 (fld b 76 4)) (rs.flatMap (recordWide d))
    let p := max 1 d.params
    let blockOk := fun (k : Nat) => (List.range 32).all (fun j => live.getD ((32 * k + j) / p) false)
    let ok := fun (k : Nat) => if d.isSb then blockOk (k / 32) else live.getD (k / p) false
    let elems := if derive_ then differing (planeCodes d.fmt.bits i.2.1 d.nparam) (wk.codes.map (·.1)) ok else []
    let sides :=
      if derive_ && d.isSb then differing (planeCodes 16 i.2.2 (d.nparam / 32)) wk.side blockOk else []
    let compared := if derive_ then ((List.range d.nparam).filter ok).length else 0
    let mism := elems.length + sides.length
    let htag := tagOf (bsub b 64 64)
    let ctag := tagOf (bsub b 0 64)
    let wrong := htag != some tag || ctag != some tag
    let result := leBytes 8 compared ++ leBytes 8 mism ++ leBytes 8 ((elems.head?.map (·.1)).getD (2 ^ 64 - 1)) ++
      leBytes 8 bad.length ++ leBytes 8 others ++ leBytes 4 (htag.getD 0xFFFFFFFF) ++ leBytes 4 (ctag.getD 0xFFFFFFFF) ++
      List.replicate 16 0
    let s := s.reportRecords ctx d.recs tag (failing d [tag] rs)
    let src := srcCons x.unit
    let s :=
      if wrong then
        let f := s.free
        let g := f.2.free
        g.2.raise 0x0705 src (some ctx) [d.layer, f.1.toNat, g.1.toNat, 3]
      else
        match elems, sides with
        | e :: _, _ => s.raise 0x0705 src (some ctx) [d.layer, e.1, e.2.1 % 2 ^ 16 + e.2.2 % 2 ^ 16 * 2 ^ 16, 1]
        | [], e :: _ => s.raise 0x0705 src (some ctx) [d.layer, e.1, e.2.1 % 2 ^ 16 + e.2.2 % 2 ^ 16 * 2 ^ 16, 2]
        | [], [] => s
    let status := if wrong || mism != 0 || !bad.isEmpty || others != 0 then stUpdSweep else stOk
    s.setConsCmd { x with ran := some ⟨status, mism, 0, [(out, result)], [], false, some mism⟩ })

/-! ### Starting and ending (R291) -/

/-- Whether an earlier command on a shared record is still there. -/
def State.consBlocked (s : State) (x : ConsCmd) : Bool :=
  (s.cons.cmds.takeWhile (fun c => c.q != x.q)).any (fun c =>
    c.q.ctx == x.q.ctx && decide (c.lo < x.hi) && decide (x.lo < c.hi))

/-- The records that a command works on; a norm has none. -/
def ConsCmd.records (x : ConsCmd) : Nat := (x.hi - x.lo) / 256

/-- A conservator's counter advanced by a command's records, read and checked or written (R437). -/
def State.consProgress (s : State) (x : ConsCmd) : State :=
  if x.records = 0 then s else s.progress (unitKey (srcCons x.unit)) x.q.ctx.val x.records

/-- The records of a command that has run were read. -/
def State.consRead (s : State) (x : ConsCmd) (opcode : Nat) : State :=
  if opcode != 0x0502 && (s.consCmd? x.q).any (fun y => y.ran.isSome) then s.consProgress x else s

/-- A listed command runs, unless it has run or must wait. -/
def State.consTry (s : State) (q : CmdRef) : State :=
  match s.consCmd? q, s.findTaken q with
  | some x, some t =>
    if x.ran.isSome || s.consBlocked x || s.inL0 q.ctx.val then s
    else
      s.consOutcome q (s.readVa q.ctx.val (t.par 24 8) 128 (.other false) false 0) (fun s b =>
        let d := Shard.of b
        if !Shard.valid b (t.par 16 4) then s.refuseCons q stUpdInvalid
        else if !s.shardPages q.ctx.val d then (s.walksMet q.ctx.val d.stretches).refuseCons q stUpdInvalid
        else
          let s := s.stallOff (.cmd q)
          (match t.opcode with
          | 0x0500 => s.applyStart x t d
          | 0x0501 => s.normRun x t d
          | 0x0502 => s.initRun x t d
          | 0x0503 => s.exportRun x t d
          | 0x0504 => s.importRun x t d
          | _ => s.sweepRun x t d).consRead x t.opcode)
  | _, _ => s

/-- A conservator command starts in ring order: its descriptor names its records. -/
def State.consStart (s : State) (q : CmdRef) (opcode : Nat) : State :=
  s.perform q opcode (fun s t =>
    s.consOutcome q (s.readVa q.ctx.val (t.par 24 8) 128 (.other false) false 0) (fun s b =>
      let d := Shard.of b
      if !Shard.valid b (t.par 16 4) then s.refuseCons q stUpdInvalid
      else if !s.shardPages q.ctx.val d then (s.walksMet q.ctx.val d.stretches).refuseCons q stUpdInvalid
      else
        let hi := if opcode = 0x0501 then d.recs else d.recs + 256 * d.count
        let s := s.startTaken q
        let x : ConsCmd := ⟨q, d.recs, hi, s.consOf q.ctx.val d.recs, none⟩
        ({ s with cons := { s.cons with cmds := s.cons.cmds ++ [x] } }).consTry q))

/-- What a command left for its completion: the writes in order, the events, the record and the signal. -/
def State.consFinish (s : State) (q : CmdRef) : State :=
  match s.consCmd? q with
  | none => s
  | some x =>
    match x.ran with
    | none => s
    | some e =>
      s.consOutcome q (s.writeAll q.ctx.val .conservator e.writes) (fun s _ =>
        let s := { s with cons := { s.cons with
          committed := if e.committed then wrapAdd 32 s.cons.committed 1 else s.cons.committed
          sweeps := if e.swept.isSome then wrapAdd 32 s.cons.sweeps 1 else s.cons.sweeps
          mismatches := satAdd 32 s.cons.mismatches (e.swept.getD 0) } }
        let unit := x.unit
        let t := s.findTaken q
        let wrote := e.status == stOk && (t.map Taken.opcode).any (fun o => o == 0x0500 || o == 0x0502 || o == 0x0504)
        let s := (if wrote then s.consProgress x else s).endCons q e.status e.r0 e.r1
        let s := e.events.foldl (fun s v => s.raise v.1 (srcCons unit) (some q.ctx.val) v.2) s
        match (if e.status = stOk then t else none) with
        | none => s
        | some t =>
          match t.opcode with
          | 0x0500 => consSignal s q unit t 72 76 80
          | 0x0501 => consSignal s q unit t 56 60 64
          | _ => s)
where
  consSignal (s : State) (q : CmdRef) (unit : Nat) (t : Taken) (p f a : Nat) : State :=
    if (t.par f 2).testBit 0 then s.completionSignal q.ctx.val (t.par p 4) (BitVec.ofNat 64 (t.par a 8)) (srcCons unit) else s

/-- The completion of a command, when its opcode is one of `ops` and it is not being reset. -/
def State.consEnd (s : State) (q : CmdRef) (ops : Nat → Bool) : State :=
  match s.findTaken q with
  | some t => if s.alive && !s.inL0 q.ctx.val && ops t.opcode then (s.consTry q).consFinish q else s
  | none => s

def execUpdApply (q : CmdRef) (s : State) : Host.Outcome State Fault Refusal := .next (s.consStart q 0x0500)
def execUpdNorm (q : CmdRef) (s : State) : Host.Outcome State Fault Refusal := .next (s.consStart q 0x0501)
def execRecInit (q : CmdRef) (s : State) : Host.Outcome State Fault Refusal := .next (s.consStart q 0x0502)
def execRecExport (q : CmdRef) (s : State) : Host.Outcome State Fault Refusal := .next (s.consStart q 0x0503)
def execRecImport (q : CmdRef) (s : State) : Host.Outcome State Fault Refusal := .next (s.consStart q 0x0504)
def execConsSweep (q : CmdRef) (s : State) : Host.Outcome State Fault Refusal := .next (s.consStart q 0x0505)

def execConsCommandStart (q : CmdRef) (s : State) : Host.Outcome State Fault Refusal :=
  .next (if s.alive && !s.inL0 q.ctx.val then s.consTry q else s)

/-- UPDATE_COMMIT: statistics record, shard header, commit line, completion and signal of an update (R310). -/
def execUpdateCommit (q : CmdRef) (s : State) : Host.Outcome State Fault Refusal :=
  .next (s.consEnd q (fun o => o == 0x0500))

def execConservatorCommandComplete (q : CmdRef) (s : State) : Host.Outcome State Fault Refusal :=
  .next (s.consEnd q (fun o => decide (0x0501 ≤ o) && decide (o ≤ 0x0505)))

/-- The conservator commands of a context dropped with a reset: what they have written stays (R316). -/
def State.dropCons (s : State) (ctx : Nat) : State :=
  { s with cons := { s.cons with cmds := s.cons.cmds.filter (fun c => c.q.ctx.val != ctx) } }

end Sys2Proof.Machine
end

