-- ==== Sys2Proof/Machine/Registers.lean ====
section
/-! DEFINITION. Writes to registers (00_scope.md R3 to R8): whole and half writes, RWP writes, registers without a behaviour of
their own, the MSI-X table (13_host_link.md R389, R409). -/

namespace Sys2Proof.Machine

/-- Host accesses reach the block while it lives and the data link is up (R412). -/
def State.hostUp (s : State) : Bool := s.alive && s.host.link.dlUp

/-- A write to a 64-bit RW register (R6): the lower half waits for the upper one. An upper half with no lower half before it
joins the low bits that the register holds (log entry 58). -/
def State.write64 (s : State) (off : Nat) (v : RegValue) : State × Option W64 :=
  match v with
  | .full x => ({ s with held := mdel s.held off }, some x)
  | .lower x => ({ s with held := mset s.held off x }, none)
  | .upper x =>
    let low := (mget s.held off).getD (BitVec.ofNat 32 (s.reg off))
    ({ s with held := mdel s.held off }, some (BitVec.ofNat 64 (low.toNat + x.toNat * 2 ^ 32)))

/-- A write to an RWP register (R8): the value of a matched write, or one more rejection, with the offset that was written. -/
def State.rwp (s : State) (off : Nat) (v : RegValue) : State × Option W32 :=
  match v with
  | .full x =>
    let lo : W32 := x.setWidth 32
    if (x >>> 32).setWidth 32 = ~~~lo then (s, some lo)
    else ({ s with rwpCount := satAdd 32 s.rwpCount 1, rwpLast := off }, none)
  | .lower _ => ({ s with rwpCount := satAdd 32 s.rwpCount 1, rwpLast := off }, none)
  | .upper _ => ({ s with rwpCount := satAdd 32 s.rwpCount 1, rwpLast := off + 4 }, none)

/-- A value beside its complement. -/
def rwpPair (v : W32) : W64 := BitVec.ofNat 64 (v.toNat + (~~~v).toNat * 2 ^ 32)

/-- The writable bits of the registers that have no behaviour of their own, and whether they are 32 bits wide. -/
def rwMask (off : Nat) : Option (W64 × Bool) :=
  if off = rTimePtp then some (0xFFFFFFF3, false)
  else if off = rWcCtrl then some (0xFFFF, false)
  else if off = rPoolCtrl then some (0xFFFFFFFFFFFF0000, false)
  else if off = rPoolWater then some (0xFFFFFFFFFFFFFFFF, false)
  else if off = rStallCtx then some (0x3FF, true)
  else if off = rSwCtrl then some (0xFFFFFFFF80000FFF, false)
  else if off = rSwPcp then some (0xFFFFFF, false)
  else if off = rMacPrefix then some (0xFFFFFFFF, false)
  else if off = rE2eCtrl then some (0xFFFFFFFFFFFF0000, false)
  else if off = rRouteIdx then some (0xFFFF, true)
  else if 0x050200 ≤ off ∧ off < 0x050260 ∧ off % 8 = 0 then some (0xFFFF, false)
  else if off = rHlCtrl then some (0x0000FFFF0000FFFF, false)
  else if off = rIrqCtrl then some (0x1, true)
  else if off = rCtx0CqBase then some (0xFFFFFFFFFFFFF000, false)
  else if off = rCtx0RingSel then some (0x3, true)
  else if off = rEnvelope then some (0xFFFFFFFF00030FFF, false)
  else if off = rFilter then some (0xFFF, false)
  else if off = rSensorSel then some (0x1FF, true)
  else if off = rRstCtrl then some (0xFFFF0001, false)
  else if off = rRstCtxSel then some (0x3FF, true)
  else if off = rRotation then some (0xFFFFFFFF00000001, false)
  else if off = rStageOffset then some (0x3FF8000, true)
  else none

/-- HL_CTX0_CQ_BASE is read-only while ENABLE is 1. -/
def State.regLocked (s : State) (off : Nat) : Bool := off == rCtx0CqBase && (s.reg rCtx0Ctrl).testBit 0

/-- One dword of an MSI-X table entry. Unmasking a pending vector sends its message (R409). -/
def State.msixWrite (s : State) (off : Nat) (v : W32) : State :=
  let n := (off - 0x010000) / 16
  let e := mgetD s.host.msix n .reset
  let put := fun (s : State) (e : MsixEntry) => { s with host := { s.host with msix := mset s.host.msix n e } }
  match off % 16 with
  | 0 => put s { e with addr := BitVec.ofNat 64 (e.addr.toNat / 2 ^ 32 * 2 ^ 32 + v.toNat) }
  | 4 => put s { e with addr := BitVec.ofNat 64 (e.addr.toNat % 2 ^ 32 + v.toNat * 2 ^ 32) }
  | 8 => put s { e with data := v }
  | _ =>
    let masked := v.getLsbD 0
    if !masked && e.masked && e.pending then (put s { e with masked := false, pending := false }).toHost (.msix n)
    else put s { e with masked := masked }

/-- An unmasked vector: its pending message is sent. -/
def State.msixUnmask (s : State) (n : Nat) : State :=
  let e := mgetD s.host.msix n .reset
  let s' := { s with host := { s.host with msix := mset s.host.msix n { e with masked := false, pending := false } } }
  if e.pending then s'.toHost (.msix n) else s'

/-- A write to a register without a behaviour of its own, beside what a bad MAC prefix does to the switched ports (R338). -/
def State.plainWrite (s : State) (off : Nat) (v : RegValue) : State :=
  if off = rFuseArm then
    match s.rwp off v with
    | (s, some x) => s.setReg off (rwpPair x)
    | (s, none) => s
  else
    match rwMask off with
    | none => s
    | some (m, small) =>
      if s.regLocked off then s
      else if small then
        match v with
        | .lower x => s.setReg off (x.setWidth 64 &&& m)
        | _ => s
      else
        match s.write64 off v with
        | (s, some x) => let s := s.setReg off (x &&& m); if off = rMacPrefix then s.macChecked else s
        | (s, none) => s

/-- REGISTER_WRITE: an aligned write of 4 or 8 bytes. Undefined offsets and RO fields ignore it (R3, R4, R7); a register of 32
bits takes aligned 4-byte writes only (log entry 59). -/
def execRegisterWrite (w : RegWrite) (s : State) : Host.Outcome State Fault Refusal :=
  .next (
    if !s.hostUp then s
    else
      match w with
      | .w4 d v =>
        let off := 4 * d.toNat
        if 0x010000 ≤ off ∧ off < 0x018000 then s.msixWrite off v
        else if off % 8 = 0 then s.plainWrite off (.lower v)
        else s.plainWrite (off - 4) (.upper v)
      | .w8 d v =>
        let off := 8 * d.toNat
        if 0x010000 ≤ off ∧ off < 0x018000 then (s.msixWrite off (v.setWidth 32)).msixWrite (off + 4) ((v >>> 32).setWidth 32)
        else s.plainWrite off (.full v))

def execMsixVectorUnmask (v : Fin 2048) (s : State) : Host.Outcome State Fault Refusal :=
  .next (if s.hostUp then s.msixUnmask v.val else s)

end Sys2Proof.Machine
end

