-- ==== Sys2Proof/Machine/Curator.lean ====
section
/-! DEFINITION. The Curator (14_curator.md): sensors and filters, the power loop, protection, throttle and trip, power
states, its commands and its sideband; refresh rates (07_hbm.md R211) and the checks of sensors in mission (15 R453). -/

namespace Sys2Proof.Machine

def stCurInvalid : Nat := 0x0750
def stCurPatchRejected : Nat := 0x0751

/-! ### Operating points (R422) -/

def pointMhz (i : Nat) : Nat := 2250 - 150 * i
/-- The fastest point at or below a clock; the slowest of all below 1,200 MHz. -/
def pointBelow (mhz : Nat) : Nat := ((List.range 8).find? (fun i => decide (pointMhz i ≤ mhz))).getD 7
/-- The slowest point at or above a clock; the fastest of all above 2,250 MHz. -/
def pointAbove (mhz : Nat) : Nat := ((List.range 8).reverse.find? (fun i => decide (mhz ≤ pointMhz i))).getD 0

def State.ceilIdx (s : State) : Nat := pointBelow (bits (s.reg rClockLimits) 31 16)
def State.floorIdx (s : State) : Nat := pointAbove (bits (s.reg rClockLimits) 15 0)
def State.throttleIdx (s : State) : Nat := pointBelow (bits (s.reg rThrottlePoint) 15 0)
/-- Cold BIST or a TEST_RUN has a phase running, which is at 1,800 MHz and 0.75 V (R454). -/
def State.phaseRuns (s : State) : Bool := s.rst.test.phase != 0 && s.rst.test.refusedAt.isNone
/-- The clock in force. A test phase holds it at its own point, and the loop's point stands beside it (log entry 122). -/
def State.mhz (s : State) : Nat := if s.phaseRuns then 1800 else pointMhz s.cur.point

/-- A demand for a point: a slower one is switched to at once, a faster one once its voltage has risen (R423). -/
def State.toPoint (s : State) (p : Nat) : State :=
  if s.cur.point < p then
    { s with cur := { s.cur with point := p, rise := none, pointChanges := wrapAdd 16 s.cur.pointChanges 1 } }
  else if p < s.cur.point then { s with cur := { s.cur with rise := some (p, s.local_) } }
  else { s with cur := { s.cur with rise := none } }

/-- Protection that holds at least a point (R427, R428, R441). -/
def State.atLeast (s : State) (p : Nat) : State :=
  if s.cur.point < p then s.toPoint p
  else { s with cur := { s.cur with rise := match s.cur.rise with
    | some r => if r.1 < p then none else some r
    | none => none } }

/-! ### Sensors (R419 to R421) -/

def sortInts : List Int → List Int
  | [] => []
  | a :: r => ins a (sortInts r)
where
  ins (a : Int) : List Int → List Int
    | [] => [a]
    | b :: r => if a ≤ b then a :: b :: r else b :: ins a r

/-- The median; of an even number of values the mean of the middle two, rounded down (log entry 42). -/
def medianOf (l : List Int) : Option Int :=
  let x := sortInts l
  let n := x.length
  if n = 0 then none
  else if n % 2 = 1 then x[n / 2]?
  else some ((x.getD (n / 2 - 1) 0 + x.getD (n / 2) 0).fdiv 2)

def State.sensor (s : State) (i : Nat) : Sensor := mgetD s.cur.sensors i .reset
def State.setSensor (s : State) (i : Nat) (x : Sensor) : State := { s with cur := { s.cur with sensors := mset s.cur.sensors i x } }

/-- m: the median of the last three samples, once there are three (log entry 42). -/
def Sensor.m (x : Sensor) : Option Int := if x.last.length = 3 then medianOf x.last else none

/-- A sample enters the two filters (R420; log entry 40). -/
def Sensor.take (x : Sensor) (tau : Nat) (r : Int) : Sensor :=
  let x := { x with last := r :: x.last.take 2 }
  match x.m with
  | none => x
  | some m =>
    let t := m * 2 ^ 32
    { x with y := some (match x.y with
      | none => t
      | some y => y + (t - y).fdiv (2 ^ tau)) }

/-- TAU of a class: 0 thermal, 1 voltage, 2 current (CUR_FILTER). -/
def State.tau (s : State) (k : Nat) : Nat := min 12 (bits (s.reg rFilter) (4 * k + 3) (4 * k))

def dieOf (i : Nat) : Nat := if i < 256 then i / 64 else 4
def dieSensors (d : Nat) : List Nat := if d < 4 then (List.range 64).map (64 * d + ·) else (List.range 8).map (256 + ·)
def State.failedOn (s : State) (d : Nat) : Nat := ((dieSensors d).filter (fun i => (s.sensor i).failed != 0)).length
/-- R421: the temperature of a die with more than 8 failed sensors is trusted no longer. -/
def State.trusted (s : State) (d : Nat) : Bool := decide (s.failedOn d ≤ 8)

/-- EV_CUR_SENSOR_FAILED. -/
def State.failSensor (s : State) (i : Nat) (r : Int) (how : Nat) : State :=
  let s := s.setSensor i { s.sensor i with failed := how }
  s.raise 0x0B07 srcCur none [i, (BitVec.ofInt 64 r).toNat, how, s.failedOn (dieOf i)]

/-! ### Regulators (R433, 16_boot_and_identity.md R475) -/

/-- Entry i of the board settings in force. -/
def State.regulator (s : State) (i : Nat) : List Byte := bsub s.board.config (2048 + 16 * i) 16
def State.regulators (s : State) : List Nat := (List.range 32).filter (fun i => (fld (s.regulator i) 0 1).testBit 0)
def State.lost (s : State) (i : Nat) : Bool := decide (3 ≤ (s.sensor (304 + i)).missed)
def State.anyLost (s : State) : Bool := s.regulators.any s.lost

/-- Package power in units of 2^-64 µW (R420). -/
def State.power (s : State) : Int :=
  s.regulators.foldl (fun a i =>
    a + (s.sensor (304 + i)).y.getD 0 * (s.sensor (280 + fld (s.regulator i) 3 1)).y.getD 0) 0
def wattUnit : Int := 1000000 * 2 ^ 64
def State.powerW (s : State) : Nat := (s.power.fdiv wattUnit).toNat

/-- m of VDD_CORE current, in mA, over its regulators. -/
def State.coreCurrent (s : State) : Int :=
  (s.regulators.filter (fun i => fld (s.regulator i) 2 1 == 0)).foldl (fun a i => a + ((s.sensor (304 + i)).m.getD 0)) 0

/-! ### Protection causes (R427) -/

def State.cause? (s : State) (b : Nat) : Option Cause := s.cur.causes.find? (fun c => c.bit == b)

/-- The first action of an episode: EV_CUR_DEPARTURE. -/
def State.departure (s : State) (b : Nat) : State :=
  match s.cause? b with
  | none => s
  | some c =>
    if c.acted then s
    else
      let s := { s with cur := { s.cur with
        departures := satAdd 32 s.cur.departures 1
        causes := replaceFirst (fun c => c.bit == b) (fun c => { c with acted := true, since := s.local_ }) s.cur.causes } }
      s.raise 0x0B01 srcCur none [b, s.mhz, (BitVec.ofInt 64 c.reading).toNat, c.sensor]

/-- A cause arises, or its release condition no longer holds. -/
def State.causeOn (s : State) (b : Nat) (reading : Int) (sensor : Nat) : State :=
  { s with cur := { s.cur with causes :=
      if (s.cause? b).isSome then replaceFirst (fun c => c.bit == b) (fun c => { c with clear := none }) s.cur.causes
      else s.cur.causes ++ [⟨b, reading, sensor, false, s.local_, none⟩] } }

/-- The release of a cause: EV_CUR_DEPARTURE_END, and the loop restarts at the point in force or at the floor, whichever is
faster, unless it stands slower already (R425). -/
def State.causeOff (s : State) (b : Nat) : State :=
  match s.cause? b with
  | none => s
  | some c =>
    let s := { s with cur := { s.cur with
      causes := s.cur.causes.filter (fun c => c.bit != b)
      loop := max s.cur.loop (min s.cur.point s.floorIdx) } }
    if c.acted then s.raise 0x0B02 srcCur none [b, s.mhz, s.local_ - c.since, 0] else s

/-- A cause whose release condition holds now: it is released once it has held for `ns`. -/
def State.causeClear (s : State) (b ns : Nat) : State :=
  match s.cause? b with
  | none => s
  | some c =>
    match c.clear with
    | none =>
      let l := replaceFirst (fun c => c.bit == b) (fun c => { c with clear := some s.local_ }) s.cur.causes
      { s with cur := { s.cur with causes := l } }
    | some t => if t + ns ≤ s.local_ then s.causeOff b else s

/-- A cause whose release condition does not hold. -/
def State.causeHold (s : State) (b : Nat) : State :=
  let l := replaceFirst (fun c => c.bit == b) (fun c => { c with clear := none }) s.cur.causes
  { s with cur := { s.cur with causes := l } }

/-- Cause 4, sensors lost: the throttle point. -/
def State.lostCause (s : State) : State :=
  if s.anyLost || (List.range 5).any (fun d => !s.trusted d) then
    let i := ((s.regulators.find? s.lost).map (304 + ·)).getD 0
    ((s.causeOn 4 0 i).atLeast s.throttleIdx).departure 4
  else s.causeOff 4

/-- The points that protection demands at a loop step (R425, R427, R441). -/
def State.demands (s : State) : Nat :=
  let step := if (s.cause? 0).isSome || (s.cause? 1).isSome then min 7 (s.cur.point + 1) else 0
  let hold := (s.cause? 3).isSome || (s.cause? 4).isSome || s.anyLost || s.cur.restartSince.isSome
  max step (if hold then s.throttleIdx else 0)

/-! ### Trip (R429) -/

/-- EV_CUR_THERM_TRIP with FATAL, then every clock but the Curator's stops. -/
def State.trip (s : State) (i : Nat) (r : Int) (how : Nat) : State :=
  let s := s.raiseWith 0x0B04 srcCur none [i, (BitVec.ofInt 64 r).toNat, how, 0] true false
  { s with cur := { s.cur with tripped := true } }

def execAnalogueComparatorTrip (i : Fin 256) (r : Int) (s : State) : Host.Outcome State Fault Refusal :=
  .next (if s.alive then s.trip i.val r 2 else s)

/-! ### Samples -/

/-- The Curator's controller samples: it has power, and does not restart (R441). -/
def State.sampling (s : State) : Bool := s.alive && s.cur.restartSince.isNone

/-- One die or hub sensor's sample. `med` is the median of its die's working sensors in this sample. -/
def State.thermalOne (s : State) (i : Nat) (r : Int) (med : Option Int) : State :=
  let x := s.sensor i
  if x.failed ≠ 0 then s
  else if r < -40000 ∨ 150000 < r then s.failSensor i r 1
  else
    let far := med.any (fun m => decide (20000 < r - m) || decide (20000 < m - r))
    let x := { x.take (s.tau 0) r with apart := if far then x.apart + 1 else 0 }
    let s := s.setSensor i x
    if 100 ≤ x.apart then s.failSensor i r 2 else s

/-- Refresh rate code for a temperature in m°C, from the present code (R211). -/
def refreshRate (old : Nat) (t : Int) : Nat :=
  let up := if 95000 < t then 2 else if 85000 ≤ t then 1 else 0
  if old ≤ up then up
  else if old = 2 then (if t ≤ 92000 then (if t ≤ 82000 then 0 else 1) else 2)
  else if t ≤ 82000 then 0 else 1

/-- A stack's temperature: filters, refresh rate, request-rate limit. -/
def State.stackSample (s : State) (n : Nat) (r : Int) : State :=
  let x := (s.sensor (264 + n)).take (s.tau 0) r
  let s := s.setSensor (264 + n) x
  match x.m with
  | none => s
  | some m =>
    let k := mgetD s.hbm.stackList n .reset
    let rate := refreshRate k.refresh m
    let s := { s with hbm := { s.hbm with stackList := mset s.hbm.stackList n { k with tempC := m.fdiv 1000, refresh := rate } } }
    let s := if rate = k.refresh then s
      else s.raise 0x0608 (srcStack n) none [n, k.refresh, rate, (BitVec.ofInt 64 (m.fdiv 1000)).toNat]
    if 100000 ≤ m then { s with cur := { s.cur with hot := if s.cur.hot.contains n then s.cur.hot else n :: s.cur.hot } }
    else if m < 97000 then { s with cur := { s.cur with hot := s.cur.hot.filter (· != n) } }
    else s

/-- The working die and hub sensors whose die is trusted, with their m. -/
def State.junctions (s : State) : List (Nat × Int) :=
  (List.range 264).filterMap (fun i =>
    if (s.sensor i).failed = 0 ∧ s.trusted (dieOf i) then (s.sensor i).m.map (fun m => (i, m)) else none)
def State.stackTemps (s : State) : List (Nat × Int) :=
  (List.range 16).filterMap (fun n => (s.sensor (264 + n)).m.map (fun m => (264 + n, m)))

def hottest (l : List (Nat × Int)) : Option (Nat × Int) :=
  l.foldl (fun a x => match a with
    | none => some x
    | some b => if b.2 < x.2 then some x else a) none

/-- The samples of a millisecond, in the order of the sensors' indices (R419). A row of a periodic event stands for the event (log
entry 123). -/
def execThermalSample (readings : List Int) (s : State) : Host.Outcome State Fault Refusal :=
  .next (
    if !s.sampling then s
    else
      let med := fun (s0 : State) (d : Nat) => medianOf ((dieSensors d).filterMap (fun i =>
        if (s0.sensor i).failed = 0 then readings[i]? else none))
      let meds := (List.range 5).map (med s)
      let s := (List.range 264).foldl (fun s i => match readings[i]? with
        | some r => s.thermalOne i r (meds.getD (dieOf i) none)
        | none => s) s
      let s := (List.range 16).foldl (fun s n => match readings[264 + n]? with
        | some r => s.stackSample n r
        | none => s) s
      let j := hottest s.junctions
      let k := hottest s.stackTemps
      let s := match j with
        | some (i, m) => if 105000 ≤ m then s.causeOn 0 m i else if m < 100000 then s.causeClear 0 10000000 else s.causeHold 0
        | none => s
      let s := match k with
        | some (i, m) => if s.cur.hot.isEmpty then s.causeOff 2 else (s.causeOn 2 m i).departure 2
        | none => s
      let s := s.lostCause
      match j, k with
      | some (i, m), some (n, t) => if 115000 ≤ m then s.trip i m 1 else if 105000 ≤ t then s.trip n t 1 else s
      | some (i, m), none => if 115000 ≤ m then s.trip i m 1 else s
      | none, some (n, t) => if 105000 ≤ t then s.trip n t 1 else s
      | none, none => s)

/-- The 24 voltage monitors; one that failed its check is left out (R453). -/
def execVoltageSample (readings : List Int) (s : State) : Host.Outcome State Fault Refusal :=
  .next (
    if !s.sampling then s
    else
      (List.range 24).foldl (fun s i =>
        match (if s.cur.monitorsOut.contains i then none else readings[i]?) with
        | some r => s.setSensor (280 + i) ((s.sensor (280 + i)).take (s.tau 1) r)
        | none => s) s)

/-- One regulator's PMBus reads: READ_IOUT is 0x8C and STATUS_WORD 0x79 (log entry 43). -/
def State.currentOne (s : State) (i : Nat) (r : Option Int) (status : Nat) : State :=
  let x := s.sensor (304 + i)
  let addr := fld (s.regulator i) 1 1 % 128
  let s :=
    match r with
    | some v => s.setSensor (304 + i) { x.take (s.tau 2) v with missed := 0 }
    | none =>
      let s := s.setSensor (304 + i) { x with missed := x.missed + 1 }
      if x.missed + 1 = 3 then s.raise 0x0B08 srcCur none [addr, 0x8C, 0xFFFF, 3] else s
  if status = 0 then s else s.raise 0x0B08 srcCur none [addr, 0x79, status, (s.sensor (304 + i)).missed]

/-- Every regulator of the board settings is read; VDD_CORE current is cause 1 (R427, R433). -/
def execCurrentSample (readings : List (Option Int)) (statusWords : List Nat) (s : State) : Host.Outcome State Fault Refusal :=
  .next (
    if !s.sampling then s
    else
      let s := s.regulators.foldl (fun s i => s.currentOne i (readings.getD i none) (statusWords.getD i 0 % 2 ^ 16)) s
      let c := s.coreCurrent
      let first := ((s.regulators.find? (fun i => fld (s.regulator i) 2 1 == 0)).map (304 + ·)).getD 0
      let s := if 2300000 ≤ c then s.causeOn 1 c first else if c < 2150000 then s.causeClear 1 10000000 else s.causeHold 1
      s.lostCause)

/-! ### The power loop (R425, R426) -/

/-- The loop's own step: its point, and the time spent below 95 % of the cap, in µs (log entry 87). -/
def loopStep (p : Int) (cap loop below c : Nat) : Nat × Nat :=
  let l := max loop c
  if (cap : Int) * wattUnit < p ∧ l < 7 then (l + 1, 0)
  else if 100 * p < 95 * ((cap : Int) * wattUnit) then
    let b := below + 100
    if 1000 ≤ b ∧ c < l then (l - 1, 0) else (l, b)
  else (l, 0)

/-- FLOOR_YIELD after a loop step; EV_CUR_FLOOR_YIELD once per episode. -/
def State.floorYield (s : State) : State :=
  if s.floorIdx < s.cur.loop then
    if s.cur.floorYield then s
    else
      ({ s with cur := { s.cur with floorYield := true } }).raise 0x0B0A srcCur none
        [bits (s.reg rPowerCap) 15 0, pointMhz s.floorIdx, s.mhz, 0]
  else { s with cur := { s.cur with floorYield := false } }

/-- A loop step waits until a rise has finished; what protection demands does not (R427). While a regulator is lost package power is
unknown and the loop stands (R421). -/
def execPowerLoopTick (s : State) : Host.Outcome State Fault Refusal :=
  .next (
    if !s.sampling then s
    else if s.cur.rise.isSome then (((s.atLeast s.demands).departure 0).departure 1)
    else
      let l := if s.anyLost then (max s.cur.loop s.ceilIdx, 0)
        else loopStep s.power (bits (s.reg rPowerCap) 15 0) s.cur.loop s.cur.below s.ceilIdx
      let s := { s with cur := { s.cur with loop := l.1, below := l.2 } }
      let s := s.toPoint (max l.1 s.demands)
      (s.floorYield.departure 0).departure 1)

def execVoltageSettled (s : State) : Host.Outcome State Fault Refusal :=
  .next (
    match (if s.sampling then s.cur.rise else none) with
    | some (p, _) =>
      { s with cur := { s.cur with point := p, rise := none, pointChanges := wrapAdd 16 s.cur.pointChanges 1 } }
    | none => s)

/-! ### Fast throttle (R428) -/

def execFastThrottleAssert (s : State) : Host.Outcome State Fault Refusal :=
  .next (
    if !s.alive || s.cur.fastLow then s
    else
      let s := { s with cur := { s.cur with
        fastLow := true, fastSince := s.local_, fastHold := none, fastThrottles := satAdd 16 s.cur.fastThrottles 1 } }
      let s := s.atLeast s.throttleIdx
      ((s.raise 0x0B03 srcCur none [1, s.mhz, 0, 0]).causeOn 3 0 0).departure 3)

def execFastThrottleRelease (s : State) : Host.Outcome State Fault Refusal :=
  .next (
    if !s.alive || !s.cur.fastLow then s
    else
      let s := { s with cur := { s.cur with fastLow := false, fastHold := some s.local_ } }
      s.raise 0x0B03 srcCur none [2, s.mhz, s.local_ - s.cur.fastSince, 0])

def execThrottleHoldExpiry (s : State) : Host.Outcome State Fault Refusal :=
  .next (
    match (if s.alive then s.cur.fastHold else none) with
    | some t =>
      if t + 1000000 ≤ s.local_ then ({ s with cur := { s.cur with fastHold := none } }).causeOff 3 else s
    | none => s)

/-! ### The envelope (R424) -/

/-- A matched write whose value in force differs from the value written: REQ_CLIPPED and EV_CUR_REQUEST_CLIPPED. -/
def State.envelope (s : State) (off : Nat) (written inForce : Nat) (clipped : Bool) : State :=
  let s := s.setReg off (rwpPair (BitVec.ofNat 32 inForce))
  if clipped then
    (s.setReg rCurStatus (BitVec.ofNat 64 (2 ^ 22))).raise 0x0B05 srcCur none [off, written, inForce, 0]
  else s

def execCurClockLimitsWrite (v : RegValue) (s : State) : Host.Outcome State Fault Refusal :=
  .next (
    if !s.hostUp then s
    else
      match s.rwp rClockLimits v with
      | (s, none) => s
      | (s, some x) =>
        let w := x.toNat
        let c := pointBelow (w / 2 ^ 16)
        let f := max c (pointAbove (w % 2 ^ 16))
        let n := pointMhz c * 2 ^ 16 + pointMhz f
        let s := s.envelope rClockLimits w n (n != w)
        { s with cur := { s.cur with loop := max c (min s.cur.loop f) } })

def execCurPowerCapWrite (v : RegValue) (s : State) : Host.Outcome State Fault Refusal :=
  .next (
    if !s.hostUp then s
    else
      match s.rwp rPowerCap v with
      | (s, none) => s
      | (s, some x) =>
        let w := x.toNat % 2 ^ 16
        let n := max 600 (min 2200 w)
        s.envelope rPowerCap x.toNat n (n != w))

def execCurThrottlePointWrite (v : RegValue) (s : State) : Host.Outcome State Fault Refusal :=
  .next (
    if !s.hostUp then s
    else
      match s.rwp rThrottlePoint v with
      | (s, none) => s
      | (s, some x) =>
        let w := x.toNat % 2 ^ 16
        let n := pointMhz (pointBelow w)
        s.envelope rThrottlePoint x.toNat n (n != w))

/-- CUR_STATUS: writing 1 to REQ_CLIPPED clears it; every other field is read-only (R7). -/
def execReqClippedClear (v : RegValue) (s : State) : Host.Outcome State Fault Refusal :=
  .next (
    if !s.hostUp then s
    else
      match s.write64 rCurStatus v, v, mget s.held rCurStatus with
      | (s, _), .upper _, none => s
      | (s, some x), _, _ => if x.getLsbD 22 then s.setReg rCurStatus 0 else s
      | (s, none), _, _ => s)

/-! ### Power states (R430, R431) -/

def PowerState.code : PowerState → Nat
  | .active => 0
  | .idle => 1
  | .rest => 2

/-- Watchdog windows stand still (R439). -/
def State.freeze (s : State) : State :=
  if s.rst.frozen.isSome then s else { s with rst := { s.rst with frozen := some s.local_ } }

/-- They resume where they stopped, once no reason is left: each context's progress moves by the time that has passed. -/
def State.thaw (s : State) : State :=
  match s.rst.frozen with
  | none => s
  | some f =>
    if !s.rst.l2.isEmpty || s.rst.l3.isSome || s.cur.power = .rest then s
    else
      let move := fun (t : Nat) => min s.local_ (t + (s.local_ - f))
      { s with rst := { s.rst with frozen := none, progress := s.rst.progress.map (fun p => (p.1, move p.2)) } }

def execIdleEntryTimeout (s : State) : Host.Outcome State Fault Refusal :=
  .next (
    let us := bits (s.reg rEnvelope) 63 32
    if s.alive && s.rst.ready && s.cur.power = .active && us != 0 && !s.eng.clusters.any (fun c => c.2.busy) &&
        decide (s.cur.busyUntil + 1000 * us ≤ s.local_) then
      ({ s with cur := { s.cur with power := .idle } }).raise 0x0B06 srcCur none [0, 1, 0, 0]
    else s)

/-- Stacks of the package in a state are put in another. -/
def State.stackStates (s : State) (a b : StackState) : State :=
  (List.range 16).foldl (fun s n =>
    let k := mgetD s.hbm.stackList n .reset
    if k.state = a then { s with hbm := { s.hbm with stackList := mset s.hbm.stackList n { k with state := b } } } else s) s

/-- The stacks of the package leave self-refresh, but those that wait for their training. -/
def State.leaveSelfRefresh (s : State) : State :=
  (List.range 16).foldl (fun s n =>
    let k := mgetD s.hbm.stackList n .reset
    if k.state = .selfRefresh ∧ !s.hbm.training.contains n then
      { s with hbm := { s.hbm with stackList := mset s.hbm.stackList n { k with state := .ready } } }
    else s) s

/-- A cluster that loses its power: its buffer and everything in its cores is lost. -/
def Cluster.gate (c : Cluster) : Cluster :=
  { Cluster.reset with state := if c.state = .outOfService then .outOfService else .gated, holder := c.holder }

/-- The same done to every port. -/
def State.mapPorts (s : State) (f : PortSt → PortSt) : State :=
  { s with guy := { s.guy with ports := s.guy.ports.map (fun p => (p.1, f p.2)) } }

def State.enterRest (s : State) : State :=
  let s := (s.drainStacks (List.range 16)).stackStates .ready .selfRefresh
  let cs : Map Cluster := s.eng.clusters.map (fun c => (c.1, c.2.gate))
  let s := ({ s with eng := { s.eng with clusters := cs } }).mapPorts (fun (x : PortSt) =>
    if x.direct && x.state == PortState.up then { x with lpiDue := true } else x)
  let s := ({ s with cur := { s.cur with power := .rest } }).freeze.pumpAll
  s.raise 0x0B06 srcCur none [0, 2, 0, 0]

/-- Out of Rest a port owes no LPI flit any more; one that has sent its own and has not entered LPI stays UP (R349). -/
def PortSt.leaveRest (x : PortSt) : PortSt :=
  { x with lpiDue := false, lpiSent := x.lpiSent && x.state == .lpi }

/-- 10 µs after an Idle wake, 30 ms after a Rest wake, packets are taken again. -/
def execWakeComplete (s : State) : Host.Outcome State Fault Refusal :=
  .next (
    match (if s.alive then s.cur.waking else none) with
    | none => s
    | some (from_, t) =>
      let ns := if from_ = .rest then 30000000 else 10000
      if s.local_ < t + ns then s
      else
        let s := if from_ = .rest then s.leaveSelfRefresh.mapPorts PortSt.leaveRest else s
        let s := { s with cur := { s.cur with power := .active, waking := none, busyUntil := s.local_ } }
        (s.thaw.raise 0x0B06 srcCur none [from_.code, 0, s.local_ - t, 0]).pumpAll)

/-! ### The controller's watchdog (15_recovery_and_test.md R441) -/

def execCuratorWatchdogExpiry (s : State) : Host.Outcome State Fault Refusal :=
  .next (
    if !s.alive || s.cur.restartSince.isSome then s
    else ({ s with cur := { s.cur with restartSince := some s.local_ } }).atLeast s.throttleIdx)

def execCuratorRestartComplete (s : State) : Host.Outcome State Fault Refusal :=
  .next (
    match (if s.alive then s.cur.restartSince else none) with
    | none => s
    | some t =>
      let n := satAdd 16 s.rst.restarts 1
      let s := { s with cur := { s.cur with restartSince := none }, rst := { s.rst with restarts := n } }
      s.raise 0x0C05 srcCur none [s.local_ - t, n, 0, 0])

/-! ### Checks in mission (R453) -/

/-- Thermal sensors against the bandgap, in m°C: one more than 3 °C apart has failed. -/
def execThermalSensorCheck (apart : List Int) (s : State) : Host.Outcome State Fault Refusal :=
  .next (
    if !s.sampling then s
    else
      ((List.range 264).foldl (fun s i =>
        let d := apart.getD i 0
        if (s.sensor i).failed = 0 ∧ 3000 < d.natAbs then
          (s.raise 0x0D0A srcCur none [6, i, (BitVec.ofInt 64 d).toNat, 3000]).failSensor i ((s.sensor i).last.headD 0) 2
        else s) s).lostCause)

/-- Voltage monitors against the reference, in parts per thousand: one more than 1 % apart is left out. -/
def execVoltageMonitorCheck (apart : List Int) (s : State) : Host.Outcome State Fault Refusal :=
  .next (
    if !s.sampling then s
    else
      (List.range 24).foldl (fun s i =>
        let d := apart.getD i 0
        if !s.cur.monitorsOut.contains i ∧ 10 < d.natAbs then
          ({ s with cur := { s.cur with monitorsOut := i :: s.cur.monitorsOut } }).raise 0x0D0A srcCur none
            [7, i, (BitVec.ofInt 64 d).toNat, 10]
        else s) s)

/-! ### Sideband (R432) -/

/-- A sensor shown as failed, lost or absent. -/
def State.sensorGone (s : State) (i : Nat) : Bool :=
  decide (336 ≤ i) || (s.sensor i).failed != 0 || (decide (280 ≤ i) && decide (i < 304) && s.cur.monitorsOut.contains (i - 280)) ||
    (decide (304 ≤ i) && (!s.regulators.contains (i - 304) || s.lost (i - 304)))

/-- y in milli-units, rounded down (log entry 98). -/
def State.shownY (s : State) (i : Nat) : Int := ((s.sensor i).y.getD 0).fdiv (2 ^ 32)

/-- The answers to a sensor read: sensors, package power, clock, power state; none for any other ID. The sideband keeps
answering after a trip. -/
def State.pldmAnswer (s : State) (id : Nat) : Option Int :=
  if 1 ≤ id ∧ id ≤ 336 then (if s.sensorGone (id - 1) then none else some (s.shownY (id - 1)))
  else if id = 1001 then some (s.powerW : Nat)
  else if id = 1002 then some (s.mhz : Nat)
  else if id = 1003 then some (s.cur.power.code : Nat)
  else none

def execPldmSensorRead (id : BitVec 16) (s : State) : Host.Outcome State Fault Refusal :=
  .next (
    if s.board.pwrGood then { s with cur := { s.cur with pldm := s.cur.pldm ++ [(id.toNat, s.pldmAnswer id.toNat)] } } else s)

/-- The oldest waiting message is collected; SMB_ALERT_N is low while `messages` holds any. -/
def execPlatformEventMessageCollect (s : State) : Host.Outcome State Fault Refusal :=
  .next (if s.board.pwrGood then { s with cur := { s.cur with messages := s.cur.messages.drop 1 } } else s)

def execEndpointIdAssignment (eid : Byte) (s : State) : Host.Outcome State Fault Refusal :=
  .next (if s.board.pwrGood then { s with cur := { s.cur with eid := eid } } else s)

/-! ### Commands (R435) -/

def checkPowerState (p : List Byte) : Option Nat :=
  if (fld p 16 1 == 0 || fld p 16 1 == 2) && zeroBytes p 17 64 then none else some stCurInvalid
def checkSensorRead (p : List Byte) : Option Nat :=
  if local64 (fld p 16 8) && zeroBytes p 24 64 then none else some stCurInvalid
def checkPatchActivate (p : List Byte) : Option Nat := if zeroBytes p 16 64 then none else some stCurInvalid

/-- Rest is entered once every other command taken on any ring has completed. -/
def execCurPowerState (q : CmdRef) (s : State) : Host.Outcome State Fault Refusal :=
  .next (s.perform q 0x0750 (fun s t =>
    if t.par 16 1 = 0 then s.complete q stOk s.cur.power.code 0
    else if s.host.taken.any (fun x => x.q != q) then s
    else s.enterRest.complete q stOk 2 0))

def execCurSensorRead (q : CmdRef) (s : State) : Host.Outcome State Fault Refusal :=
  .next (s.perform q 0x0751 (fun s t =>
    let pair := fun (i : Nat) =>
      if s.sensorGone i then leBytes 4 0x80000000 ++ leBytes 4 0x80000000
      else
        leBytes 4 (BitVec.ofInt 32 ((s.sensor i).m.getD 0)).toNat ++ leBytes 4 (BitVec.ofInt 32 (s.shownY i)).toNat
    s.cmdOutcome q stCurInvalid (s.writeVa q.ctx.val (t.par 16 8) ((List.range 336).flatMap pair) (.other false) 0)
      (fun s _ => s.complete q stOk 2688 0)))

/-- The outcome of R434's checks: 1 accepted, 2 absent or not of a size it takes, 3 digest, 4 signature, 5 rollback. -/
def foundCause (x : PatchFound) (floor : Nat) : Nat :=
  if !x.present || decide (98304 < x.image.length) then 2
  else if !x.digestOk then 3
  else if !x.signaturesOk then 4
  else if x.version.toNat < floor then 5
  else 1

/-- An attempt to load a patch: EV_CUR_PATCH; an accepted one runs. -/
def State.tryPatch (s : State) (x : PatchFound) : State :=
  let c := foundCause x s.board.patchFloor
  let s := if c = 1 then { s with board := { s.board with patch := some (x.version.toNat, x.image) } } else s
  s.raise 0x0B09 srcCur none [c, if x.present then x.version.toNat else 0, (s.board.patch.map (·.1)).getD 0, 0]

def execCurPatchActivate (q : CmdRef) (x : PatchFound) (s : State) : Host.Outcome State Fault Refusal :=
  .next (s.perform q 0x0752 (fun s _ =>
    let c := foundCause x s.board.patchFloor
    let s := s.tryPatch x
    if c = 1 then s.complete q stOk ((s.board.patch.map (·.1)).getD 0) 0 else s.complete q stCurPatchRejected 0 c))

end Sys2Proof.Machine
end

