-- ==== Sys2Proof/Machine/Guyline.lean ====
section
/-! DEFINITION. Guylines: flits and frames as they arrive, link and end-to-end recovery, training, routes, and the blocks of
peer reads and writes (11_guylines.md R328 to R351; 08_tiers_and_streams.md R249). -/

namespace Sys2Proof.Machine

def stGlInvalid : Nat := 0x0760
def stGlPortMode : Nat := 0x0761

/-! ### Blocks that arrive (R329, R330, R340 to R342, R346) -/

/-- Reserved fields of a block that are not zero, or a KIND of R360 that no block has (log entry 86). -/
def blockReserved (b : List Byte) : Bool :=
  decide (64 ≤ blkFlags b) || decide (1024 ≤ blkCtx b) || decide (8192 ≤ fld b 12 4) || decide (4096 < blkLen b) ||
    match blkType b with
    | 2 => blkAddr b != 0 || decide (2 ^ 20 ≤ blkArg b)
    | 4 => blkAddr b != 0 || decide (2 ^ 20 ≤ blkArg b)
    | 1 => decide (2 ^ 16 ≤ blkArg b)
    | 3 => decide (2 ^ 29 ≤ blkArg b)
    | 5 => bits (blkAddr b) 15 14 != 0 || decide (2 ^ 17 ≤ blkAddr b)
    | 6 => decide (2 ^ 42 ≤ blkAddr b) || (bits (blkAddr b) 42 40 == 1 && decide (2 ^ 32 ≤ blkArg b))
    | 7 => decide (2 ≤ blkArg b)
    | 8 => blkAddr b != 0 || decide (8 ≤ blkArg b)
    | 9 => blkAddr b != 0 || decide (16 ≤ blkArg b)
    | _ => false

/-- A block of some bytes leaves its flit buffers. -/
def State.movedOn (s : State) (p cls n : Nat) : State := s.setPort p ((s.port p).moved cls n)

/-- A block waits for its delivery. -/
def State.toInbox (s : State) (p cls : Nat) (b : List Byte) : State :=
  let x := s.port p
  s.setPort p { x with inbox := x.inbox ++ [⟨cls, b⟩] }

/-- A block of an end-to-end connection: accepted when it is the next one, otherwise answered with a NAK. A block with SYN that
was accepted before is a repeat of it; another one starts the connection anew (log entry 49). -/
def State.e2eBlock (s : State) (p cls n : Nat) (b : List Byte) : State :=
  let key := connKey (blkSrc b) (blkCls b)
  let seq := blkSeq b
  let put := fun (s : State) (c : Receiver) =>
    { s with guy := { s.guy with receivers := mset s.guy.receivers key { c with port := p, idleSince := s.local_ } } }
  let nak := fun (s : State) (expected reset : Nat) =>
    ((s.movedOn p cls n).sendBlock (srcPort p) (blkSrc b) 0 false false
      (blockBytes (blkSrc b) s.guy.node tyE2eNak 0 0 expected 0 (blkCls b + 8 * reset) [])).1
  let accept := fun (s : State) (c : Receiver) => (put s { c with expected := (seq + 1) % 2 ^ 32 }).toInbox p cls b
  match mget s.guy.receivers key with
  | none =>
    if !blkSyn b then
      let f := s.free
      nak f.2 (f.1.toNat % 2 ^ 32) 1
    else if 4096 ≤ s.guy.receivers.length then
      let x := s.port p
      let s := s.setPort p { x with held := x.held ++ [⟨cls, b⟩] }
      if mhas s.host.ctxs (blkCtx b) then s.stallOn (.sender (srcPort p) (blkSrc b)) (blkCtx b) 2 else s
    else accept s ⟨p, seq, (seq + 2 ^ 32 - 1) % 2 ^ 32, 0, s.local_, s.local_⟩
  | some c =>
    let behind := (c.expected + 2 ^ 32 - seq) % 2 ^ 32
    if behind = 0 then accept s c
    else if blkSyn b && decide (64 < behind) then
      accept s { c with last := (seq + 2 ^ 32 - 1) % 2 ^ 32, due := 0 }
    else nak (put s c) c.expected 0

/-- A block that has arrived whole on a port, with its CRC. -/
def State.gotBlock (s : State) (p cls : Nat) (whole : List Byte) : State :=
  let n := whole.length
  let b := whole.take (n - 4)
  if fld whole (n - 4) 4 ≠ (crc32c b).toNat then
    let x := s.port p
    ((s.setPort p { x with crcErrors := satAdd 16 x.crcErrors 1 }).movedOn p cls n).badBlock p (blkSrc b) 1
  else if blkDest b ≠ s.guy.node then
    let s := s.movedOn p cls n
    if blkRelayed b then s.misroute p b 1
    else
      match s.routeOf (blkDest b) with
      | .ports _ =>
        let s := { s with guy := { s.guy with relayed := wrapAdd 32 s.guy.relayed 1 } }
        (s.sendBlock (srcPort p) (blkDest b) (blkCls b) true false (withSeq b (blkFlags b + 8) (blkSeq b))).1
      | .corrupt _ _ => { s with guy := { s.guy with routeCorrupt := satAdd 32 s.guy.routeCorrupt 1 } }.misroute p b 2
      | .absent => s.misroute p b 2
  else if blkType b = 0 ∨ 9 < blkType b then (s.movedOn p cls n).badBlock p (blkSrc b) 2
  else if blockReserved b then (s.movedOn p cls n).badBlock p (blkSrc b) 3
  else if tyBeacon ≤ blkType b ∧ blkCtx b ≠ 0 ∧ !mhas s.host.ctxs (blkCtx b) then (s.movedOn p cls n).badBlock p (blkSrc b) 4
  else if blkE2e b then s.e2eBlock p cls n b
  else s.toInbox p cls b

/-- The whole blocks at the head of a class's byte stream, and what is left of it (log entry 78). -/
def cutBlocks : Nat → List Byte → List (List Byte) × List Byte
  | 0, bs => ([], bs)
  | n + 1, bs =>
    let len := 36 + blkLen bs
    if 36 ≤ bs.length ∧ len ≤ bs.length then
      let r := cutBlocks n (bs.drop len)
      (bs.take len :: r.1, r.2)
    else ([], bs)

/-! ### Flits (R332 to R335) -/

def flitType (f : List Byte) : Nat := bits (fld f 0 2) 15 12
def flitOk (f : List Byte) : Bool :=
  f.length == 256 && fld f 252 4 == (crc32c (f.take 252)).toNat && decide (flitType f < 4)

/-- Sent flits up to a SEQ are acknowledged; a SEQ that is not outstanding acknowledges nothing. -/
def State.linkAck (s : State) (p seq : Nat) : State :=
  let x := s.port p
  match x.unacked.findIdx? (fun f => f.seq == seq) with
  | none => s
  | some k =>
    let gone := x.unacked.take (k + 1)
    (s.setPort p { x with
      unacked := x.unacked.drop (k + 1), resent := x.resent - (k + 1), advanceAt := s.local_, replayRuns := 0 }).blocksAcked
      (gone.flatMap (·.ends))

/-- ACK and credits that any flit carries. A flit other than an LPI flit ends the other end's announcement of low-power idle, and
wakes a port from it (R349). -/
def State.flitHeader (s : State) (p : Nat) (f : List Byte) : State :=
  let s := s.linkAck p (bits (fld f 2 2) 11 0)
  let x := s.port p
  let c := fld f 5 1 % 8
  let wakes := flitType f != 3
  s.setPort p { x with
    credits := mset x.credits c (x.credit c + fld f 6 2), state := if x.state = .lpi && wakes then .up else x.state
    lpiSent := x.lpiSent && !(x.state == .lpi && wakes), lpiHeard := x.lpiHeard && !wakes }

/-- One NAK for a flit that is discarded. -/
def State.owesNak (s : State) (p : Nat) : State :=
  let x := s.port p
  s.setPort p { x with nakDue := x.nakDue || !x.nakSent, nakSent := true }

/-- A flit of a type on a direct port; one that fails its CRC is discarded and answered with a NAK. -/
def State.flitRow (s : State) (p : Nat) (f : List Byte) (type : Nat) (g : State → State) : State :=
  let x := s.port p
  if !s.alive || !x.direct || !x.usable then s
  else if !flitOk f then ((s.setPort p { x with crcErrors := satAdd 16 x.crcErrors 1 }).owesNak p).pump p
  else if flitType f ≠ type then s
  else ((g (s.flitHeader p f)).release).pump p

/-- A DATA flit in order: its bytes join their class's stream. -/
def State.flitData (s : State) (p : Nat) (f : List Byte) : State :=
  let x := s.port p
  if bits (fld f 0 2) 11 0 ≠ x.rxNext then s.owesNak p
  else
    let c := fld f 4 1 % 8
    let n := min 240 (fld f 8 2)
    let cut := cutBlocks 64 (mgetD x.partials c [] ++ bsub f 12 n)
    let x := { x with
      rxNext := (x.rxNext + 1) % 4096, ackDue := true, nakSent := false, partials := mset x.partials c cut.2
      buffered := if n = 0 then x.buffered else mset x.buffered c (mgetD x.buffered c [] ++ [n])
      owed := if n = 0 then mupd x.owed c 0 (· + 1) else x.owed }
    cut.1.foldl (fun s b => s.gotBlock p c b) (s.setPort p x)

def execFlitReceived (p : Port) (flit : List Byte) (s : State) : Host.Outcome State Fault Refusal :=
  .next (s.flitRow p.val flit 1 (fun s => s.flitData p.val flit))

/-- Every unacknowledged flit is to be sent again; sixteen replays in a row take the port down. -/
def State.replay (s : State) (p : Nat) : State :=
  let x := s.port p
  let x := { x with
    resent := 0, replays := satAdd 32 x.replays 1, replayRuns := x.replayRuns + 1, advanceAt := s.local_ }
  let s := s.setPort p x
  if 16 ≤ x.replayRuns then (s.setPort p { x with replayRuns := 0 }).portDown p 2 .down else s

def execNakFlitReceived (p : Port) (flit : List Byte) (s : State) : Host.Outcome State Fault Refusal :=
  .next (s.flitRow p.val flit 2 (fun s => if (s.port p.val).unacked.isEmpty then s else s.replay p.val))

def execIdleFlitReceived (p : Port) (flit : List Byte) (s : State) : Host.Outcome State Fault Refusal :=
  .next (s.flitRow p.val flit 0 (fun s => s))

/-- LPI: a port enters low-power idle once both ends have sent an LPI flit (R349). -/
def execLpiFlitReceived (p : Port) (flit : List Byte) (s : State) : Host.Outcome State Fault Refusal :=
  .next (s.flitRow p.val flit 3 (fun s =>
    let x := s.port p.val
    s.setPort p.val { x with lpiHeard := true, state := if x.lpiSent then .lpi else x.state }))

def execReplayTimeout (p : Port) (s : State) : Host.Outcome State Fault Refusal :=
  .next (
    let x := s.port p.val
    if s.alive && x.direct && x.usable && !x.unacked.isEmpty && decide (x.advanceAt + s.replayNs p.val ≤ s.local_) then
      (s.replay p.val).pump p.val
    else s)

/-! ### Frames (R337 to R339) -/

/-- A frame is accepted when it is addressed to this node's MAC address and carries its EtherType, behind an optional tag. -/
def execFrameReceived (p : Port) (frame : List Byte) (s : State) : Host.Outcome State Fault Refusal :=
  .next (
    let x := s.port p.val
    if !s.alive || !x.switched || !x.usable then s
    else
      let n := frame.length - 4
      if fld frame n 4 ≠ (crc32 (frame.take n)).toNat then
        s.setPort p.val { x with crcErrors := satAdd 16 x.crcErrors 1 }
      else
        let et := fun (o : Nat) => fld frame o 1 * 256 + fld frame (o + 1) 1
        let o := if et 12 = 0x8100 then 16 else 12
        if bsub frame 0 6 ≠ s.mac s.guy.node ∨ et o ≠ s.etherType then s
        else
          let body := (frame.take n).drop (o + 2)
          let cut := cutBlocks 256 body
          (cut.1.foldl (fun s b => s.gotBlock p.val (blkCls b) b) s).pump p.val)

/-! ### Peer reads and writes (R249, R329, R330) -/

/-- A request of a peer turned down. -/
def State.peerReject (s : State) (p : Nat) (b : List Byte) (code : Nat) : State :=
  s.raise 0x0408 (srcPort p) (some (blkCtx b)) [blkSrc b, blkCtx b, blkAddr b, code]

/-- The answer to a peer's request. -/
def State.peerAnswer (s : State) (p : Nat) (b : List Byte) (ty code : Nat) (data : List Byte) : State :=
  (s.sendBlock (srcPort p) (blkSrc b) 5 false false
    (blockBytes (blkSrc b) s.guy.node ty 5 (blkCtx b) 0 0 (blkArg b % 65536 + code * 65536) data)).1

/-- A peer's request: performed at the export window through `f`, rejected, or left in its buffer while memory does not take
it. -/
def State.peerRequest (s : State) (p ty answer n : Nat) (write : Bool)
    (f : State → List Byte → Nat → State × Got (List Byte)) : State :=
  match (if s.alive then s.arrived p ty else none) with
  | none => s
  | some b =>
    let x := b.bytes
    let len := if n = 0 then bits (blkArg x) 28 16 else (blkData x).length
    match exportWindow s (blkCtx x) (blkAddr x) len write with
    | .error c => ((s.peerReject p x c).peerAnswer p x answer c []).delivered p b
    | .ok va =>
      match f s x va with
      | (s1, .ok d) => (s1.peerAnswer p x answer 0 d).delivered p b
      | (s1, .fault _) => ((s1.peerReject p x 5).peerAnswer p x answer 5 []).delivered p b
      | (s1, .wait _) => { s with tier := s1.tier }.beginWake
      | (s1, .damaged line) => (s1.uncorrectable 7 none line 0).delivered p b

def execWriteBlockReceived (p : Port) (s : State) : Host.Outcome State Fault Refusal :=
  .next (s.peerRequest p.val tyWrite tyWriteAck 1 true (fun s b va =>
    match s.writeVa (blkCtx b) va (blkData b) (.other false) 0 with
    | (s, .ok _) => (s, .ok [])
    | (s, .wait c) => (s, .wait c)
    | (s, .fault c) => (s, .fault c)
    | (s, .damaged l) => (s, .damaged l)))

def execReadReqReceived (p : Port) (s : State) : Host.Outcome State Fault Refusal :=
  .next (s.peerRequest p.val tyReadReq tyReadResp 0 false (fun s b va =>
    s.readVa (blkCtx b) va (bits (blkArg b) 28 16) (.other false) false 0))

/-- The outstanding request that an answer names. -/
def State.answered (s : State) (b : List Byte) (write : Bool) : Option (Nat × Remote) :=
  s.tier.remotes.find? (fun r =>
    r.2.node == some (blkSrc b) && r.2.write == write && r.1 % 65536 == blkArg b % 65536 && !r.2.acked && r.2.data.isNone &&
      r.2.code == 0)

def execWriteAckReceived (p : Port) (s : State) : Host.Outcome State Fault Refusal :=
  .next (s.deliver p.val tyWriteAck (fun s b =>
    if !mhas s.host.ctxs (blkCtx b) then s.badBlock p.val (blkSrc b) 4
    else
      match s.answered b true with
      | none => s
      | some (k, r) =>
        let code := bits (blkArg b) 19 16
        let drop := { s with tier := { s.tier with remotes := mdel s.tier.remotes k } }
        let put := fun (r : Remote) => { s with tier := { s.tier with remotes := mset s.tier.remotes k r } }
        let s :=
          match r.owner with
          | .epi k => if code = 0 then drop else drop.lateFault k pfAddress r.pc r.va
          | _ => if code = 0 then put { r with acked := true } else put { r with code := code }
        s.release))

def execReadRespReceived (p : Port) (s : State) : Host.Outcome State Fault Refusal :=
  .next (s.deliver p.val tyReadResp (fun s b =>
    if !mhas s.host.ctxs (blkCtx b) then s.badBlock p.val (blkSrc b) 4
    else
      match s.answered b false with
      | none => s
      | some (k, r) =>
        let code := bits (blkArg b) 19 16
        let r := if code = 0 then { r with data := some (bsub (blkData b) 0 r.len) } else { r with code := code }
        { s with tier := { s.tier with remotes := mset s.tier.remotes k r } }))

/-! ### End-to-end recovery (R341, R342) -/

/-- Every unacknowledged block of a connection sent again, in order; with `syn` the first one starts it anew. -/
def State.resend (s : State) (dest cls : Nat) (syn : Bool) : State :=
  let key := connKey dest cls
  match mget s.guy.senders key with
  | none => s
  | some c =>
   if c.unacked.isEmpty then s else
    let us := if syn then
        (match c.unacked with
         | u :: r => { u with bytes := withSeq u.bytes (blkFlags u.bytes % 32 + 32) u.seq } :: r
         | [] => [])
      else c.unacked
    let c := { c with unacked := us, advanceAt := s.local_, rto := min 1000000 (2 * c.rto) }
    let s := { s with guy := { s.guy with senders := mset s.guy.senders key c } }
    let s := us.foldl (fun (s : State) (u : Stored) =>
      let p := if (s.port u.port).usable then some u.port else
        (match s.routeOf dest with
         | .ports l => l.head?
         | _ => none)
      match p with
      | none => s
      | some p =>
        let x := s.port p
        let q := x.queue cls
        let head := if mgetD x.sentBytes cls 0 = 0 then [] else q.take 1
        let rest := (q.drop head.length).filter (fun e => e.id != u.id)
        let s := s.setPort p { x with
          queues := mset x.queues cls (head ++ rest ++ [⟨u.id, dest, u.ctx, withCrc u.bytes, none⟩])
          replays := satAdd 32 x.replays 1 }
        s.raiseLimited p 1000000 0x0808 (srcPort p) none (fun n => [p, dest, cls, n])) s
    s.pumpAll

def execE2eAckTimer (src : BitVec 16) (tc : Fin 8) (s : State) : Host.Outcome State Fault Refusal :=
  .next (
    match (if s.alive then mget s.guy.receivers (connKey src.toNat tc.val) else none) with
    | some c => if 0 < c.due ∧ c.dueSince + s.ackNs ≤ s.local_ then s.sendE2eAck c.port src.toNat tc.val else s
    | none => s)

/-- An E2E_ACK covers its sequence and every earlier one. -/
def execE2eAckReceived (p : Port) (s : State) : Host.Outcome State Fault Refusal :=
  .next (s.deliver p.val tyE2eAck (fun s b =>
    let key := connKey (blkSrc b) (blkArg b % 8)
    match mget s.guy.senders key with
    | none => s
    | some c =>
      let covered := fun (u : Stored) => decide ((blkSeq b + 2 ^ 32 - u.seq) % 2 ^ 32 < 2 ^ 31)
      let gone := c.unacked.takeWhile covered
      if gone.isEmpty then s
      else
        let c := { c with
          unacked := c.unacked.drop gone.length, rto := 1000 * s.rtoUs, advanceAt := s.local_, idleSince := s.local_ }
        let s := { s with guy := { s.guy with senders := mset s.guy.senders key c } }
        (s.blocksAcked (gone.map (·.id))).release))

def execE2eNakReceived (p : Port) (s : State) : Host.Outcome State Fault Refusal :=
  .next (s.deliver p.val tyE2eNak (fun s b => s.resend (blkSrc b) (blkArg b % 8) ((blkArg b).testBit 3)))

def execE2eResendTimeout (dest : BitVec 16) (tc : Fin 8) (s : State) : Host.Outcome State Fault Refusal :=
  .next (
    match (if s.alive then mget s.guy.senders (connKey dest.toNat tc.val) else none) with
    | some c => if !c.unacked.isEmpty && decide (c.advanceAt + c.rto ≤ s.local_) then s.resend dest.toNat tc.val false else s
    | none => s)

/-- Blocks that waited for a receiver entry are taken up again once one is free (R342). -/
def State.takeHeld (s : State) : State :=
  (List.range 12).foldl (fun s p =>
    let x := s.port p
    let s := s.setPort p { x with held := [] }
    x.held.foldl (fun s b =>
      (s.stallOff (.sender (srcPort p) (blkSrc b.bytes))).e2eBlock p b.cls (b.bytes.length + 4) b.bytes) s) s

/-- An idle connection entry freed: a receiver's after IDLE_MS, a sender's after twice that with nothing unacknowledged. -/
def execConnectionIdleExpiry (sender : Bool) (node : BitVec 16) (tc : Fin 8) (s : State) : Host.Outcome State Fault Refusal :=
  .next (
    let key := connKey node.toNat tc.val
    let idle := 1000000 * s.idleMs
    if !s.alive then s
    else if sender then
      match mget s.guy.senders key with
      | some c =>
        if c.unacked.isEmpty && decide (c.idleSince + 2 * idle ≤ s.local_) then
          ({ s with guy := { s.guy with senders := mdel s.guy.senders key } }).release
        else s
      | none => s
    else
      match mget s.guy.receivers key with
      | some c =>
        if c.idleSince + idle ≤ s.local_ then ({ s with guy := { s.guy with receivers := mdel s.guy.receivers key } }).takeHeld else s
      | none => s)

/-! ### Training (R348) -/

def execSignalDetected (p : Port) (s : State) : Host.Outcome State Fault Refusal :=
  .next (
    let x := s.port p.val
    if s.alive && x.state == .down && (x.direct || (x.switched && s.macOk)) then s.setPort p.val { x with state := .training }
    else s)

/-- The other end of a direct port is the one that R328's wiring names. -/
def State.wired (s : State) (p : Nat) (x : TrainEnd) : Bool :=
  wiring s.guy.boardSize s.guy.slot p == some (x.slot.toNat, x.port.toNat) && x.boardSize.toNat == s.guy.boardSize

def execTrainingAttemptEnd (p : Port) (x : TrainEnd) (s : State) : Host.Outcome State Fault Refusal :=
  .next (
    let o := s.port p.val
    if !s.alive || o.state != .training then s
    else
      match x.result with
      | .abandoned => s.setPort p.val { o with state := .down }
      | .failed =>
        s.setPort p.val { o with fails := min 15 (o.fails + 1), state := if 3 ≤ o.fails + 1 then .failed else .training }
      | .up =>
        if o.switched && !s.macOk then s.setPort p.val { o with state := .down }
        else if o.direct && !s.wired p.val x then
          let w := (wiring s.guy.boardSize s.guy.slot p.val).getD (0, 0)
          (s.setPort p.val { o with state := .failed, fails := min 15 (o.fails + 1) }).raise 0x0803 (srcPort p.val) none
            [p.val, x.neighbour.toNat + x.slot.toNat * 2 ^ 16 + x.port.toNat * 2 ^ 19 + x.boardSize.toNat * 2 ^ 23, w.1, w.2]
        else
          let seen := if o.direct then o.unacked.takeWhile (fun f => f.seq != x.expects.toNat) else []
          let o := { o with
            state := .up, fails := 0, trained := true, retrains := if o.trained then satAdd 16 o.retrains 1 else o.retrains
            rtt := x.rttNs.toNat, neighbour := if o.direct then x.neighbour.toNat else 0xFFFF
            nbSlot := if o.direct then x.slot.toNat else 0, nbPort := if o.direct then x.port.toNat else 0
            unacked := o.unacked.drop seen.length, resent := if o.direct then 0 else o.resent, replayRuns := 0
            advanceAt := s.local_ }
          let s := (s.setPort p.val o).blocksAcked (seen.flatMap (·.ends))
          let s := s.raise 0x0801 (srcPort p.val) none [p.val, o.mode, o.neighbour, o.rtt]
          (s.release).pump p.val)

def execLinkLoss (p : Port) (s : State) : Host.Outcome State Fault Refusal :=
  .next (if s.alive && (s.port p.val).usable then s.portDown p.val 1 .down else s)

/-! ### Commands (R351) -/

def checkRouteWrite (p : List Byte) : Option Nat :=
  let n := fld p 24 4
  if fld p 16 8 % 16 == 0 && vaSpace (fld p 16 8) == 0 && decide (1 ≤ n) && decide (n ≤ 65536) && zeroBytes p 28 64 then none
  else some stGlInvalid

def checkPortCtrl (p : List Byte) : Option Nat :=
  if decide (fld p 16 1 < 12) && decide (1 ≤ fld p 17 1) && decide (fld p 17 1 ≤ 3) && zeroBytes p 18 64 then none
  else some stGlInvalid

/-- An item of GL_ROUTE_WRITE breaks R351. -/
def routeItemBad (b : List Byte) : Bool :=
  let e := fld b 8 4
  e + fld b 12 4 != 2 ^ 32 - 1 || !zeroBytes b 2 8 || bits e 30 12 != 0 || bits e 7 4 != 0 || decide (11 < bits e 3 0) ||
    (decide (11 < bits e 11 8) && bits e 11 8 != 15) || fld b 0 2 == 0xFFFF

def execGlRouteWrite (q : CmdRef) (s : State) : Host.Outcome State Fault Refusal :=
  .next (s.perform q 0x0760 (fun s t =>
    let n := t.par 24 4
    s.cmdOutcome q stGlInvalid (s.readVa q.ctx.val (t.par 16 8) (16 * n) (.other false) false 0) (fun s b =>
      let items := (List.range n).map (fun i => bsub b (16 * i) 16)
      match items.findIdx? routeItemBad with
      | some i => s.complete q stGlInvalid 0 i
      | none =>
        let routes := items.foldl (fun m x => mset m (fld x 0 2) (BitVec.ofNat 32 (fld x 8 4), BitVec.ofNat 32 (fld x 12 4)))
          s.guy.routes
        ({ s with guy := { s.guy with routes := routes } }.release).complete q stOk n 0)))

/-- A GL_PORT_CTRL of one action (log entry 80). -/
def portCtrl (action : Nat) (q : CmdRef) (s : State) : State :=
  if (s.findTaken q).all (fun t => t.par 17 1 != action) then s
  else
    s.perform q 0x0761 (fun s t =>
    let p := t.par 16 1
    let x := s.port p
    if !x.direct && !x.switched then s.complete q stGlPortMode 0 0
    else
      let s :=
        if action = 2 then
          if x.usable then s.portDown p 3 .disabled else s.setPort p { x with state := .disabled }
        else
          let s := s.setPort p { x with fails := 0 }
          if action = 1 then
            if x.state = .disabled then s
            else if x.usable then s.portDown p 3 .down
            else s.setPort p { s.port p with state := .down }
          else if x.state = .disabled || x.state = .failed then s.setPort p { s.port p with state := .down }
          else s
      s.complete q stOk (s.port p).state.code 0)

def execGlPortRetrain (q : CmdRef) (s : State) : Host.Outcome State Fault Refusal := .next (portCtrl 1 q s)
def execGlPortDisable (q : CmdRef) (s : State) : Host.Outcome State Fault Refusal := .next (portCtrl 2 q s)
def execGlPortEnable (q : CmdRef) (s : State) : Host.Outcome State Fault Refusal := .next (portCtrl 3 q s)

end Sys2Proof.Machine
end

