-- ==== Sys2Proof/Machine/Firmware.lean ====
section
/-! DEFINITION. The firmware image and the configuration: their checks and their commit (16_boot_and_identity.md R469 to R478). -/

namespace Sys2Proof.Machine

/-! ### Where they lie (R469) -/

def runningBase : Nat := 0xFE00000000
def stagingBase : Nat := 0xFE04000000
def stagingConfig : Nat := 0xFE07800000
/-- 56 MiB, the size of the staging image area. -/
def imageMax : Nat := 58720256

/-! ### The image (R471, R472) -/

/-- What an image's header says of it. -/
structure ImageInfo where
  version : Nat
  svn : Nat
  keyIndex : Nat
  length : Nat
  deriving DecidableEq, Repr

def imageInfo (h : List Byte) : ImageInfo := ⟨fld h 8 4, fld h 12 4, fld h 6 2, 8192 + fld h 16 8⟩

/-- Cause 1 of R472. -/
def headerOk (h : List Byte) : Bool :=
  let n := fld h 16 8
  fld h 0 4 == 0x46570A10 && fld h 4 2 == 1 && n % 4096 == 0 && decide (4096 ≤ n) && decide (n ≤ imageMax - 8192) &&
    decide (fld h 6 2 < 4) && decide (fld h 12 4 ≤ 64) && zeroBytes h 72 128 && zeroBytes h 5485 8192

/-- The checks of R472 on the image at an address, in their order: 0 when all pass, otherwise the cause of the first failure. A
line that cannot be read fails it with cause 5. -/
def State.checkImage (s : State) (base : Nat) : Nat × ImageInfo :=
  let h := s.hbm.peek base 8192
  let i := imageInfo h
  let cause : Nat :=
    if (s.hbm.damagedIn base 8192).isSome then 5
    else if !headerOk h then 1
    else if Config.sha384 (bsub h 128 32) ≠ Config.keyHashEd i.keyIndex ∨
        Config.sha384 (bsub h 160 1952) ≠ Config.keyHashMldsa i.keyIndex ∨ !s.board.keySlots.testBit i.keyIndex then 2
    else if !Config.ed25519Verify (bsub h 128 32) (bsub h 0 2112) (bsub h 2112 64) then 3
    else if !Config.mldsaVerify (bsub h 160 1952) (bsub h 0 2112) (bsub h 2176 3309) then 4
    else if (s.hbm.damagedIn base i.length).isSome ∨
        Config.sha384 (s.hbm.peek (base + 8192) (fld h 16 8)) ≠ BitVec.ofNat 384 (fld h 24 48) then 5
    else if i.svn < s.board.rollback then 6
    else 0
  (cause, i)

/-- A line of an area that the ROM cannot read is reported as any other (R208, reader 8); the unit that acts for no context is
the ROM, whose answer is the refusal. -/
def State.reportUnread (s : State) (base n : Nat) : State :=
  match s.hbm.damagedIn base n with
  | some l => s.uncorrectable 8 none l 0
  | none => s

/-- EV_FW_REFUSED for the image at an address (R473). -/
def State.refuseImage (s : State) (base cause : Nat) (i : ImageInfo) : State :=
  let s := if cause = 5 then s.reportUnread base (min i.length imageMax) else s
  ({ s with board := { s.board with refuseCause := cause } }).raise 0x0E02 srcBoot none [cause, i.version, i.svn, i.keyIndex]

/-! ### The configuration (R475, R476) -/

def cfgGeneration (c : List Byte) : Nat := fld c 4 4
def cfgNode (c : List Byte) : Nat := fld c 8 2
def cfgSize (c : List Byte) : Nat := fld c 10 1 % 4
def cfgOverride (c : List Byte) : Bool := (fld c 11 1).testBit 0
def cfgPlan (c : List Byte) (p : Nat) : List Byte := bsub c (64 + 160 * p) 160
def cfgReg (c : List Byte) (i : Nat) : List Byte := bsub c (2048 + 16 * i) 16

/-- The mode that a configuration gives a port (R327, R328). -/
def cfgMode (c : List Byte) (slot p : Nat) : Nat :=
  if cfgOverride c then fld c (12 + p) 1 else if (wiring (cfgSize c) slot p).isSome then 1 else 2

def regValid (e : List Byte) : Bool := (fld e 0 1).testBit 0

/-- Offsets of the bytes from `lo` up to `hi` that are not zero. -/
def nonZero (c : List Byte) (lo hi : Nat) : List Nat := ((List.range (hi - lo)).map (lo + ·)).filter (fun o => fld c o 1 != 0)

/-- The ports whose staged slot plan is invalid (R41, R476; log entry 89). -/
def badPlans (c : List Byte) : List Nat :=
  (List.range 12).filter (fun p => !(zeroBytes (cfgPlan c p) 0 160 || planValid (cfgPlan c p)))

/-- Offsets of the fields of a regulator entry that fail; an address that an earlier valid entry has fails too. -/
def badReg (c : List Byte) (i : Nat) : List Nat :=
  let e := cfgReg c i
  let at_ := 2048 + 16 * i
  let twice := (List.range i).any (fun j => regValid (cfgReg c j) && fld (cfgReg c j) 1 1 == fld e 1 1)
  (if 2 ≤ fld e 0 1 then [at_] else []) ++ (if 128 ≤ fld e 1 1 || (regValid e && twice) then [at_ + 1] else []) ++
    (if regValid e && decide (10 ≤ fld e 2 1) then [at_ + 2] else []) ++
    (if regValid e && decide (24 ≤ fld e 3 1) then [at_ + 3] else []) ++ (nonZero c (at_ + 6) (at_ + 16))

/-- The offsets of everything in a configuration that fails R476. -/
def cfgFaults (c : List Byte) (generation slot : Nat) : List Nat :=
  (if fld c 0 4 ≠ 0x43460A10 then [0] else []) ++
    (if cfgGeneration c ≤ generation then [4] else []) ++
    (if cfgNode c = 0xFFFF then [8] else []) ++
    (if 4 ≤ fld c 10 1 ∨ 2 ^ cfgSize c ≤ slot then [10] else []) ++
    (if 2 ≤ fld c 11 1 then [11] else []) ++
    ((List.range 12).filter (fun p =>
      if cfgOverride c then decide (3 ≤ fld c (12 + p) 1) else fld c (12 + p) 1 != 0)).map (12 + ·) ++
    nonZero c 24 64 ++ (badPlans c).map (fun p => 64 + 160 * p + planFault (cfgPlan c p)) ++ nonZero c 1984 2048 ++
    (List.range 32).flatMap (badReg c) ++
    (if (List.range 32).any (fun i => regValid (cfgReg c i) && fld (cfgReg c i) 2 1 == 0) then [] else [2048]) ++
    nonZero c 2560 4092 ++
    (if fld c 4092 4 ≠ (crc32c (bsub c 0 4092)).toNat then [4092] else [])

/-- The staged configuration. -/
def State.stagedConfig (s : State) : List Byte := s.hbm.peek stagingConfig 4096

/-- The first failing byte of the staged configuration, none when it passes. A line that cannot be read fails at its first
byte. -/
def State.configFault (s : State) : Option Nat :=
  match s.hbm.damagedIn stagingConfig 4096 with
  | some l => some (64 * l - stagingConfig)
  | none =>
    match cfgFaults s.stagedConfig s.board.generation s.guy.slot with
    | [] => none
    | x :: r => some (r.foldl min x)

def stCfgInvalid : Nat := 0x0771

/-- EV_CFG_REFUSED, and EV_PLAN_INVALID for each plan that fails, with its first failing byte (R41, R60, R476). -/
def State.refuseConfig (s : State) (first : Nat) : State :=
  let c := s.stagedConfig
  let s := s.reportUnread stagingConfig 4096
  let s := (badPlans c).foldl (fun s p => s.raise 0x0A05 srcTime none [p, planFault (cfgPlan c p), 0, 0]) s
  s.raise 0x0E05 srcBoot none [cfgGeneration c, first, stCfgInvalid, 0]

/-! ### Commit (R477) -/

/-- A CFG_COMMIT has been taken and has still to complete (R478). -/
def State.committing (s : State) : Bool := s.host.taken.any (fun t => t.opcode == 0x0772)

/-- The writes to the staging areas that a commit held take effect, in their order, once no commit is left (R478). -/
def State.releaseStage (s : State) : State :=
  if s.committing then s
  else
    { s with
      hbm := s.board.heldStage.foldl (fun h w => h.poke w.1 w.2) s.hbm
      board := { s.board with heldStage := [] } }

/-- The staged image copied into the running area. -/
def State.activateImage (s : State) (i : ImageInfo) : State :=
  let bytes := s.hbm.peek stagingBase i.length
  { s with
    hbm := s.hbm.poke runningBase bytes
    board := { s.board with running := i.length, version := i.version, svn := i.svn } }

/-- A port takes its committed mode; one whose mode changes trains again. A mode that carries nothing leaves the port DISABLED
(R327, R347). -/
def State.portMode (s : State) (p mode : Nat) : State :=
  if (s.port p).mode = mode && (mode != 0 || (s.port p).state == .disabled) then s
  else
    let s := if (s.port p).usable then s.portDown p 3 .down else s
    s.setPort p { s.port p with mode := mode, state := if mode = 0 then .disabled else .down }

/-- A port's committed plan waits for its boundary; a field of zeros removes the plan. -/
def planCommit (old : PlanSt) (b : List Byte) : PlanSt :=
  if zeroBytes b 0 160 then ⟨old.live, none, old.live.isSome, old.phase⟩ else ⟨old.live, some b, false, old.phase⟩

/-- The staged configuration applied, in R477's order; EV_CFG_COMMITTED. -/
def State.applyConfig (s : State) (fw : Bool) : State :=
  let c := s.stagedConfig
  let s := { s with guy := { s.guy with node := cfgNode c, boardSize := cfgSize c } }
  let s := (List.range 12).foldl (fun s p => s.portMode p (cfgMode c s.guy.slot p)) s
  let plans := (List.range 12).foldl (fun m p => mset m p (planCommit (mgetD m p .empty) (cfgPlan c p))) s.plans
  let s := { s with plans := plans, board := { s.board with config := c, generation := cfgGeneration c } }
  s.raise 0x0E04 srcBoot none [cfgGeneration c, cfgNode c, bit01 fw, 0]

end Sys2Proof.Machine
end

