-- ==== Sys2Proof/Machine/Hbm.lean ====
section
/-! DEFINITION. The HBM commands and events (07_hbm.md R210 to R217, R224 to R230): interleave modes, row repair, loop-back,
command/address parity, refresh, the flush of write-combining entries. -/

namespace Sys2Proof.Machine

def stMemInvalid : Nat := 0x0180
def stMemStackBusy : Nat := 0x0181
def stMemPprNoSpare : Nat := 0x0182
def stMemPprFailed : Nat := 0x0183
def stMemLoopbackFail : Nat := 0x0184

/-! ### Parameter checks (R230) -/

def checkGroupMode (p : List Byte) : Option Nat :=
  if decide (1 ≤ fld p 20 4) && decide (fld p 16 4 + fld p 20 4 ≤ 32512) && decide (fld p 24 1 < 2) && zeroBytes p 25 64 then none
  else some stMemInvalid
def checkPpr (p : List Byte) : Option Nat :=
  if decide (fld p 16 1 < 16) && decide (fld p 17 1 < 32) && decide (fld p 18 1 < 4) && decide (fld p 19 1 < 4) &&
      decide (fld p 20 1 < 4) && fld p 21 1 == 0 && decide (fld p 22 2 < 32768) && zeroBytes p 24 64 then none
  else some stMemInvalid
def checkLoopback (p : List Byte) : Option Nat :=
  if decide (fld p 16 1 < 16) && decide (fld p 17 1 < 2) && decide (fld p 18 1 < 5) && fld p 19 1 == 0 &&
      decide (1 ≤ fld p 20 4) && decide (fld p 20 4 ≤ 1000000) && zeroBytes p 32 64 then none
  else some stMemInvalid

/-! ### Stacks -/

def State.stack (s : State) (n : Nat) : Stack := mgetD s.hbm.stackList n .reset
def State.setStack (s : State) (n : Nat) (k : Stack) : State := { s with hbm := { s.hbm with stackList := mset s.hbm.stackList n k } }

def State.readyStacks (s : State) : List Nat := (List.range 16).filter (fun n => (s.stack n).state == .ready)

/-- R215, R216: before its first training after a power cycle, or while its die is held at L2. A loop-back test runs only on such
a stack. -/
def State.outOfMission (s : State) (n : Nat) : Bool :=
  !(s.stack n).trained || (s.stack n).state == .loopback || mhas s.rst.l2 (n / 4)

/-! ### Interleave modes (R199, R224) -/

/-- A group whose mode changes: its contents become undefined. A location that failed its check before is no longer one that
the model can name (log entry 47). -/
def HbmSt.changeGroup (h : HbmSt) (g : Nat) (die : Bool) (tag : Nat) : HbmSt :=
  let lo := g * 2 ^ 25
  let hi := lo + 2 ^ 25
  let h := h.makeUndef lo hi tag
  { h with
    dieLocal := if die then g :: h.dieLocal else h.dieLocal.filter (· != g)
    damaged := h.damaged.filter (fun l => !(decide (lo ≤ 64 * l.1) && decide (64 * l.1 < hi))) }

/-- MEM_GROUP_MODE writes lines back, for which it waits until every stack accepts accesses (R196, R214). -/
def execMemGroupMode (q : CmdRef) (s : State) : Host.Outcome State Fault Refusal :=
  .next (s.perform q 0x0180 (fun s t =>
    let first := t.par 16 4
    let n := t.par 20 4
    let die := t.par 24 1 == 1
    if !s.hbm.repairs.isEmpty || s.readyStacks.length ≠ 16 then s.stallOn (.cmd q) q.ctx.val 0
    else
    let s := ({ s with hbm := s.hbm.flushRange (first * 2 ^ 25) ((first + n) * 2 ^ 25) }).settleWc s.hbm.wc
    let change := ((List.range n).map (first + ·)).filter (fun g => s.hbm.isDieLocal g != die)
    let s := change.foldl (fun s g =>
      { s with freeCtr := s.freeCtr + 1, hbm := s.hbm.changeGroup g die s.freeCtr }) s
    s.complete q stOk change.length 0))

/-! ### Row repair (R214, R215) -/

/-- The target of a repair, coded as MEM_HPPR [29:0]. -/
def pprTarget (stack pc sid bg bank row : Nat) : Nat :=
  stack * 2 ^ 26 + pc * 2 ^ 21 + sid * 2 ^ 19 + bg * 2 ^ 17 + bank * 2 ^ 15 + row
def targetStack (x : Nat) : Nat := bits x 29 26
def targetGroup (x : Nat) : Nat := bankGroupIndex (bits x 25 21) (bits x 20 19) (bits x 18 17)

/-- Spare rows left in a target's bank group (log entry 12): a repair that runs holds its own already. -/
def State.sparesLeft (s : State) (x : Nat) : Nat :=
  let k := s.stack (targetStack x)
  let running := s.hbm.repairs.filter (fun r => targetStack r.target == targetStack x && targetGroup r.target == targetGroup x)
  Config.spareRows (targetStack x) (targetGroup x) -
    (mgetD k.sparesUsed (targetGroup x) 0 + mgetD k.hardUsed (targetGroup x) 0 + running.length)

def execMemPpr (q : CmdRef) (s : State) : Host.Outcome State Fault Refusal :=
  .next (s.perform q 0x0181 (fun s t =>
    let x := pprTarget (t.par 16 1) (t.par 17 1) (t.par 18 1) (t.par 19 1) (t.par 20 1) (t.par 22 2)
    if (s.stack (targetStack x)).state ≠ .ready then s.complete q stMemStackBusy 0 0
    else if s.sparesLeft x = 0 then s.complete q stMemPprNoSpare 0 0
    else
      let r : RowRepair := ⟨some q, false, x, s.local_⟩
      ({ s with hbm := { s.hbm with repairs := s.hbm.repairs ++ [r] } }).startTaken q))

/-- A hard repair starts, or fails for want of a spare row or of a stack. -/
def State.startHppr (s : State) (x : Nat) : State :=
  if (s.stack (targetStack x)).state = .failed then
    { s with hbm := { s.hbm with hpprQueued := none, hpprState := 4, hpprCause := 2 } }
  else if s.sparesLeft x = 0 then
    { s with hbm := { s.hbm with hpprQueued := none, hpprState := 4, hpprCause := 1, hpprSpares := 0 } }
  else
    let r : RowRepair := ⟨none, true, x, s.local_⟩
    { s with hbm := { s.hbm with hpprQueued := none, hpprState := 2, hpprCause := 0, repairs := s.hbm.repairs ++ [r] } }

/-- The queued hard repair of one of some stacks, at the start of their retrain. -/
def State.queuedHppr (s : State) (stackList : List Nat) : State :=
  match s.hbm.hpprQueued with
  | some x => if stackList.contains (targetStack x) then s.startHppr x else s
  | none => s

/-- MEM_HPPR: ACTION 0b01 requests a hard repair. A matched write while a request is queued or running is ignored. -/
def execMemHpprWrite (v : RegValue) (s : State) : Host.Outcome State Fault Refusal :=
  .next (
    if !s.hostUp then s
    else
      match s.rwp rHppr v with
      | (s, none) => s
      | (s, some x) =>
        let n := x.toNat
        if s.hbm.hpprState = 1 ∨ s.hbm.hpprState = 2 then s
        else
          let s := s.setReg rHppr (rwpPair x)
          if bits n 31 30 ≠ 1 then s
          else
            let target := n % 2 ^ 30
            if s.outOfMission (targetStack target) || (s.stack (targetStack target)).state == .failed then s.startHppr target
            else { s with hbm := { s.hbm with hpprQueued := some target, hpprState := 1, hpprCause := 0 } })

/-- A row repair ends: the row keeps what it held; the spare is used whether the repaired row passed or not. -/
def execPostPackageRepairComplete (hard rowPassed : Bool) (s : State) : Host.Outcome State Fault Refusal :=
  .next (
    match (if s.alive then s.hbm.repairs.find? (fun r => r.hard == hard) else none) with
    | none => s
    | some r =>
      let n := targetStack r.target
      let k := s.stack n
      let k := { k with
        sparesUsed := if hard then k.sparesUsed else mupd k.sparesUsed (targetGroup r.target) 0 (· + 1)
        hardUsed := if hard then mupd k.hardUsed (targetGroup r.target) 0 (· + 1) else k.hardUsed
        softPpr := if !hard && rowPassed then satAdd 8 k.softPpr 1 else k.softPpr
        hardPpr := if hard && rowPassed then satAdd 8 k.hardPpr 1 else k.hardPpr }
      let s := s.setStack n k
      let s := { s with hbm := { s.hbm with repairs := s.hbm.repairs.erase r } }
      let left := s.sparesLeft r.target
      let st := if rowPassed then stOk else stMemPprFailed
      let s := s.raise 0x0607 (srcStack n) none [r.target, bit01 hard, left, st]
      let s :=
        if hard then { s with hbm := { s.hbm with
          hpprState := if rowPassed then 3 else 4, hpprCause := if rowPassed then 0 else 3, hpprSpares := left } }
        else s
      match r.cmd with
      | some q => s.complete q st left 0
      | none => s)

/-! ### Loop-back (R216, R217) -/

def execMemLoopback (q : CmdRef) (s : State) : Host.Outcome State Fault Refusal :=
  .next (s.perform q 0x0182 (fun s t =>
    let n := t.par 16 1
    if !s.outOfMission n then s.completeBare q stMemStackBusy
    else if s.hbm.loop.isSome then s
    else
      let k := s.stack n
      let l : Loopback :=
        ⟨q, n, t.par 17 1, t.par 18 1, BitVec.ofNat 64 (t.par 24 8), s.local_ + 1000 * t.par 20 4, k.state⟩
      let s := s.setStack n { k with state := .loopback }
      ({ s with hbm := { s.hbm with loop := some l } }).startTaken q))

/-- MEM_LB_FAIL_k from the lanes that saw an error. -/
def laneWords (lanes : List Nat) : Map W64 :=
  (lanes.filter (· < 1536)).foldl (fun m l => mupd m (l / 64) 0 (· ||| BitVec.ofNat 64 (2 ^ (l % 64)))) []

def execLoopbackDurationExpiry (failing : List Nat) (s : State) : Host.Outcome State Fault Refusal :=
  .next (
    match (if s.alive then s.hbm.loop else none) with
    | none => s
    | some l =>
      if s.local_ < l.until_ then s
      else
        let lanes := (List.range 1536).filter (fun i => failing.contains i)
        let first := lanes.headD 0xFFFFFFFF
        let s := s.setStack l.stack { s.stack l.stack with state := l.before }
        let s := { s with hbm := { s.hbm with loop := none, lbFail := laneWords lanes } }
        let s := s.raise 0x060A (srcStack l.stack) none [l.stack, l.kind, lanes.length, first]
        s.complete l.cmd (if lanes.isEmpty then stOk else stMemLoopbackFail) lanes.length first)

/-! ### Events of the stacks -/

/-- R210: every context with a write in the last microsecond on the pseudo-channel is reset at L0; reads that were issued again
there have used one more attempt. -/
def execCaParityReport (stack : Fin 16) (pc : Fin 32) (s : State) : Host.Outcome State Fault Refusal :=
  .next (
    if !s.alive then s
    else
      let key := 32 * stack.val + pc.val
      let ctxs := ((s.hbm.recent.filter (fun e => e.2.1 == key && decide (s.local_ ≤ e.1 + 1000))).map (·.2.2)).eraseDups
      let here := fun (r : ReIssue) => let p := s.hbm.locate (64 * r.line); p.1 == stack.val && p.2.1 == pc.val
      let again := s.hbm.reissues.map (fun r => if here r then { r with attempts := r.attempts + 1 } else r)
      let s := { s with hbm := { s.hbm with reissues := again } }
      let s := s.raise 0x0604 (srcStack stack.val) none [stack.val, pc.val, ctxs.length, 0]
      ctxs.foldl (fun s c => s.startL0 c 10) s)

/-- A per-bank refresh delays the accesses to its bank (R212) and changes nothing else; delays are outside the model. -/
def execRefreshInterval (_stack : Fin 16) (s : State) : Host.Outcome State Fault Refusal := .next s

/-- A partial entry that has stood for FLUSH_NS leaves by read-modify-write (R226 to R228). -/
def execWcFlushTimeout (line : Nat) (s : State) : Host.Outcome State Fault Refusal :=
  .next (
    match (if s.alive then s.hbm.wc.find? (fun e => e.line == line) else none) with
    | none => s
    | some e =>
      if decide (s.local_ < e.since + s.flushNs) || !s.hbm.stacksReady [(64 * line, 64)] then s
      else ({ s with hbm := { s.hbm with wc := s.hbm.wc.filter (fun x => x.line != line) } }).settleWc s.hbm.wc)

end Sys2Proof.Machine
end

