-- ==== Sys2Proof/Machine/Recovery.lean ====
section
/-! DEFINITION. The reset levels (15_recovery_and_test.md R442 to R450): how each starts, what it clears, how one follows from
another. -/

namespace Sys2Proof.Machine

/-! ### Units -/

/-- A unit as catalogue SOURCE codes it (R52, R53). -/
def unitSource : UnitRef → Nat
  | .cluster c => srcCluster c.val
  | .stack n => srcStack n.val
  | .conservator n => srcCons n.val
  | .cmdProc n => srcHub 4 n.val
  | .collEngine n => srcColl n.val
  | .port p => srcPort p.val
  | .walker n => srcHub 12 n.val
  | .cache d => srcCache d.val
  | .pcie => srcPcie
  | .curator => srcCur

/-- The die of a unit that stands on one. -/
def unitDie : UnitRef → Option Nat
  | .cluster c => some (c.val / 80)
  | .stack n => some (n.val / 4)
  | .conservator n => some (n.val / 4)
  | .cache d => some d.val
  | _ => none

/-- The units that L1 resets (R442). -/
def unitHasL1 : UnitRef → Bool
  | .cluster _ | .conservator _ | .cmdProc _ | .collEngine _ | .walker _ => true
  | _ => false

/-- What an L1 acts on, in one form: a stream engine belongs to no core, and only a cluster has engines. -/
def L1Key.of (u : UnitRef) (core engine : Nat) : L1Key :=
  match u with
  | .cluster _ => if engine = 3 then ⟨u, 0xFF, 3⟩ else ⟨u, core, engine⟩
  | _ => ⟨u, 0xFF, 0xFF⟩

/-- The commands at work on a unit. A walker serves the contexts whose number is its own modulo 16 (log entry 51). -/
def State.commandsOn (s : State) (u : UnitRef) : List CmdRef :=
  match u with
  | .cluster c => (s.cluster c.val).launch.toList
  | .conservator n => (s.cons.cmds.filter (fun c => c.unit == n.val)).map (·.q)
  | .cmdProc n => (s.host.taken.filter (fun t => (4 * t.q.ctx.val + t.q.ring.val) % 8 == n.val)).map (·.q)
  | .collEngine n => (s.coll.running.filter (fun c => c.engine == n.val)).map (·.q)
  | .walker n => (s.host.taken.filter (fun t => t.q.ctx.val % 16 == n.val)).map (·.q)
  | _ => []

/-- The contexts with work on a unit. -/
def State.workOn (s : State) (u : UnitRef) : List Nat := ((s.commandsOn u).map (·.ctx.val)).eraseDups

/-- The contexts with clusters or update commands on a die (R442). -/
def State.workOnDie (s : State) (d : Nat) : List Nat :=
  ((s.eng.clusters.filter (fun c => c.1 / 80 == d)).filterMap (·.2.holder) ++
    (s.cons.cmds.filter (fun c => c.unit / 4 == d)).map (·.q.ctx.val)).eraseDups

/-! ### Counts and records -/

def State.setRst (s : State) (f : RstSt → RstSt) : State := { s with rst := f s.rst }

/-- EV_RST_BEGIN. The records of L2 and L3 signal vector 0 (R450). -/
def State.resetBegin (s : State) (level cause scope from_ : Nat) : State :=
  let s := s.setRst (fun r => { r with lastCause := cause, lastLevel := level })
  s.raiseWith 0x0C02 srcRst none [level, cause, scope, from_] false (level == 2 || level == 3)

/-- EV_RST_END: 0 passed, 1 escalated, 2 not ready. -/
def State.resetEnd (s : State) (level since ctxs how : Nat) : State :=
  s.raiseWith 0x0C03 srcRst none [level, s.local_ - since, ctxs, how] false (level == 2 || level == 3)

/-- A context is to be reset within a reset of a higher level. -/
def State.startL0s (s : State) (ctxs : List Nat) (cause : Nat) : State := ctxs.foldl (fun s c => s.startL0 c cause) s

/-! ### Not ready, and L4 (R446, R447, R481) -/

def BootPhase.code : BootPhase → Nat
  | .rom => 0
  | .waitImage => 1
  | .checking => 2
  | .coldBist => 3
  | .hbmTraining => 4
  | .starting => 5
  | .ready => 6
  | .notReady => 7

/-- A change of phase: EV_BOOT_PHASE. -/
def State.toPhase (s : State) (p : BootPhase) : State :=
  let old := s.board.phase
  if old = p then s
  else
    let s := { s with board := { s.board with phase := p } }
    s.raise 0x0E01 srcBoot none [p.code, old.code, s.local_ - s.board.since, 0]

/-- The Curator requests a power cycle (R447). -/
def State.startL4 (s : State) (cause level from_ : Nat) : State :=
  if s.rst.cycleReq then s
  else
    let s := s.resetBegin 4 cause 0 from_
    let s := s.raiseWith 0x0C06 srcRst none [cause, level, 0, 0] true false
    s.setRst (fun r => { r with cycleReq := true, ready := false, fault := true })

/-- The Askax is not ready because of a fault; an L4 follows a failed L3 when ALLOW_L4 is 1 (R446, R448). -/
def State.notReady (s : State) (cause : Nat) : State :=
  let s := (s.setRst (fun r => { r with ready := false, fault := true, l3 := none, l2 := [] })).toPhase .notReady
  if (s.reg rRstCtrl).testBit 0 then s.startL4 cause 3 3 else s

/-! ### L0: what a context's work leaves (R443 steps 1, 3, 4) -/

/-- The destinations of transfers of a core that were under way: what had not landed is undefined. -/
def State.undefineCore (s : State) (ctx : Nat) (c : CoreSt) : State :=
  let s := c.xfers.foldl (fun s x =>
    let d := Desc.of x.2.desc
    s.undefineTarget ctx d (.program false) (List.range d.units)) s
  c.days.foldl (fun s x =>
    match x.2.op with
    | .put => if vaSpace x.2.va.toNat = 0 then s.undefineVa ctx x.2.va.toNat x.2.len else s
    | _ => s) s

/-- A cluster of a reset context: its program, buffer and pools are gone, and it is IDLE. -/
def State.clearCluster (s : State) (ctx c : Nat) : State :=
  let cl := s.cluster c
  let s := cl.cores.foldl (fun s p => s.undefineCore ctx p.2) s
  let s := s.setCluster c { cl with
    state := if cl.state = .gated || cl.state = .outOfService then cl.state else .idle
    launch := none, image := [], buf := [], hidden := [], cores := [], scans := [], pools := [], streams := [], fault := none
    idleSince := s.local_ }
  (if cl.releasing then s.giveBack c else s).showOut c

/-- The work of a context stopped and cleared; its commands have still to complete. -/
def State.clearWork (s : State) (ctx : Nat) : State :=
  let mine := s.eng.launches.filter (fun l => l.q.ctx.val == ctx && l.phase == .running)
  let s := mine.foldl (fun s l => s.stopLaunch l.q stContextReset 0) s
  let s := (s.tier.copies.filter (fun c => c.q.ctx.val == ctx)).foldl (fun s c =>
    let d := Desc.of c.desc
    s.undefineTarget ctx d (.other d.pack) ((List.range (d.units - c.landed)).map (c.landed + ·))) s
  let s := (s.cancelColls ctx).dropCons ctx
  let held := (s.eng.clusters.filter (fun c => c.2.holder == some ctx)).map (·.1)
  let s := held.foldl (fun s c => s.clearCluster ctx c) s
  let units := (s.tier.episodes.filter (fun e => e.ctx == ctx)).map (·.unit)
  let s := units.foldl (fun s u => s.stallOff u) s
  { s with
    tier := { s.tier with
      copies := s.tier.copies.filter (fun c => c.q.ctx.val != ctx)
      remotes := s.tier.remotes.filter (fun r => r.2.ctx != ctx)
      pageWaits := s.tier.pageWaits.filter (fun w => w.q.ctx.val != ctx)
      promised := s.tier.promised.filter (fun p => p.1 != ctx) }
    pegs := { s.pegs with waits := s.pegs.waits.filter (fun w => w.ctx != ctx) }
    rst := { s.rst with test := { s.rst.test with run := s.rst.test.run.filter (fun r => r.q.ctx.val != ctx) } } }

/-- A taken command ends with its context's reset; a launch is counted as ended, and one that had started raises EV_LAUNCH_END. -/
def State.endReset (s : State) (q : CmdRef) : State :=
  match s.launch? q with
  | some l =>
    let s := s.endLaunch q stContextReset 0 0
    if l.phase = .running then s.launchEnded q stContextReset l.started else s
  | none => s.completeBare q stContextReset

/-- Every taken command of a context completes with ST_CONTEXT_RESET (R443 step 5, R404). -/
def State.completeReset (s : State) (ctx : Nat) : State :=
  (((s.host.taken.filter (fun t => t.q.ctx.val == ctx)).map (·.q)).foldl (fun s q => s.endReset q) s).releaseStage

/-! ### What a destroyed context frees (R394) -/

/-- The pages that a context has, in frames and in slots. -/
def State.pagesHeld (s : State) (ctx : Nat) : Nat :=
  (s.tier.frames.filter (fun f => f.2.ctx == ctx)).length + (s.tier.slots.filter (fun f => f.2.ctx == ctx)).length

def State.destroyContext (s : State) (ctx : Nat) : State :=
  let keyed := fun (sz k : Nat) => k / sz == ctx
  let held := (s.eng.clusters.filter (fun c => c.2.holder == some ctx)).map (·.1)
  let s := held.foldl (fun s c => s.giveBack c) s
  let slots := s.tier.slots.filter (fun f => f.2.ctx != ctx)
  { s with
    tier := { s.tier with
      level1 := s.tier.level1.filter (fun e => !keyed (2 ^ 14) e.1), ptes := s.tier.ptes.filter (fun e => !keyed (2 ^ 27) e.1)
      hostL1 := s.tier.hostL1.filter (fun e => !keyed (2 ^ 14) e.1)
      hostPtes := s.tier.hostPtes.filter (fun e => !keyed (2 ^ 27) e.1)
      frames := s.tier.frames.filter (fun f => f.2.ctx != ctx), slots := slots
      storeFull := s.tier.storeFull && slots.length == s.tier.slots.length
      quota := mdel s.tier.quota ctx, exports := mdel s.tier.exports ctx
      evictions := s.tier.evictions.filter (fun e => e.ctx != ctx), returns := s.tier.returns.filter (fun r => r.ctx != ctx)
      pageWaits := s.tier.pageWaits.filter (fun w => w.ctx != ctx), promised := s.tier.promised.filter (fun p => p.1 != ctx)
      stalls := s.tier.stalls.filter (fun e => !keyed 16 e.1), late := mdel s.tier.late ctx }
    pegs := { s.pegs with
      pegs := s.pegs.pegs.filter (fun p => p.2.owner != ctx), quota := mdel s.pegs.quota ctx
      waits := s.pegs.waits.filter (fun w => w.ctx != ctx) }
    cat := { s.cat with rings := mdel s.cat.rings ctx, waiting := s.cat.waiting.filter (fun w => w.1 != ctx) }
    host := { s.host with
      ctxs := mdel s.host.ctxs ctx, rings := s.host.rings.filter (fun r => !keyed 4 r.1)
      apertures := s.host.apertures.filter (fun a => a.2.ctx != ctx)
      placements := s.host.placements.filter (fun p => p.2.ctx != ctx) }
    rst := { s.rst with progress := mdel s.rst.progress ctx } }

/-! ### L2 and L3 (R445, R446) -/

def dieStacks (d : Nat) : List Nat := [4 * d, 4 * d + 1, 4 * d + 2, 4 * d + 3]

/-- Stacks whose lines are written back and which enter self-refresh, to be retrained (R196, R224). -/
def State.toSelfRefresh (s : State) (ns : List Nat) : State :=
  let s := s.drainStacks ns
  let s := ns.foldl (fun s n => s.setStack n { s.stack n with state := .selfRefresh }) s
  { s with hbm := { s.hbm with training := ns, trainSince := s.local_ } }

/-- The stacks that wait in self-refresh for their training are trained; a hard repair that was queued for one of them starts
(R215). -/
def State.beginTraining (s : State) : State :=
  let ns := s.hbm.training.filter (fun n => (s.stack n).state == .selfRefresh)
  if ns.isEmpty then s
  else
    let s := s.queuedHppr ns
    let s := ns.foldl (fun s n => s.setStack n { s.stack n with state := .training }) s
    { s with hbm := { s.hbm with trainSince := s.local_ } }

/-- The clusters of some dies hold nothing any more. -/
def State.scrubDies (s : State) (dies : List Nat) : State :=
  (s.eng.clusters.filter (fun c => dies.contains (c.1 / 80))).foldl (fun s c => s.clearCluster 0 c.1) s

/-- Step 4 of an L3: the running image checked again. One that fails leaves the Askax on its boot ROM (R473). -/
def State.l3Image (s : State) (b : BigReset) : State :=
  let r := s.checkImage runningBase
  if r.1 = 0 then s
  else
    let s := { s with hbm := { s.hbm with training := [] } }
    let s := (s.setRst (fun x => { x with l3 := none })).refuseImage runningBase r.1 r.2
    ((s.toPhase .waitImage).resetEnd 3 b.since b.ctxs 2).thaw

/-- A reset of L2 or L3 goes on to its units and stacks once no context's reset is left: its stacks stand in self-refresh until
their training begins (log entry 118). An L3 resets the STAT_ counters (06_scaling.md). -/
def State.pushBig (s : State) : State :=
  match s.rst.l3, s.rst.l2 with
  | some b, _ =>
    if b.begun || !s.rst.l0.isEmpty then s
    else
      let s := s.setRst (fun r => { r with l3 := some { b with begun := true } })
      (({ s with stat := .reset }.scrubDies [0, 1, 2, 3]).toSelfRefresh (List.range 16)).l3Image b
  | none, (d, b) :: _ =>
    if b.begun || !s.rst.l0.isEmpty then s
    else
      let s := s.setRst (fun r => { r with l2 := mset r.l2 d { b with begun := true } })
      (s.scrubDies [d]).toSelfRefresh (dieStacks d)
  | none, [] => s

/-- The Askax serves, so far as the resets of L2 and above are concerned. -/
def State.serving (s : State) : Bool := (s.rst.ready || s.rst.l3.isSome) && !s.rst.cycleReq

/-- Commands that wait for L1 resets which a higher one absorbs (R449). -/
def askedOf (l : List L1St) : List CmdRef := l.flatMap (·.asked)

/-- L1 resets that a higher reset covers end in it; no L0 waits for them any more. -/
def State.absorbL1 (s : State) (covered : UnitRef → Bool) : State :=
  s.setRst (fun r => { r with
    l1 := r.l1.filter (fun x => !covered x.key.unit)
    l0 := r.l0.map (fun e => (e.1, { e.2 with waits := e.2.waits.filter (fun k => !covered k.unit) })) })

def withinNs (last : Option Nat) (now ns : Nat) : Bool :=
  match last with
  | some t => decide (now < t + ns)
  | none => false

/-- An L3 (R446): refused while one runs, and a second within 600 s leaves the Askax not ready (R448). GLB_RWP_REJECT keeps its
value (log entry 102). -/
def State.startL3 (s : State) (cause from_ : Nat) : State :=
  if !s.serving || s.rst.l3.isSome then s
  else if withinNs s.rst.l3Last s.local_ 600000000000 then s.notReady 6
  else
    let asked := askedOf s.rst.l1 ++ s.rst.l2.flatMap (·.2.asked)
    let ctxs := s.host.ctxs.map (·.1)
    let s := (s.absorbL1 (fun _ => true)).setRst (fun r => { r with
      l2 := [], l3 := some ⟨cause, s.local_, ctxs.length, from_, false, asked⟩, l3Last := some s.local_
      count3 := satAdd 8 r.count3 1, ready := false })
    let s := (s.resetBegin 3 cause 0 from_).freeze
    (s.startL0s ctxs cause).pushBig

/-- An L2 of a die (R445): merged with one that runs on it, an L3 when another die is in L2 (R449) or when it is the second
within 60 s (R448; log entry 90). -/
def State.startL2 (s : State) (d cause from_ : Nat) (asked : List CmdRef) : State :=
  if !s.serving || s.rst.l3.isSome then s
  else if mhas s.rst.l2 d then
    s.setRst (fun r => { r with l2 := mupd r.l2 d ⟨cause, s.local_, 0, from_, false, []⟩ (fun b => { b with asked := b.asked ++ asked }) })
  else if !s.rst.l2.isEmpty then s.startL3 cause 2
  else if withinNs (mget s.rst.l2Last d) s.local_ 60000000000 then s.startL3 6 2
  else
    let covered := fun (u : UnitRef) => unitDie u == some d
    let asked := asked ++ askedOf (s.rst.l1.filter (fun x => covered x.key.unit))
    let ctxs := s.workOnDie d
    let s := (s.absorbL1 covered).setRst (fun r => { r with
      l2 := mset r.l2 d ⟨cause, s.local_, ctxs.length, from_, false, asked⟩, l2Last := mset r.l2Last d s.local_
      count2 := satAdd 8 r.count2 1 })
    let s := (s.resetBegin 2 cause d from_).freeze
    (s.startL0s ctxs cause).pushBig

/-- The end of an L2. -/
def State.endL2 (s : State) (d how : Nat) : State :=
  match mget s.rst.l2 d with
  | none => s
  | some b =>
    let s := s.setRst (fun r => { r with l2 := mdel r.l2 d })
    let s := (s.resetEnd 2 b.since b.ctxs how).thaw
    b.asked.foldl (fun s q => s.complete q stOk b.ctxs 0) s

/-- The end of an L3 that succeeded: the processors run the checked image, and the Askax is ready again. -/
def State.endL3 (s : State) : State :=
  match s.rst.l3 with
  | none => s
  | some b =>
    let s := s.setRst (fun r => { r with l3 := none, ready := true, fault := false })
    let s := s.raise 0x0E03 srcBoot none [s.board.version, s.board.svn, 3, s.local_ - b.since]
    (s.resetEnd 3 b.since b.ctxs 0).thaw

/-- An L3 that failed: not ready, cause 9. -/
def State.failL3 (s : State) : State :=
  match s.rst.l3 with
  | none => s
  | some b => ((s.resetEnd 3 b.since b.ctxs 2).notReady 9).thaw

/-! ### L1 (R444) -/

/-- A unit that a reset of L2 or L3 covers. -/
def State.covered (s : State) (u : UnitRef) : Bool :=
  s.rst.l3.isSome || (unitDie u).any (fun d => mhas s.rst.l2 d)

/-- An L1 of a unit, after the L0 of every context with work on it but `except`; one that a running reset covers is carried out
in it, one of a unit in L1 is merged (R449). A second within 1 s counts as a failed BIST (R448). -/
def State.startL1 (s : State) (k : L1Key) (cause : Nat) (except : List Nat) (asked : List CmdRef) : State :=
  if !s.serving || !unitHasL1 k.unit || s.rst.l3.isSome then s
  else if s.covered k.unit then
    match unitDie k.unit with
    | some d => s.startL2 d cause 1 asked
    | none => s
  else if s.rst.l1.any (fun x => x.key == k) then
    s.setRst (fun r => { r with l1 := replaceFirst (fun x => x.key == k) (fun x => { x with asked := x.asked ++ asked }) r.l1 })
  else
    let ctxs := (s.workOn k.unit).filter (fun c => !except.contains c)
    let last := (s.rst.l1Last.find? (fun x => x.1 == k)).map (·.2)
    let again := withinNs last s.local_ 1000000000
    let s := s.setRst (fun r => { r with
      l1 := r.l1 ++ [⟨k, cause, s.local_, ctxs, ctxs.length, again, asked⟩]
      l1Last := (k, s.local_) :: r.l1Last.filter (fun x => x.1 != k), count1 := satAdd 16 r.count1 1 })
    (s.resetBegin 1 cause (unitSource k.unit) 0).startL0s ctxs cause

/-- A unit's L1 ends: the resets that waited for it go on, and the commands that asked for it complete. -/
def State.endL1 (s : State) (x : L1St) (how : Nat) : State :=
  let s := s.setRst (fun r => { r with
    l1 := r.l1.filter (fun y => y.key != x.key)
    l0 := r.l0.map (fun e => (e.1, { e.2 with waits := e.2.waits.filter (fun k => k != x.key) })) })
  let s := s.resetEnd 1 x.since x.ctxs how
  if how = 1 then s else x.asked.foldl (fun s q => s.complete q stOk x.ctxs 0) s

/-- What a failed BIST of a unit under L1 leads to (R444). -/
def State.failL1 (s : State) (x : L1St) (verdictEngine : Nat) (signature : W64) : State :=
  match x.key.unit with
  | .cluster c =>
    let s := s.endL1 x 0
    if 3 ≤ x.key.engine || verdictEngine = 4 then s.outOfService c.val
    else s.fence c.val x.key.core x.key.engine signature 1
  | .conservator n => (s.endL1 x 1).startL2 (n.val / 4) 5 1 x.asked
  | _ => (s.endL1 x 1).startL3 5 1

/-! ### The end of an L0 (R443 steps 3 to 5) -/

/-- A context's reset completes: its work is gone, its commands have their records; RST_CONTEXT completes, and a context under
CTX_DESTROY is freed. -/
def State.finishL0 (s : State) (ctx : Nat) : State :=
  match mget s.rst.l0 ctx with
  | none => s
  | some e =>
    let n := (s.host.taken.filter (fun t => t.q.ctx.val == ctx)).length
    let s := (s.clearWork ctx).completeReset ctx
    let s := s.setRst (fun r => { r with
      l0 := mdel r.l0 ctx, count0 := if e.destroy.isSome then r.count0 else wrapAdd 32 r.count0 1
      l1 := r.l1.map (fun x => { x with after := x.after.filter (· != ctx) }) })
    let s := e.asked.foldl (fun s q => s.complete q stOk n 0) s
    let s :=
      match e.destroy with
      | none => s
      | some q =>
        let pages := s.pagesHeld ctx
        ((s.destroyContext ctx).raise 0x0205 (srcCp q.ctx.val q.ring.val) (some ctx) [ctx, n, pages, 0]).complete q stOk n 0
    s.pushBig

end Sys2Proof.Machine
end

