-- ==== Sys2Proof/Machine/Reset.lean ====
section
/-! DEFINITION. The rows of the resets (15_recovery_and_test.md R437 to R450, R465 to R467): the watchdog, heartbeats, the steps
of an L0, BIST after L1, RST_REQUEST, RST_CONTEXT and RST_UNIT. -/

namespace Sys2Proof.Machine

def stRstInvalid : Nat := 0x0720
def stRstBusy : Nat := 0x0721

/-! ### The watchdog and heartbeats (R437 to R441) -/

/-- A context runs an administration command, which freezes context 0's window (R395, R439). -/
def State.adminRuns (s : State) : Bool :=
  s.host.taken.any (fun t => t.q.ctx.val == 0 && t.begun && t.opcode / 256 == 7)

def execWatchdogExpiry (c : Ctx) (s : State) : Host.Outcome State Fault Refusal :=
  .next (
    match (if s.alive && !s.inL0 c.val && s.rst.frozen.isNone then mget s.host.ctxs c.val else none) with
    | none => s
    | some x =>
      let n := (s.host.taken.filter (fun t => t.q.ctx == c)).length
      let last := mgetD s.rst.progress c.val 0
      if n = 0 || (c.val == 0 && s.adminRuns) || decide (s.local_ < last + x.window) then s
      else (s.raise 0x0C01 srcRst (some c.val) [c.val, s.now - (s.local_ - last), x.window, n]).startL0 c.val 1)

/-- R440: control processors have a heartbeat. -/
def hasHeartbeat : UnitRef → Bool
  | .cmdProc _ | .conservator _ | .collEngine _ => true
  | _ => false

def execHeartbeatTimeout (unit : UnitRef) (s : State) : Host.Outcome State Fault Refusal :=
  .next (
    let k := L1Key.of unit 0 0
    if s.alive && s.serving && hasHeartbeat unit && !s.covered unit && !s.rst.l1.any (fun x => x.key == k) then
      (s.raise 0x0C04 srcRst none [unitSource unit, s.now - 1000000, 1, 0]).startL1 k 4 [] []
    else s)

/-! ### The steps of an L0 (R443) -/

def execQuiesceComplete (c : Ctx) (s : State) : Host.Outcome State Fault Refusal :=
  .next (
    match (if s.alive then mget s.rst.l0 c.val else none) with
    | some e => if e.waits.isEmpty then s.finishL0 c.val else s
    | none => s)

/-- A unit that has not acknowledged within QUIESCE_US: the L0 waits for its L1. A unit under L1 already no longer waits for this
context's L0. -/
def execQuiesceTimeout (c : Ctx) (unit : UnitRef) (core : Fin 84) (engine : Fin 4) (s : State) : Host.Outcome State Fault Refusal :=
  .next (
    match (if s.alive && unitHasL1 unit then mget s.rst.l0 c.val else none) with
    | none => s
    | some e =>
      let k := L1Key.of unit core.val engine.val
      let us := max 100 s.quiesceUs
      if s.local_ < e.since + 1000 * us || e.waits.contains k || !(s.workOn unit).contains c.val || s.covered unit then s
      else
        let s := s.startL1 k 3 [c.val] []
        if !s.rst.l1.any (fun x => x.key == k) then s
        else s.setRst (fun r => { r with
          l0 := mset r.l0 c.val { e with waits := k :: e.waits }
          l1 := r.l1.map (fun x => if x.key == k then { x with after := x.after.filter (· != c.val) } else x) }))

/-! ### BIST results (R444, R445, R446, R451, R452) -/

/-- Rows that a memory BIST mapped to spares. -/
def State.rowsFixed (s : State) (src : Nat) (rows : List RowFixed) : State :=
  rows.foldl (fun s r => s.raise 0x0D08 srcRst none [src, r.memory + r.core * 2 ^ 8, r.row, r.left]) s

/-- A corrupt expected value: EV_TEST_ROM_CORRUPT; pattern set 0 quick, 1 full (log entry 52). -/
def State.romCorrupt (s : State) (src set_ word : Nat) : State :=
  s.raise 0x0D07 srcRst none [bits src 11 8, set_, word, 0]

/-- Units whose quick BIST is part of an L2: stream engines, conservators and slices of its die. -/
def l2Tests : UnitRef → Bool
  | .cluster _ | .conservator _ | .cache _ => true
  | _ => false

def stTestFailed : Nat := 0x0723

/-- A TEST_RUN ends: EV_TEST_DONE, and its record. -/
def State.endTestRun (s : State) (r : TestRun) : State :=
  let s := s.setRst (fun x => { x with test := { x.test with run := none, phase := 0 } })
  let s := s.raise 0x0D01 srcRst none [2, r.tested, r.failed, s.local_ - s.rst.test.since]
  s.complete r.q (if r.failed = 0 then stOk else stTestFailed) r.fenced r.failed

/-- The TEST_RUN of a hub unit has its result. -/
def State.unitTested (s : State) (unit : UnitRef) (failed : Bool) : State :=
  match s.rst.test.run with
  | some r =>
    if r.scope = 2 && r.unit == unitSource unit then s.endTestRun { r with tested := 1, failed := bit01 failed } else s
  | none => s

def execUnitBistComplete (unit : UnitRef) (core : Fin 84) (engine : Fin 4) (x : BistResult) (s : State) :
    Host.Outcome State Fault Refusal :=
  .next (
    let k := L1Key.of unit core.val engine.val
    let src := unitSource unit
    match (if s.alive then s.rst.l1.find? (fun y => y.key == k && y.after.isEmpty) else none) with
    | some y =>
      let s := s.rowsFixed src x.rows
      match x.verdict with
      | .romCorrupt w =>
        let s := s.romCorrupt src 0 w
        if y.again then (s.unitTested unit true).failL1 y 0 0 else (s.unitTested unit false).endL1 y 0
      | .failed e sig => (s.unitTested unit true).failL1 y e.val sig
      | .passed =>
        if y.again then (s.unitTested unit true).failL1 y 0 0 else (s.unitTested unit false).endL1 y 0
    | none =>
      match s.rst.l3, unitDie unit with
      | some b, _ =>
        if !b.begun then s
        else
          let s := s.rowsFixed src x.rows
          match x.verdict with
          | .romCorrupt w => s.romCorrupt src 0 w
          | .failed _ _ => s.failL3
          | .passed => s
      | none, some d =>
        if !(mget s.rst.l2 d).any (·.begun) || !l2Tests unit then s
        else
          let s := s.rowsFixed src x.rows
          match x.verdict with
          | .romCorrupt w => s.romCorrupt src 0 w
          | .failed _ _ => (s.endL2 d 1).startL3 8 2
          | .passed => s
      | none, none => s)

/-! ### RST_REQUEST (R448) -/

/-- The Askax can be asked for a power cycle: not during boot (R481). -/
def State.mayCycle (s : State) : Bool :=
  s.serving || (s.board.phase == .notReady && s.rst.l3Last.isSome)

/-- A write to RST_REQUEST: a matched one is read back, and requests what its LEVEL says (log entry 90). -/
def State.requestReset (s : State) (v : RegValue) : State :=
  if !s.hostUp then s
  else
    match s.rwp rRstRequest v with
    | (s, none) => s
    | (s, some x) =>
      let n := x.toNat
      let s := s.setReg rRstRequest (rwpPair x)
      if bits n 27 2 ≠ 0 then s
      else if bits n 31 28 = 2 then s.startL2 (n % 4) 2 0 []
      else if bits n 31 28 = 3 then s.startL3 2 0
      else if bits n 31 28 = 4 && s.mayCycle then s.startL4 2 4 0
      else s

def execRstRequestL2 (v : RegValue) (s : State) : Host.Outcome State Fault Refusal := .next (s.requestReset v)
def execRstRequestL3 (v : RegValue) (s : State) : Host.Outcome State Fault Refusal := .next (s.requestReset v)
def execRstRequestL4 (v : RegValue) (s : State) : Host.Outcome State Fault Refusal := .next (s.requestReset v)

/-! ### RST_CONTEXT and RST_UNIT (R466) -/

/-- The unit that a SOURCE names. -/
def unitOfSource (src : Nat) : Option UnitRef :=
  let die := src / 2 ^ 12
  let n := src % 2 ^ 8
  match bits src 11 8 with
  | 0 => if h : 80 * die + n < 320 then (if n < 80 then some (.cluster ⟨80 * die + n, h⟩) else none) else none
  | 1 => if h : 4 * die + n < 16 then (if n < 4 then some (.stack ⟨4 * die + n, h⟩) else none) else none
  | 2 => if h : 4 * die + n < 16 then (if n < 4 then some (.conservator ⟨4 * die + n, h⟩) else none) else none
  | 3 => if h : die < 4 then (if n = 0 then some (.cache ⟨die, h⟩) else none) else none
  | 4 => if h : n < 8 then (if die = 4 then some (.cmdProc ⟨n, h⟩) else none) else none
  | 5 => if h : n < 3 then (if die = 4 then some (.collEngine ⟨n, h⟩) else none) else none
  | 6 => if h : n < 12 then (if die = 4 then some (.port ⟨n, h⟩) else none) else none
  | 7 => if src = srcPcie then some .pcie else none
  | 8 => if src = srcCur then some .curator else none
  | 12 => if h : n < 16 then (if die = 4 then some (.walker ⟨n, h⟩) else none) else none
  | _ => none

def checkRstContext (p : List Byte) : Option Nat :=
  if decide (1 ≤ fld p 16 2) && decide (fld p 16 2 < 1024) && zeroBytes p 18 64 then none else some stRstInvalid

def checkRstUnit (p : List Byte) : Option Nat :=
  let core := fld p 18 1
  let engine := fld p 19 1
  let suits :=
    match unitOfSource (fld p 16 2) with
    | some (.cluster _) => (engine == 3 && core == 0xFF) || (decide (engine < 3) && decide (core < 84))
    | some u => unitHasL1 u && core == 0xFF && engine == 0xFF
    | none => false
  if suits && zeroBytes p 20 64 then none else some stRstInvalid

/-- A reset of L2 or above, or a TEST_RUN, is running. -/
def State.resetBusy (s : State) : Bool := !s.rst.l2.isEmpty || s.rst.l3.isSome || s.rst.test.run.isSome

def execRstContext (q : CmdRef) (s : State) : Host.Outcome State Fault Refusal :=
  .next (s.perform q 0x0720 (fun s t =>
    let ctx := t.par 16 2
    if !mhas s.host.ctxs ctx then s.complete q stRstInvalid 0 0
    else if s.resetBusy then s.complete q stRstBusy 0 0
    else
      let s := (s.startL0 ctx 2).startTaken q
      s.setRst (fun r => { r with l0 := mupd r.l0 ctx ⟨2, s.local_, [], [], none⟩ (fun e => { e with asked := e.asked ++ [q] }) })))

/-- One command's work stopped and dropped. -/
def State.dropWork (s : State) (q : CmdRef) : State :=
  let s : State :=
    match s.launch? q with
    | some l =>
      let on := l.set.filter (fun c => (s.cluster c).launch == some q)
      on.foldl (fun s c => s.clearCluster q.ctx.val c) (s.stopLaunch q stContextReset 0)
    | none => s
  let s : State :=
    match s.coll.running.find? (fun c => c.q == q) with
    | some c => s.dropColl c stContextReset
    | none => s
  let s := (s.tier.copies.filter (fun c => c.q == q)).foldl (fun s c =>
    let d := Desc.of c.desc
    s.undefineTarget q.ctx.val d (.other d.pack) ((List.range (d.units - c.landed)).map (c.landed + ·))) s
  { s with
    tier := { s.tier with
      copies := s.tier.copies.filter (fun c => c.q != q), pageWaits := s.tier.pageWaits.filter (fun w => w.q != q)
      remotes := s.tier.remotes.filter (fun r => r.2.owner != Owner.copy q && r.2.owner != Owner.descriptor q) }
    coll := { s.coll with queued := s.coll.queued.filter (fun c => c.q != q) }
    cons := { s.cons with cmds := s.cons.cmds.filter (fun c => c.q != q) }
    pegs := { s.pegs with waits := s.pegs.waits.filter (fun w =>
      w.who != Waiter.cmd q && w.who != Waiter.launch q && w.who != Waiter.coll q) } }

/-- An L1 of a unit; context 0's own commands on it end, all but this one. -/
def execRstUnit (q : CmdRef) (s : State) : Host.Outcome State Fault Refusal :=
  .next (s.perform q 0x0721 (fun s t =>
    match unitOfSource (t.par 16 2) with
    | none => s.complete q stRstInvalid 0 0
    | some u =>
      if s.resetBusy then s.complete q stRstBusy 0 0
      else
        let own := (s.commandsOn u).filter (fun x => x.ctx.val == 0 && x != q)
        let s := own.foldl (fun s x => (s.dropWork x).endReset x) s
        (s.startTaken q).startL1 (L1Key.of u (t.par 18 1) (t.par 19 1)) 2 [0] [q]))

/-! ### Reads by units that act for no context (R208, R448) -/

/-- Reader code 8: the unit escalates to an L3, cause 7. -/
def State.unitUnread (s : State) (line what : Nat) : State := (s.uncorrectable 8 none line what).startL3 7 0

end Sys2Proof.Machine
end

