-- ==== Sys2Proof/Machine/Pool.lean ====
section
/-! DEFINITION. The pool, page tables, the host-tier map and peer windows (08_tiers_and_streams.md R233 to R249, R267 to R269). -/

namespace Sys2Proof.Machine

def stPoolQuota : Nat := 0x0101
def stPoolLimit : Nat := 0x0102
def stPoolPin : Nat := 0x0103
def stMapConflict : Nat := 0x0104
def stMapInvalid : Nat := 0x0105
def stEvictStore : Nat := 0x0106
def stPoolNoFrame : Nat := 0x0107
def stExportInvalid : Nat := 0x0108
def stQuotaAbsent : Nat := 0x010A

def State.setTier (s : State) (f : TierSt → TierSt) : State := { s with tier := f s.tier }

/-! ### Quotas (R238, R239) -/

def Quota.ok (q : Quota) : Bool := q.reserveC == ~~~q.reserve && q.limitC == ~~~q.limit

/-- RESERVE and LIMIT of a context; both 0 where the entry is absent. -/
def State.quotaOf (s : State) (ctx : Nat) : Nat × Nat :=
  match mget s.tier.quota ctx with
  | some q => if q.ok then (q.reserve.toNat, q.limit.toNat) else (0, 0)
  | none => (0, 0)

/-- A quota entry that fails its complement. -/
def State.quotaCorrupt (s : State) (ctx : Nat) : Bool := (mget s.tier.quota ctx).any (fun q => !q.ok)

/-- EV_QUOTA_CORRUPT where a command meets such an entry. -/
def State.quotaMet (s : State) (ctx : Nat) : State :=
  if s.quotaCorrupt ctx then s.raise 0x0406 (srcWalker ctx) (some ctx) [ctx, 0, 0, 0] else s

def State.reservedSum (s : State) : Nat := (s.tier.quota.map (fun q => (s.quotaOf q.1).1)).sum

/-! ### Pages and frames -/

/-- The valid entry of a page. -/
def State.entry (s : State) (ctx vpn : Nat) : Option Nat :=
  match walk s ctx vpn with
  | .entry v => some v
  | _ => none

def State.setEntry (s : State) (ctx vpn v : Nat) : State :=
  s.setTier (fun t => { t with ptes := mset t.ptes (pteKey ctx vpn) (Pair64.of v) })

/-- An entry in another state, at another place. -/
def movedPte (v location state : Nat) : Nat :=
  mkPte location state (ptePack v) (pteRecords v) (ptePin v) (pteMode v) (pteWrite v)
def pinnedPte (v : Nat) (pin : Bool) : Nat :=
  mkPte (pteLocation v) (pteState v) (ptePack v) (pteRecords v) pin (pteMode v) (pteWrite v)

/-- Frames that a context has, resident or in transit. -/
def State.framesOf (s : State) (ctx : Nat) : Nat := (s.tier.frames.filter (fun f => f.2.ctx == ctx)).length
/-- Those that are being evicted. -/
def State.leaving (s : State) (ctx : Nat) : Nat := (s.tier.evictions.filter (fun e => e.ctx == ctx)).length
def State.freeFrames (s : State) : Nat := Config.poolFrames - s.tier.frames.length

/-- Pinned pages of a context. -/
def State.pinned (s : State) (ctx : Nat) : Nat :=
  (s.tier.frames.filter (fun f => f.2.ctx == ctx && (s.entry ctx f.2.page).any ptePin)).length

/-- R242: whether a frame fits a page of a mode and die. -/
def HbmSt.fits (h : HbmSt) (mode die f : Nat) : Bool :=
  if mode = 0 then !h.isDieLocal (f / 16) else h.isDieLocal (f / 16) && f % 4 == die

/-- The `n` lowest frames from `f` on that are free and fit. -/
def State.findFrames (s : State) (mode die : Nat) : Nat → Nat → Nat → List Nat
  | 0, _, _ => []
  | fuel + 1, f, n =>
    if n = 0 then []
    else if s.hbm.fits mode die f && !mhas s.tier.frames f && !s.tier.promised.any (fun p => p.2 == f) then
      f :: s.findFrames mode die fuel (f + 1) (n - 1)
    else s.findFrames mode die fuel (f + 1) n

def State.freeFitting (s : State) (mode die n : Nat) : List Nat := s.findFrames mode die Config.poolFrames 0 n

/-! ### Eviction (R240, R242, R243) -/

/-- A slot of the store that holds nothing: the lowest (log entry 50). -/
def State.freeSlot (s : State) : Option Nat :=
  match s.tier.store with
  | some (_, n) => (List.range (s.tier.slots.length + 1)).find? (fun j => decide (j < n) && !mhas s.tier.slots j)
  | none => none

/-- The page in a frame is RESIDENT and not pinned. A RECORDS page is never evicted: records leave their stack only by the
commands of R20 (log entry 120). -/
def State.unpinned (s : State) (f : Nat × Frame) : Bool :=
  (s.entry f.2.ctx f.2.page).any (fun v => pteState v == 0 && !ptePin v && !pteRecords v && pteLocation v == f.1)

/-- R240: the page's context has more resident pages than its RESERVE. -/
def State.borrowing (s : State) (ctx : Nat) : Bool := decide ((s.quotaOf ctx).1 + s.leaving ctx < s.framesOf ctx)

/-- The frame with the largest age, the lowest among equals. -/
def oldest (l : List (Nat × Frame)) : Option (Nat × Frame) :=
  l.foldl (fun b f =>
    match b with
    | none => some f
    | some x => if x.2.age < f.2.age then some f else b) none

/-- The oldest unpinned RESIDENT page of a context in a frame that fits. -/
def State.ownVictim (s : State) (ctx : Nat) (fit : Nat → Bool) : Option Nat :=
  (oldest (s.tier.frames.filter (fun f => f.2.ctx == ctx && fit f.1 && s.unpinned f))).map (·.1)

/-- victim(page) of R242 over all contexts. -/
def State.anyVictim (s : State) (fit : Nat → Bool) : Option Nat :=
  (oldest (s.tier.frames.filter (fun f => fit f.1 && s.borrowing f.2.ctx && s.unpinned f))).map (·.1)

/-- EV_POOL_STORE_FULL, once while no slot is free. -/
def State.storeFull (s : State) : State :=
  if s.tier.storeFull then s
  else
    let slots := (s.tier.store.map (·.2)).getD 0
    (s.setTier (fun t => { t with storeFull := true })).raise 0x0404 (srcWalker 0) none [slots, s.freeFrames, 0, 0]

/-- The bytes of a frame by their offsets. -/
def HbmSt.frameCells (h : HbmSt) (f : Nat) : Mem :=
  let base := f * pageBytes
  let unknown := h.undef.flatMap (fun u =>
    (List.range (min u.hi (base + pageBytes) - max u.lo base)).map (fun j => max u.lo base + j))
  unknown.foldl (fun m a => memSet m (a - base) (h.byte a)) (memSlice h.mem base (base + pageBytes))

def State.slotIova (s : State) (slot : Nat) : Nat := ((s.tier.store.map (·.1)).getD 0) + slot * pageBytes

/-- The eviction write and the read that confirms it leave (R243 steps 3 and 4). -/
def State.sendEviction (s : State) (e : Eviction) : State :=
  let id := s.tier.nextRemote
  let e' := { e with read := id, sent := true }
  let s := s.setTier (fun t => { t with
    nextRemote := id + 1, evictions := t.evictions.filter (fun x => x.frame != e.frame) ++ [e'] })
  (s.toHost (.evict (s.slotIova e.slot) (s.hbm.frameCells e.frame))).toHost (.read id (s.slotIova e.slot) 64)

/-- An eviction given up: its page is RESIDENT again, its slot is free. -/
def State.undoEvict (s : State) (e : Eviction) : State :=
  let s : State :=
    match s.entry e.ctx e.page with
    | some v => s.setEntry e.ctx e.page (movedPte v e.frame 0)
    | none => s
  s.setTier (fun t => { t with slots := mdel t.slots e.slot, evictions := t.evictions.filter (fun x => x.frame != e.frame) })

/-- R243 steps 2 to 4 of an eviction whose bytes have not left yet, as soon as its stacks accept accesses (R196). A frame that
cannot be read is not evicted; the pool manager acts for no context (R208). -/
def State.pushEviction (s : State) (e : Eviction) : State :=
  if e.sent || !s.hbm.frameReady e.frame then s
  else
    let lo := e.frame * pageBytes
    let s := ({ s with hbm := s.hbm.flushRange lo (lo + pageBytes) }).settleWc s.hbm.wc
    match s.hbm.damagedIn lo pageBytes with
    | some line => (s.undoEvict e).unitUnread line 0
    | none => ({ s with hbm := s.hbm.useFrame e.frame false }).sendEviction e

/-- evict(v), its first part. -/
def State.startEvict (s : State) (f : Nat) : State :=
  match mget s.tier.frames f, s.freeSlot with
  | some x, some slot =>
    match s.entry x.ctx x.page with
    | none => s
    | some v =>
      let s := s.setEntry x.ctx x.page (movedPte v f 1)
      let e : Eviction := ⟨f, x.ctx, x.page, slot, 0, false⟩
      let s := s.setTier (fun t => { t with
        slots := mset t.slots slot ⟨x.ctx, x.page, f % 4⟩, evictions := t.evictions.filter (fun y => y.frame != f) ++ [e] })
      s.pushEviction e
  | _, _ => s

/-- The evictions that waited for a stack go on. -/
def State.pushEvictions (s : State) : State :=
  (s.tier.evictions.filter (fun e => !e.sent)).foldl (fun s e => s.pushEviction e) s

/-- Up to `n` evictions of what a choice names, as far as slots and victims go; the answer counts those that are missing. A
context's own pages are looked for before the slot, as in get_frame; victim(page) looks for the slot first (R242). -/
def State.evictSome (own : Bool) (choose : State → Option Nat) : Nat → State → State × Nat
  | 0, s => (s, 0)
  | n + 1, s =>
    match choose s with
    | none => (if s.freeSlot.isNone && !own then s.storeFull else s, n + 1)
    | some f =>
      if s.freeSlot.isNone then (s.storeFull, n + 1) else State.evictSome own choose n (s.startEvict f)

/-- background() of R242, after every allocation. -/
def State.background (s : State) : State :=
  if s.waterLow ≤ s.freeFrames + s.tier.evictions.length then s
  else
    let want := s.waterHigh - (s.freeFrames + s.tier.evictions.length)
    (State.evictSome false (fun s => s.anyVictim (fun _ => true)) (min want s.tier.frames.length) s).1

/-- How an allocation of frames came out. -/
inductive Alloc where
  | frames (l : List Nat)
  | wait
  | limit
  | noFrame
  deriving DecidableEq, Repr

/-- An eviction of a context's own page promises its frame to the page that is wanted (R242). -/
def State.evictOwn (s : State) (ctx : Nat) (fit : Nat → Bool) (n : Nat) : State × Nat :=
  let r := State.evictSome true (fun s => s.ownVictim ctx fit) n s
  let new := (r.1.tier.evictions.filter (fun e => e.ctx == ctx && !s.tier.evictions.any (fun x => x.frame == e.frame))).map (·.frame)
  (r.1.setTier (fun t => { t with promised := t.promised ++ new.map (fun f => (ctx, f)) }), r.2)

/-- The frames that own evictions have freed for a context's pages. -/
def State.promisedFree (s : State) (ctx : Nat) (fit : Nat → Bool) : List Nat :=
  ((s.tier.promised.filter (fun p => p.1 == ctx && fit p.2 && !mhas s.tier.frames p.2)).map (·.2))

/-- Frames found are no longer promised. -/
def State.takeFrames (s : State) (l : List Nat) : State × Alloc :=
  (s.setTier (fun t => { t with promised := t.promised.filter (fun p => !l.contains p.2) }), .frames l)

/-- get_frame of R242 for `n` pages of a context: frames that are free now; evictions started and still to be waited for; or
refused. A frame that an eviction of the context's own page freed is taken first. `back` marks a return, which may exchange a page
of a context at its reserve (R240). -/
def State.getFrames (s : State) (ctx n mode die : Nat) (back : Bool) : State × Alloc :=
  let q := s.quotaOf ctx
  let held := s.framesOf ctx
  let fit := s.hbm.fits mode die
  let own := n - (q.2 - held)
  if own ≠ 0 then
    if !back && decide (max held q.2 ≤ q.1) then (s, .limit)
    else
      let r := s.evictOwn ctx fit (own - s.leaving ctx)
      if r.2 ≠ 0 then (r.1, .limit) else (r.1, .wait)
  else
    let mine := (s.promisedFree ctx fit).take n
    let free := mine ++ s.freeFitting mode die (n - mine.length)
    if free.length = n then s.takeFrames free
    else
      let coming := (s.tier.evictions.filter (fun e => fit e.frame)).length
      let r := State.evictSome false (fun s => s.anyVictim fit) (n - free.length - coming) s
      if r.2 ≠ 0 then (r.1, .noFrame) else (r.1, .wait)

/-! ### Releasing pages (R245) -/

/-- A page's entry, its frame or slot, and whatever is on its way for it, gone. -/
def State.releasePage (s : State) (ctx vpn : Nat) : State :=
  s.setTier (fun t =>
    let slots := t.slots.filter (fun x => !(x.2.ctx == ctx && x.2.page == vpn))
    { t with
      ptes := mdel t.ptes (pteKey ctx vpn), frames := t.frames.filter (fun f => !(f.2.ctx == ctx && f.2.page == vpn))
      slots := slots, storeFull := t.storeFull && slots.length == t.slots.length
      evictions := t.evictions.filter (fun e => !(e.ctx == ctx && e.page == vpn))
      returns := t.returns.filter (fun r => !(r.ctx == ctx && r.page == vpn)) })

def l1Valid (ctx index : Nat) : Pair64 := Pair64.of ((Config.level2Table ctx index).toNat * 2 ^ 17 + 1)

def l1Corrupt (t : Map Pair64) (ctx vpn : Nat) : Bool := (mget t (l1Key ctx vpn)).any (fun p => !p.ok)

/-- The level-1 entry of a page before the page is mapped or unmapped: made where there is none, and written anew, with every
page under it released, where it is corrupt. -/
def State.freshL1 (s : State) (ctx vpn : Nat) : State :=
  let s :=
    if l1Corrupt s.tier.level1 ctx vpn then
      let under := fun (c p : Nat) => c == ctx && p / 8192 == vpn / 8192
      s.setTier (fun t => { t with
        ptes := t.ptes.filter (fun e => !under (e.1 / 2 ^ 27) (e.1 % 2 ^ 27))
        frames := t.frames.filter (fun f => !under f.2.ctx f.2.page), slots := t.slots.filter (fun x => !under x.2.ctx x.2.page)
        evictions := t.evictions.filter (fun e => !under e.ctx e.page)
        returns := t.returns.filter (fun r => !under r.ctx r.page) })
    else s
  s.setTier (fun t => { t with level1 := mset t.level1 (l1Key ctx vpn) (l1Valid ctx (vpn / 8192)) })

/-! ### Parameter checks (R269, R510) -/

/-- A stretch of `n` pages from an address of a space. -/
def pageRange (space va n : Nat) : Bool :=
  vaSpace va == space && vaMbz va && va % pageBytes == 0 && decide (1 ≤ n) && decide (vpnOf va + n ≤ 2 ^ 27)

def targetOk (t : Nat) : Bool := decide (t < 1024) || t == 0xFFFF

def checkQuotaSet (p : List Byte) : Option Nat :=
  if decide (fld p 16 2 < 1024) && fld p 18 2 == 0 && zeroBytes p 28 64 then none else some stMapInvalid

def checkMap (p : List Byte) : Option Nat :=
  let f := fld p 30 2
  if pageRange 0 (fld p 16 8) (fld p 24 4) && targetOk (fld p 28 2) && decide (f < 128) &&
      (f.testBit 1 || bits f 6 5 == 0) && zeroBytes p 32 64 then none
  else some stMapInvalid

def checkUnmap (p : List Byte) : Option Nat :=
  if pageRange 0 (fld p 16 8) (fld p 24 4) && targetOk (fld p 28 2) && zeroBytes p 30 64 then none else some stMapInvalid

def checkEvictStore (p : List Byte) : Option Nat :=
  if fld p 16 8 % 4096 == 0 && decide (fld p 24 4 ≤ 524288) && decide (fld p 16 8 + fld p 24 4 * pageBytes ≤ 2 ^ 64) &&
      zeroBytes p 28 64 then none
  else some stEvictStore

def checkHostMap (p : List Byte) : Option Nat :=
  if pageRange 1 (fld p 16 8) (fld p 32 4) && fld p 24 8 % 4096 == 0 &&
      decide (fld p 24 8 + fld p 32 4 * pageBytes ≤ 2 ^ 64) && targetOk (fld p 36 2) && decide (fld p 38 2 < 2) &&
      zeroBytes p 40 64 then none
  else some stMapInvalid

def checkHostUnmap (p : List Byte) : Option Nat :=
  if pageRange 1 (fld p 16 8) (fld p 32 4) && fld p 24 8 == 0 && targetOk (fld p 36 2) && zeroBytes p 38 64 then none
  else some stMapInvalid

def checkExport (p : List Byte) : Option Nat :=
  let base := fld p 16 8
  let size := fld p 24 8
  if vaSpace base == 0 && vaMbz base && base % pageBytes == 0 && size % pageBytes == 0 && decide (size ≤ 2 ^ 40) &&
      decide (base + size ≤ 2 ^ 48) && decide (fld p 32 4 < 2) && zeroBytes p 36 64 then none
  else some stExportInvalid

def checkStallRead (p : List Byte) : Option Nat :=
  if local64 (fld p 16 8) && vaMbz (fld p 16 8) && targetOk (fld p 24 2) && zeroBytes p 26 64 then none else some stMapInvalid

/-- TARGET resolved: only context 0 names another, and the context exists. -/
def State.onTarget (s : State) (q : CmdRef) (target : Nat) (f : Nat → State) : State :=
  let ctx := if target = 0xFFFF then q.ctx.val else target
  if ctx ≠ q.ctx.val ∧ q.ctx.val ≠ 0 then s.complete q stNotDriver 0 0
  else if !mhas s.host.ctxs ctx then s.complete q stCtxAbsent 0 0
  else f ctx

/-- A command looks at the entries of its pages: one that fails its complement is reported, once for a command (R10, R236). -/
def State.entriesMet (s : State) (q : CmdRef) (ctx : Nat) (ps : List Nat) : State :=
  if s.tier.episodes.any (fun e => e.unit == .cmd q) then s
  else
    ps.foldl (fun s p =>
      s.walkMet ctx (p * pageBytes)) s

/-! ### Quota and store commands -/

def execPoolQuotaSet (q : CmdRef) (s : State) : Host.Outcome State Fault Refusal :=
  .next (s.perform q 0x0100 (fun s t =>
    let ctx := t.par 16 2
    let reserve := t.par 20 4
    let limit := t.par 24 4
    let others := s.reservedSum - (s.quotaOf ctx).1
    if !mhas s.host.ctxs ctx then s.complete q stCtxAbsent 0 0
    else if limit < reserve || Config.poolFrames < others + reserve then (s.quotaMet ctx).complete q stPoolQuota 0 0
    else if reserve < s.pinned ctx then (s.quotaMet ctx).complete q stPoolPin 0 0
    else
      let s := s.quotaMet ctx
      let r := BitVec.ofNat 32 reserve
      let l := BitVec.ofNat 32 limit
      let s := s.setTier (fun t => { t with quota := mset t.quota ctx ⟨r, ~~~r, l, ~~~l⟩ })
      let excess := s.framesOf ctx - s.leaving ctx - limit
      let s := (State.evictSome true (fun s => s.ownVictim ctx (fun _ => true)) excess s).1
      s.complete q stOk (s.framesOf ctx) 0))

def execPoolEvictStore (q : CmdRef) (s : State) : Host.Outcome State Fault Refusal :=
  .next (s.perform q 0x0106 (fun s t =>
    if !s.tier.slots.isEmpty then s.complete q stEvictStore 0 0
    else
      (s.setTier (fun x => { x with store := some (t.par 16 8, t.par 24 4), storeFull := false })).complete q stOk 0 0))

/-! ### Map and unmap -/

/-- One page mapped into a frame: it reads as zero, and a PACK page decodes as zero (R245, R274). -/
def State.mapPage (s : State) (ctx vpn f flags : Nat) : State :=
  let s := (s.releasePage ctx vpn).freshL1 ctx vpn
  let lo := f * pageBytes
  let h := s.hbm.zero lo (lo + pageBytes)
  let h := if flags.testBit 4 then h.poke (metaAddr lo) (List.replicate 512 0x40) else h
  let v := mkPte f 0 (flags.testBit 4) (flags.testBit 3) (flags.testBit 2) (bits flags 1 1) (flags.testBit 0)
  ({ s with hbm := h }.setTier (fun t => { t with frames := mset t.frames f ⟨ctx, vpn, 0, false⟩ })).setEntry ctx vpn v

def State.mapPages (s : State) (ctx vpn flags : Nat) : List Nat → State
  | [] => s
  | f :: r => (s.mapPage ctx vpn f flags).mapPages ctx (vpn + 1) flags r

def pageList (va n : Nat) : List Nat := (List.range n).map (vpnOf va + ·)

def execMemMap (q : CmdRef) (s : State) : Host.Outcome State Fault Refusal :=
  .next (s.perform q 0x0101 (fun s t =>
    s.onTarget q (t.par 28 2) (fun ctx =>
      let n := t.par 24 4
      let flags := t.par 30 2
      let s := s.quotaMet ctx
      let corrupt := s.quotaCorrupt ctx
      let s := if corrupt then s else s.entriesMet q ctx (pageList (t.par 16 8) n)
      if corrupt then s.complete q stQuotaAbsent 0 0
      else if (pageList (t.par 16 8) n).any (fun p => (s.entry ctx p).isSome) then s.complete q stMapConflict 0 0
      else if flags.testBit 2 && decide ((s.quotaOf ctx).1 < s.pinned ctx + n) then s.complete q stPoolPin 0 0
      else
        let lost := (pageList (t.par 16 8) n).filter (fun p => mhas s.tier.ptes (pteKey ctx p))
        let r := (lost.foldl (fun s p => s.releasePage ctx p) s).getFrames ctx n (bits flags 1 1) (bits flags 6 5) false
        let refused := if lost.isEmpty then r.1 else s
        match r.2 with
        | .frames l => (r.1.mapPages ctx (vpnOf (t.par 16 8)) flags l).background.complete q stOk n 0
        | .wait => r.1.stallOn (.cmd q) ctx 3
        | .limit => refused.complete q stPoolLimit 0 0
        | .noFrame => refused.complete q stPoolNoFrame 0 0)))

/-- Pages of a stretch that are EVICTING or RETURNING. -/
def State.inTransit (s : State) (ctx : Nat) (ps : List Nat) : Bool :=
  ps.any (fun p => (s.entry ctx p).any (fun v => pteState v == 1 || pteState v == 3))

def execMemUnmap (q : CmdRef) (s : State) : Host.Outcome State Fault Refusal :=
  .next (s.perform q 0x0102 (fun s t =>
    s.onTarget q (t.par 28 2) (fun ctx =>
      let ps := pageList (t.par 16 8) (t.par 24 4)
      let s := s.entriesMet q ctx ps
      if ps.any (fun p => !mhas s.tier.ptes (pteKey ctx p) && !l1Corrupt s.tier.level1 ctx p) then
        s.complete q stMapConflict 0 0
      else if s.inTransit ctx ps then s.stallOn (.cmd q) ctx 3
      else
        (ps.foldl (fun s p => (s.releasePage ctx p).freshL1 ctx p) s).complete q stOk ps.length 0)))

/-! ### Pin, unpin, prefetch -/

/-- PIN set in the entries of a stretch, if the pinned pages stay within RESERVE. -/
def State.pinPages (s : State) (q : CmdRef) (ctx : Nat) (ps : List Nat) (returned : Nat) : State :=
  let more := (ps.filter (fun p => !(s.entry ctx p).any ptePin)).length
  if (s.quotaOf ctx).1 < s.pinned ctx + more then s.complete q stPoolPin 0 0
  else
    (ps.foldl (fun s p => s.setEntry ctx p (pinnedPte ((s.entry ctx p).getD 0) true)) s).complete q stOk returned 0

/-- A MEM_PIN or MEM_PREFETCH goes on: it completes once every page is RESIDENT; evicted ones are brought back. -/
def State.settlePages (s : State) (w : PageWait) : State :=
  let ps := (List.range w.count).map (w.page + ·)
  if ps.any (fun p => (s.entry w.ctx p).isNone) then
    (s.setTier (fun t => { t with pageWaits := t.pageWaits.filter (fun x => x.q != w.q) })).complete w.q stMapConflict 0 0
  else if ps.all (fun p => (s.entry w.ctx p).any (fun v => pteState v == 0)) then
    let s := s.setTier (fun t => { t with pageWaits := t.pageWaits.filter (fun x => x.q != w.q) })
    if w.pin then s.pinPages w.q w.ctx ps w.returned else s.complete w.q stOk w.returned 0
  else ps.foldl (fun s p => s.miss w.ctx 0 (p * pageBytes)) s

/-- MEM_PIN and MEM_PREFETCH. -/
def pageCommand (op : Nat) (pin : Bool) (q : CmdRef) (s : State) : State :=
  s.perform q op (fun s t =>
    s.onTarget q (t.par 28 2) (fun ctx =>
      let ps := pageList (t.par 16 8) (t.par 24 4)
      let s := (if pin then s.quotaMet ctx else s).entriesMet q ctx ps
      let more := (ps.filter (fun p => !(s.entry ctx p).any ptePin)).length
      if ps.any (fun p => (s.entry ctx p).isNone) then s.complete q stMapConflict 0 0
      else if pin && decide ((s.quotaOf ctx).1 < s.pinned ctx + more) then s.complete q stPoolPin 0 0
      else if s.inTransit ctx ps then s.stallOn (.cmd q) ctx 3
      else
        let out := (ps.filter (fun p => (s.entry ctx p).any (fun v => pteState v == 2))).length
        let w : PageWait := ⟨q, ctx, vpnOf (t.par 16 8), ps.length, pin, out⟩
        let s := s.setTier (fun t => { t with pageWaits := t.pageWaits ++ [w] })
        if out = 0 then s.settlePages w else ((s.startTaken q).stallOn (.cmd q) ctx 3).settlePages w))

def execMemPin (q : CmdRef) (s : State) : Host.Outcome State Fault Refusal := .next (pageCommand 0x0103 true q s)
def execMemPrefetch (q : CmdRef) (s : State) : Host.Outcome State Fault Refusal := .next (pageCommand 0x0105 false q s)

def execMemUnpin (q : CmdRef) (s : State) : Host.Outcome State Fault Refusal :=
  .next (s.perform q 0x0104 (fun s t =>
    s.onTarget q (t.par 28 2) (fun ctx =>
      let ps := pageList (t.par 16 8) (t.par 24 4)
      let s := s.entriesMet q ctx ps
      if ps.any (fun p => (s.entry ctx p).isNone) then s.complete q stMapConflict 0 0
      else if s.inTransit ctx ps then s.stallOn (.cmd q) ctx 3
      else
        (ps.foldl (fun s p => s.setEntry ctx p (pinnedPte ((s.entry ctx p).getD 0) false)) s).complete q stOk 0 0)))

/-! ### The host-tier map (R246) -/

def State.hostEntry (s : State) (ctx vpn : Nat) : Bool :=
  match walkL1 s.tier.hostL1 ctx vpn, mget s.tier.hostPtes (pteKey ctx vpn) with
  | .entry _, some p => p.ok && p.val.getLsbD 0
  | _, _ => false

def State.freshHostL1 (s : State) (ctx vpn : Nat) : State :=
  s.setTier (fun t =>
    let ptes :=
      if l1Corrupt t.hostL1 ctx vpn then
        t.hostPtes.filter (fun e => !(e.1 / 2 ^ 27 == ctx && e.1 % 2 ^ 27 / 8192 == vpn / 8192))
      else t.hostPtes
    { t with hostPtes := ptes, hostL1 := mset t.hostL1 (l1Key ctx vpn) (l1Valid ctx (vpn / 8192)) })

def execHostMap (q : CmdRef) (s : State) : Host.Outcome State Fault Refusal :=
  .next (s.perform q 0x0107 (fun s t =>
    s.onTarget q (t.par 36 2) (fun ctx =>
      let n := t.par 32 4
      let ps := pageList (t.par 16 8) n
      if ps.any (fun p => s.hostEntry ctx p) then s.complete q stMapConflict 0 0
      else
        let s := (List.range n).foldl (fun s i =>
          let p := vpnOf (t.par 16 8) + i
          let v := t.par 24 8 + i * pageBytes + (t.par 38 2) % 2 * 2 + 1
          (s.freshHostL1 ctx p).setTier (fun x => { x with hostPtes := mset x.hostPtes (pteKey ctx p) (Pair64.of v) })) s
        s.complete q stOk 0 0)))

/-- HOST_UNMAP completes once every read under the mapping has been answered and every write under it has been sent (R237). -/
def execHostUnmap (q : CmdRef) (s : State) : Host.Outcome State Fault Refusal :=
  .next (s.perform q 0x0108 (fun s t =>
    s.onTarget q (t.par 36 2) (fun ctx =>
      let va := t.par 16 8
      let n := t.par 32 4
      let ps := pageList va n
      let open_ := fun (r : Remote) => if r.write then !r.acked else r.data.isNone
      let reached := fun (r : Remote) => r.ctx == ctx && r.node.isNone && vaSpace r.va == 1 && open_ r &&
        decide (r.va < va + n * pageBytes) && decide (va < r.va + r.len)
      if ps.any (fun p => !mhas s.tier.hostPtes (pteKey ctx p) && !l1Corrupt s.tier.hostL1 ctx p) then
        s.complete q stMapConflict 0 0
      else if s.tier.remotes.any (fun r => reached r.2) then s.stallOn (.cmd q) ctx 1
      else
        let s := ps.foldl (fun s p =>
          (s.freshHostL1 ctx p).setTier (fun x => { x with hostPtes := mdel x.hostPtes (pteKey ctx p) })) s
        s.complete q stOk 0 0)))

/-! ### Peer windows and stall counts -/

def execPeerExport (q : CmdRef) (s : State) : Host.Outcome State Fault Refusal :=
  .next (s.perform q 0x0109 (fun s t =>
    let ctx := q.ctx.val
    let base := t.par 16 8
    let size := t.par 24 8
    let s := s.entriesMet q ctx (pageList base (size / pageBytes))
    if size = 0 then (s.setTier (fun x => { x with exports := mdel x.exports ctx })).complete q stOk 0 0
    else if (pageList base (size / pageBytes)).any (fun p => (s.entry ctx p).isNone) then s.complete q stExportInvalid 0 0
    else
      (s.setTier (fun x => { x with exports := mset x.exports ctx ⟨base, size, (t.par 32 4).testBit 0⟩ })).complete q stOk 0 0))

/-- The 160 bytes that STALL_READ writes. -/
def State.stallBytes (s : State) (ctx : Nat) : List Byte :=
  (List.range 9).flatMap (fun c =>
    let p := mgetD s.tier.stalls (ctx * 16 + c) (0, 0)
    leBytes 8 p.1 ++ leBytes 8 p.2) ++ leBytes 8 (mgetD s.tier.late ctx 0) ++ List.replicate 8 0

def execStallRead (q : CmdRef) (s : State) : Host.Outcome State Fault Refusal :=
  .next (s.perform q 0x010A (fun s t =>
    s.onTarget q (t.par 24 2) (fun ctx =>
      s.cmdOutcome q stMapInvalid (s.writeVa q.ctx.val (t.par 16 8) (s.stallBytes ctx) (.other false) 0)
        (fun s _ => s.complete q stOk 160 0))))

/-! ### Ages (R241) -/

def execAgingTick (s : State) : Host.Outcome State Fault Refusal :=
  .next (
    if !s.alive || decide (s.local_ < s.tier.lastAging + s.agingNs) then s
    else
      let old := fun (x : Nat × Frame) =>
        if (s.entry x.2.ctx x.2.page).any (fun v => pteState v == 0) then
          (x.1, { x.2 with age := if x.2.touched then 0 else min 255 (x.2.age + 1), touched := false })
        else x
      s.setTier (fun t => { t with frames := t.frames.map old, lastAging := s.local_ }))

/-! ### The end of an eviction (R243) -/

/-- Pack metadata travels with its page (R273). -/
def HbmSt.copyMeta (h : HbmSt) (src dst : Nat) : HbmSt := (h.readLines src 512 true).writeLines dst (h.peek src 512)

/-- What stands in the way of the metadata of a PACK page: its stacks, or a damaged line. -/
inductive MetaGot where
  | ready
  | waits
  | damaged (line : Nat)
  deriving DecidableEq, Repr

def HbmSt.metaGot (h : HbmSt) (pack : Bool) (src dst : Nat) : MetaGot :=
  if !pack then .ready
  else if !h.stacksReady [(src, 512), (dst, 512)] then .waits
  else
    match h.damagedIn src 512 with
    | some line => .damaged line
    | none => .ready

/-- R243 step 5: the page is EVICTED, its pack metadata stands with the slot, the frame is free. -/
def State.endEvict (s : State) (e : Eviction) : State :=
  let age := ((mget s.tier.frames e.frame).map (·.age)).getD 0
  let s :=
    match s.entry e.ctx e.page with
    | some v =>
      let s := s.setEntry e.ctx e.page (movedPte v e.slot 2)
      if ptePack v then { s with hbm := s.hbm.copyMeta (metaAddr (e.frame * pageBytes)) (slotMetaAddr e.slot) } else s
    | none => s
  let s := s.setTier (fun t => { t with
    frames := mdel t.frames e.frame, evictions := t.evictions.filter (fun x => x.frame != e.frame)
    evicted := wrapAdd 32 t.evicted 1 })
  s.raise 0x0402 (srcWalker e.ctx) (some e.ctx) [e.ctx, e.page * pageBytes, age, e.slot]

/-- The confirming read has its answer, or has to be made again. The metadata of a PACK page waits for its stacks. -/
def execEvictionComplete (frame : Nat) (confirmed : Bool) (s : State) : Host.Outcome State Fault Refusal :=
  .next (
    match (if s.hostUp then s.tier.evictions.find? (fun e => e.frame == frame) else none) with
    | none => s
    | some e =>
      if !e.sent then s
      else if !confirmed then if s.hbm.frameReady frame then s.sendEviction e else s
      else
        match s.hbm.metaGot ((s.entry e.ctx e.page).any ptePack) (metaAddr (frame * pageBytes)) (slotMetaAddr e.slot) with
        | .waits => s
        | .damaged line => s.unitUnread line 0
        | .ready => s.endEvict e)

/-! ### Returns (R244) -/

def State.setReturn (s : State) (r : Return) : State :=
  s.setTier (fun t => { t with returns := replaceFirst (fun x => x.ctx == r.ctx && x.page == r.page) (fun _ => r) t.returns })

/-- The place of a return in the order of R244: earliest deadline among its waiters, then first touch. -/
def Return.before (a b : Return) : Bool :=
  let key := fun (r : Return) => if r.deadline = 0 then 2 ^ 64 else r.deadline
  decide (key a < key b) || (key a == key b && decide (a.since < b.since))

/-- Mode and die that a page's frame must have. -/
def State.returnKind (s : State) (r : Return) : Nat × Nat :=
  (pteMode ((s.entry r.ctx r.page).getD 0), ((mget s.tier.slots r.slot).map (·.die)).getD 0)

/-- The read of a page's slot leaves for the host. -/
def State.readSlot (s : State) (r : Return) : State :=
  let id := s.tier.nextRemote
  let s := (s.setTier (fun t => { t with nextRemote := id + 1 })).setReturn { r with read := id }
  s.toHost (.read id (s.slotIova r.slot) pageBytes)

/-- A return that could start at once. -/
def State.couldStart (s : State) (r : Return) : Bool :=
  let k := s.returnKind r
  r.frame.isNone && decide (s.framesOf r.ctx < (s.quotaOf r.ctx).2) &&
    !(s.promisedFree r.ctx (s.hbm.fits k.1 k.2) ++ s.freeFitting k.1 k.2 1).isEmpty

def execPageReturnStart (c : Ctx) (page : Nat) (s : State) : Host.Outcome State Fault Refusal :=
  .next (
    match (if s.alive then s.tier.returns.find? (fun r => r.ctx == c.val && r.page == page) else none) with
    | none => s
    | some r =>
      match s.entry c.val page with
      | none => s.setTier (fun t => { t with returns := t.returns.filter (fun x => !(x.ctx == c.val && x.page == page)) })
      | some v =>
        if r.frame.isSome || s.tier.returns.any (fun x => x.before r && s.couldStart x) then s
        else
          let k := s.returnKind r
          let s := if r.met then s else (s.quotaMet c.val).setReturn { r with met := s.quotaCorrupt c.val }
          let r := { r with met := s.quotaCorrupt c.val }
          let g := s.getFrames c.val 1 k.1 k.2 true
          match g.2 with
          | .frames (f :: _) =>
            let s := g.1.setEntry c.val page (movedPte v r.slot 3)
            let s := s.setTier (fun t => { t with frames := mset t.frames f ⟨c.val, page, 0, false⟩ })
            (s.readSlot { r with frame := some f }).background
          | _ => g.1)

/-- The end of a return: the page is RESIDENT, its slot is free, those that waited for it go on. -/
def State.endReturn (s : State) (r : Return) : State :=
  let f := r.frame.getD 0
  let s :=
    match s.entry r.ctx r.page with
    | some v =>
      let s := s.setEntry r.ctx r.page (movedPte v f 0)
      if ptePack v then { s with hbm := s.hbm.copyMeta (slotMetaAddr r.slot) (metaAddr (f * pageBytes)) } else s
    | none => s
  let s := s.setTier (fun t => { t with
    slots := mdel t.slots r.slot, storeFull := false, returned := wrapAdd 32 t.returned 1
    returns := t.returns.filter (fun x => !(x.ctx == r.ctx && x.page == r.page)) })
  let s := s.raise 0x0403 (srcWalker r.ctx) (some r.ctx) [r.ctx, r.page * pageBytes, r.slot, s.local_ - r.since]
  s.tier.pageWaits.foldl (fun s w => s.settlePages w) s

/-- The metadata of a PACK page waits for its stacks. -/
def execPageReturnComplete (c : Ctx) (page : Nat) (s : State) : Host.Outcome State Fault Refusal :=
  .next (
    match (if s.alive then s.tier.returns.find? (fun r => r.ctx == c.val && r.page == page && r.filled) else none) with
    | none => s
    | some r =>
      match s.hbm.metaGot ((s.entry c.val page).any ptePack) (slotMetaAddr r.slot) (metaAddr (r.frame.getD 0 * pageBytes)) with
      | .waits => s
      | .damaged line => s.unitUnread line 0
      | .ready => s.endReturn r)

/-! ### Host reads (R247) -/

/-- The bytes of an answer: those that are not listed are 0. -/
def answerBytes (cells : List (Nat × Byte)) (n : Nat) : List Byte :=
  (List.range n).map (fun j => ((cells.find? (fun c => c.1 == j)).map (·.2)).getD 0)

/-- A read of a slot that failed: repeated once; then the page stays EVICTED and its context is reset (R244). -/
def State.returnFailed (s : State) (r : Return) : State :=
  if r.attempts = 0 then s.readSlot { r with attempts := 1 }
  else
    let s :=
      match s.entry r.ctx r.page with
      | some v => s.setEntry r.ctx r.page (movedPte v r.slot 2)
      | none => s
    let s := s.setTier (fun t => { t with
      frames := mdel t.frames (r.frame.getD 0), returns := t.returns.filter (fun x => !(x.ctx == r.ctx && x.page == r.page)) })
    (s.raise 0x0407 srcPcie (some r.ctx) [r.ctx, r.slot, s.slotIova r.slot, 2]).startL0 r.ctx 10

/-- The data of a return put into its frame in full lines, as soon as the frame's stacks accept writes. -/
def State.fillReturn (s : State) (r : Return) : State :=
  match (if s.hbm.frameReady (r.frame.getD 0) then r.held else none) with
  | none => s
  | some cells =>
    let lo := (r.frame.getD 0) * pageBytes
    let h := (s.hbm.zero lo (lo + pageBytes)).useFrame (r.frame.getD 0) true
    let mem := memPaste h.mem lo (cells.filter (fun c => decide (c.1 < pageBytes)))
    ({ s with hbm := { h with mem := mem } }).setReturn { r with held := none, filled := true }

/-- The returns that waited for a stack go on. -/
def State.fillReturns (s : State) : State :=
  (s.tier.returns.filter (fun r => r.held.isSome)).foldl (fun s r => s.fillReturn r) s

def execHostReadCompletion (id : Nat) (data : Option (List (Nat × Byte))) (s : State) : Host.Outcome State Fault Refusal :=
  .next (
    if !s.hostUp then s
    else
      match mget s.tier.remotes id with
      | some r =>
        if r.write || r.node.isSome || r.data.isSome then s
        else
          match data with
          | some cells =>
            s.setTier (fun t => { t with remotes := mset t.remotes id { r with data := some (answerBytes cells r.len) } })
          | none =>
            let iova := (hostLookup s r.ctx r.va false).getD 0
            let s := s.setTier (fun t => { t with remotes := mdel t.remotes id })
            (s.raise 0x0407 srcPcie (some r.ctx) [r.ctx, r.va, iova, 1]).startL0 r.ctx 10
      | none =>
        match s.tier.returns.find? (fun r => r.read == id && r.frame.isSome && !r.filled && r.held.isNone) with
        | none => s
        | some r =>
          match data with
          | none => s.returnFailed r
          | some cells => (s.setReturn { r with held := some cells }).fillReturn { r with held := some cells })

end Sys2Proof.Machine
end

