-- ==== Sys2Proof/Machine/Clock.lean ====
section
/-! DEFINITION. The passing of time (02_fabric_time.md R26, R28): one nanosecond of the local oscillator. -/

namespace Sys2Proof.Machine

/-- The correction that one nanosecond of the local count carries: at most ±100 ppm (R33), in 2^-32 ns. -/
def slewStep (slew : Int) : Int := max (-429496) (min 429496 slew)

/-- The rate at which fabric time runs beside the local count: the nominal one while UNSET, the last estimate otherwise (R27). -/
def TimeSt.runRate (t : TimeSt) : Int := if t.state = .unset then 0 else t.rate

/-- What waits for the stacks goes on as they allow: the training of stacks in self-refresh, records for rings, evictions, returns;
and reads that failed are reported (R196, R208, R224). -/
def State.stacksGoOn (s : State) : State := ((((s.beginTraining).flushRings).reportReads).pushEvictions).fillReturns

/-- One nanosecond: the local count advances by one, fabric time by its rate and the correction under way (log entry 9), the
arithmetic clock by its point in force unless the package rests (R142; log entry 111); a pulse on TIME_PPS_OUT ends (R37); the
ports send what they can. -/
def State.tick (s : State) : State :=
  if s.alive then
    let d := slewStep s.time.slew
    let total := ((s.time.frac : Int) + 2 ^ 32 + s.time.runRate + d).toNat
    let out := s.time.ppsOutUntil.filter (fun t => decide (s.time.localNs + 1 < t))
    let s := { s with time := { s.time with
      localNs := s.time.localNs + 1, ns := (s.time.ns + total / 2 ^ 32) % 2 ^ 64, frac := total % 2 ^ 32
      slew := s.time.slew - d, ppsOutUntil := out } }
    let s := if s.cur.power = .rest then s else { s with cur := { s.cur with clock := s.cur.clock + s.mhz } }
    s.stacksGoOn.pumpAll
  else s

end Sys2Proof.Machine
end

