-- ==== Sys2Proof/Machine/SelfTest.lean ====
section
/-! DEFINITION. Self-test, the repair map and rotation test (15_recovery_and_test.md R451 to R464, R466). -/

namespace Sys2Proof.Machine

def stTestRefused : Nat := 0x0722
def stFuseNotArmed : Nat := 0x0724
def stFuseFull : Nat := 0x0725

def State.setTest (s : State) (f : TestSt → TestSt) : State := s.setRst (fun r => { r with test := f r.test })

/-! ### The repair map (R460, R461) -/

def State.fusedCores (s : State) (c : Nat) : List Nat := mgetD s.rst.repair.fused c []

/-- FENCED as the fuses alone give it; the aside core of each cluster is the highest core that is spare (log entry 31). -/
def State.mapFromFuses (s : State) : State :=
  let s := s.setRepair (fun r => { r with
    fenced := r.fused.foldl (fun m e => e.2.foldl (fun m p => mset m (coreKey e.1 p) [0]) m) [], aside := [], out := [], coreMap := []
    fencedC := [], fusedC := [], absent := [], given := [] })
  (List.range Config.clusters).foldl (fun s c =>
    if 4 ≤ (s.fencedCores c).length then s
    else
      match (s.spares c).getLast? with
      | some p => s.setRepair (fun r => { r with aside := mset r.aside c p })
      | none => s) s

/-- A result that found a failure. -/
def bistFails (x : BistResult) : Bool :=
  match x.verdict with
  | .failed _ _ => true
  | _ => false

/-- One core's result: an engine of the core is fenced; a failing stream engine or buffer bank puts the cluster out. -/
def State.applyCore (s : State) (how : Nat) (x : CoreBist) : State :=
  match x.result.verdict with
  | .failed e sig =>
    if e.val < 3 then s.fence x.cluster.val x.core.val e.val sig how else s.outOfService x.cluster.val
  | _ => s

/-! ### The test token (R456) -/

/-- The token passed on, by a pulse. -/
def State.passToken (s : State) : State :=
  if s.rst.test.token then s.setTest (fun t => { t with token := false, pulses := t.pulses + 1 }) else s

/-- A token that arrives is kept while a heavy phase waits for it, and passed on otherwise. -/
def State.takeToken (s : State) : State :=
  let s := s.setTest (fun t => { t with token := true, tokenSeen := s.local_ })
  if s.rst.test.heavy then s else s.passToken

/-- The Curator's supply is there: the chain works while VDD_AON is up. -/
def execTestTokenPulse (s : State) : Host.Outcome State Fault Refusal := .next (if s.alive then s.takeToken else s)

def execTokenRegenTimeout (s : State) : Host.Outcome State Fault Refusal :=
  .next (
    let t := s.rst.test
    if !s.alive || s.guy.slot != 0 || !t.heavy || t.token || decide (s.local_ < max t.tokenSeen t.heavySince + 2000000000) then s
    else
      let gone := s.local_ - t.tokenSeen
      let s := s.setTest (fun t => { t with token := true, tokenSeen := s.local_ })
      s.raise 0x0D09 srcRst none [s.guy.slot, gone, 0, 0])

/-! ### Phases (R454, R457) -/

/-- A phase begins, or begins again after a refusal. Phase 4 builds the repair map from what phase 3 found. -/
def State.beginPhase (s : State) (n : Nat) (heavy : Bool) : State :=
  s.setTest (fun t => { t with
    phase := n, batch := 0, refusedAt := none, found := if n = 4 then t.found else []
    departures := s.cur.departures, heavy := heavy, heavySince := s.local_ })

/-- Cold BIST begins (R457). -/
def State.startColdBist (s : State) : State :=
  let s := s.setTest (fun t => { t with since := s.local_, refusals := 0, tested := 0, failed := 0 })
  (s.toPhase .coldBist).beginPhase 1 false

/-- HBM training follows cold BIST. -/
def State.startTraining (s : State) : State :=
  (((s.setTest (fun t => { t with phase := 0, heavy := false, found := [], refusedAt := none })).toPhase .hbmTraining).toSelfRefresh
    (List.range 16)).beginTraining

/-- A boot that cannot reach ready (R481): no power cycle is asked for. -/
def State.bootFailed (s : State) : State :=
  ((s.setTest (fun t => { t with phase := 0, heavy := false })).setRst (fun r => { r with ready := false, fault := true })).toPhase
    .notReady

/-- A phase refused or abandoned: EV_TEST_REFUSED. A TEST_RUN completes; cold BIST waits for its retry, and is given up at the
third refusal, with the fused repair map alone. -/
def State.refuseTest (s : State) (cause vdd ppm : Nat) : State :=
  let s := s.setTest (fun t => { t with
    lastRefusal := cause, found := if t.phase = 4 then t.found else [], heavy := false })
  let s := s.raise 0x0D02 srcRst none [cause, s.rst.test.phase, vdd, ppm]
  match s.rst.test.run with
  | some r => (s.setTest (fun t => { t with run := none, phase := 0 })).complete r.q stTestRefused 0 0
  | none =>
    let n := s.rst.test.refusals + 1
    let s := s.setTest (fun t => { t with refusals := n })
    if 3 ≤ n then s.startTraining else s.setTest (fun t => { t with refusedAt := some s.local_ })

/-- The conditions of a test phase: the median of VDD_CORE, the clocks, departures since the phase began. -/
def execTestConditionCheck (x : TestConditions) (s : State) : Host.Outcome State Fault Refusal :=
  .next (
    let t := s.rst.test
    if !s.alive || t.phase == 0 || t.refusedAt.isSome then s
    else if x.vddMv < 720 || 780 < x.vddMv then s.refuseTest 1 x.vddMv x.clockPpm
    else if (if s.time.state = .locked then 100 else 200) < x.clockPpm then s.refuseTest 2 x.vddMv x.clockPpm
    else if t.departures ≠ s.cur.departures then s.refuseTest 3 x.vddMv x.clockPpm
    else s)

def execColdBistRetry (s : State) : Host.Outcome State Fault Refusal :=
  .next (
    match (if s.alive then s.rst.test.refusedAt else none) with
    | some t => if s.local_ < t + 1000000000 then s else s.beginPhase s.rst.test.phase (s.rst.test.phase == 3)
    | none => s)

/-! ### Analogue checks (R453) -/

/-- A failed check: EV_ANALOGUE_FAIL, and what it leaves out. Lanes 0 to 47 are those of the ports in order, the others those
of PCI Express, one of which out of training leaves the link narrower (log entry 56). -/
def State.analogueFail (s : State) (a : AnalogueFail) : State :=
  let s := s.raise 0x0D0A srcRst none [a.check.val, a.index, a.value, a.limit]
  match a.check.val with
  | 3 =>
    if a.index < 48 then s.setPort (a.index / 4) { s.port (a.index / 4) with state := .disabled }
    else { s with host := { s.host with link := { s.host.link with laneOut := true } } }
  | 4 => if a.index < 48 then s.setPort (a.index / 4) { s.port (a.index / 4) with state := .disabled } else s
  | 6 => if (s.sensor a.index).failed = 0 then s.failSensor a.index ((s.sensor a.index).last.headD 0) 2 else s
  | 7 => { s with cur := { s.cur with
      monitorsOut := if s.cur.monitorsOut.contains a.index then s.cur.monitorsOut else a.index :: s.cur.monitorsOut } }
  | _ => s

/-! ### Batches of clusters (R455) -/

/-- The clusters of batch `b` of cold BIST: eight of each die. -/
def coldBatch (b : Nat) : List Nat := (List.range Config.clusters).filter (fun c => c % 80 / 8 == b)

/-- The next batch of a TEST_RUN: at most eight of each die. -/
def runBatch (left : List Nat) : List Nat :=
  [0, 1, 2, 3].flatMap (fun d => (left.filter (fun c => c / 80 == d)).take 8)

/-- The contents of a tested cluster's buffer are gone: free values. -/
def State.spoilBuffer (s : State) (c : Nat) : State :=
  let cl := s.cluster c
  { (s.setCluster c { cl with
      buf := memWrite [] 0 ((List.range bufferBytes).map (Config.freeByte s.freeCtr)), hidden := [], cores := [], pools := [] }) with
    freeCtr := s.freeCtr + 1 }

/-- The map entries of tested clusters made anew from the fuses and the results (R458; log entry 93). -/
def State.replaceEntries (s : State) (set_ : List Nat) (found : List CoreBist) : State :=
  let s := s.setRepair (fun r => { r with
    fenced := r.fenced.filter (fun e => !set_.contains (e.1 / 128) || (mgetD r.fused (e.1 / 128) []).contains (e.1 % 128))
    out := r.out.filter (fun c => !set_.contains c), absent := r.absent.filter (fun c => !set_.contains c)
    fencedC := r.fencedC.filter (fun e => !set_.contains e.1), fusedC := r.fusedC.filter (fun e => !set_.contains e.1)
    given := r.given.filter (fun g => !set_.contains g.1) })
  let s := found.foldl (fun s x => s.applyCore 3 x) s
  set_.foldl (fun s c =>
    let s :=
      if (s.aside c).isSome || decide (4 ≤ (s.fencedCores c).length) then s
      else
        match (s.spares c).getLast? with
        | some p => s.setRepair (fun r => { r with aside := mset r.aside c p })
        | none => s
    let cl := s.cluster c
    (if cl.state = .outOfService && !s.clusterOut c then s.setCluster c { cl with state := .idle, idleSince := s.local_ }
    else s).showOut c) s

/-- A TEST_RUN of clusters has tested them all. -/
def State.endClusterRun (s : State) (r : TestRun) : State :=
  let set_ := (((s.findTaken r.q).map (fun t => clusterSet t.packet 24)).getD [])
  let found := s.rst.test.found
  let bad := found.filter (fun x => bistFails x.result)
  let engines := bad.filter (fun x => match x.result.verdict with
    | .failed e _ => decide (e.val < 3)
    | _ => false)
  let s := s.replaceEntries set_ found
  let s := set_.foldl (fun s c => s.spoilBuffer c) s
  (s.setTest (fun t => { t with heavy := false, found := [] })).endTestRun
    { r with tested := found.length, failed := bad.length, fenced := engines.length }

/-- A batch ends with its heavy phase, for which the token is held; the token is passed on. Fused cores are not tested. -/
def execBistBatchComplete (x : List CoreBist) (s : State) : Host.Outcome State Fault Refusal :=
  .next (
    let t := s.rst.test
    if !s.alive || !t.heavy || !t.token then s
    else
      let batch := match t.run with
        | some r => runBatch r.left
        | none => coldBatch t.batch
      let mine := x.filter (fun y => batch.contains y.cluster.val && !(s.fusedCores y.cluster.val).contains y.core.val)
      let s := mine.foldl (fun s y =>
        let s := s.rowsFixed (srcCluster y.cluster.val) y.result.rows
        match y.result.verdict with
        | .romCorrupt w => s.romCorrupt (srcCluster y.cluster.val) 1 w
        | _ => s) s
      let s := (s.setTest (fun t => { t with found := t.found ++ mine })).passToken
      match t.run with
      | some r =>
        let left := r.left.filter (fun c => !batch.contains c)
        let r := { r with left := left }
        if left.isEmpty then s.endClusterRun r
        else s.setTest (fun t => { t with run := some r, heavySince := s.local_ })
      | none =>
        s.setTest (fun t => { t with batch := t.batch + 1, heavy := decide (t.batch + 1 < 10), heavySince := s.local_ }))

/-! ### The end of a phase (R457) -/

/-- EV_TEST_DONE of cold BIST (log entry 93). -/
def State.coldDone (s : State) : State :=
  let t := s.rst.test
  s.raise 0x0D01 srcRst none [1, t.tested, t.failed, s.local_ - t.since]

def State.countTests (s : State) (tested failed : Nat) : State :=
  s.setTest (fun t => { t with tested := t.tested + tested, failed := t.failed + failed })

/-- A cluster whose four cores were lost to its fuses: its rotation is halted from the start. -/
def State.haltedByFuses (s : State) (c : Nat) : State :=
  if (s.fusedCores c).length = 4 && (s.fencedCores c).length == 4 then s.raise 0x0D06 srcRst none [c, 4, 0, 0] else s

def execColdBistPhaseComplete (x : PhaseResult) (s : State) : Host.Outcome State Fault Refusal :=
  .next (
    let t := s.rst.test
    if !s.alive || t.refusedAt.isSome then s
    else
      match t.phase with
      | 1 =>
        let s := s.countTests x.tested x.failedUnits.length
        if x.failedUnits.isEmpty then s.beginPhase 2 false else s.coldDone.bootFailed
      | 2 =>
        let s := (x.analogue.foldl State.analogueFail s).countTests x.tested x.analogue.length
        if x.analogue.any (fun a => a.check.val == 1 || a.check.val == 2) then s.coldDone.bootFailed else s.beginPhase 3 true
      | 3 =>
        if t.batch < 10 then s
        else (s.countTests t.found.length (t.found.filter (fun y => bistFails y.result)).length).beginPhase 4 false
      | 4 =>
        let s := t.found.foldl (fun s y => s.applyCore 2 y) s
        ((List.range Config.clusters).foldl State.haltedByFuses s).coldDone.startTraining
      | 5 =>
        match t.run with
        | some r =>
          if r.scope ≠ 3 then s
          else
            let lanes := x.analogue.filter (fun a => a.check.val == 3 || a.check.val == 4)
            (lanes.foldl State.analogueFail s).endTestRun { r with tested := x.tested, failed := lanes.length }
        | none => s
      | _ => s)

/-! ### TEST_RUN, REPAIR_MAP_READ, REPAIR_FUSE (R458, R462, R466) -/

/-- Units of the hub that a TEST_RUN names: those that L1 resets, clusters apart. -/
def hubTested (src : Nat) : Bool :=
  match unitOfSource src with
  | some (.cluster _) => false
  | some u => unitHasL1 u
  | none => false

def checkTestRun (p : List Byte) : Option Nat :=
  let scope := fld p 16 1
  if decide (1 ≤ scope) && decide (scope ≤ 3) && fld p 17 1 == 0 && decide (fld p 20 2 < 4096) && fld p 22 2 == 0 &&
      (scope != 2 || hubTested (fld p 18 2)) then none
  else some stRstInvalid
def checkRepairMap (p : List Byte) : Option Nat :=
  if local64 (fld p 16 8) && vaMbz (fld p 16 8) && zeroBytes p 24 64 then none else some stRstInvalid
def checkRepairFuse (p : List Byte) : Option Nat := if zeroBytes p 16 24 then none else some stRstInvalid

def execTestRun (q : CmdRef) (s : State) : Host.Outcome State Fault Refusal :=
  .next (s.perform q 0x0740 (fun s t =>
    let scope := t.par 16 1
    let set_ := clusterSet t.packet 24
    let start := fun (s : State) (left : List Nat) (heavy : Bool) =>
      let s := (s.startTaken q).setTest (fun x => { x with
        since := s.local_, run := some ⟨q, scope, t.par 18 2, t.par 20 2, left, 0, 0, 0⟩ })
      s.beginPhase 5 heavy
    if s.resetBusy then s.complete q stRstBusy 0 0
    else if scope = 1 then
      if set_.any (fun c => (s.cluster c).holder != some 0) then s.complete q stClusterNotHeld 0 0
      else if set_.any (fun c => let st := (s.cluster c).state; st != .idle && st != .gated && st != .outOfService) then
        let s := s.setTest (fun x => { x with lastRefusal := 4 })
        (s.raise 0x0D02 srcRst none [4, 5, 0, 0]).complete q stTestRefused 0 0
      else if set_.isEmpty then s.complete q stOk 0 0
      else start s set_ true
    else if scope = 2 then
      match unitOfSource (t.par 18 2) with
      | none => s.complete q stRstInvalid 0 0
      | some u =>
        let own := (s.commandsOn u).filter (fun x => x.ctx.val == 0 && x != q)
        let s := own.foldl (fun s x => (s.dropWork x).endReset x) s
        (start s [] false).startL1 (L1Key.of u 0xFF 0xFF) 2 [0] []
    else start s [] false))

/-- A set of cores as the 16 bytes of a map entry's mask, and the mask's complement after it, with the bits that are wrong in
it. -/
def maskBytes (l : List Nat) (wrong : W128) : List Byte :=
  let m := (l.eraseDups.map (fun p => 2 ^ p)).sum
  leBytes 16 m ++ leBytes 16 (BitVec.ofNat 128 (2 ^ 128 - 1 - m) ^^^ wrong).toNat

/-- The repair map: an entry of 64 B for each cluster (R461). -/
def State.repairMap (s : State) : List Byte :=
  (List.range Config.clusters).flatMap (fun c =>
    maskBytes (s.fencedCores c) (mgetD s.rst.repair.fencedC c 0) ++ maskBytes (s.fusedCores c) (mgetD s.rst.repair.fusedC c 0))

def execRepairMapRead (q : CmdRef) (s : State) : Host.Outcome State Fault Refusal :=
  .next (s.perform q 0x0741 (fun s t =>
    s.cmdOutcome q stRstInvalid (s.writeVa q.ctx.val (t.par 16 8) s.repairMap (.other false) 0)
      (fun s _ => s.complete q stOk 20480 0)))

/-- FENCED of a cluster burnt into its fuses: EV_REPAIR_FUSED. -/
def State.burnCluster (s : State) (c : Nat) : State :=
  let l := s.fencedCores c
  if l.length = (s.fusedCores c).length then s
  else
    let m := (l.map (fun p => 2 ^ p)).sum
    (s.setRepair (fun r => { r with fused := mset r.fused c l })).raise 0x0D04 srcRst none
      [c, m % 2 ^ 64, m / 2 ^ 64, 4 - l.length]

def execRepairFuse (q : CmdRef) (s : State) : Host.Outcome State Fault Refusal :=
  .next (s.perform q 0x0742 (fun s t =>
    let armed : Bool := s.reg rFuseArm == (rwpPair 0x46555345).toNat
    let s : State := { s with regs := mdel s.regs rFuseArm }
    let set_ : List Nat := clusterSet t.packet 24
    let s := set_.foldl State.mapMet s
    let set_ := set_.filter (fun c => !s.rst.repair.absent.contains c)
    let new : Nat → Nat := fun c => (s.fencedCores c).length - (s.fusedCores c).length
    if !armed then s.complete q stFuseNotArmed 0 0
    else if set_.any (fun c => new c != 0 && decide (4 < (s.fencedCores c).length)) then s.complete q stFuseFull 0 0
    else (set_.foldl State.burnCluster s).complete q stOk (set_.map new).sum 0))

/-! ### Rotation test (R463, R464) -/

/-- An idle cluster swaps at once when its interval has passed. -/
def execRotationInterval (c : ClusterNo) (s : State) : Host.Outcome State Fault Refusal :=
  .next (
    let st := (s.cluster c.val).state
    if s.alive && s.rst.ready && (st == .idle || st == .gated) then s.rotateSwap c.val else s)

/-- A sweep ends when the pointer of every cluster that rotates has gone once round: EV_ROTATION_SWEEP. -/
def State.endSweep (s : State) : State :=
  let all := (List.range Config.clusters).filter (fun c => (s.aside c).isSome && !s.clusterOut c)
  if all.isEmpty || !all.all (fun c => s.rst.rotate.round.contains c) then s
  else
    let r := s.rst.rotate
    let n := wrapAdd 16 r.sweeps 1
    let s := s.setRotate (fun r => { r with sweeps := n, round := [], since := s.local_, sweepFailed := 0 })
    s.raise 0x0D05 srcRst none [n, r.sweepFailed, s.local_ - r.since, 0]

/-- The test of the core aside ends: its result counts unless a departure or a monitor's failure came meanwhile, or the expected
value was corrupt; then the same core is tested again. -/
def execRotationTestComplete (c : ClusterNo) (x : BistResult) (s : State) : Host.Outcome State Fault Refusal :=
  .next (
    match (if s.alive then mget s.rst.rotate.testing c.val else none) with
    | none => s
    | some mark =>
      let src := srcCluster c.val
      let s := s.rowsFixed src x.rows
      let again := s.setRotate (fun r => { r with
        testing := mset r.testing c.val (s.cur.departures, s.cur.monitorsOut.length) })
      if mark ≠ (s.cur.departures, s.cur.monitorsOut.length) then again
      else
        let began := mgetD s.rst.rotate.lastSwap c.val 0
        let excess := fun (s : State) (failed : Nat) =>
          (s.raise 0x0D01 srcRst none [3, 1, failed, s.local_ - began]).endSweep
        let s := s.setRotate (fun r => { r with testing := mdel r.testing c.val })
        let s := match s.aside c.val with
          | some p => s.tested c.val p
          | none => s
        match x.verdict with
        | .romCorrupt w => again.romCorrupt src 1 w
        | .passed => excess (s.setRotate (fun r => { r with passed := wrapAdd 32 r.passed 1 })) 0
        | .failed e sig =>
          let s := s.setRotate (fun r => { r with failed := satAdd 16 r.failed 1, sweepFailed := r.sweepFailed + 1 })
          let s :=
            if 3 ≤ e.val then s.outOfService c.val
            else
              match s.aside c.val with
              | some p => s.fence c.val p e.val sig 4
              | none => s
          excess s 1)

end Sys2Proof.Machine
end

