-- ==== Sys2Proof/Machine/Boot.lean ====
section
/-! DEFINITION. Power, boot, staging and commit (16_boot_and_identity.md R469 to R481, R486; 17_pins_and_power.md R499) and the end
of stack training (07_hbm.md R196, R197, R213). -/

namespace Sys2Proof.Machine

def stFwRefused : Nat := 0x0770
def stCfgBusy : Nat := 0x0772
def stStageInvalid : Nat := 0x0773

def State.setBoard (s : State) (f : BoardSt → BoardSt) : State := { s with board := f s.board }

/-! ### Power (R434, R499) -/

/-- What a power cycle leaves: the fuses, the Curator's anti-rollback counter, the command queue and the model's own
counter (log entry 11). -/
def State.powerCycled (s : State) : State :=
  { State.reset with
    pending := s.pending, freeCtr := s.freeCtr
    board := { BoardSt.reset with
      rollback := s.board.rollback, keySlots := s.board.keySlots, patchFloor := s.board.patchFloor }
    hbm := { HbmSt.reset with
      stackList := (s.hbm.stackList.filter (fun k => !k.2.hardUsed.isEmpty)).map (fun k => (k.1, { Stack.reset with hardUsed := k.2.hardUsed })) }
    rst := { RstSt.reset with repair := { RepairSt.reset with fused := s.rst.repair.fused } } }

/-- Power good: the Curator boots from ROM, reads the straps and looks for its patch; the hub boots from its ROM. Slot 0 holds
the test token, and passes it on since no heavy phase waits (log entry 99). -/
def execPwrGoodRise (straps : BitVec 3) (patch : PatchFound) (s : State) : Host.Outcome State Fault Refusal :=
  .next (
    if s.board.pwrGood then s
    else
      let s := s.powerCycled.setBoard (fun b => { b with pwrGood := true, straps := straps.toNat })
      let s := ({ s with guy := { s.guy with slot := straps.toNat } }).mapFromFuses
      let s := s.tryPatch patch
      if straps.toNat = 0 then s.takeToken else s)

/-- PWR_GOOD falls: everything inside the package is lost, in every state. -/
def execPwrGoodFall (s : State) : Host.Outcome State Fault Refusal :=
  .next (if s.board.pwrGood then s.powerCycled else s)

/-! ### The boot ROM (R470, R473, R480) -/

/-- The bring-up at boot rate ends: the first one lets the function be ready and an image be staged; one after a refusal with
cause 5 lets another image be accepted. -/
def execBootBringupComplete (s : State) : Host.Outcome State Fault Refusal :=
  .next (
    if !s.alive then s
    else if s.board.phase = .rom then
      (s.setBoard (fun b => { b with functionReady := true })).toPhase .waitImage
    else if s.board.phase = .waitImage then s.setBoard (fun b => { b with relane := false })
    else s)

/-! ### Staging (R469, R479) -/

/-- A write through GLB_STAGE_WINDOW; a running commit holds it. -/
def execGlbStageWindowWrite (off : BitVec 15) (data : List Byte) (s : State) : Host.Outcome State Fault Refusal :=
  .next (
    if !s.hostUp || !s.board.functionReady then s
    else
      let page := min 1792 (bits (s.reg rStageOffset) 25 15)
      let room := if page = 1792 then 4096 - off.toNat else 32768 - off.toNat
      let at_ := stagingBase + 32768 * page + off.toNat
      if s.committing then s.setBoard (fun b => { b with heldStage := b.heldStage ++ [(at_, data.take room)] })
      else { s with hbm := s.hbm.poke at_ (data.take room) })

def checkFwStage (p : List Byte) : Option Nat :=
  if local64 (fld p 16 8) && vaMbz (fld p 16 8) && fld p 24 4 % 64 == 0 && fld p 28 4 % 64 == 0 &&
      decide (fld p 24 4 < imageMax) && decide (fld p 24 4 + fld p 28 4 ≤ imageMax) && zeroBytes p 32 64 then none
  else some stStageInvalid
def checkCfgStage (p : List Byte) : Option Nat :=
  if local64 (fld p 16 8) && vaMbz (fld p 16 8) && zeroBytes p 24 64 then none else some stStageInvalid
def checkCfgCommit (p : List Byte) : Option Nat :=
  if decide (fld p 16 4 < 2) && zeroBytes p 20 64 then none else some stStageInvalid

/-- Bytes of context 0 copied into a staging area, whose stacks it waits for (R196). -/
def State.stage (s : State) (q : CmdRef) (va n to_ : Nat) : State :=
  if s.hbm.stacksReady [(to_, n)] then
    s.cmdOutcome q stStageInvalid (s.readVa q.ctx.val va n (.other false) true 0)
      (fun s b => ({ s with hbm := s.hbm.writeLines to_ b }).complete q stOk n 0)
  else s.stallOn (.cmd q) q.ctx.val 0

def execFwStage (q : CmdRef) (s : State) : Host.Outcome State Fault Refusal :=
  .next (s.perform q 0x0770 (fun s t => s.stage q (t.par 16 8) (t.par 28 4) (stagingBase + t.par 24 4)))

def execCfgStage (q : CmdRef) (s : State) : Host.Outcome State Fault Refusal :=
  .next (s.perform q 0x0771 (fun s t => s.stage q (t.par 16 8) 4096 stagingConfig))

/-! ### Commit (R473, R477, R478, R480) -/

/-- GO: image and configuration checked and committed together, in phase WAIT_IMAGE only. -/
def State.go (s : State) : State :=
  let s := (s.setBoard (fun b => { b with goSince := s.local_ })).toPhase .checking
  let r := s.checkImage stagingBase
  if r.1 ≠ 0 then
    ((s.refuseImage stagingBase r.1 r.2).setBoard (fun b => { b with relane := r.1 == 5 })).toPhase .waitImage
  else
    match s.configFault with
    | some o => (s.refuseConfig o).toPhase .waitImage
    | none =>
      let s := (s.activateImage r.2).applyConfig true
      let s := (List.range 16).foldl (fun s n => s.setStack n { s.stack n with state := .selfRefresh }) s
      s.startColdBist

def execGlbStageGo (v : RegValue) (s : State) : Host.Outcome State Fault Refusal :=
  .next (
    if !s.hostUp || !s.board.functionReady then s
    else
      match s.rwp rStageGo v with
      | (s, none) => s
      | (s, some x) =>
        let s := s.setReg rStageGo (rwpPair x)
        if x = 1 && s.board.phase == .waitImage && !s.board.relane then s.go else s)

/-- The commit would change NODE, BOARD_SIZE or a port mode. -/
def State.commitMoves (s : State) : Bool :=
  let c := s.stagedConfig
  cfgNode c != s.guy.node || cfgSize c != s.guy.boardSize ||
    (List.range 12).any (fun p => cfgMode c s.guy.slot p != (s.port p).mode)

/-- What a CFG_COMMIT does once no other command is under way. With firmware the processors restart from the new image (log
entry 89). -/
def State.commit (s : State) (q : CmdRef) (fw : Bool) : State :=
  let r := s.checkImage stagingBase
    if fw && r.1 != 0 then (s.refuseImage stagingBase r.1 r.2).complete q stFwRefused 0 r.1
    else
      match s.configFault with
      | some o => (s.refuseConfig o).complete q stCfgInvalid 0 o
      | none =>
        if s.commitMoves && s.host.ctxs.any (fun c => c.1 != 0) then s.complete q stCfgBusy 0 0
        else
          let s := if fw then (s.activateImage r.2).setBoard (fun b => { b with restart := some s.local_ }) else s
          let s := s.applyConfig fw
          s.complete q stOk s.board.generation 0

/-- CFG_COMMIT in service: it waits for every other command, and releases the staging writes that it held. -/
def execCfgCommit (q : CmdRef) (s : State) : Host.Outcome State Fault Refusal :=
  .next (s.perform q 0x0772 (fun s t =>
    if !s.rst.l2.isEmpty || s.rst.l3.isSome then (s.complete q stRstBusy 0 0).releaseStage
    else if s.host.taken.any (fun x => x.q != q) then s
    else (s.commit q ((t.par 16 4).testBit 0)).releaseStage))

def execProcessorRestartComplete (s : State) : Host.Outcome State Fault Refusal :=
  .next (
    match (if s.alive then s.board.restart else none) with
    | none => s
    | some t =>
      (s.setBoard (fun b => { b with restart := none })).raise 0x0E03 srcBoot none [s.board.version, s.board.svn, 2, s.local_ - t])

/-- GLB_ROLLBACK: fuse bits burnt up to the value, when it is above the counter and not above the running SVN (R474). -/
def execGlbRollbackWrite (v : RegValue) (s : State) : Host.Outcome State Fault Refusal :=
  .next (
    if !s.hostUp then s
    else
      match s.rwp rRollback v with
      | (s, none) => s
      | (s, some x) =>
        let n := x.toNat
        let old := s.board.rollback
        if old < n ∧ n ≤ s.board.svn ∧ n ≤ 64 then
          (s.setBoard (fun b => { b with rollback := n })).raise 0x0E06 srcBoot none [old, n, 1, 0]
        else s.raise 0x0E06 srcBoot none [old, n, 2, 0])

/-! ### The end of training (R196, R197, R213, R480) -/

/-- One stack's result. One that is under a loop-back test shows LOOPBACK until the test ends (R216; log entry 119). -/
def State.trained (s : State) (x : StackTrained) : State :=
  let n := x.stack.val
  let s := x.lanesRepaired.foldl (fun s l => s.raise 0x0606 (srcStack n) none [n, l.1, l.2, 0]) s
  let s := x.failedPcs.foldl (fun s p => s.raise 0x0605 (srcStack n) none [n, p.1, p.2, 0]) s
  let to_ : StackState := if x.failedPcs.isEmpty then .ready else .failed
  let tested := s.hbm.loop.any (fun l => l.stack == n)
  let s := { s with hbm := { s.hbm with loop := s.hbm.loop.map (fun (l : Loopback) => if l.stack = n then { l with before := to_ } else l) } }
  s.setStack n { s.stack n with
    state := if tested then .loopback else to_, lanesRepaired := x.lanesRepaired.length, trained := true }

/-- The processors start from the image, checked once more: ready, or back to WAIT_IMAGE. -/
def State.startProcessors (s : State) : State :=
  let s := s.toPhase .starting
  let r := s.checkImage runningBase
  if r.1 ≠ 0 then
    ((s.refuseImage runningBase r.1 r.2).setBoard (fun b => { b with relane := r.1 == 5 })).toPhase .waitImage
  else
    let s := s.raise 0x0E03 srcBoot none [s.board.version, s.board.svn, 1, s.local_ - s.board.goSince]
    let s := (s.setRst (fun r => { r with ready := true })).toPhase .ready
    let engines := (s.rst.repair.fenced.map (fun e => e.2.length)).sum
    let out := ((List.range Config.clusters).filter s.clusterOut).length
    s.raise 0x0E07 srcBoot none [s.local_ - s.board.since, engines, out, 0]

/-- What follows training: the L3 or L2 that asked for it ends, or boot goes on. -/
def State.afterTraining (s : State) (ok : Bool) (ns : List Nat) : State :=
  match s.rst.l3 with
  | some _ => if ok then s.endL3 else s.failL3
  | none =>
    let d := ns.headD 0 / 4
    if mhas s.rst.l2 d then (if ok then s.endL2 d 0 else (s.endL2 d 1).startL3 8 2)
    else if s.board.phase = .hbmTraining then (if ok then s.startProcessors else s.bootFailed)
    else s

def execStackTrainingComplete (x : List StackTrained) (s : State) : Host.Outcome State Fault Refusal :=
  .next (
    let ns := s.hbm.training
    if !s.alive || ns.isEmpty then s
    else
      let since := s.hbm.trainSince
      let s := { s with hbm := { s.hbm with training := [] } }
      let result := fun (n : Fin 16) => (x.find? (fun y => y.stack == n)).getD ⟨n, [], []⟩
      let passed := fun (n : Nat) => if h : n < 16 then (result ⟨n, h⟩).failedPcs.isEmpty else true
      let s := ns.foldl (fun s n => if h : n < 16 then s.trained (result ⟨n, h⟩) else s) s
      let ok := ns.all passed
      let lanes := (ns.map (fun n => (s.stack n).lanesRepaired)).sum
      let s : State := if ns.length = 16 then { s with hbm := { s.hbm with lanesAll := lanes } } else s
      let s : State :=
        if ok then
          let map := (s.readyStacks.map (fun n => 2 ^ n)).sum
          s.raise 0x0601 srcBoot none [map, s.local_ - since, lanes, 0]
        else s
      s.afterTraining ok ns)

end Sys2Proof.Machine
end

