-- ==== Sys2Proof/Machine/Scan.lean ====
section
/-! DEFINITION. The scan network (04_cores.md R127 to R129; 05_core_programs.md R151, R161): issuing a scan, and the chain. -/

namespace Sys2Proof.Machine

def scSop (w : Nat) : Nat := bits w 15 12

/-- The fields that each operation uses (R161). -/
def scanUsed (w : Nat) : List (Nat × Nat) :=
  match scSop w with
  | 0 => [(36, 12)]
  | 1 | 3 => [(15, 12), (36, 21)]
  | 2 => [(15, 12), (37, 21)]
  | 4 => [(15, 12)]
  | _ => [(127, 12)]

/-- A core that issues a scan waits for the chain. A reserved SOP ends in PF_SCAN whichever scan row names the core; so does a
scan after a core of the cluster has ended. -/
def scanIssue (sop : Nat) (k : CoreRef) (s : State) : State :=
  s.issueRow k 0x8 0x00 scanUsed (fun s i =>
    if 5 ≤ scSop i.w then i.fault s pfScan
    else if scSop i.w ≠ sop then s
    else if i.cl.cores.any (fun c => c.2.ended) then i.fault s pfScan
    else
      let x : ScanIssue := ⟨sop, i.w.testBit 36, i.w.testBit 37, bits i.w 20 16, bits i.w 25 21, bits i.w 30 26, bits i.w 35 31⟩
      let s := s.setCore k { i.core with wait := some .scan }
      let c := s.cluster k.cluster.val
      s.setCluster k.cluster.val { c with scans := mset c.scans k.core.val x })

def execScanAffine (k : CoreRef) (s : State) : Host.Outcome State Fault Refusal := .next (scanIssue 0 k s)
def execScanAddF32 (k : CoreRef) (s : State) : Host.Outcome State Fault Refusal := .next (scanIssue 1 k s)
def execScanAddI32 (k : CoreRef) (s : State) : Host.Outcome State Fault Refusal := .next (scanIssue 2 k s)
def execScanMaxF32 (k : CoreRef) (s : State) : Host.Outcome State Fault Refusal := .next (scanIssue 3 k s)
def execScanBarrier (k : CoreRef) (s : State) : Host.Outcome State Fault Refusal := .next (scanIssue 4 k s)

/-! ### The chain (R127, R128) -/

/-- op(a, h, b) of one lane. -/
def scanOp (sop : Nat) (sat : Bool) (a h b : W32) : W32 :=
  match sop with
  | 0 => F32.fma a h b
  | 1 => F32.add h b
  | 2 =>
    let x := h.toInt + b.toInt
    if sat then BitVec.ofInt 32 (max (-2147483648) (min 2147483647 x)) else BitVec.ofInt 32 x
  | _ => F32.maxNum h b

def scanStep (x : ScanIssue) (c : CoreSt) (h : List W32) : List W32 :=
  (List.range 16).map (fun j => scanOp x.sop x.sat (lane (c.getV x.va) j) (h.getD j 0) (lane (c.getV x.vb) j))

/-- The cores after the chain has passed them in logical order, from the value that enters the first of them. -/
def chainCores (h : List W32) : List (Nat × CoreSt × ScanIssue) → List (Nat × CoreSt)
  | [] => []
  | (n, c, x) :: r =>
    let out := if x.sop = 4 then h else scanStep x c h
    let c' : CoreSt := if x.sop = 4 then { c with wait := none } else { c with wait := none }.setV x.vd (ofLanes (if x.excl then h else out))
    (n, c'.advance) :: chainCores out r

/-- Every core with its scan, in logical order. -/
def Cluster.scanning (c : Cluster) : List (Nat × CoreSt × ScanIssue) :=
  c.scans.map (fun p => (p.1, mgetD c.cores p.1 .reset, p.2))

/-- The chain runs once all 80 cores have issued a scan; a BARRIER makes every write to the cluster buffer visible (R129). A core
whose SOP, EXCLUSIVE or SAT differs from core 0's faults. -/
def execScanChain (c : ClusterNo) (s : State) : Host.Outcome State Fault Refusal :=
  .next (
    let cl := s.cluster c.val
    let l := cl.scanning
    if s.alive && cl.state == .running && l.length == Config.cores && !s.inL0 (cl.holder.getD 0) then
      match l with
      | [] => s
      | (_, c0, x0) :: _ =>
        let bad := l.filter (fun p => p.2.2.sop != x0.sop || p.2.2.excl != x0.excl || p.2.2.sat != x0.sat)
        match bad with
        | (n, k, _) :: _ => s.progFault ⟨c, Fin.ofNat 80 n⟩ pfScan k.pc 0 bad.length
        | [] =>
          let done := chainCores (lanes (c0.getV x0.vh)) l
          let cl := if x0.sop = 4 then cl.publish (fun _ => true) else cl
          let s := s.setCluster c.val { cl with scans := [], cores := done.foldl (fun m p => mset m p.1 p.2) cl.cores }
          done.foldl (fun s p => s.engineProgress ⟨c, Fin.ofNat 80 p.1⟩ 1) s
    else s)

end Sys2Proof.Machine
end

