-- ==== Sys2Proof/Machine/Branch.lean ====
section
/-! DEFINITION. Branch and loop instructions (05_core_programs.md R140, R141, R151). -/

namespace Sys2Proof.Machine

def brXa (w : Nat) : Nat := bits w 16 12
def brXb (w : Nat) : Nat := bits w 21 17
def brCond (w : Nat) : Nat := bits w 24 22
def brImmb (w : Nat) : Bool := w.testBit 25
def brTarget (w : Nat) : Nat := bits w 35 26
def brXd (w : Nat) : Nat := bits w 40 36
def brCntx (w : Nat) : Bool := w.testBit 41
def brImm (w : Nat) : Nat := bits w 95 64

/-- The tests of COND; codes 6 and 7 are reserved. -/
def condHolds (c : Nat) (a b : W64) : Option Bool :=
  match c with
  | 0 => some (a == b)
  | 1 => some (a != b)
  | 2 => some (a.slt b)
  | 3 => some (!a.slt b)
  | 4 => some (a.ult b)
  | 5 => some (!a.ult b)
  | _ => none

def execBr (k : CoreRef) (s : State) : Host.Outcome State Fault Refusal :=
  .next (s.issueRow k 0xA 0x00 (fun _ => [(35, 26)]) (fun s i =>
    if i.cl.image.length ≤ brTarget i.w then i.fault s pfPc
    else i.jumped s (i.core.jump (brTarget i.w))))

def execBrc (k : CoreRef) (s : State) : Host.Outcome State Fault Refusal :=
  .next (s.issueRow k 0xA 0x01
    (fun w => (16, 12) :: (35, 22) :: (if brImmb w then [(95, 64)] else [(21, 17)])) (fun s i =>
    i.regs s [brXa i.w, if brImmb i.w then 0 else brXb i.w] (fun s =>
      let b : W64 := if brImmb i.w then (BitVec.ofNat 32 (brImm i.w)).signExtend 64 else i.core.getX (brXb i.w)
      match condHolds (brCond i.w) (i.core.getX (brXa i.w)) b with
      | none => i.fault s pfField
      | some t =>
        if i.cl.image.length ≤ brTarget i.w then i.fault s pfPc
        else if t then i.jumped s (i.core.jump (brTarget i.w))
        else i.done s i.core)))

/-- LOOP: a body of instructions n+1 to TARGET, COUNT times; a COUNT of 0 goes on after TARGET. With four loops active a LOOP
faults whatever its COUNT is (log entry 110). -/
def execLoop (k : CoreRef) (s : State) : Host.Outcome State Fault Refusal :=
  .next (s.issueRow k 0xA 0x02
    (fun w => (41, 36) :: (35, 26) :: (if brCntx w then [(16, 12)] else [(95, 64)])) (fun s i =>
    i.regs s [brXd i.w, if brCntx i.w then brXa i.w else 0] (fun s =>
      let n := if brCntx i.w then (i.core.getX (brXa i.w)).toNat else brImm i.w
      let t := brTarget i.w
      if i.cl.image.length ≤ t then i.fault s pfPc
      else if t ≤ i.core.pc ∨ 4 ≤ i.core.loops.length then i.fault s pfLoop
      else if n = 0 then i.jumped s (i.core.advanceFrom t)
      else i.jumped s ({ i.core with
          pc := i.core.pc + 1
          loops := ⟨i.core.pc + 1, t, brXd i.w, 0, n⟩ :: i.core.loops }.setX (brXd i.w) 0))))

/-- END: once the core's transfers have completed, its bound slots are flushed and the core ends (R140, R164). Cores that wait
in a scan for this one fault (R151). -/
def execEndProgram (k : CoreRef) (s : State) : Host.Outcome State Fault Refusal :=
  .next (s.issueRow k 0xA 0x03 (fun _ => []) (fun s i =>
    if !i.core.xfers.isEmpty || !i.core.days.isEmpty || s.tier.remotes.any (fun r => r.2.owner == .epi k && !r.2.acked) then
      i.hazard s
    else
      let r := s.flushSlots i i.core.slots
      i.outcome r.1 r.2.1 r.2.2 (fun _ s =>
        let s := (i.jumped s { s.core k with ended := true }).publish k
        let cl := s.cluster k.cluster.val
        match cl.scanning with
        | [] => s
        | (n, c, _) :: _ => s.progFault ⟨k.cluster, Fin.ofNat 80 n⟩ pfScan c.pc 0 cl.scans.length)))

def execBranchNop (k : CoreRef) (s : State) : Host.Outcome State Fault Refusal :=
  .next (s.issueRow k 0xA 0x04 (fun _ => []) (fun s i => i.done s i.core))

end Sys2Proof.Machine
end

