-- ==== Sys2Proof/Machine/ConvertRun.lean ====
section
/-! DEFINITION. The convert instruction (05_core_programs.md R156; 03_numbers.md R80 to R88), and what it shares with the
epilogue: element planes, the key of the stochastic bits, the statistics slot of an instruction. -/

namespace Sys2Proof.Machine

/-! ### Element planes (R64) -/

/-- Element codes of a stretch of bytes: two 4-bit codes to a byte, the low one first. -/
def codesOf (width : Nat) (bs : List Byte) (n : Nat) : List Nat :=
  if width = 4 then (List.range n).map (fun k => (bs.getD (k / 2) 0).toNat / (if k % 2 = 0 then 1 else 16) % 16)
  else
    let w := width / 8
    (List.range n).map (fun k => leNat (bsub bs (w * k) w))

def planeBytes (f : Fmt) (n : Nat) : Nat := (n * f.bits + 7) / 8

/-! ### Stochastic bits of a core's conversions (R88) -/

/-- The key of a core's conversions: seed and rank of its context, origin 0, the step of its launch. -/
def State.srKey (s : State) (i : Issue) (tensor : Nat) : SrKey :=
  let c := mget s.host.ctxs i.ctx
  ⟨(c.map (·.seed)).getD 0, tKey 0 ((c.map (·.rank)).getD 0) tensor, (s.clusterStep i.k.cluster.val).toNat⟩

/-! ### Statistics slot of an EPI or CVT (R153, R164) -/

inductive StatRef where
  | none
  | slot (n : Nat) (t : Slot)
  | unbound
  | reserved
  deriving DecidableEq, Repr

def Issue.stat (i : Issue) (code : Nat) : StatRef :=
  if code = 7 then .none
  else if 4 ≤ code then .reserved
  else
    match mget i.core.slots code with
    | some t => .slot code t
    | Option.none => .unbound

/-- The core after elements were counted into the slot that the instruction names (R115). -/
def StatRef.count (r : StatRef) (c : CoreSt) (l : List (W32 × Class)) : CoreSt :=
  match r with
  | .slot n t => { c with slots := mset c.slots n { t with stats := countAll t.stats l } }
  | _ => c

/-! ### A run of conversions (R81) -/

/-- The class of a scaled-block element that is copied unchanged. -/
def classBlock (f : Fmt) (s : W32) (entry code : Nat) : Class :=
  let top := 2 ^ f.bits - 1
  ⟨(sbRaw f entry code).isZero, false, !F32.isFinite (decodeBlockElem f s entry code), f.isSbU && (code == 0 || code == top)⟩

/-- One operation's fields of a conversion. -/
structure CvtOps where
  src : Fmt
  dst : Fmt
  rm : RM
  ovf : Bool
  sat : Bool
  key : SrKey
  pos : Nat
  sSrc : W32
  sDst : W32
  deriving DecidableEq, Repr

/-- Converted codes and side entries, and the values and classes that statistics count. -/
structure CvtOut where
  codes : List Nat
  sides : List Nat
  counted : List (W32 × Class)
  deriving DecidableEq, Repr

/-- FP32 values encoded into a scaled-block format, 32 to a block (R68). No instruction names the unpadded length of a tensor, so
every element of a block is an ordinary one, in the range and in the statistics (R66; DESIGN CHOICE, log entry 106). -/
def encodeRun (o : CvtOps) (xs : List W32) : CvtOut :=
  let blocks := (List.range (xs.length / 32)).map (fun b =>
    encodeBlock o.dst o.sDst o.ovf ((xs.drop (32 * b)).take 32) (fun j => o.rm.rnd o.key (o.pos + 32 * b + j)))
  ⟨blocks.flatMap (fun b => b.elems.map (·.code)), blocks.map (sideEntry o.dst),
    xs.zip (blocks.flatMap (fun b => b.elems.map (·.cls)))⟩

/-- A run of element codes with its side entries. -/
def convertRun (o : CvtOps) (codes sides : List Nat) : CvtOut :=
  let entry := fun (j : Nat) => sides.getD (j / 32) 0
  if o.src.isSb then
    let vs := codes.zipIdx.map (fun p => decodeBlockElem o.src o.sSrc (entry p.2) p.1)
    if o.src = o.dst then
      ⟨codes, sides, vs.zip (codes.zipIdx.map (fun p => classBlock o.src o.sSrc (entry p.2) p.1))⟩
    else if o.dst.isSb then encodeRun o vs
    else
      let r := vs.zipIdx.map (fun p => convCode .fp32 o.dst (o.rm.rnd o.key (o.pos + p.2)) o.ovf o.sat p.1.toNat)
      ⟨r.map (·.code), [], vs.zip (r.map (·.cls))⟩
  else
    let vs := codes.map (toFp32 o.src)
    if o.dst.isSb then encodeRun o vs
    else
      let r := codes.zipIdx.map (fun p => convCode o.src o.dst (o.rm.rnd o.key (o.pos + p.2)) o.ovf o.sat p.1)
      ⟨r.map (·.code), [], vs.zip (r.map (·.cls))⟩

/-- The bytes of a plane of codes, and of a side plane. -/
def sideBytes (l : List Nat) : List Byte := l.flatMap (fun e => leBytes 2 e)

def cvUsed (w : Nat) : List (Nat × Nat) :=
  match Fmt.ofCode (bits w 15 12), Fmt.ofCode (bits w 19 16) with
  | some a, some b => if a.isSb || b.isSb then [(27, 12), (58, 29)] else [(27, 12), (53, 29)]
  | _, _ => [(127, 12)]

/-- CVT (R156). A reserved format is found first, since the use of XAUX depends on the formats. The whole source is read before
anything is written, and an odd count into a 4-bit format writes 0 into the last high nibble: the rule says neither (DESIGN CHOICE,
log entry 115). -/
def execCvt (k : CoreRef) (s : State) : Host.Outcome State Fault Refusal :=
  .next (s.issueRow k 0x5 0x00 cvUsed (fun s i =>
    let w := i.w
    match Fmt.ofCode (bits w 15 12), Fmt.ofCode (bits w 19 16), RM.ofCode (bits w 21 20), i.stat (bits w 27 25) with
    | none, _, _, _ => i.fault s pfFormat
    | _, none, _, _ => i.fault s pfFormat
    | _, _, none, _ => i.fault s pfRounding
    | _, _, _, .reserved => i.fault s pfField
    | some fs, some fd, some rm, st =>
      let xaux := bits w 58 54
      let both := fs.isSb && fd.isSb
      if (fs.isSb || fd.isSb) && decide (31 < xaux + (if both then 3 else 1)) then i.fault s pfField
      else if st == .unbound then i.fault s pfTransfer
      else
        i.regs s ([bits w 33 29, bits w 38 34, bits w 43 39, bits w 48 44, bits w 53 49] ++
            (if fs.isSb || fd.isSb then (List.range (if both then 4 else 2)).map (xaux + ·) else [])) (fun s =>
          let src := (i.core.getX (bits w 33 29)).toNat
          let dst := (i.core.getX (bits w 38 34)).toNat
          let n := (i.core.getX (bits w 43 39)).toNat
          let dAux := if both then xaux + 2 else xaux
          let srcSide := (i.core.getX (xaux + 1)).toNat
          let dstSide := (i.core.getX (dAux + 1)).toNat
          let o : CvtOps :=
            ⟨fs, fd, rm.withGrad (w.testBit 24), w.testBit 22, w.testBit 23,
              s.srKey i (i.core.x32 (bits w 53 49)).toNat, (i.core.getX (bits w 48 44)).toNat,
              i.core.x32 xaux, i.core.x32 dAux⟩
          if (fs.isSb || fd.isSb) && n % 32 != 0 then i.fault s pfBlockShape
          else if fd.isSb && fs != fd && !scaleValid o.sDst then i.fault s pfScale
          else if src % 64 ≠ 0 ∨ dst % 64 ≠ 0 ∨ tileBytes < src + planeBytes fs n ∨ tileBytes < dst + planeBytes fd n ∨
              (fs.isSb = true ∧ tileBytes < srcSide + n / 16) ∨ (fd.isSb = true ∧ tileBytes < dstSide + n / 16) then
            i.faultAt s pfPlacement (badPlace [(src, planeBytes fs n, 64), (dst, planeBytes fd n, 64),
              (srcSide, if fs.isSb then n / 16 else 0, 1), (dstSide, if fd.isSb then n / 16 else 0, 1)])
          else
            let sIn := if fs.isSb then n / 16 else 0
            let sOut := if fd.isSb then n / 16 else 0
            i.reading s src (planeBytes fs n) (fun s => i.reading s srcSide sIn (fun s =>
            i.writing s dst (planeBytes fd n) (fun s => i.writing s dstSide sOut (fun s =>
              let r := convertRun o (codesOf fs.bits (i.core.tsRead src (planeBytes fs n)) n)
                (codesOf 16 (i.core.tsRead srcSide sIn) (sIn / 2))
              let c := i.core.tsWrite dst (packCodes fd.bits r.codes)
              let c := if fd.isSb then c.tsWrite dstSide (sideBytes r.sides) else c
              i.done s (st.count c r.counted))))))))

end Sys2Proof.Machine
end

