-- ==== Sys2Proof/Machine/Real.lean ====
section
/-! DEFINITION. Real functions to 448 bits of fraction, for the error bounds of R95: exponentials, logarithms, circular and error
functions as integers in units of 2^-448 or as dyadics. The series are cut off far below the last bit that a bound can tell
apart (log entry 71). -/

namespace Sys2Proof.Machine

/-- Units of 2^-448. -/
abbrev Fx := Int

def fxOne : Fx := 2 ^ 448
/-- ln 2, 2π in units of 2^-640, 2 ÷ √π, 1 ÷ √2 and √(2 ÷ π), rounded down. -/
def fxLn2 : Fx := 0xB17217F7D1CF79ABC9E3B39803F2F6AF40F343267298B62D8A0D175B8BAAFA2BE7B876206DEBAC98559552FB4AFA1B10ED2EAE35C1382144
def twoPi640 : Nat := 0x6487ED5110B4611A62633145C06E0E68948127044533E63A0105DF531D89CD9128A5043CC71A026EF7CA8CD9E69D218D98158536F92F8A1BA7F09AB6B6A8E122F242DABB312F3F637A262174D31BF6B58
def fxErfScale : Fx := 0x120DD750429B6D11AE3A914FED7FD8688281341D7587CEA2E7342B06199CC416180EB39F0B24E1E2281806C12D98F35D77A3E9DDC91C394F0
def fxInvSqrt2 : Fx := 0xB504F333F9DE6484597D89B3754ABE9F1D6F60BA893BA84CED17AC85833399154AFC83043AB8A2C3A8B1FE6FDC83DB390F74A85E439C7B4A
def fxSqrt2OverPi : Fx := 0xCC42299EA1B284687E59E2805D5C717FA7053E60A24E0DB1808E369004C73A5D3BF158AA88FA7B6E47EBA75766E9D11BD6284EF2E17C2A26

def fxMul (a b : Fx) : Fx := a * b / fxOne
def fxDiv (a b : Fx) : Fx := a * fxOne / b
/-- A dyadic in units of 2^-448, rounded down. -/
def Dy.fx (d : Dy) : Fx := if 0 ≤ d.e + 448 then d.n * 2 ^ (d.e + 448).toNat else d.n / 2 ^ (-(d.e + 448)).toNat
def fxDy (x : Fx) : Dy := ⟨x, -448⟩
/-- An argument held between −n and n: beyond it the function is at its limit. -/
def fxClamp (n : Nat) (x : Fx) : Fx := max (-(n * fxOne)) (min (n * fxOne) x)

/-- Σ r^k ÷ k! from a term on. -/
def expSeries (r : Fx) : Nat → Nat → Fx → Fx → Fx
  | 0, _, _, acc => acc
  | n + 1, k, t, acc => expSeries r n (k + 1) (fxMul t r / k) (acc + t)

/-- e^x. -/
def expDy (x : Fx) : Dy :=
  let k := (2 * x + fxLn2) / (2 * fxLn2)
  ⟨expSeries (x - k * fxLn2) 90 1 fxOne 0, k - 448⟩

/-- Σ z^(2k+1) ÷ (2k+1): the area tangent, for |z| at most 1/3. -/
def atanhSeries (z2 : Fx) : Nat → Nat → Fx → Fx → Fx
  | 0, _, _, acc => acc
  | n + 1, k, t, acc => atanhSeries z2 n (k + 2) (fxMul t z2) (acc + t / k)
def atanhFx (z : Fx) : Fx := atanhSeries (fxMul z z) 150 1 z 0

/-- ln x of a positive magnitude m · 2^e, its mantissa taken from 3/4 up to 3/2. -/
def lnFx (m : Nat) (e : Int) : Fx :=
  let l := m.log2
  let a : Fx := (m : Int) * 2 ^ (448 - l)
  let up := decide (3 * fxOne ≤ 2 * a)
  let a := if up then a / 2 else a
  let ex : Int := e + l + (if up then 1 else 0)
  2 * atanhFx (fxDiv (a - fxOne) (a + fxOne)) + ex * fxLn2

/-- ln (1 + t) for t from 0 to 1. -/
def ln1pFx (t : Fx) : Fx := 2 * atanhFx (fxDiv t (2 * fxOne + t))

/-- sin and cos by their series: Σ (−1)^k r^(2k+d) ÷ (2k+d)!, d being 1 and 0. -/
def trigSeries (r2 : Fx) : Nat → Nat → Fx → Fx → Fx
  | 0, _, _, acc => acc
  | n + 1, k, t, acc => trigSeries r2 n (k + 2) (-(fxMul t r2) / ((k + 1) * (k + 2) : Nat)) (acc + t)

/-- A finite argument reduced exactly to one turn (R118). -/
def reduceTurn (m : Nat) (e : Int) : Fx := ((m * 2 ^ (e + 640).toNat % twoPi640 / 2 ^ 192 : Nat) : Int)

/-- sin of m · 2^e, and cos. -/
def sinFx (m : Nat) (e : Int) : Fx := let r := reduceTurn m e; trigSeries (fxMul r r) 90 1 r 0
def cosFx (m : Nat) (e : Int) : Fx := let r := reduceTurn m e; trigSeries (fxMul r r) 90 0 fxOne 0

/-- 1 ÷ (1 + e^-x). -/
def sigmoidDy (x : Fx) : Dy :=
  let t := expDy (-x.natAbs)
  let d := fxOne + t.fx
  if 0 ≤ x then fxDy (fxDiv fxOne d) else ⟨fxDiv t.n d, t.e⟩

def tanhFx (x : Fx) : Fx :=
  let t := (expDy (-(2 * x.natAbs))).fx
  let y := fxDiv (fxOne - t) (fxOne + t)
  if 0 ≤ x then y else -y

/-- Σ (−1)^n x^(2n+1) ÷ (n! · (2n+1)). -/
def erfSeries (x2 : Fx) : Nat → Nat → Fx → Fx → Fx
  | 0, _, _, acc => acc
  | n + 1, k, t, acc => erfSeries x2 n (k + 1) (-(fxMul t x2) / (k + 1)) (acc + t / (2 * k + 1))
/-- erf x, for |x| at most 11. -/
def erfFx (x : Fx) : Fx := fxMul fxErfScale (erfSeries (fxMul x x) 520 0 x 0)

/-- ln (1 + e^x). -/
def softplusDy (x : Fx) : Dy := fxDy (max x 0 + ln1pFx (expDy (-x.natAbs)).fx)

/-- The real value of a vector transcendental (R118) at a finite argument, by its operation code. -/
def transcendentalDy (op : Nat) (neg : Bool) (m : Nat) (e : Int) : Dy :=
  let x : Fx := (Dy.mk (if neg then -(m : Int) else m) e).fx
  let sign : Int := if neg then -1 else 1
  match op with
  | 0x20 => let k := x / fxOne; let d := expDy (fxMul (x - k * fxOne) fxLn2); ⟨d.n, d.e + k⟩
  | 0x21 => expDy x
  | 0x22 => fxDy (fxDiv (lnFx m e) fxLn2)
  | 0x23 => fxDy (lnFx m e)
  | 0x24 => ⟨sign * (fxOne / m), -448 - e⟩
  | 0x25 =>
    let odd := decide (e % 2 ≠ 0)
    ⟨isqrt (2 ^ 896 / (if odd then 2 * m else m)), -448 - (if odd then e - 1 else e) / 2⟩
  | 0x26 => fxDy (sign * sinFx m e)
  | 0x27 => fxDy (cosFx m e)
  | 0x28 => fxDy (tanhFx (fxClamp 200 x))
  | 0x29 => sigmoidDy (fxClamp 200 x)
  | _ => fxDy (erfFx (fxClamp 7 x))

/-- The real value of an activation (R112) at a finite input, by its code. -/
def activationDy (code : Nat) (v : Dy) : Dy :=
  let x := v.fx
  let c := fxClamp 200 x
  match code with
  | 3 =>
    if 15 * fxOne < x then v
    else if x < -(15 * fxOne) then ⟨0, 0⟩
    else v.mul ⟨fxOne + erfFx (fxMul x fxInvSqrt2), -449⟩
  | 4 =>
    let cube := 44715 * fxMul c (fxMul c c) / 1000000
    v.mul (sigmoidDy (fxClamp 400 (2 * fxMul fxSqrt2OverPi (c + cube))))
  | 5 => v.mul (sigmoidDy c)
  | 6 => sigmoidDy c
  | 7 => fxDy (tanhFx c)
  | _ => if 200 * fxOne < x then v else softplusDy c

/-- An FP32 code lies within a number of units in its last place of a real value, or within 2^-126 of it where that counts too
(R95). -/
def withinUlps (ulps : Nat) (tiny : Bool) (exact : Dy) (code : W32) : Bool :=
  match f32 code with
  | .fin s m e =>
    let d := ((FVal.fin s m e).dy.sub exact)
    let gap : Dy := ⟨d.n.natAbs, d.e⟩
    !Dy.lt ⟨ulps, e⟩ gap || (tiny && !Dy.lt ⟨1, -126⟩ gap)
  | _ => false

/-- A result that the manual bounds and does not state: a free word where it meets the bound, otherwise the real value rounded to
nearest (R95; log entries 5, 71). -/
def boundedResult (ulps : Nat) (tiny : Bool) (exact : Dy) (free : W32) : W32 :=
  if withinUlps ulps tiny exact free then free else toF32 (FVal.ofDy exact false)

end Sys2Proof.Machine
end

