-- ==== Sys2Proof/Machine/Epilogue.lean ====
section
/-! DEFINITION. The fused epilogue and the accumulator moves (04_cores.md R109 to R116; 05_core_programs.md R153, R154). -/

namespace Sys2Proof.Machine

/-! ### Accumulator moves (R109) -/

/-- The elements of a tile in row-major order, 4 B each. -/
def CoreSt.accBytes (c : CoreSt) (acc m n : Nat) : List Byte :=
  (tileCells m n).flatMap (fun p => leBytes 4 (c.getAcc (accPlace acc p.1 p.2)).toNat)

/-- A tile zeroed; its classes stay (R116). -/
def CoreSt.clearTile (c : CoreSt) (acc m n : Nat) : CoreSt :=
  (tileCells m n).foldl (fun c p => c.setAcc (accPlace acc p.1 p.2) 0) c

def epAcc (w : Nat) : Nat := bits w 16 12
def epOut (w : Nat) : Nat := 64 * bits w 57 48
def epCls (w : Nat) : Bool := w.testBit 47

def execAccRead (k : CoreRef) (s : State) : Host.Outcome State Fault Refusal :=
  .next (s.issueRow k 0x3 0x01 (fun _ => [(17, 12), (57, 48)]) (fun s i =>
    match accShape (epAcc i.w) with
    | none => i.fault s pfAcc
    | some (m, n) =>
      if (i.core.tileClass (epAcc i.w)).isNone then i.fault s pfAcc
      else if tileBytes < epOut i.w + 4 * m * n then i.faultAt s pfPlacement (epOut i.w)
      else i.writing s (epOut i.w) (4 * m * n) (fun s =>
        let c := i.core.tsWrite (epOut i.w) (i.core.accBytes (epAcc i.w) m n)
        i.done s (if i.w.testBit 17 then c.clearTile (epAcc i.w) m n else c))))

def execAccWrite (k : CoreRef) (s : State) : Host.Outcome State Fault Refusal :=
  .next (s.issueRow k 0x3 0x02 (fun _ => [(16, 12), (47, 47), (57, 48)]) (fun s i =>
    match accShape (epAcc i.w) with
    | none => i.fault s pfAcc
    | some (m, n) =>
      if tileBytes < epOut i.w + 4 * m * n then i.faultAt s pfPlacement (epOut i.w)
      else i.reading s (epOut i.w) (4 * m * n) (fun s =>
        let c := (tileCells m n).foldl (fun c p =>
          c.setAcc (accPlace (epAcc i.w) p.1 p.2) (i.core.tsWord (epOut i.w + 4 * (n * p.1 + p.2)))) i.core
        i.done s (c.setClass (epAcc i.w) (epCls i.w)))))

def execAccZero (k : CoreRef) (s : State) : Host.Outcome State Fault Refusal :=
  .next (s.issueRow k 0x3 0x03 (fun _ => [(16, 12), (47, 47)]) (fun s i =>
    match accShape (epAcc i.w) with
    | none => i.fault s pfAcc
    | some (m, n) => i.done s ((i.core.clearTile (epAcc i.w) m n).setClass (epAcc i.w) (epCls i.w))))

/-! ### Activations (R112) -/

/-- An activation: codes 3 to 8 are free within 4 units in the last place or 2^-126 at a finite input (R95; log entry 5). A NaN is
canonical under ACT 0 too (R112; DEDUCED, log entry 107). -/
def activate (code : Nat) (x : W32) : W32 :=
  if F32.isNaN x then f32NaN
  else if code = 0 then x
  else
    let relu := if F32.lt 0 x then x else 0
    let limits : W32 × W32 :=
      match code with
      | 6 => (0, F32.one)
      | 7 => (0xBF800000, F32.one)
      | 8 => (0, f32PosInf)
      | _ => (0x80000000, f32PosInf)
    if code = 1 then relu
    else if code = 2 then F32.mul relu relu
    else
      match f32 x with
      | .inf s => if s then limits.1 else limits.2
      | v => boundedResult 4 true (activationDy code v.dy) (Config.activation code x)

/-! ### The stages (R110) -/

/-- What an EPI instruction asks for, its operands read. -/
structure EpiOps where
  acc : Nat
  rows : Nat
  cols : Nat
  int : Bool
  kadj : Int
  scaleMode : Nat
  biasMode : Nat
  scale : Nat → Nat → W32
  bias : Nat → Nat → W32
  act : Nat
  fmt : Fmt
  cvt : CvtOps
  ld : Nat
  row0 : Nat
  col0 : Nat

/-- An element on its way through the stages: an FP32 value, or an INT32 one that no arithmetic stage touches. -/
inductive EpiVal where
  | flt (x : W32)
  | int (x : W32)
  deriving DecidableEq, Repr

/-- The FP32 value that statistics see: an INT32 element counts as its conversion (log entry 8). -/
def EpiVal.value : EpiVal → W32
  | .flt x => x
  | .int x => F32.ofInt x.toInt

/-- Stages 0 to 3 of one element. -/
def EpiOps.stages (o : EpiOps) (r c : Nat) (v : W32) : EpiVal :=
  let s1 := o.scaleMode != 0 || o.kadj != 0
  let s2 := o.biasMode != 0
  let s3 := o.act != 0
  if o.int && !(s1 || s2 || s3) then .int v
  else
    let v := if o.int then F32.ofInt v.toInt else v
    let f := toF32 ((f32 (if o.scaleMode = 0 then F32.one else o.scale r c)).mul (.fin false 1 o.kadj))
    let v := if s1 then F32.mul v f else v
    let v := if s2 then F32.add v (o.bias r c) else v
    .flt (activate o.act v)

/-- Stage 4 of one element for a format without blocks. -/
def EpiOps.convert (o : EpiOps) (r c : Nat) (v : EpiVal) : Conv :=
  let rnd := o.cvt.rm.rnd o.cvt.key ((o.row0 + r) * o.ld + o.col0 + c)
  match v with
  | .flt x => convCode .fp32 o.fmt rnd o.cvt.ovf o.cvt.sat x.toNat
  | .int x => convCode .int32 o.fmt rnd o.cvt.ovf o.cvt.sat x.toNat

/-- One output row: the bytes of its elements, of its side entry, and what statistics count. -/
structure EpiRow where
  bytes : List Byte
  side : List Byte
  counted : List (W32 × Class)
  deriving DecidableEq, Repr

def EpiOps.row (o : EpiOps) (core : CoreSt) (r : Nat) : EpiRow :=
  let vs := (List.range o.cols).map (fun c => o.stages r c (core.getAcc (accPlace o.acc r c)))
  if o.fmt.isSb then
    let t := encodeRun { o.cvt with pos := (o.row0 + r) * o.ld + o.col0 } (vs.map (·.value))
    ⟨packCodes o.fmt.bits t.codes, sideBytes t.sides, t.counted⟩
  else
    let cs := vs.zipIdx.map (fun p => o.convert r p.2 p.1)
    ⟨packCodes o.fmt.bits (cs.map (·.code)), [], (vs.map (·.value)).zip (cs.map (·.cls))⟩

/-- A scale or bias operand by its mode (R111): a register, or a vector in the tile store by column or by row. -/
def epiOperand (core : CoreSt) (mode reg : Nat) (r c : Nat) : W32 :=
  match mode with
  | 1 => core.x32 reg
  | 2 => core.tsWord ((core.getX reg).toNat + 4 * c)
  | 3 => core.tsWord ((core.getX reg).toNat + 4 * r)
  | _ => 0

/-- The stretch of a vector operand: none for modes 0 and 1. -/
def epiVector (core : CoreSt) (mode reg m n : Nat) : Option (Nat × Nat) :=
  match mode with
  | 2 => some ((core.getX reg).toNat, 4 * n)
  | 3 => some ((core.getX reg).toNat, 4 * m)
  | _ => none

def badVector : Option (Nat × Nat) → Bool
  | some (a, n) => a % 64 != 0 || decide (tileBytes < a + n)
  | none => false

/-! ### DEST = 1 (R114, R154) -/

/-- Who writes a row: the program, or a request at the own node's window. -/
def RowOut.who (w : RowOut) : Accessor := if w.own.isSome then .other false else .program false

/-- A write to the own node's window becomes a write to the local space; a refused one faults. -/
def resolveRow (s : State) (ctx va : Nat) (bs : List Byte) : Except Nat RowOut :=
  if vaSpace va = 2 && vaMbz va && peerNode va = s.guy.node then
    match exportWindow s ctx (peerOffset va) bs.length true with
    | .ok l => .ok ⟨l, bs, some (peerOffset va)⟩
    | .error c => .error c
  else .ok ⟨va, bs, none⟩

def resolveRows (s : State) (ctx : Nat) : List (Nat × List Byte) → Except (Nat × Nat) (List RowOut)
  | [] => .ok []
  | (va, bs) :: r =>
    match resolveRow s ctx va bs with
    | .error c => .error (va, c)
    | .ok w =>
      match resolveRows s ctx r with
      | .ok l => .ok (w :: l)
      | e => e

/-- A row that the page table of the own node's window refuses (R249). -/
def RowOut.refused (w : RowOut) (s : State) (ctx : Nat) : State :=
  match w.own with
  | some off => s.ownReject ctx off 5
  | none => s

/-- Whether every row can go now: the first obstacle, with its address (log entry 66). -/
def State.checkRows (s : State) (ctx : Nat) : List RowOut → State × Got Unit × Nat
  | [] => (s, .ok (), 0)
  | w :: r =>
    if vaSpace w.va = 0 then
      match s.parts ctx w.va w.bytes.length true w.who 0 with
      | (s, .ok _) => s.checkRows ctx r
      | (s, .wait c) => (s, .wait c, w.va)
      | (s, .fault c) => (w.refused s ctx, .fault c, w.va)
      | (s, .damaged l) => (s, .damaged l, w.va)
    else if vaSpace w.va = 1 then
      if (hostLookup s ctx w.va true).isSome && (hostLookup s ctx (w.va + w.bytes.length - 1) true).isSome then s.checkRows ctx r
      else (s, .fault pfAddress, w.va)
    else if vaSpace w.va = 2 && vaMbz w.va then
      match s.routeOf (peerNode w.va) with
      | .ports _ => s.checkRows ctx r
      | _ => (s, .fault pfAddress, w.va)
    else (s, .fault pfAddress, w.va)

/-- The epilogue rows of a core that are still to be written. -/
def State.setRows (s : State) (k : CoreRef) (l : List RowOut) : State := s.setCore k { s.core k with rows := l }

/-- Acknowledged rows are forgotten. -/
def State.dropRows (s : State) (k : CoreRef) : State :=
  { s with tier := { s.tier with remotes := s.tier.remotes.filter (fun r => !(r.2.owner == .epi k && r.2.acked)) } }

/-- Rows written in order: local ones at once, the others as requests of the core's epilogue, each once a transfer slot is free
(R119, R154) and earlier transfers to its lines are done (R262). The instruction completes with its last row. -/
def State.sendRows (s : State) (i : Issue) : List RowOut → State
  | [] => i.done (s.setRows i.k []) { s.core i.k with rows := [] }
  | w :: r =>
    let c := s.core i.k
    if c.before c.nextOrd [(w.va, w.bytes.length)] ||
        (vaSpace w.va != 0 && decide (8 ≤ c.xfers.length + s.epiOpen i.k)) then
      i.stall (s.setRows i.k (w :: r)) c.transferCause
    else
      match s.writePiece (.epi i.k) i.core.pc i.ctx s.tier.nextRemote w.va w.bytes w.who 0 with
      | (t, .ok _) => (t.dropRows i.k).sendRows i r
      | (t, .wait cause) =>
        if t.tier.nextRemote = s.tier.nextRemote then i.stall (t.setRows i.k (w :: r)) cause
        else (t.dropRows i.k).sendRows i r
      | (t, .fault code) => i.faultAt (w.refused (t.setRows i.k []) i.ctx) code w.va
      | (t, .damaged l) => (t.setRows i.k []).uncorrectable 0 (some i.ctx) l 0

/-! ### EPI -/

def epiScaleMode (w : Nat) : Nat := bits w 19 18
def epiBiasMode (w : Nat) : Nat := bits w 21 20

/-- The operands of an EPI that has passed its field checks. -/
def epiOps (s : State) (i : Issue) (m n : Nat) (int : Bool) (fmt : Fmt) (rm : RM) : EpiOps :=
  let w := i.w
  let xsc := bits w 72 68
  let xb := bits w 77 73
  let xp := bits w 82 78
  { acc := epAcc w, rows := m, cols := n, int := int, kadj := (BitVec.ofNat 8 (bits w 29 22)).toInt
    scaleMode := epiScaleMode w, biasMode := epiBiasMode w
    scale := epiOperand i.core (epiScaleMode w) xsc, bias := epiOperand i.core (epiBiasMode w) xb
    act := bits w 33 30, fmt := fmt
    cvt := ⟨.fp32, fmt, rm.withGrad (w.testBit 42), w.testBit 40, w.testBit 41, s.srKey i (i.core.x32 (bits w 87 83)).toNat, 0,
      0, i.core.x32 (xsc + 1)⟩
    ld := (i.core.getX xp).toNat, row0 := (i.core.getX (xp + 1)).toNat, col0 := (i.core.getX (xp + 2)).toNat }

/-- The output of an EPI whose checks have passed and whose operands are there. -/
def epiOutput (s : State) (i : Issue) (o : EpiOps) (st : StatRef) : State :=
  let w := i.w
  let rows := (List.range o.rows).map (o.row i.core)
  let fin := fun (c : CoreSt) =>
    let c := st.count c (rows.flatMap (·.counted))
    if w.testBit 17 then c.clearTile o.acc o.rows o.cols else c
  if w.testBit 43 then
    let xd := bits w 92 88
    let at_ := fun (x r : Nat) => (i.core.getX x + BitVec.ofNat 64 r * i.core.getX (x + 1)).toNat
    let out := rows.zipIdx.map (fun p => (at_ xd p.2, p.1.bytes)) ++
      (if o.fmt.isSb then rows.zipIdx.map (fun p => (at_ (xd + 2) p.2, p.1.side)) else [])
    match resolveRows s i.ctx out with
    | .error (va, c) => i.faultAt (s.ownReject i.ctx (peerOffset va) c) pfAddress va
    | .ok ws =>
      match s.checkRows i.ctx ws with
      | (s, .ok _, _) => (s.setCore i.k (fin i.core)).sendRows i ws
      | (s, .wait c, _) => i.stall s c
      | (s, .fault c, va) => i.faultAt s c va
      | (s, .damaged l, _) => s.uncorrectable 0 (some i.ctx) l 0
  else
    let c := i.core.tsWrite (epOut w) (rows.flatMap (·.bytes))
    let c := if o.fmt.isSb then c.tsWrite (64 * bits w 67 58) (rows.flatMap (·.side)) else c
    i.done s (fin c)

/-- The output line that lies beyond the tile store. -/
def epiFar (w : Nat) : Nat := if 768 ≤ bits w 57 48 then epOut w else 64 * bits w 67 58

/-- An EPI whose fields are good: its registers, the scale, the placement of its operands, then its output. -/
def epiChecked (s : State) (i : Issue) (m n : Nat) (int : Bool) (fmt : Fmt) (rm : RM) (st : StatRef) : State :=
  let w := i.w
  let sb := fmt.isSb
  let dest := w.testBit 43
  let xsc := bits w 72 68
  let xb := bits w 77 73
  let xp := bits w 82 78
  let xd := bits w 92 88
  i.regs s [xsc, xsc + 1, xb, xp, xp + 1, xp + 2, bits w 87 83, xd, xd + 1, xd + 2, xd + 3] (fun s =>
    let o := epiOps s i m n int fmt rm
    let sv := epiVector i.core (epiScaleMode w) xsc m n
    let bv := epiVector i.core (epiBiasMode w) xb m n
    let outLen := if dest then 0 else m * n * fmt.bits / 8
    let sideLen := if dest || !sb then 0 else 2 * m
    if sb && !scaleValid (i.core.x32 (xsc + 1)) then i.fault s pfScale
    else if badVector sv || badVector bv || decide (tileBytes < epOut w + outLen) ||
        decide (tileBytes < 64 * bits w 67 58 + sideLen) then
      i.faultAt s pfPlacement (badPlace [((sv.map (·.1)).getD 0, (sv.map (·.2)).getD 0, 64),
        ((bv.map (·.1)).getD 0, (bv.map (·.2)).getD 0, 64), (epOut w, outLen, 64), (64 * bits w 67 58, sideLen, 64)])
    else
      i.reading s ((sv.map (·.1)).getD 0) ((sv.map (·.2)).getD 0) (fun s =>
      i.reading s ((bv.map (·.1)).getD 0) ((bv.map (·.2)).getD 0) (fun s =>
      i.writing s (epOut w) outLen (fun s =>
      i.writing s (64 * bits w 67 58) sideLen (fun s => epiOutput s i o st)))))

def execEpi (k : CoreRef) (s : State) : Host.Outcome State Fault Refusal :=
  .next (s.issueRow k 0x3 0x00 (fun _ => [(46, 12), (92, 48)]) (fun s i =>
    let w := i.w
    if !i.core.rows.isEmpty then s.sendRows i i.core.rows
    else
    match accShape (epAcc w), Fmt.ofCode (bits w 37 34), RM.ofCode (bits w 39 38), i.stat (bits w 46 44) with
    | none, _, _, _ => i.fault s pfAcc
    | _, none, _, _ => i.fault s pfFormat
    | _, _, none, _ => i.fault s pfRounding
    | _, _, _, .reserved => i.fault s pfField
    | some (m, n), some fmt, some rm, st =>
      let sb := fmt.isSb
      let xsc := bits w 72 68
      let xp := bits w 82 78
      let xd := bits w 92 88
      let dest := w.testBit 43
      if 8 < bits w 33 30 then i.fault s pfAct
      else if (sb && decide (31 < xsc + 1)) || decide (31 < xp + 2) || (dest && decide (31 < xd + (if sb then 3 else 1))) then
        i.fault s pfField
      else if st == .unbound then i.fault s pfTransfer
      else if 768 ≤ bits w 57 48 ∨ 768 ≤ bits w 67 58 then
        i.faultAt s pfPlacement (epiFar w)
      else
        match i.core.tileClass (epAcc w) with
        | none => i.fault s pfAcc
        | some int =>
          if sb && decide (epAcc w < 24) then i.fault s pfBlockShape
          else epiChecked s i m n int fmt rm st))

end Sys2Proof.Machine
end

