-- ==== Sys2Proof/Machine/HbmCheck.lean ====
section
/-! DEFINITION. A stack read as it returns to the controller (07_hbm.md R205 to R209): its checks, re-issues, and what follows when
all three attempts fail. -/

namespace Sys2Proof.Machine

/-- The data bytes of a line as they came, in address order. -/
def flipBytes (bs : List Byte) (flips : W512) : List Byte :=
  (List.range bs.length).map (fun j => bs.getD j 0 ^^^ (flips >>> (8 * j)).setWidth 8)

/-- What the two ECC pins carry in a beat of a burst (R205): bits [2b+1:2b] of its 16 check bits, the even one on pin 0. -/
def eccBeat (check beat : Nat) : Nat := bits check (2 * beat + 1) (2 * beat)

/-- The 16 check bits of a burst from its eight beats. -/
def eccCheck (beats : List Nat) : Nat := beats.foldr (fun b n => b % 4 + 4 * n) 0

/-- The check bits as the stack stores and returns them: the first burst carries the CRC, the second its complement (R205). -/
def eccBursts (crc : Nat) : List Nat × List Nat :=
  ((List.range 8).map (eccBeat crc), (List.range 8).map (eccBeat (65535 - crc)))

/-- What is wrong with a read: bit 0 the CRC, bit 1 the complement, bit 2 the stack's own report. A location that is
uncorrectable fails whatever came (R209; log entry 77). -/
def HbmSt.readFault (h : HbmSt) (x : HbmRead) (line : Nat) : Nat :=
  let loc := h.locate (64 * line)
  let word := addressWord loc.2.1 loc.2.2
  let bs := h.peek (64 * line) 64
  let stored := eccBursts (crc16 (bs ++ word)).toNat
  let first := Nat.xor (eccCheck stored.1) x.crcFlips.toNat
  let second := Nat.xor (eccCheck stored.2) x.compFlips.toNat
  let crcBad := (crc16 (flipBytes bs x.dataFlips ++ word)).toNat != first
  Nat.lor (mgetD h.damaged line 0) (bit01 crcBad + 2 * bit01 (second != 65535 - first) + 4 * bit01 (x.report.val == 2))

/-- The reader of a read that is issued again stalls on local memory until it has its data (R207, R267). -/
def State.reissueStall (s : State) (x : HbmRead) (stack line : Nat) (on : Bool) : State :=
  match (if h : stack < 16 then some (⟨stack, h⟩ : Fin 16) else none), x.ctx with
  | some n, some c => if on then s.stallOn (.read x.reader n line) c.val 0 else s.stallOff (.read x.reader n line)
  | _, _ => s

/-- A read that failed all its attempts, by reader (R208). -/
def State.readLost (s : State) (reader : Nat) (ctx : Option Nat) (line what : Nat) : State :=
  if reader = 8 then s.unitUnread line what
  else if reader = 7 then (s.uncorrectable 7 ctx line what).answer .aborted
  else if reader = 6 && s.hbm.wc.any (fun e => e.line == line) then
    let before := s.hbm.wc
    ({ s with hbm := { s.hbm with
        damaged := mupd s.hbm.damaged line what id
        wc := s.hbm.wc.filter (fun e => e.line != line) } }).settleWc before
  else s.uncorrectable reader ctx line what

def execHbmReadResponse (x : HbmRead) (s : State) : Host.Outcome State Fault Refusal :=
  .next (
    let line := x.pa.toNat / 64
    let ctx := x.ctx.map (·.val)
    let loc := s.hbm.locate (64 * line)
    if !s.alive || (s.stack loc.1).state != .ready then s
    else
      let mine := fun (r : ReIssue) => r.reader == x.reader.val && r.ctx == ctx && r.line == line
      let tries : Nat := ((s.hbm.reissues.find? mine).map (·.attempts)).getD 0
      let rest := s.hbm.reissues.filter (fun r => !mine r)
      let k := s.stack loc.1
      let s := if x.report.val = 1 then s.setStack loc.1 { k with ondie := satAdd 16 k.ondie 1 } else s
      let bad := s.hbm.readFault x line
      if bad = 0 then
        if tries = 0 then s
        else
          let k := s.stack loc.1
          let s := s.setStack loc.1 { k with retried := satAdd 32 k.retried 1 }
          let s := ({ s with hbm := { s.hbm with reissues := rest } }).reissueStall x loc.1 line false
          s.raiseLimited loc.1 1000000 0x0602 (srcStack loc.1) none
            (fun n => [64 * line, tries % 256 + loc.1 * 2 ^ 8 + loc.2.1 * 2 ^ 12, n, 0])
      else if tries < 2 then
        ({ s with hbm := { s.hbm with reissues := rest ++ [(⟨x.reader.val, ctx, line, tries + 1⟩ : ReIssue)] } } : State).reissueStall x loc.1 line true
      else (({ s with hbm := { s.hbm with reissues := rest } }).reissueStall x loc.1 line false).readLost x.reader.val ctx line bad)

end Sys2Proof.Machine
end

