-- ==== Sys2Proof/Machine/HostLink.lean ====
section
/-! DEFINITION. The host's side (13_host_link.md): doorbells, the command window, apertures, direct placement, the link and its
loss, context 0's registers, and the commands that make and end contexts and rings. -/

namespace Sys2Proof.Machine

def stApertureInvalid : Nat := 6
def stPlaceInvalid : Nat := 7
def stCtxInvalid : Nat := 0x0701
def stCtxExists : Nat := 0x0702
def stRingInvalid : Nat := 0x0704
def stRingExists : Nat := 0x0705
def stRingNotFaulted : Nat := 0x0706
def stRingBusy : Nat := 0x0707

def State.setHost (s : State) (f : HostSt → HostSt) : State := { s with host := f s.host }
def State.setLink (s : State) (f : LinkSt → LinkSt) : State := s.setHost (fun h => { h with link := f h.link })

/-! ### Rings (R396, R397) -/

/-- Where a ring lies in HBM. -/
def ringBase (ctx ring : Nat) : Nat := 0xFFD0000000 + 0x40000 * ctx + 0x10000 * ring

/-- Units made ready and not taken; completion records that the host has still to consume. -/
def Ring.ready (r : Ring) : Nat := (r.tail - r.head).toNat
def Ring.unread (r : Ring) : Nat := (r.cqTail - r.cqHead).toNat

/-- A new ring: its counts at 0, its units zeroed. -/
def State.makeRing (s : State) (ctx ring entries iova vector count ns : Nat) : State :=
  let r : Ring :=
    { tail := 0, head := 0, cqTail := 0, cqHead := 0, nextSeq := 0, cqEntries := entries, cqIova := iova, vector := vector
      coalCount := count, coalNs := ns, irqPending := 0, irqSince := none, faulted := false, pollSince := none, lastPoll := 0 }
  let base := ringBase ctx ring
  ({ s with hbm := s.hbm.zero base (base + 0x10000) }).setRing ctx ring r

/-- A new context (R393). -/
def State.makeContext (s : State) (ctx : Nat) (seed : W64) (rank window : Nat) : State :=
  let s := s.setTier (fun t => { t with
    stalls := t.stalls.filter (fun e => e.1 / 16 != ctx), late := mdel t.late ctx })
  let s := s.setHost (fun h => { h with ctxs := mset h.ctxs ctx ⟨seed, rank, window, false⟩ })
  { s with rst := { s.rst with progress := mset s.rst.progress ctx s.local_ } }

/-- A ring resumed: HEAD and SEQ set, the taking of packets on every ring of the context restarted (R403). -/
def State.resumeRing (s : State) (ctx ring : Nat) (head : W32) (seq : Nat) : State :=
  match s.ring? ctx ring, mget s.host.ctxs ctx with
  | some r, some c =>
    let s := s.setRing ctx ring { r with head := head, nextSeq := BitVec.ofNat 22 seq }
    s.setHost (fun h => { h with
      ctxs := mset h.ctxs ctx { c with faulted := false }
      rings := h.rings.map (fun e => if e.1 / 4 = ctx then (e.1, { e.2 with faulted := false, pollSince := none }) else e) })
  | _, _ => s

/-- HEAD of a resume lies from the old HEAD to TAIL. -/
def Ring.mayResume (r : Ring) (head : W32) : Bool := decide ((head - r.head).toNat ≤ r.ready)

/-! ### Doorbells (R397) -/

/-- A doorbell write that is ignored: counted, and reported with 1 for SQ_TAIL, 2 for CQ_HEAD. -/
def State.badDoorbell (s : State) (c : Ctx) (r : RingNo) (v : W32) (which : Nat) : State :=
  (s.setHost (fun h => { h with windowDoorbells := satAdd 32 h.windowDoorbells 1 })).raise 0x0203 (srcCp c.val r.val)
    (some c.val) [c.val, r.val, v.toNat, which]

def execDoorbellSqTailWrite (c : Ctx) (r : RingNo) (v : W32) (s : State) : Host.Outcome State Fault Refusal :=
  .next (
    if !s.hostUp then s
    else
      let s := s.beginWake
      match s.ring? c.val r.val with
      | none => s.badDoorbell c r v 1
      | some x =>
        let ahead := (v - x.head).toNat
        if ahead ≤ 1024 ∧ x.ready ≤ ahead then s.setRing c.val r.val { x with tail := v } else s.badDoorbell c r v 1)

def execDoorbellCqHeadWrite (c : Ctx) (r : RingNo) (v : W32) (s : State) : Host.Outcome State Fault Refusal :=
  .next (
    if !s.hostUp then s
    else
      let s := s.beginWake
      match s.ring? c.val r.val with
      | none => s.badDoorbell c r v 2
      | some x =>
        if (v - x.cqHead).toNat ≤ x.unread then s.setRing c.val r.val { x with cqHead := v } else s.badDoorbell c r v 2)

/-! ### Apertures (R391, R392) -/

/-- Causes of EV_HL_APERTURE_REFUSED. -/
def apUnbound : Nat := 1
def apPermission : Nat := 2
def apAbsent : Nat := 3
def apRecord : Nat := 4
def apNotResident : Nat := 5

/-- The cause that the page of an address gives for a refusal. -/
def pageCause (s : State) (ctx va : Nat) (write : Bool) : Option Nat :=
  match (if vaMbz va && vaSpace va == 0 then walk s ctx (vpnOf va) else .none) with
  | .entry v =>
    if write && !pteWrite v then some apPermission
    else if pteRecords v || ptePack v then some apRecord
    else if pteState v ≠ 0 then some apNotResident
    else none
  | _ => some apAbsent

/-- Some line of a stretch lies in a stack that is not READY. -/
def HbmSt.stackDown (h : HbmSt) (parts : List (Nat × Nat)) : Bool :=
  parts.any (fun p => (linesOf p.1 p.2).any (fun l => (mgetD h.stackList (h.locate (64 * l.1)).1 .reset).state != .ready))

/-- How an access of the host to a context's memory comes out. -/
inductive HostGot where
  | parts (l : List (Nat × Nat))
  | refused (cause : Nat)
  | waits
  deriving DecidableEq, Repr

/-- The checks of R392 but the aperture's own, over every page of the access; a refused one makes EVICTED pages return; a stack being retrained
refuses it (R450), a bank
held by a repair makes it wait (log entry 92). -/
def State.hostAccess (s : State) (ctx va n : Nat) (write : Bool) : State × HostGot :=
  let pages := pagesOf va n
  match pages.findSome? (fun p => pageCause s ctx p.1 write) with
  | some c => (s.missAll ctx 0 pages, .refused c)
  | none =>
    match lookupAll s ctx write (.other false) pages with
    | .ok l =>
      if s.hbm.stackDown l then (s, .refused apNotResident)
      else if s.hbm.stacksReady l then (s.touchAll ctx pages, .parts l)
      else (s, .waits)
    | .error _ => (s, .refused apAbsent)

/-- A refusal: counted, and reported at most once per aperture in 1 ms. -/
def State.refuseAperture (s : State) (a off cause : Nat) (write : Bool) : State :=
  let s := s.setHost (fun h =>
    if write then { h with apertureWrites := satAdd 32 h.apertureWrites 1 } else { h with apertureReads := satAdd 32 h.apertureReads 1 })
  s.raiseLimited a 1000000 0x0104 srcPcie none (fun n => [a, off, cause, n])

def execApertureWrite (a : Fin 16) (off : W32) (data : List Byte) (s : State) : Host.Outcome State Fault Refusal :=
  .next (
    let o := off.toNat
    if !s.hostUp then s
    else
      match mget s.host.apertures a.val with
      | none => s.refuseAperture a.val o apUnbound true
      | some b =>
        if !b.write then s.refuseAperture a.val o apPermission true
        else
          match s.hostAccess b.ctx (b.va + o) data.length true with
          | (s, .refused c) => s.refuseAperture a.val o c true
          | (s, .waits) => s
          | (s, .parts l) => ({ s with hbm := writeParts s.hbm b.ctx s.local_ l data }).settleWc s.hbm.wc)

/-- An uncorrectable read is reader code 7: no context is reset (R208). -/
def execApertureRead (a : Fin 16) (off : W32) (len : Nat) (s : State) : Host.Outcome State Fault Refusal :=
  .next (
    let o := off.toNat
    if !s.hostUp then s
    else
      match mget s.host.apertures a.val with
      | none => (s.refuseAperture a.val o apUnbound false).answer .unsupported
      | some b =>
        if !b.read then
          (s.refuseAperture a.val o apPermission false).answer .aborted
        else
          match s.hostAccess b.ctx (b.va + o) len false with
          | (s, .refused c) => (s.refuseAperture a.val o c false).answer .aborted
          | (s, .waits) => s
          | (s, .parts l) =>
            match l.findSome? (fun p => s.hbm.damagedIn p.1 p.2) with
            | some line => (s.uncorrectable 7 (some b.ctx) line 0).answer .aborted
            | none => ({ s with hbm := readPartsDir s.hbm l false }).answer (.data (peekParts s.hbm l)))

/-! ### The command window (R396) -/

/-- The part of a window write that lies in one ring. -/
def State.windowPart (s : State) (off : Nat) (bs : List Byte) : State :=
  let ctx := off / 0x40000
  if (s.ring? ctx (off / 0x10000 % 4)).isSome then
    ({ s with hbm := s.hbm.write ctx s.local_ (0xFFD0000000 + off) bs }).settleWc s.hbm.wc
  else s.setHost (fun h => { h with windowDrops := satAdd 32 h.windowDrops 1 })

/-- A write through BAR 4, ring by ring. One that reaches a stack being retrained is refused as an aperture access is, under the
aperture number 0xFFFF (R450); in Rest, where R431 refuses aperture accesses alone, it is performed (log entry 54). -/
def execCommandWindowWrite (off : BitVec 28) (data : List Byte) (s : State) : Host.Outcome State Fault Refusal :=
  .next (
    let o := off.toNat
    let place := [(0xFFD0000000 + o, data.length)]
    let resting := s.cur.power == .rest
    if !s.hostUp then s
    else if !resting && s.hbm.stackDown place && (s.ring? (o / 0x40000) (o / 0x10000 % 4)).isSome then
      s.refuseAperture 0xFFFF o apNotResident true
    else if !resting && !s.hbm.stackDown place && !s.hbm.stacksReady place then s
    else
      (List.range ((o + data.length + 0xFFFF) / 0x10000 - o / 0x10000)).foldl (fun s j =>
        let lo := max o ((o / 0x10000 + j) * 0x10000)
        let hi := min (o + data.length) ((o / 0x10000 + j + 1) * 0x10000)
        s.windowPart lo (bsub data (lo - o) (hi - lo))) s)

/-! ### Direct placement (R411) -/

def State.isPlacer (s : State) (requester : Nat) : Bool := s.host.placements.any (fun p => p.2.requester == requester)

/-- A dropped write of a placement requester: counted, and reported at most once per entry in 1 ms. -/
def State.dropPlacement (s : State) (requester off entry : Nat) : State :=
  let s := s.setHost (fun h => { h with placeDropped := satAdd 32 h.placeDropped 1, placeLast := requester })
  s.raiseLimited entry 1000000 0x0105 srcPcie none (fun n => [requester, off, entry, n])

def execPlacementWrite (requester : BitVec 16) (off : BitVec 36) (data : List Byte) (s : State) :
    Host.Outcome State Fault Refusal :=
  .next (
    let r := requester.toNat
    let o := off.toNat
    let hi := o + data.length
    if !s.hostUp || !s.isPlacer r then s
    else
      match s.host.placements.find? (fun p => p.2.requester == r && decide (p.2.offset ≤ o) && decide (hi ≤ p.2.offset + p.2.length)) with
      | none => s.dropPlacement r o 0xFFFF
      | some (i, p) =>
        match s.hostAccess p.ctx (p.va + (o - p.offset)) data.length true with
        | (s, .refused _) => s.dropPlacement r o i
        | (s, .waits) => s
        | (s, .parts l) =>
          let s := ({ s with hbm := writeParts s.hbm p.ctx s.local_ l data }).settleWc s.hbm.wc
          match p.sigPeg with
          | some g => if hi = p.offset + p.length then s.completionSignal p.ctx g 1 srcPcie else s
          | none => s)

def execPlacementRead (requester : BitVec 16) (_off : BitVec 36) (_len : Nat) (s : State) : Host.Outcome State Fault Refusal :=
  .next (if s.hostUp && s.isPlacer requester.toNat then s.answer .unsupported else s)

/-! ### Context 0's registers (R395, R403) -/

/-- HL_CTX0_CTRL: ENABLE creates context 0 and its ring 0 when it does not exist and the Askax is ready. -/
def execHlCtx0EnableWrite (v : RegValue) (s : State) : Host.Outcome State Fault Refusal :=
  .next (
    if !s.hostUp then s
    else
      match s.write64 rCtx0Ctrl v with
      | (s, none) => s
      | (s, some x) =>
        let s := s.setReg rCtx0Ctrl x
        let n := x.toNat
        if !n.testBit 0 || mhas s.host.ctxs 0 || !s.rst.ready then s
        else
          let s := s.makeRing 0 0 (2 ^ (6 + min 10 (bits n 4 1))) (s.reg rCtx0CqBase / 4096 * 4096) (max 1 (bits n 15 5))
            (max 1 (bits n 31 16)) (bits n 63 32)
          s.makeContext 0 0 0 60000000000)

def execHlCtx0ResumeWrite (v : RegValue) (s : State) : Host.Outcome State Fault Refusal :=
  .next (
    if !s.hostUp then s
    else
      match s.write64 rCtx0Resume v with
      | (s, none) => s
      | (s, some x) =>
        let ring := s.reg rCtx0RingSel % 4
        let head := x.setWidth 32
        match mget s.host.ctxs 0, s.ring? 0 ring with
        | some c, some r => if c.faulted && r.mayResume head then s.resumeRing 0 ring head (bits x.toNat 53 32) else s
        | _, _ => s)

/-! ### The commands of this chapter (R415) -/

def checkBind (p : List Byte) : Option Nat :=
  let va := fld p 24 8
  if decide (fld p 16 1 < 16) && decide (fld p 17 1 < 4) && zeroBytes p 18 20 && zeroBytes p 22 24 && vaSpace va == 0 &&
      vaMbz va && va % 2 ^ 32 == 0 && zeroBytes p 32 64 then none
  else some stApertureInvalid
def checkUnbind (p : List Byte) : Option Nat :=
  if decide (fld p 16 1 < 16) && zeroBytes p 17 64 then none else some stApertureInvalid
/-- The range, base and peg of an entry count only when it is valid. -/
def checkPlace (p : List Byte) : Option Nat :=
  let off := fld p 24 8
  let len := fld p 32 8
  let va := fld p 40 8
  let flags := fld p 17 1
  let range := off % 4096 == 0 && len % 4096 == 0 && decide (off + len ≤ 2 ^ 36) && vaSpace va == 0 && vaMbz va && va % 4096 == 0
  if decide (flags < 4) && zeroBytes p 22 24 && zeroBytes p 52 64 && (!flags.testBit 0 || range) then none
  else some stPlaceInvalid
def checkCtxCreate (p : List Byte) : Option Nat :=
  let c := fld p 16 2
  let w := fld p 32 8
  if decide (1 ≤ c) && decide (c ≤ 1023) && decide (fld p 18 2 ≤ 65534) && zeroBytes p 20 24 && decide (1000000 ≤ w) &&
      decide (w ≤ 60000000000) && zeroBytes p 40 64 then none
  else some stCtxInvalid
def checkCtxDestroy (p : List Byte) : Option Nat :=
  if decide (1 ≤ fld p 16 2) && decide (fld p 16 2 ≤ 1023) && zeroBytes p 18 64 then none else some stCtxInvalid
def checkRingCreate (p : List Byte) : Option Nat :=
  let n := fld p 20 4
  let sizes := (List.range 11).map (fun j => 2 ^ (6 + j))
  let v := fld p 32 2
  if decide (fld p 18 1 < 4) && zeroBytes p 19 20 && sizes.contains n && fld p 24 8 % 4096 == 0 && decide (1 ≤ v) &&
      decide (v ≤ 2047) && decide (1 ≤ fld p 34 2) && zeroBytes p 40 64 then none
  else some stRingInvalid
def checkRingDestroy (p : List Byte) : Option Nat :=
  if decide (fld p 18 1 < 4) && zeroBytes p 19 64 then none else some stRingInvalid
def checkRingResume (p : List Byte) : Option Nat :=
  if decide (fld p 18 1 < 4) && zeroBytes p 19 20 && decide (fld p 24 4 < 2 ^ 22) && zeroBytes p 28 64 then none
  else some stRingInvalid

def execNop (q : CmdRef) (s : State) : Host.Outcome State Fault Refusal :=
  .next (s.perform q 0x0000 (fun s _ => s.complete q stOk 0 0))

/-- Every access under the old binding has been performed when a row ends, so the new one takes effect at once. -/
def execApertureBind (q : CmdRef) (s : State) : Host.Outcome State Fault Refusal :=
  .next (s.perform q 0x0010 (fun s t =>
    let ctx := t.par 20 2
    if !mhas s.host.ctxs ctx then s.complete q stApertureInvalid 0 0
    else
      let b : Aperture := ⟨ctx, t.par 24 8, (t.par 17 1).testBit 0, (t.par 17 1).testBit 1⟩
      (s.setHost (fun h => { h with apertures := mset h.apertures (t.par 16 1) b })).complete q stOk 0 0))

def execApertureUnbind (q : CmdRef) (s : State) : Host.Outcome State Fault Refusal :=
  .next (s.perform q 0x0011 (fun s t =>
    (s.setHost (fun h => { h with apertures := mdel h.apertures (t.par 16 1) })).complete q stOk 0 0))

def Placement.overlaps (p x : Placement) : Bool :=
  p.requester == x.requester && decide (p.offset < x.offset + x.length) && decide (x.offset < p.offset + p.length)

def execPlaceSet (q : CmdRef) (s : State) : Host.Outcome State Fault Refusal :=
  .next (s.perform q 0x0012 (fun s t =>
    let i := t.par 16 1
    let flags := t.par 17 1
    if !flags.testBit 0 then (s.setHost (fun h => { h with placements := mdel h.placements i })).complete q stOk 0 0
    else
      let ctx := t.par 20 2
      let peg := t.par 48 4
      let sig := flags.testBit 1
      let x : Placement := ⟨t.par 18 2, ctx, t.par 24 8, t.par 32 8, t.par 40 8, if sig then some peg else none⟩
      if !mhas s.host.ctxs ctx || (sig && !(decide (peg < pegCount) && s.pegOwned ctx peg)) ||
          s.host.placements.any (fun p => p.1 != i && p.2.overlaps x) then s.complete q stPlaceInvalid 0 0
      else (s.setHost (fun h => { h with placements := mset h.placements i x })).complete q stOk 0 0))

def execCtxCreate (q : CmdRef) (s : State) : Host.Outcome State Fault Refusal :=
  .next (s.perform q 0x0700 (fun s t =>
    let ctx := t.par 16 2
    if mhas s.host.ctxs ctx then s.complete q stCtxExists 0 0
    else
      let s := s.makeContext ctx (BitVec.ofNat 64 (t.par 24 8)) (t.par 18 2) (t.par 32 8)
      let s := s.raise 0x0204 (srcCp q.ctx.val q.ring.val) (some ctx) [ctx, t.par 18 2, t.par 32 8, 0]
      s.complete q stOk 0 0))

/-- CTX_DESTROY: an L0 reset first; its end frees what the context holds. One that runs already is joined. -/
def execCtxDestroy (q : CmdRef) (s : State) : Host.Outcome State Fault Refusal :=
  .next (s.perform q 0x0701 (fun s t =>
    let ctx := t.par 16 2
    if !mhas s.host.ctxs ctx then s.complete q stCtxAbsent 0 0
    else
      let s := (s.startL0 ctx 2).startTaken q
      s.setRst (fun r => { r with l0 := mupd r.l0 ctx ⟨2, s.local_, [], [], none⟩ (fun e => { e with destroy := some q }) })))

def execRingCreate (q : CmdRef) (s : State) : Host.Outcome State Fault Refusal :=
  .next (s.perform q 0x0702 (fun s t =>
    let ctx := t.par 16 2
    let ring := t.par 18 1
    if !mhas s.host.ctxs ctx then s.complete q stCtxAbsent 0 0
    else if (s.ring? ctx ring).isSome then s.complete q stRingExists 0 0
    else (s.makeRing ctx ring (t.par 20 4) (t.par 24 8) (t.par 32 2) (t.par 34 2) (t.par 36 4)).complete q stOk 0 0))

def execRingDestroy (q : CmdRef) (s : State) : Host.Outcome State Fault Refusal :=
  .next (s.perform q 0x0703 (fun s t =>
    let ctx := t.par 16 2
    let ring := t.par 18 1
    if !mhas s.host.ctxs ctx then s.complete q stCtxAbsent 0 0
    else if (s.ring? ctx ring).isNone then s.complete q stRingInvalid 0 0
    else if s.host.taken.any (fun x => x.q.ctx.val == ctx && x.q.ring.val == ring) then s.complete q stRingBusy 0 0
    else (s.setHost (fun h => { h with rings := mdel h.rings (ringKey ctx ring) })).complete q stOk 0 0))

def execRingResume (q : CmdRef) (s : State) : Host.Outcome State Fault Refusal :=
  .next (s.perform q 0x0704 (fun s t =>
    let ctx := t.par 16 2
    let ring := t.par 18 1
    let head := BitVec.ofNat 32 (t.par 20 4)
    match mget s.host.ctxs ctx, s.ring? ctx ring with
    | none, _ => s.complete q stCtxAbsent 0 0
    | some _, none => s.complete q stRingInvalid 0 0
    | some c, some r =>
      if !c.faulted then s.complete q stRingNotFaulted 0 0
      else if r.mayResume head then (s.resumeRing ctx ring head (t.par 24 4)).complete q stOk 0 0
      else s.complete q stRingInvalid 0 0))

/-! ### The interrupt timer (R409) -/

def execInterruptCoalesceTimeout (c : Ctx) (r : RingNo) (s : State) : Host.Outcome State Fault Refusal :=
  .next (
    match (if s.alive then s.ring? c.val r.val else none) with
    | none => s
    | some x =>
      match x.irqSince with
      | some t => if x.coalNs ≠ 0 ∧ t + x.coalNs ≤ s.local_ then s.signalRing c.val r.val else s
      | none => s)

/-! ### The link (R388, R412) -/

/-- Widths and rate codes that a link can have; 64 and 128 GT/s are in FLIT mode. -/
def linkForms (rate width : Nat) (flit : Bool) : Bool :=
  [4, 8, 16].contains width && decide (1 ≤ rate) && decide (rate ≤ 7) && (flit || decide (rate < 6))

/-- A link that can be trained now: with a lane left out it is narrower than x16 (R453). -/
def State.mayTrain (s : State) (rate width : Nat) (flit : Bool) : Bool :=
  linkForms rate width flit && (!s.host.link.laneOut || width != 16)

def HostOut.isRead : HostOut → Bool
  | .read _ _ _ => true
  | _ => false

/-- The last `n` posted writes of a list, newest first, taken out of it: what stays (newest first), and what is taken (oldest
first). -/
def takeWrites (n : Nat) : List HostOut → List HostOut × List HostOut
  | [] => ([], [])
  | o :: r =>
    match n with
    | 0 => (o :: r, [])
    | k + 1 =>
      if o.isRead then
        let p := takeWrites (k + 1) r
        (o :: p.1, p.2)
      else
        let p := takeWrites k r
        (p.1, p.2 ++ [o])

/-- The contexts whose host-tier writes are among some writes. -/
def tierContexts (l : List HostOut) : List Nat :=
  (l.filterMap (fun o => match o with
    | .tier c _ _ _ => some c
    | _ => none)).eraseDups

/-- Completion records any write of which is among some writes. -/
def lostRecords (l : List HostOut) : Nat :=
  (l.filterMap (fun o => match o with
    | .completion c r n _ _ => some (c, r, n)
    | _ => none)).eraseDups.length

/-- DL_Down: the last `lost` posted writes were not acknowledged. -/
def execDlDown (lost : Nat) (s : State) : Host.Outcome State Fault Refusal :=
  .next (
    if !s.hostUp then s
    else
      let p := takeWrites lost s.hostOut.reverse
      let resend := lostRecords p.2
      let s := { s with hostOut := p.1.reverse }
      let s := s.setLink (fun l => { l with
        dlUp := false, rate := 0, width := 0, flit := false, downs := satAdd 16 l.downs 1, downSince := some s.local_
        lost := p.2 })
      s.raise 0x0102 srcPcie none [p.2.length, resend, (tierContexts p.2).length, 0])

/-- What becomes of one lost write when the link is back in time. -/
def State.repeatLost (s : State) (o : HostOut) : State :=
  match o with
  | .completion _ _ _ _ _ => s.toHost o
  | .msix _ => s.toHost o
  | .catExport _ bs =>
    match s.cat.exportRing with
    | none => s
    | some g =>
      if bs.length ≠ 64 then s
      else
        let first := if g.dropped = 0 then BitVec.ofNat 32 (fld bs 16 4) else g.firstDropped
        { s with cat := { s.cat with
            globalLost := satAdd 32 s.cat.globalLost 1, exportRing := some { g with dropped := g.dropped + 1, firstDropped := first } } }
  | .tier ctx va iova _ =>
    let f := s.free
    (f.2.raise 0x0407 srcPcie (some ctx) [ctx, va, iova, f.1.toNat]).startL0 ctx 10
  | _ => s

/-- A request that waited for the link is sent; a host-tier write is complete with it (R247). -/
def State.flushOne (s : State) (o : HostOut) : State :=
  let s := s.toHost o
  match o with
  | .tier ctx va _ _ =>
    s.setTier (fun t => { t with remotes := t.remotes.map (fun r =>
      if r.2.ctx == ctx && r.2.va == va && r.2.write && r.2.node.isNone then (r.1, { r.2 with acked := true }) else r) })
  | _ => s

/-- The link comes up: EV_HL_LINK_UP. -/
def State.linkUp (s : State) (rate width : Nat) (flit : Bool) : State :=
  let s := s.setLink (fun l => { l with dlUp := true, rate := rate, width := width, flit := flit, downSince := none })
  s.raise 0x0101 srcPcie none [rate, width, bit01 flit, 0]

/-! ### Loss of the host (R413) -/

/-- A host-loss reset: causes 1 hold time, 2 FLR, 3 PERST_N. The stacks stand in self-refresh across it (R413); it is one step, at
whose end they are READY again (log entry 118). The STAT_ counters go back to 0 (06_scaling.md); GLB_RWP_REJECT
keeps its value (log entry 102). What leaves for the host while it runs is lost with the
rest (log entry 91). -/
def State.hostLoss (s : State) (cause : Nat) : State :=
  let up := s.host.link.dlUp
  let ctxs := s.host.ctxs.map (·.1)
  let down := (s.host.link.downSince.map (fun t => s.local_ - t)).getD 0
  let s := s.setLink (fun l => { l with dlUp := false, hostLosses := satAdd 16 l.hostLosses 1, downSince := none })
  let s := { s with cat := { s.cat with exportRing := none }, stat := .reset }
  let s := s.raise 0x0103 srcPcie none [cause, down, ctxs.length, 0]
  let held := s.readyStacks
  let s := (s.drainStacks (List.range 16)).stackStates .ready .selfRefresh
  let s := ctxs.foldl (fun s c => ((s.clearWork c).completeReset c).destroyContext c) s
  let s := s.setHost (fun h => { h with
    ctxs := [], rings := [], taken := [], lastRing := none, apertures := [], placements := [], msix := [], config := []
    link := { h.link with dlUp := up, lost := [], waiting := [] } })
  let s := s.setRst (fun r => { r with
    l0 := [], l1 := r.l1.map (fun x => { x with after := [], asked := [] })
    l2 := r.l2.map (fun e => (e.1, { e.2 with asked := [] })), l3 := r.l3.map (fun b => { b with asked := [] }) })
  let gone := [rCtx0CqBase, rCtx0Ctrl, rCtx0Resume, rCtx0RingSel]
  let s := { s with
    regs := s.regs.filter (fun e => !gone.contains e.1), held := s.held.filter (fun e => !gone.contains e.1) }
  (held.foldl (fun s n => s.setStack n { s.stack n with state := .ready }) s).pushBig

/-- DL_Up: within the hold time the lost writes are dealt with by kind and the waiting requests leave; after it the host is
lost (log entry 92). -/
def execDlUp (rate width : Nat) (flit : Bool) (s : State) : Host.Outcome State Fault Refusal :=
  .next (
    if !s.alive || s.host.link.dlUp || !s.host.perstN || !s.mayTrain rate width flit then s
    else
      match s.host.link.downSince with
      | none => s.linkUp rate width flit
      | some t =>
        if t + 1000000 * s.holdMs < s.local_ then (s.hostLoss 1).linkUp rate width flit
        else
          let lost := s.host.link.lost
          let waiting := s.host.link.waiting
          let s := (s.setLink (fun l => { l with lost := [], waiting := [] })).linkUp rate width flit
          let s := lost.foldl State.repeatLost s
          waiting.foldl State.flushOne s)

def execHoldTimeExpiry (s : State) : Host.Outcome State Fault Refusal :=
  .next (
    match (if s.alive then s.host.link.downSince else none) with
    | some t => if t + 1000000 * s.holdMs ≤ s.local_ then s.hostLoss 1 else s
    | none => s)

def execFunctionLevelReset (s : State) : Host.Outcome State Fault Refusal :=
  .next (if s.hostUp && s.board.functionReady then s.hostLoss 2 else s)

/-- In service, PERST_N loses the host at once; before that it only takes the link down. -/
def execPerstNAssert (s : State) : Host.Outcome State Fault Refusal :=
  .next (
    if !s.alive || !s.host.perstN then s
    else
      let up := s.host.link.dlUp
      let s := if s.serving then s.hostLoss 3 else s
      let s := s.setHost (fun h => { h with perstN := false })
      s.setLink (fun l => { l with
        dlUp := false, downs := if up then satAdd 16 l.downs 1 else l.downs, rate := 0, width := 0, flit := false
        downSince := none }))

def execPerstNRelease (rate width : Nat) (flit : Bool) (s : State) : Host.Outcome State Fault Refusal :=
  .next (
    if !s.alive || s.host.perstN then s
    else
      let s := s.setHost (fun h => { h with perstN := true })
      if s.mayTrain rate width flit then s.linkUp rate width flit else s)

/-! ### Configuration requests (R388, R480) -/

/-- A dword of configuration space: the IDs and the class code of R1, what the host wrote, or a free value (log entry 53). -/
def State.configRead (s : State) (off : Nat) : W32 :=
  if off = 0 then 0x0A101F3C
  else if off = 8 then 0x120000B0
  else (mget s.host.config off).getD (Config.configDword off)

def execConfigurationRequest (off : BitVec 12) (write : Option W32) (s : State) : Host.Outcome State Fault Refusal :=
  .next (
    let o := off.toNat / 4 * 4
    if !s.hostUp then s
    else if !s.board.functionReady then s.answer .retry
    else
      match write with
      | some v => s.setHost (fun h => { h with config := mset h.config o v })
      | none => s.answer (.config (s.configRead o)))

end Sys2Proof.Machine
end

