-- ==== Sys2Proof/Machine/Identity.lean ====
section
/-! DEFINITION. Attestation (16_boot_and_identity.md R482 to R485) and the test access port (17_pins_and_power.md R508). -/

namespace Sys2Proof.Machine

/-! ### SPDM (R483 to R485) -/

/-- The responder is reached: over DOE while the host link is up and the function is ready, over MCTP while the Curator runs; from
phase WAIT_IMAGE on. -/
def State.spdmReached (s : State) (t : Transport) : Bool :=
  s.alive && s.board.phase != .rom &&
    (match t with
      | .doe => s.hostUp && s.board.functionReady
      | .mctp => s.cur.restartSince.isNone)

def State.spdmConn (s : State) (t : Transport) : SpdmConn := ((s.board.spdm.find? (fun c => c.1 == t)).map (·.2)).getD .reset

def State.setConn (s : State) (t : Transport) (c : SpdmConn) : State :=
  s.setBoard (fun b => { b with spdm := (t, c) :: b.spdm.filter (fun x => x.1 != t) })

def State.spdmAnswer (s : State) (t : Transport) (a : SpdmAnswer) : State :=
  s.setBoard (fun b => { b with spdmOut := b.spdmOut ++ [(t, a)] })

/-- A request: Busy during an L3, Unexpected before its place in the sequence, otherwise answered. -/
def State.spdm (s : State) (t : Transport) (allowed : SpdmConn → Bool) (f : State → State) : State :=
  if !s.spdmReached t then s
  else if s.rst.l3.isSome then s.spdmAnswer t .busy
  else if allowed (s.spdmConn t) then f s
  else s.spdmAnswer t .unexpected

/-- GET_VERSION begins a connection anew. -/
def execGetVersion (t : Transport) (s : State) : Host.Outcome State Fault Refusal :=
  .next (s.spdm t (fun _ => true) (fun s => (s.setConn t ⟨true, false, false⟩).spdmAnswer t .version))

def execGetCapabilities (t : Transport) (s : State) : Host.Outcome State Fault Refusal :=
  .next (s.spdm t (fun c => c.version) (fun s => (s.setConn t ⟨true, true, false⟩).spdmAnswer t .capabilities))

/-- Ed25519 with SHA-384 is all that the responder supports. -/
def execNegotiateAlgorithms (t : Transport) (offersEd25519 offersSha384 : Bool) (s : State) : Host.Outcome State Fault Refusal :=
  .next (s.spdm t (fun c => c.caps) (fun s =>
    if offersEd25519 && offersSha384 then (s.setConn t ⟨true, true, true⟩).spdmAnswer t .algorithms
    else s.spdmAnswer t .invalid))

def execGetDigests (t : Transport) (s : State) : Host.Outcome State Fault Refusal :=
  .next (s.spdm t (fun c => c.algorithms) (fun s =>
    s.spdmAnswer t (.digests [Config.sha384 (Config.certificateChain 0), Config.sha384 (Config.certificateChain 1)])))

/-- A chunk of a chain, and how much is left after it. -/
def execGetCertificate (t : Transport) (slot off len : Nat) (s : State) : Host.Outcome State Fault Refusal :=
  .next (s.spdm t (fun c => c.algorithms) (fun s =>
    let chain := Config.certificateChain slot
    if 2 ≤ slot ∨ chain.length ≤ off then s.spdmAnswer t .invalid
    else
      let part := (chain.drop off).take len
      s.spdmAnswer t (.certificate part (chain.length - off - part.length))))

/-- Thirty-two bytes of the responder's own: free values. -/
def State.nonce (s : State) : List Byte × State :=
  ((List.range 32).map (Config.freeByte s.freeCtr), { s with freeCtr := s.freeCtr + 1 })

/-- A challenge answered with both signatures over one signing input: the chain's digest, the responder's nonce, the
requester's (log entry 6). -/
def execChallenge (t : Transport) (slot : Nat) (nonce : List Byte) (s : State) : Host.Outcome State Fault Refusal :=
  .next (s.spdm t (fun c => c.algorithms) (fun s =>
    if 2 ≤ slot then s.spdmAnswer t .invalid
    else
      let n := s.nonce
      let body := leBytes 48 (Config.sha384 (Config.certificateChain slot)).toNat ++ n.1 ++ nonce
      n.2.spdmAnswer t (.challenge slot body (Config.ed25519Sign body) (Config.mldsaSign body))))

def digestBytes (b : List Byte) : List Byte := leBytes 48 (Config.sha384 b).toNat

/-- A measurement (R485). Before an image or configuration has been committed, 3, 4 and 5 are zero. -/
def State.measurement (s : State) (i : Nat) : List Byte :=
  match i with
  | 1 => Config.romVersions
  | 2 =>
    match s.board.patch with
    | some p => digestBytes p.2
    | none => List.replicate 48 0
  | 3 => if s.board.running = 0 then List.replicate 48 0 else digestBytes (s.hbm.peek runningBase 2112)
  | 4 =>
    if s.board.running = 0 then List.replicate 10 0
    else leBytes 4 s.board.version ++ leBytes 4 s.board.svn ++ leBytes 1 s.board.rollback ++ leBytes 1 s.board.keySlots
  | 5 => if s.board.config.isEmpty then List.replicate 48 0 else digestBytes s.board.config
  | _ => []

/-- Signed measurements of one instant: one by its index, all with 0xFF, their number alone with 0 (log entry 94). -/
def execGetMeasurements (t : Transport) (index : Nat) (nonce : List Byte) (s : State) : Host.Outcome State Fault Refusal :=
  .next (s.spdm t (fun c => c.algorithms) (fun s =>
    let which : Option (List Nat) :=
      if index = 0 then some [] else if index = 0xFF then some [1, 2, 3, 4, 5] else if index ≤ 5 then some [index] else none
    match which with
    | none => s.spdmAnswer t .invalid
    | some l =>
      let blocks := l.map (fun i => (i, s.measurement i))
      let n := s.nonce
      let body := blocks.flatMap (fun b => BitVec.ofNat 8 b.1 :: b.2) ++ n.1 ++ nonce
      n.2.spdmAnswer t (.measurements blocks (Config.ed25519Sign body) (Config.mldsaSign body))))

/-! ### The test access port (R508; log entry 41) -/

/-- IEEE 1149.1's state diagram. -/
def TapState.next (x : TapState) (tms : Bool) : TapState :=
  match x with
  | .testLogicReset => if tms then .testLogicReset else .runTestIdle
  | .runTestIdle => if tms then .selectDr else .runTestIdle
  | .selectDr => if tms then .selectIr else .captureDr
  | .captureDr => if tms then .exit1Dr else .shiftDr
  | .shiftDr => if tms then .exit1Dr else .shiftDr
  | .exit1Dr => if tms then .updateDr else .pauseDr
  | .pauseDr => if tms then .exit2Dr else .pauseDr
  | .exit2Dr => if tms then .updateDr else .shiftDr
  | .updateDr => if tms then .selectDr else .runTestIdle
  | .selectIr => if tms then .testLogicReset else .captureIr
  | .captureIr => if tms then .exit1Ir else .shiftIr
  | .shiftIr => if tms then .exit1Ir else .shiftIr
  | .exit1Ir => if tms then .updateIr else .pauseIr
  | .pauseIr => if tms then .exit2Ir else .pauseIr
  | .exit2Ir => if tms then .updateIr else .shiftIr
  | .updateIr => if tms then .selectDr else .runTestIdle

/-- The instructions by number; the codes are the part's. All ones is BYPASS. -/
def tapInstr (b : List Bool) : TapInstr :=
  if b.all id then .bypass
  else
    match Config.tapDecode b % 8 with
    | 0 => .sample
    | 1 => .preload
    | 2 => .extest
    | 3 => .extestPulse
    | 4 => .extestTrain
    | 5 => .clamp
    | 6 => .highz
    | _ => .bypass

/-- Instructions that take control of lands. -/
def TapInstr.takesLands : TapInstr → Bool
  | .extest | .extestPulse | .extestTrain | .clamp | .highz => true
  | _ => false

/-- Instructions that select the boundary register. -/
def TapInstr.boundary : TapInstr → Bool
  | .sample | .preload | .extest | .extestPulse | .extestTrain => true
  | _ => false

/-- The instruction as it acts: one that takes control of lands is BYPASS outside phases ROM and WAIT_IMAGE. -/
def TapSt.acting (t : TapSt) (p : BootPhase) : TapInstr :=
  if t.instr.takesLands && p != .rom && p != .waitImage then .bypass else t.instr

/-- What one cycle of TCK does in the present state; `f` is a bit that the manual leaves open. -/
def TapSt.act (t : TapSt) (p : BootPhase) (tdi f : Bool) : TapSt :=
  let i := t.acting p
  match t.state with
  | .captureDr => if i.boundary then { t with boundary := [], tdo := none } else { t with bypass := false, tdo := none }
  | .shiftDr =>
    if i.boundary then { t with boundary := t.boundary ++ [tdi], tdo := some f }
    else { t with bypass := tdi, tdo := some t.bypass }
  | .updateDr => if i.boundary && i != .sample then { t with latched := t.boundary, tdo := none } else { t with tdo := none }
  | .captureIr => { t with irBits := [], tdo := none }
  | .shiftIr =>
    { t with irBits := t.irBits ++ [tdi]
             tdo := some (if t.irBits.length = 0 then true else if t.irBits.length = 1 then false else f) }
  | .updateIr => { t with instr := tapInstr t.irBits, tdo := none }
  | _ => { t with tdo := none }

/-- One step of the TAP. TRST_N, and Test-Logic-Reset, select BYPASS. -/
def execTapOperation (x : TapStep) (s : State) : Host.Outcome State Fault Refusal :=
  .next (
    if !s.alive then s
    else
      let f := s.free
      let s := f.2
      let t := s.board.tap
      let p := s.board.phase
      let t :=
        if !x.trstN then TapSt.reset
        else
          let t := t.act p x.tdi (f.1.getLsbD 0)
          let t := { t with state := t.state.next x.tms }
          if t.state = .testLogicReset then { t with instr := .bypass } else t
      s.setBoard (fun b => { b with tap := { t with lands := (t.acting p).takesLands } }))

end Sys2Proof.Machine
end

