-- ==== Sys2Proof/Machine/Matrix.lean ====
section
/-! DEFINITION. The matrix multiply (04_cores.md R99 to R107, 03_numbers.md R75 to R79, R90, R91, 05_core_programs.md R152). -/

namespace Sys2Proof.Machine

/-- R101: the pairs of operand formats that one multiply takes. -/
def pairAllowed (a b : Fmt) : Bool :=
  (a == b && a != .int32) ||
  (match a, b with
   | .e4m3, .e5m2 | .e5m2, .e4m3 | .int8, .uint8 | .uint8, .int8 | .int4, .uint4 | .uint4, .int4 => true
   | _, _ => false)

def Fmt.isInt (f : Fmt) : Bool := f.int?.isSome

/-- Depth of a tile (R99). -/
def tileK (f : Fmt) : Nat := 512 / f.bits

/-- Element code `k` of a tile row: rows are 64 B, element 0 lowest (R64, R100). -/
def rowCode (c : CoreSt) (base r : Nat) (f : Fmt) (k : Nat) : Nat :=
  let bit := k * f.bits
  let off := base + 64 * r + bit / 8
  if f.bits = 4 then (memByte c.ts off).toNat / (if k % 2 = 0 then 1 else 16) % 16
  else leNat (c.tsRead off (f.bits / 8))

/-- Side entry of block `g` of a row (R100). -/
def rowSide (c : CoreSt) (base r : Nat) (f : Fmt) (g : Nat) : Nat :=
  leNat (c.tsRead (base + r * (tileK f / 32) * 2 + 2 * g) 2)

/-- Zero point of an integer operand, from its field (R152). -/
def zpValue (f : Fmt) (raw : Nat) : Int := intOfCode f (raw % 2 ^ f.bits)

/-- Exact sum of a group's products; the sum of none is −0, the identity of the addition (log entry 68). -/
def groupSum (l : List FVal) : FVal := FVal.sum (.fin true 0 0) l

def addRound (acc : W32) (g : FVal) : W32 := toF32 ((f32 acc).add g)

/-- Integer accumulation under SAT (R79). -/
def addInt (sat : Bool) (acc : W32) (n : Int) : W32 :=
  let x := acc.toInt + n
  if sat then BitVec.ofInt 32 (max (-2147483648) (min 2147483647 x)) else BitVec.ofInt 32 x

/-- The operands of one multiply. -/
structure MmaOps where
  fa : Fmt
  fb : Fmt
  aBase : Nat
  bBase : Nat
  saBase : Nat
  sbBase : Nat
  za : Int
  zb : Int
  sab : W32
  sat : Bool
  passes : Nat
  deriving DecidableEq, Repr

/-- The product of two BF16 pieces; in a sweep other than a₀b₀ a zero piece contributes +0 (R107). -/
def pieceProduct (main : Bool) (a b : Nat) : FVal :=
  let x := bf16Fmt.decode a
  let y := bf16Fmt.decode b
  if !main && (x.isZero || y.isZero) then .fin false 0 0 else x.mul y

/-- The sweeps of R107 in their order, as piece numbers of a and b. -/
def sweeps (passes : Nat) : List (Nat × Nat) :=
  (if passes = 3 then [(2, 0), (1, 1), (0, 2)] else []) ++ (if 2 ≤ passes then [(1, 0), (0, 1)] else []) ++ [(0, 0)]

def piece (t : Nat × Nat × Nat) (n : Nat) : Nat := match n with | 0 => t.1 | 1 => t.2.1 | _ => t.2.2

/-- One element of the tile after the multiply (R104 to R107). -/
def mmaElem (c : CoreSt) (o : MmaOps) (acc : W32) (i j : Nat) : W32 :=
  let kk := tileK o.fa
  let groups := (List.range (kk / 32 + (if kk < 32 then 1 else 0)))
  let idx := fun (g : Nat) => (List.range (min 32 kk)).map (fun t => 32 * g + t)
  let ca := fun k => rowCode c o.aBase i o.fa k
  let cb := fun k => rowCode c o.bBase j o.fb k
  if o.fa == .fp32 then
    let ps := (List.range 16).map (fun k => (split3 (BitVec.ofNat 32 (ca k)), split3 (BitVec.ofNat 32 (cb k))))
    (sweeps o.passes).foldl (fun acc sw =>
      addRound acc (groupSum (ps.map (fun p => pieceProduct (sw == (0, 0)) (piece p.1 sw.1) (piece p.2 sw.2))))) acc
  else if o.fa.isInt then
    groups.foldl (fun acc g =>
      addInt o.sat acc ((idx g).foldl (fun s k => s + (intOfCode o.fa (ca k) - o.za) * (intOfCode o.fb (cb k) - o.zb)) 0)) acc
  else if o.fa.isSb then
    groups.foldl (fun acc g =>
      let ea := rowSide c o.saBase i o.fa g
      let eb := rowSide c o.sbBase j o.fb g
      let sum := groupSum ((idx g).map (fun k => (sbRaw o.fa ea (ca k)).mul (sbRaw o.fb eb (cb k))))
      addRound acc (((sum.mul (e4m3Fmt.decode (sideScale ea))).mul (e4m3Fmt.decode (sideScale eb))).mul (f32 o.sab))) acc
  else
    groups.foldl (fun acc g =>
      addRound acc (groupSum ((idx g).map (fun k => (elemOf o.fa (ca k)).val.mul (elemOf o.fb (cb k)).val)))) acc

/-- Every element of the tile multiplied. -/
def mmaTile (c : CoreSt) (o : MmaOps) (acc m n : Nat) (zero : Bool) : CoreSt :=
  (tileCells m n).foldl (fun d p =>
    let at_ := accPlace acc p.1 p.2
    d.setAcc at_ (mmaElem c o (if zero then 0 else c.getAcc at_) p.1 p.2)) c

/-- Fields that MMA uses for its formats (R152). -/
def mmaUsed (w : Nat) : List (Nat × Nat) :=
  let fa := Fmt.ofCode (bits w 24 21)
  let sb := (fa.map Fmt.isSb).getD false
  let int := (fa.map Fmt.isInt).getD false
  let four := (fa.map Fmt.bits).getD 0 == 4
  [(49, 30), (28, 12)] ++ (if sb then [(95, 86), (69, 50)] else []) ++
    (if int then (if four then [(81, 78), (73, 70)] else [(85, 70)]) else [])

/-- MMA. A reserved ACC, format, pair or PASSES is checked before the reserved bits, whose extent depends on the format; then
S, the placement, and the class of the quarters. -/
def execMma (k : CoreRef) (s : State) : Host.Outcome State Fault Refusal :=
  .next (s.issueRow k 0x1 0x00 (fun w => if (Fmt.ofCode (bits w 24 21)).isNone then [(127, 12)] else mmaUsed w) (fun s i =>
    let w := i.w
    let acc := bits w 16 12
    let passes := bits w 19 18
    match accShape acc, Fmt.ofCode (bits w 24 21), Fmt.ofCode (bits w 28 25) with
    | none, _, _ => i.fault s pfAcc
    | _, none, _ => i.fault s pfFormat
    | _, _, none => i.fault s pfFormat
    | some (m, n), some fa, some fb =>
      if !pairAllowed fa fb || passes == 0 || (fa != .fp32 && passes != 1) then i.fault s pfFormat
      else if w.testBit 20 && !fa.isInt then i.fault s pfField
      else
        let xa := bits w 90 86
        let xb := bits w 95 91
        i.regs s (if fa.isSb then [xa, xb] else []) (fun s =>
        let sa := i.core.x32 xa
        let sb := i.core.x32 xb
        if fa.isSb && !(scaleValid sa && scaleValid sb) then i.fault s pfScale
        else
          let aBase := 64 * bits w 39 30
          let bBase := 64 * bits w 49 40
          let saBase := 64 * bits w 59 50
          let sbBase := 64 * bits w 69 60
          let sideLen := fun (rows : Nat) => if fa.isSb then rows * (tileK fa / 32) * 2 else 0
          if tileBytes < aBase + 64 * m ∨ tileBytes < bBase + 64 * n ∨ tileBytes < saBase + sideLen m ∨
              tileBytes < sbBase + sideLen n then
            i.faultAt s pfPlacement (badPlace [(aBase, 64 * m, 64), (bBase, 64 * n, 64), (saBase, sideLen m, 64), (sbBase, sideLen n, 64)])
          else if !w.testBit 17 && (accQuarters acc).any (fun q => i.core.intQuarters.contains q != fa.isInt) then
            i.fault s pfAcc
          else
            i.reading s aBase (64 * m) (fun s => i.reading s bBase (64 * n) (fun s =>
            i.reading s saBase (sideLen m) (fun s => i.reading s sbBase (sideLen n) (fun s =>
              let o : MmaOps := ⟨fa, fb, aBase, bBase, saBase, sbBase, zpValue fa (bits w 77 70), zpValue fb (bits w 85 78),
                F32.mul sa sb, w.testBit 20, passes⟩
              let c := mmaTile i.core o acc m n (w.testBit 17)
              i.done s (if w.testBit 17 then c.setClass acc fa.isInt else c))))))))

end Sys2Proof.Machine
end

