-- ==== Sys2Proof/Machine/PackTable.lean ====
section
/-! DEFINITION. The pack table commands (09_pack_format.md R281, R283, R288). -/

namespace Sys2Proof.Machine

def stPackTableStep : Nat := 0x0110
def stPackInvalid : Nat := 0x0111

def checkPackInit (p : List Byte) : Option Nat :=
  if local64 (fld p 16 8) && decide (fld p 28 1 < 2) && zeroBytes p 29 64 then none else some stPackInvalid

def checkPackAdvance (p : List Byte) : Option Nat :=
  if local64 (fld p 16 8) && decide (1 ≤ fld p 24 4) && decide (fld p 24 4 ≤ 4096) && decide (fld p 36 2 < 2) &&
      fld p 38 2 == 0 && zeroBytes p 48 64 then none
  else some stPackInvalid

def execPackTableInit (q : CmdRef) (s : State) : Host.Outcome State Fault Refusal :=
  .next (s.perform q 0x0310 (fun s t =>
    let bytes := leBytes 4 (t.par 24 4) ++ leBytes 1 (t.par 28 1) ++ List.replicate 2107 0
    s.cmdOutcome q stPackInvalid (s.writeVa q.ctx.val (t.par 16 8) bytes (.other false) 0)
      (fun s _ => s.complete q stOk 0 0)))

/-- The exponents that occur, by falling count, ties to the lower one; `fuel` bounds how many are drawn. -/
def topExponents : Nat → List (Nat × Nat) → List Nat
  | 0, _ => []
  | fuel + 1, l =>
    match l.foldl (fun (a : Option (Nat × Nat)) x => match a with
        | none => some x
        | some b => if b.2 < x.2 then some x else a) none with
    | none => []
    | some b => b.1 :: topExponents fuel (l.filter (fun x => x.1 != b.1))

/-- R283 on a record. -/
def advanceTable (r : List Byte) (step : Nat) : List Byte :=
  let hist := ((List.range 256).map (fun e => (e, fld r (64 + 8 * e) 8))).filter (fun x => x.2 != 0)
  let top := topExponents 8 hist
  leBytes 4 ((step + 1) % 2 ^ 32) ++ bsub r 4 1 ++ leBytes 1 (bit01 (!top.isEmpty)) ++ bsub r 6 2 ++
    bsub (top.flatMap (leBytes 1)) 0 8 ++ List.replicate 16 0 ++ bsub r 32 32 ++ List.replicate 2048 0

/-- An access of a listed record. -/
def ItemEnd.ofPack {α : Type} (g : Got α) : ItemEnd :=
  match ItemEnd.ofGot g with
  | .refused _ => .refused stPackInvalid
  | e => e

/-- A record written, its first 64 bytes last (R283), once all of it can be. -/
def State.writeAdvanced (s : State) (ctx va : Nat) (bs : List Byte) : State × Got Unit :=
  match s.parts ctx va bs.length true (.other false) 0 with
  | (s, .ok _) =>
    match s.writeVa ctx (va + 64) (bs.drop 64) (.other false) 0 with
    | (s, .ok _) => s.writeVa ctx va (bs.take 64) (.other false) 0
    | e => e
  | (s, .wait c) => (s, .wait c)
  | (s, .fault c) => (s, .fault c)
  | (s, .damaged l) => (s, .damaged l)

def State.advanceRecord (s : State) (q : CmdRef) (step va : Nat) : State × ItemEnd :=
  if !local64 va then (s, .refused stPackInvalid)
  else
    match s.readVa q.ctx.val va 2112 (.other false) false 0 with
    | (s, .ok r) =>
      if fld r 0 4 ≠ step then (s, .refused stPackTableStep)
      else
        let w := s.writeAdvanced q.ctx.val va (advanceTable r step)
        (w.1, .ofPack w.2)
    | (s, g) => (s, .ofPack g)

def execPackTableAdvance (q : CmdRef) (s : State) : Host.Outcome State Fault Refusal :=
  .next (s.perform q 0x0311 (fun s t =>
    s.cmdOutcome q stPackInvalid (s.readVa q.ctx.val (t.par 16 8) (8 * t.par 24 4) (.other false) false 0)
      (fun s1 b => s.listEnd q t (runItems (fun s va => s.advanceRecord q (t.par 28 4) va) s1 0 0 none
        ((List.range (t.par 24 4)).map (fun i => fld b (8 * i) 8))))))

end Sys2Proof.Machine
end

