-- ==== Sys2Proof/Machine/PegProgram.lean ====
section
/-! DEFINITION. Peg instructions of core programs (05_core_programs.md R162, R163; 02_fabric_time.md R45 to R51). -/

namespace Sys2Proof.Machine

def pgIdx (i : Issue) : Nat := (i.core.getX (bits i.w 16 12)).toNat
def pgVal (i : Issue) : W64 := i.core.getX (bits i.w 21 17)
def pgNode (w : Nat) : Nat := bits w 47 32

/-- A peg block to another node (R329): its class is TC0. -/
def pegBlock (dest src ctx peg : Nat) (set : Bool) (v : W64) : List Byte :=
  blockBytes dest src tyPeg 0 ctx 0 (peg % 16384 + (if set then 65536 else 0)) v.toNat []

/-- Every earlier XFER, DP_PUT, DP_ATOM and epilogue write of the core is complete (R163). -/
def Issue.writesDone (i : Issue) (s : State) : Bool :=
  i.core.xfers.isEmpty && s.epiOpen i.k == 0 &&
    i.core.days.all (fun d => match d.2.op with
      | .get => true
      | _ => false)

/-- PSIG and PSET. NODE 0xFFFF, or the own node id, is the local Askax. The core's writes to the cluster buffer become visible
with it (R123). -/
def pegOperate (op : Nat) (set : Bool) (k : CoreRef) (s : State) : State :=
  s.issueRow k 0x9 op (fun _ => [(21, 12), (47, 32)]) (fun s i =>
    i.regs s [bits i.w 16 12, bits i.w 21 17] (fun s =>
      let idx := pgIdx i
      let node := pgNode i.w
      let here := node == 0xFFFF || node == s.guy.node
      if pegCount ≤ idx then i.fault s pfPeg
      else if here && !s.pegOwned i.ctx idx then i.fault s pfPeg
      else if !i.writesDone s then i.hazard s
      else if here then
        let s := (i.done s i.core).publish k
        if set then s.pegTake idx (pgVal i) else s.pegAdd idx (pgVal i)
      else
        let t := s.sendBlock (srcCluster k.cluster.val) node 0 false true (pegBlock node s.guy.node i.ctx idx set (pgVal i))
        if t.2 then (i.done t.1 i.core).publish k else i.fault t.1 pfAddress))

def execPsig (k : CoreRef) (s : State) : Host.Outcome State Fault Refusal := .next (pegOperate 0x00 false k s)
def execPset (k : CoreRef) (s : State) : Host.Outcome State Fault Refusal := .next (pegOperate 0x01 true k s)

/-- PWGE and PWEQ: the core goes on when the peg meets the value; until then it stands in the wait table (log entry 67). -/
def pegWait (op : Nat) (eq : Bool) (k : CoreRef) (s : State) : State :=
  s.issueRow k 0x9 op (fun _ => [(31, 12), (47, 32)]) (fun s i =>
    let xret := bits i.w 31 27
    i.regs s [bits i.w 16 12, bits i.w 21 17, bits i.w 26 22, xret] (fun s =>
      let idx := pgIdx i
      if pgNode i.w ≠ 0xFFFF ∨ pegCount ≤ idx then i.fault s pfPeg
      else if !s.pegOwned i.ctx idx then i.fault s pfPeg
      else
        let r := s.startWait ⟨.prog k, i.ctx, idx, eq, pgVal i, (i.core.getX (bits i.w 26 22)).toNat⟩
        match r.2 with
        | .met v => i.done r.1 (i.core.setX xret v)
        | .late _ => i.fault r.1 pfPegTimeout
        | .full => i.stall r.1 7
        | .entered => i.stall (r.1.setCore k { i.core with wait := some (.peg xret) }) 7))

def execPwge (k : CoreRef) (s : State) : Host.Outcome State Fault Refusal := .next (pegWait 0x02 false k s)
def execPweq (k : CoreRef) (s : State) : Host.Outcome State Fault Refusal := .next (pegWait 0x03 true k s)

end Sys2Proof.Machine
end

