-- ==== Sys2Proof/Machine/Time.lean ====
section
/-! DEFINITION. The discipline of fabric time (02_fabric_time.md R28 to R38): measurements, steps, beacons, PTP, PPS, and the
commands TIME_SET and TIME_MARK. -/

namespace Sys2Proof.Machine

def stTimeUnset : Nat := 0x0501
def stTimeStepRefused : Nat := 0x0502
def stTimePegInvalid : Nat := 0x0509

def asArg (i : Int) : Nat := (BitVec.ofInt 64 i).toNat

/-! ### Steps (R33 to R35) -/

/-- An absolute time moved by a step; 0 means none. -/
def shiftTime (d : Int) (t : Nat) : Nat := if t = 0 then 0 else (t + d).toNat

def Coll.shift (d : Int) (c : Coll) : Coll :=
  { c with deadline := shiftTime d c.deadline, endDeadline := shiftTime d c.endDeadline }

/-- Every armed timer that is kept as an absolute fabric time keeps its remaining interval (R35): deadlines of streams,
transfers, copies, returns and collectives, late windows, peg timeouts. Slot plans are re-phased at their next boundary. -/
def State.shiftTimers (s : State) (d : Int) : State :=
  let cl := fun (c : Cluster) =>
    { c with
      streams := c.streams.map (fun p => (p.1, { p.2 with deadline := shiftTime d p.2.deadline }))
      cores := c.cores.map (fun p => (p.1, { p.2 with
        xfers := p.2.xfers.map (fun x => (x.1, { x.2 with deadline := shiftTime d x.2.deadline })) })) }
  { s with
    eng := { s.eng with clusters := s.eng.clusters.map (fun p => (p.1, cl p.2)) }
    tier := { s.tier with
      copies := s.tier.copies.map (fun c => { c with deadline := shiftTime d c.deadline })
      returns := s.tier.returns.map (fun r => { r with deadline := shiftTime d r.deadline }) }
    coll := { s.coll with
      running := s.coll.running.map (Coll.shift d)
      windows := s.coll.windows.map (fun w => { w with coll := w.coll.shift d, closes := shiftTime d w.closes }) }
    pegs := { s.pegs with waits := s.pegs.waits.map (fun w => { w with timeout := shiftTime d w.timeout }) }
    plans := s.plans.map (fun p => (p.1, p.2.step s.now (s.now + d).toNat)) }

/-- A step of fabric time to a value (R34): EV_TIME_STEP. The step out of UNSET moves no timer, for none was in force (R38),
and leaves HOLDOVER with both counts at zero (R32). A beacon under way is void. -/
def State.stepTime (s : State) (new : Nat) : State :=
  let old := s.now
  let unset := s.time.state = .unset
  let d : Int := (new : Int) - old
  let s := if unset then s else s.shiftTimers d
  let s := { s with time := { s.time with
    ns := new % 2 ^ 64, frac := 0, slew := 0, steps := satAdd 16 s.time.steps 1, beacon := none
    state := if unset then .holdover else s.time.state
    inWindow := if unset then 0 else s.time.inWindow, outWindow := if unset then 0 else s.time.outWindow } }
  let s := s.raise 0x0A03 srcTime none [old, new, 0, 0]
  if unset then s.raise 0x0A02 srcTime none [s.timeSource, asArg s.time.offset, 0, 0] else s

/-- HOLDOVER: EV_TIME_HOLDOVER when the state was LOCKED. -/
def State.toHoldover (s : State) : State :=
  if s.time.state = .locked then
    ({ s with time := { s.time with state := .holdover } }).raise 0x0A02 srcTime none [s.timeSource, asArg s.time.offset, 0, 0]
  else s

/-! ### Measurements (R32 to R34) -/

/-- TIME_STATUS.OFFSET has a signed, saturating 32-bit OFFSET_NS. -/
def clamp32 (x : Int) : Int := max (-2 ^ 31) (min (2 ^ 31 - 1) x)

/-- |offset| at most 20 ns for sources 2 and 3, 100 ns for source 1. -/
def inLockWindow (source : Nat) (off : Int) : Bool := decide (off.natAbs ≤ if source = 1 then 100 else 20)

/-- The counts of measurements in a row, and the states they lead to (R32). -/
def State.countMeasure (s : State) (off : Int) : State :=
  let inside := inLockWindow s.timeSource off
  let i := if inside then min 8 (s.time.inWindow + 1) else 0
  let o := if inside then 0 else min 8 (s.time.outWindow + 1)
  let s := { s with time := { s.time with inWindow := i, outWindow := o } }
  if 8 ≤ i ∧ s.time.state = .holdover then
    ({ s with time := { s.time with state := .locked } }).raise 0x0A01 srcTime none [s.timeSource, asArg s.time.offset, 0, 0]
  else if 8 ≤ o then s.toHoldover
  else s

/-- The rate estimate that a measurement gives (R27, R31): the manual does not say how it is made, so it is free, within the
±100 ppm of R33 (log entry 103). -/
def State.estimateRate (s : State) : State :=
  let f := s.free
  let r := f.1.toNat % 858993
  { f.2 with time := { f.2.time with rate := if r ≤ 429496 then (r : Int) else (r : Int) - 858993 } }

/-- A valid measurement: source minus local, in ns. -/
def State.measure (s : State) (off : Int) : State :=
  let s := s.estimateRate
  let s := { s with time := { s.time with offset := off, lastMeasure := s.local_ } }
  if s.time.state = .unset then s.stepTime ((s.now : Int) + off).toNat
  else
    let s := s.countMeasure off
    let limit := 1000 * bits (s.reg rTimeCtrl) 47 32
    if limit < off.natAbs then
      if (s.reg rTimeCtrl).testBit 8 then s.stepTime ((s.now : Int) + off).toNat
      else
        let s := { s with time := { s.time with slew := off * 2 ^ 32, inWindow := 0 } }
        s.toHoldover.raise 0x0A04 srcTime none [asArg off, limit, 0, 0]
    else { s with time := { s.time with slew := off * 2 ^ 32 } }

/-- The Sync interval of TIME_PTP.LOG_SYNC, in ns. -/
def State.syncNs (s : State) : Nat :=
  let n := bits (s.reg rTimePtp) 7 4
  if n < 8 then 1000000000 * 2 ^ n else 1000000000 / 2 ^ (16 - n)

/-- The interval at which the source gives measurements. -/
def State.measureNs (s : State) : Nat :=
  match s.timeSource with
  | 1 => s.syncNs
  | 2 => s.beaconIntervalNs
  | _ => 1000000000

/-- LOSS_INTERVALS intervals without a valid measurement. The best master is forgotten with it (log entry 44). -/
def execMeasurementLossTimeout (s : State) : Host.Outcome State Fault Refusal :=
  .next (
    if s.alive && s.timeSource != 0 && s.time.state != .unset &&
        decide (s.time.lastMeasure + s.lossIntervals * s.measureNs ≤ s.local_) then
      ({ s with time := { s.time with
        inWindow := 0, outWindow := 0, lastMeasure := s.local_, ptp := { s.time.ptp with master := none } } }).toHoldover
    else s)

/-- TIME_CTRL: a change of SOURCE clears both counts and ends LOCKED (R32). -/
def execTimeCtrlWrite (v : RegValue) (s : State) : Host.Outcome State Fault Refusal :=
  .next (
    if !s.hostUp then s
    else
      match s.write64 rTimeCtrl v with
      | (s, none) => s
      | (s, some x) =>
        let old := s.timeSource
        let s := s.setReg rTimeCtrl (x &&& 0x0000FFFF00FFF70F)
        if s.timeSource = old then s
        else
          ({ s with time := { s.time with
            inWindow := 0, outWindow := 0, lastMeasure := s.local_, ppsSecond := none, beacon := none } }).toHoldover)

/-! ### PPS (R31, R37) -/

/-- A rising edge of TIME_PPS_IN, with TIME_10M_IN present: the reference disciplines the rate up to the next edge. The first edge
after TIME_SET marks the whole second nearest to fabric time (log entry 45). -/
def execTimePpsEdge (clock10M : Bool) (s : State) : Host.Outcome State Fault Refusal :=
  .next (
    if !s.alive || s.timeSource != 3 || !clock10M || !s.time.ppsReady then s
    else
      let sec := match s.time.ppsSecond with
        | some n => n + 1
        | none => (s.now + 500000000) / 1000000000
      let s := { s with time := { s.time with ppsSecond := some sec } }
      s.measure ((sec * 1000000000 : Nat) - (s.now : Int)))

/-- At a whole second, which the count may step over by one nanosecond (log entry 84): TIME_PPS_OUT is high for 10 µs. -/
def execTimePpsOutPulse (s : State) : Host.Outcome State Fault Refusal :=
  .next (
    let sec := s.now / 1000000000
    if s.alive && (s.reg rTimeCtrl).testBit 10 && s.time.state != .unset && s.time.lastPpsOut != sec &&
        decide (s.now % 1000000000 < 2) then
      { s with time := { s.time with ppsOutUntil := some (s.local_ + 10000), lastPpsOut := sec } }
    else s)

/-! ### Beacons (R30) -/

def State.beaconPort (s : State) : Option Nat :=
  let p := bits (s.reg rTimeCtrl) 23 20
  if p < 12 ∧ (s.port p).direct ∧ (s.port p).usable then some p else none
def State.beaconMaster (s : State) : Bool := (s.reg rTimeCtrl).testBit 9
/-- This Askax measures by beacon. -/
def State.beaconing (s : State) : Bool := s.timeSource == 2 && !s.beaconMaster

def execBeaconIntervalTick (s : State) : Host.Outcome State Fault Refusal :=
  .next (
    match (if s.alive && s.beaconing && decide (s.time.lastBeacon + s.beaconIntervalNs ≤ s.local_) then s.beaconPort else none) with
    | some p =>
      let t1 := s.now
      let s := { s with time := { s.time with beacon := some t1, lastBeacon := s.local_ } }
      s.sendOn p 0 (blockBytes (s.port p).neighbour s.guy.node tyBeacon 0 0 0 t1 0 [])
    | none => s)

/-- The next beacon block, when it is a request (0) or a reply (1). -/
def State.deliverBeacon (s : State) (p arg : Nat) (f : State → List Byte → State) : State :=
  if (s.arrived p tyBeacon).any (fun b => blkArg b.bytes == arg) then s.deliver p tyBeacon f else s

/-- A beacon master answers on any direct port: t3 in ADDR, t2 in the data. Others drop the request. -/
def execBeaconRequestReceived (p : Port) (s : State) : Host.Outcome State Fault Refusal :=
  .next (s.deliverBeacon p.val 0 (fun s b =>
    if s.beaconMaster ∧ (s.port p.val).direct then
      s.sendOn p.val 0 (blockBytes (blkSrc b) s.guy.node tyBeacon 0 0 0 s.now 1 (leBytes 8 s.now))
    else s))

/-- offset = ((t2 − t1) − (t4 − t3)) ÷ 2, rounded down (log entry 84). -/
def beaconOffset (t1 t2 t3 t4 : Int) : Int := ((t2 - t1) - (t4 - t3)).fdiv 2

def execBeaconReplyReceived (p : Port) (s : State) : Host.Outcome State Fault Refusal :=
  .next (s.deliverBeacon p.val 1 (fun s b =>
    match (if s.beaconing ∧ s.beaconPort = some p.val then s.time.beacon else none) with
    | some t1 =>
      let off := beaconOffset t1 (fld (blkData b) 0 8) (blkAddr b) s.now
      ({ s with time := { s.time with beacon := none } }).measure off
    | none => s))

/-! ### PTP (R29) -/

def State.ptpOn (s : State) : Bool := decide (bits (s.reg rTimePtp) 15 8 < 128)
def State.boundaryClock (s : State) : Bool := (s.reg rTimePtp).testBit 1
def State.slaveOnly (s : State) : Bool := (s.reg rTimePtp).testBit 0

/-- The identity of this clock: its MAC address (log entry 44). -/
def State.clockId (s : State) : Nat := s.macPrefix * 2 ^ 16 + s.guy.node

/-- What this clock advertises of itself: clockClass 6 with SLAVE_ONLY 0, source 3 and LOCKED, otherwise 248; accuracy and
variance are the unknown ones of IEEE 1588-2019 (log entry 44). -/
def State.ownClock (s : State) : PtpClock :=
  { priority1 := bits (s.reg rTimePtp) 31 24
    clockClass := if !s.slaveOnly && s.timeSource == 3 && s.time.state == .locked then 6 else 248
    accuracy := 0xFE, variance := 0xFFFF, priority2 := bits (s.reg rTimePtp) 23 16, grandmaster := s.clockId, steps := 0 }

/-- The first place where two lists differ decides; the smaller value is better. -/
def firstLess (x y : List Nat) : Bool :=
  match (x.zip y).find? (fun p => p.1 != p.2) with
  | some p => decide (p.1 < p.2)
  | none => false

/-- The data set comparison of the default best master clock algorithm (R29): of two announcements of one grandmaster the nearer
one, otherwise the one of the better grandmaster. `a` and `b` carry the clocks that sent them. -/
def betterClock (a b : Nat × PtpClock) : Bool :=
  if a.2.grandmaster = b.2.grandmaster then firstLess [a.2.steps, a.1] [b.2.steps, b.1]
  else
    firstLess [a.2.priority1, a.2.clockClass, a.2.accuracy, a.2.variance, a.2.priority2, a.2.grandmaster]
      [b.2.priority1, b.2.clockClass, b.2.accuracy, b.2.variance, b.2.priority2, b.2.grandmaster]

/-- What this clock announces: its master's grandmaster, one step further, when it has a master; otherwise itself. -/
def State.announced (s : State) : PtpClock :=
  match s.time.ptp.master with
  | some m => { m.clock with steps := m.clock.steps + 1 }
  | none => s.ownClock

/-- The ports on which this clock acts as master: none when it is slave-only; all switched ports but the one of its own master
for a boundary clock; for an ordinary clock without a master, its lowest switched port. -/
def State.masterPorts (s : State) : List Nat :=
  let up := (List.range 12).filter (fun p => (s.port p).switched && (s.port p).usable)
  if !s.ptpOn || s.slaveOnly then []
  else if s.boundaryClock then up.filter (fun p => s.time.ptp.master.all (fun m => m.port != p))
  else if s.time.ptp.master.isSome then []
  else up.take 1

/-- A PTP message of this clock, sent as a class 0 unit (R337). -/
def State.ptpSend (s : State) (p : Nat) (x : PtpBody) : State :=
  let id := s.guy.nextBlock
  let s := { s with guy := { s.guy with nextBlock := id + 1 } }
  (s.enqueue p 0 ⟨id, 0, 0, [], some ⟨bits (s.reg rTimePtp) 15 8, s.clockId, x⟩⟩).pump p
def State.setPtp (s : State) (f : PtpState → PtpState) : State := { s with time := { s.time with ptp := f s.time.ptp } }

/-- A complete Sync: its two stamps are kept, and a delay request goes out, stamped when it leaves. -/
def State.ptpSynced (s : State) (p : Nat) (t1 t2 : Int) : State :=
  let n := s.time.ptp.txSeq
  (s.setPtp (fun x => { x with
    twoStep := none, sync := some (t1, t2), delayReq := none, txSeq := (n + 1) % 65536 })).ptpSend p (.delayReq n 0)

/-- A PTP message of the clock's domain on a switched port. Only the messages of the best master measure, and only in PTP mode. -/
def execPtpMessageReceived (p : Port) (x : PtpMessage) (s : State) : Host.Outcome State Fault Refusal :=
  .next (
    let ps := s.time.ptp
    let mine := s.timeSource == 1 && ps.master.any (fun m => m.port == p.val && m.source == x.source)
    if !s.alive || !s.ptpOn || !(s.port p.val).switched || !(s.port p.val).usable ||
        x.domain != bits (s.reg rTimePtp) 15 8 then s
    else
      match x.body with
      | .announce c =>
        let m : PtpMaster := ⟨p.val, x.source, c⟩
        if s.timeSource != 1 || (!s.slaveOnly && betterClock (s.clockId, s.ownClock) (x.source, c)) then s
        else
          match ps.master with
          | some b =>
            if (b.port = p.val && b.source = x.source) || betterClock (x.source, c) (b.source, b.clock) then
              s.setPtp (fun x => { x with master := some m })
            else s
          | none => s.setPtp (fun x => { x with master := some m })
      | .sync n two origin corr =>
        if !mine then s
        else if two then s.setPtp (fun x => { x with twoStep := some (n, (s.now : Int), corr) })
        else s.ptpSynced p.val (origin + corr) s.now
      | .followUp n origin corr =>
        match ps.twoStep with
        | some (m, t2, c) => if mine && m == n then s.ptpSynced p.val (origin + corr + c) t2 else s
        | none => s
      | .delayResp n who receive corr =>
        match ps.delayReq, ps.sync with
        | some (m, t3), some (t1, t2) =>
          if mine && m == n && who == s.clockId then
            (s.setPtp (fun x => { x with delayReq := none, sync := none })).measure
              (((t1 - t2) + ((receive - corr) - t3)).fdiv 2)
          else s
        | _, _ => s
      | .delayReq n corr =>
        if s.masterPorts.contains p.val then s.ptpSend p.val (.delayResp n x.source s.now corr) else s)

/-- As master: Announce and a two-step Sync on each master port; the Follow_Up goes after the Sync. -/
def execPtpSyncInterval (s : State) : Host.Outcome State Fault Refusal :=
  .next (
    if !s.alive || s.masterPorts.isEmpty || decide (s.local_ < s.time.ptp.lastSync + s.syncNs) then s
    else
      let n := s.time.ptp.txSeq
      let o := s.announced
      let s := s.masterPorts.foldl (fun s p => (s.ptpSend p (.announce o)).ptpSend p (.sync n true 0 0)) s
      s.setPtp (fun x => { x with txSeq := (n + 1) % 65536, lastSync := s.local_ }))

/-! ### Slot plans (R41, R42) -/

/-- A period boundary: a removal ends the live plan at a boundary of that plan, a committed plan becomes live at its own first
boundary. -/
def execSlotPlanPeriodBoundary (p : Port) (s : State) : Host.Outcome State Fault Refusal :=
  .next (
    match (if s.alive && s.time.state != .unset then mget s.plans p.val else none) with
    | none => s
    | some x =>
      if x.removing then
        if !x.live.all (fun b => atBoundary b (x.count s.now)) then s
        else (({ s with plans := mset s.plans p.val .empty }).raise 0x0A06 srcTime none [p.val, 0, 0, 0]).pump p.val
      else
        match x.committed with
        | some b =>
          if !atBoundary b s.now then s
          else
            let s := { s with plans := mset s.plans p.val ⟨some b, none, false, none⟩ }
            (s.raise 0x0A06 srcTime none [p.val, planEpoch b, 0, 0]).pump p.val
        | none => s)

/-! ### Commands (R58) -/

def checkTimeSet (p : List Byte) : Option Nat := if zeroBytes p 24 64 then none else some stTimePegInvalid
def checkTimeMark (p : List Byte) : Option Nat := if zeroBytes p 48 64 then none else some stTimePegInvalid

/-- TIME_SET: honoured when SOURCE is 0 or 3 or ALLOW_STEP is 1; the next PPS edge counts from it (R31). -/
def execTimeSet (q : CmdRef) (s : State) : Host.Outcome State Fault Refusal :=
  .next (s.perform q 0x0600 (fun s t =>
    if s.timeSource = 0 ∨ s.timeSource = 3 ∨ (s.reg rTimeCtrl).testBit 8 then
      let old := s.now
      let s := s.stepTime (t.par 16 8)
      ({ s with time := { s.time with ppsReady := true, ppsSecond := none } }).complete q stOk old 0
    else s.complete q stTimeStepRefused 0 0))

def execTimeMark (q : CmdRef) (s : State) : Host.Outcome State Fault Refusal :=
  .next (s.perform q 0x0601 (fun s t =>
    let s := s.raise 0x0A0B srcTime (some q.ctx.val) ((List.range 4).map (fun i => t.par (16 + 8 * i) 8))
    s.complete q stOk ((s.cat.global.head?.map (·.seq.toNat)).getD 0) 0))

end Sys2Proof.Machine
end

