-- ==== Sys2Proof/Machine/Pegs.lean ====
section
/-! DEFINITION. The peg commands, peg timeouts, pegs from other nodes and the catalogue's bindings (02_fabric_time.md R45 to
R55, R58). -/

namespace Sys2Proof.Machine

def stPegQuota : Nat := 0x0504
def stCatRingInvalid : Nat := 0x0507

/-! ### Parameter checks (R58, R510) -/

def checkPegQuota (p : List Byte) : Option Nat :=
  if decide (fld p 16 2 < 1024) && fld p 18 2 == 0 && zeroBytes p 24 64 then none else some stTimePegInvalid
def checkPegAlloc (p : List Byte) : Option Nat :=
  if !zeroBytes p 20 64 then some stTimePegInvalid else if fld p 16 4 = 0 ∨ pegCount < fld p 16 4 then some stPegRange else none
def checkPegFree (p : List Byte) : Option Nat :=
  if !zeroBytes p 24 64 then some stTimePegInvalid
  else if fld p 20 4 = 0 ∨ pegCount < fld p 16 4 + fld p 20 4 then some stPegRange
  else none
def checkPegOp (p : List Byte) : Option Nat :=
  if fld p 22 2 != 0 || !zeroBytes p 32 64 then some stTimePegInvalid
  else if pegCount ≤ fld p 16 4 then some stPegRange
  else none
def checkPegWait (p : List Byte) : Option Nat :=
  if decide (2 ≤ fld p 20 4) || !zeroBytes p 40 64 then some stTimePegInvalid
  else if pegCount ≤ fld p 16 4 then some stPegRange
  else none
/-- RECORDS is a power of two from 64 to 1,048,576. -/
def recordsOk (n : Nat) : Bool := decide (64 ≤ n) && decide (n ≤ 1048576) && n == 2 ^ n.log2
def checkCatBind (p : List Byte) : Option Nat :=
  if fld p 16 8 % 64 == 0 && recordsOk (fld p 24 4) && zeroBytes p 28 64 then none else some stCatRingInvalid

/-! ### Allocation (R45) -/

def execPegQuotaSet (q : CmdRef) (s : State) : Host.Outcome State Fault Refusal :=
  .next (s.perform q 0x0610 (fun s t =>
    ({ s with pegs := { s.pegs with quota := mset s.pegs.quota (t.par 16 2) (t.par 20 4) } }).complete q stOk 0 0))

/-- The lowest index of each contiguous free range of `n` pegs. -/
def State.freeBases (s : State) (n : Nat) : List Nat :=
  (List.range (pegCount + 1 - n)).filter (fun b => s.pegs.pegs.all (fun p => decide (p.1 < b) || decide (b + n ≤ p.1)))

/-- PEG_ALLOC: which of the ranges that fit is taken is free (log entry 3). -/
def execPegAlloc (q : CmdRef) (s : State) : Host.Outcome State Fault Refusal :=
  .next (s.perform q 0x0611 (fun s t =>
    let n := t.par 16 4
    let ctx := q.ctx.val
    let held := (s.pegs.pegs.filter (fun p => p.2.owner == ctx)).length
    let bases := s.freeBases n
    if mgetD s.pegs.quota ctx 0 < held + n ∨ bases.isEmpty then s.complete q stPegQuota 0 0
    else
      let f := s.free
      let base := bases.getD (f.1.toNat % bases.length) 0
      let pegs := (List.range n).foldl (fun m i => mset m (base + i) ⟨ctx, 0⟩) s.pegs.pegs
      ({ f.2 with pegs := { f.2.pegs with pegs := pegs } }).complete q stOk base 0))

/-- A wait whose peg is freed, or that times out, ends: a command with a status, a program in a fault, a launch or collective
with a status. -/
def State.breakWait (s : State) (w : Wait) (status fault : Nat) : State :=
  match w.who with
  | .cmd q => s.complete q status 0 0
  | .prog k => (s.stallOff (.core k)).lateFault k fault (s.core k).pc 0
  | .launch q =>
    let s := s.endLaunch q status 0 0
    s.launchPegs q.ctx.val q.ring.val s.eng.launches.length
  | .coll q =>
    (s.refuseColl q status).collPegs q.ctx.val q.ring.val s.coll.queued.length

def execPegFree (q : CmdRef) (s : State) : Host.Outcome State Fault Refusal :=
  .next (s.perform q 0x0612 (fun s t =>
    let base := t.par 16 4
    let n := t.par 20 4
    let inside := fun (i : Nat) => decide (base ≤ i) && decide (i < base + n)
    if (List.range n).all (fun i => s.pegOwned q.ctx.val (base + i)) then
      let gone := s.pegs.waits.filter (fun w => inside w.peg)
      let s := { s with pegs := { s.pegs with
        pegs := s.pegs.pegs.filter (fun p => !inside p.1), waits := s.pegs.waits.filter (fun w => !inside w.peg) } }
      (gone.foldl (fun s w => s.breakWait w stPegNotOwned pfPeg) s).complete q stOk 0 0
    else s.complete q stPegNotOwned 0 0))

/-! ### Operations (R46) -/

/-- PEG_SIGNAL and PEG_SET. NODE 0xFFFF, or the own node id, is the local Askax. A remote operation without a route is not sent,
as its event says, and completes all the same (log entry 46). -/
def pegCommand (op : Nat) (set : Bool) (q : CmdRef) (s : State) : State :=
  s.perform q op (fun s t =>
    let i := t.par 16 4
    let node := t.par 20 2
    let v := BitVec.ofNat 64 (t.par 24 8)
    if node = 0xFFFF ∨ node = s.guy.node then
      if s.pegOwned q.ctx.val i then (if set then s.pegTake i v else s.pegAdd i v).complete q stOk 0 0
      else s.complete q stPegNotOwned 0 0
    else
      (s.sendBlock (srcCp q.ctx.val q.ring.val) node 0 false true (pegBlock node s.guy.node q.ctx.val i set v)).1.complete q
        stOk 0 0)

def execPegSignal (q : CmdRef) (s : State) : Host.Outcome State Fault Refusal := .next (pegCommand 0x0613 false q s)
def execPegSet (q : CmdRef) (s : State) : Host.Outcome State Fault Refusal := .next (pegCommand 0x0614 true q s)

/-- PEG_WAIT_GE and PEG_WAIT_EQ (R38, R47 to R49). A full wait table is tried again. Where both hold, ST_TIME_UNSET comes before
ST_PEG_NOT_OWNED: the manual orders neither first (DESIGN CHOICE, log entry 104). -/
def pegWaitCommand (op : Nat) (eq : Bool) (q : CmdRef) (s : State) : State :=
  s.perform q op (fun s t =>
    let i := t.par 16 4
    if (t.par 20 4).testBit 0 && s.time.state == .unset then s.complete q stTimeUnset 0 0
    else if !s.pegOwned q.ctx.val i then s.complete q stPegNotOwned 0 0
    else
      let r := s.startWait ⟨.cmd q, q.ctx.val, i, eq, BitVec.ofNat 64 (t.par 24 8), t.par 32 8⟩
      match r.2 with
      | .met v => r.1.complete q stOk v.toNat 0
      | .late _ => r.1.complete q stPegTimeout 0 0
      | .full => r.1.stallOn (.cmd q) q.ctx.val 7
      | .entered => (r.1.startTaken q).stallOn (.cmd q) q.ctx.val 7)

def execPegWaitGe (q : CmdRef) (s : State) : Host.Outcome State Fault Refusal := .next (pegWaitCommand 0x0615 false q s)
def execPegWaitEq (q : CmdRef) (s : State) : Host.Outcome State Fault Refusal := .next (pegWaitCommand 0x0616 true q s)

/-- Fabric time has passed the timeout of waits that are still unsatisfied; they end in the order of the table (R48). -/
def execPegWaitTimeout (s : State) : Host.Outcome State Fault Refusal :=
  .next (
    if !s.alive then s
    else
      let out := s.pegs.waits.filter (fun w => s.timePassed w.timeout)
      let s := { s with pegs := { s.pegs with waits := s.pegs.waits.filter (fun w => !s.timePassed w.timeout) } }
      out.foldl (fun s w =>
        let v := ((mget s.pegs.pegs w.peg).map (·.value.toNat)).getD 0
        (s.raise 0x0A07 srcTime (some w.ctx) [w.peg, v, 0, 0]).breakWait w stPegTimeout pfPegTimeout) s)

/-- A peg operation from another node (R51, R330): applied to a peg of the sender's context, otherwise discarded. -/
def execPegBlockReceived (p : Port) (s : State) : Host.Outcome State Fault Refusal :=
  .next (s.deliver p.val tyPeg (fun s b =>
    let i := bits (blkAddr b) 13 0
    let ctx := blkCtx b % 1024
    let v := BitVec.ofNat 64 (blkArg b)
    if s.pegOwned ctx i then (if (blkAddr b).testBit 16 then s.pegTake i v else s.pegAdd i v)
    else
      let s := { s with pegs := { s.pegs with remoteRejects := satAdd 16 s.pegs.remoteRejects 1 } }
      s.raise 0x0A09 srcTime none [blkSrc b, i, 0, 0]))

/-! ### Catalogue bindings (R54, R55) -/

/-- CAT_RING_BIND: the header and every slot translate for writing; the new header is zero. -/
def execCatRingBind (q : CmdRef) (s : State) : Host.Outcome State Fault Refusal :=
  .next (s.perform q 0x0620 (fun s t =>
    let base := t.par 16 8
    let n := t.par 24 4
    let ctx := q.ctx.val
    if vaSpace base ≠ 0 then s.complete q stCatRingInvalid 0 0
    else
      s.cmdOutcome q stCatRingInvalid (s.parts ctx base (64 + 64 * n) true (.other false) 0) (fun s1 _ =>
        s.cmdOutcome q stCatRingInvalid (s1.writeVa ctx base (List.replicate 64 0) (.other false) 0) (fun s _ =>
          ({ s with cat := { s.cat with rings := mset s.cat.rings ctx ⟨base, n, 0, 0, 0⟩ } }).complete q stOk 0 0))))

/-- How many of the oldest records that were not copied the global ring has overwritten (log entry 73). -/
def CatSt.overwritten (c : CatSt) : Nat := c.generated - Config.globalRecords - c.exported

/-- Records still in the global ring that were not copied yet, oldest first. -/
def CatSt.uncopied (c : CatSt) : List Record := (c.global.take (c.generated - c.exported)).reverse

/-- CAT_EXPORT_BIND: the copy begins with the oldest record held that was not copied; those overwritten first count as dropped. -/
def execCatExportBind (q : CmdRef) (s : State) : Host.Outcome State Fault Refusal :=
  .next (s.perform q 0x0621 (fun s t =>
    let base := t.par 16 8
    let n := t.par 24 4
    let ctx := q.ctx.val
    match hostLookup s ctx base true with
    | none => s.complete q stCatRingInvalid 0 0
    | some iova =>
      if (pagesOf base (64 + 64 * n)).all (fun p => (hostLookup s ctx p.1 true).isSome) then
        let lost := s.cat.overwritten
        let first := BitVec.ofNat 32 s.cat.exported
        let s := s.toHost (.catExport iova (List.replicate 64 0))
        let s := { s with cat := { s.cat with
          exportRing := some ⟨base, n, 0, lost, first⟩, exported := s.cat.exported + lost
          globalLost := satAdd 32 s.cat.globalLost lost } }
        (s.cat.uncopied.foldl (fun s r => s.exportOne r) s.exportLost).complete q stOk 0 0
      else s.complete q stCatRingInvalid 0 0))

end Sys2Proof.Machine
end

