-- ==== Sys2Proof/Machine/Scalar.lean ====
section
/-! DEFINITION. Scalar instructions (05_core_programs.md R139, R142). -/

namespace Sys2Proof.Machine

def scXd (w : Nat) : Nat := bits w 16 12
def scXa (w : Nat) : Nat := bits w 21 17
def scXb (w : Nat) : Nat := bits w 26 22
def scImmb (w : Nat) : Bool := w.testBit 27
def scImm (w : Nat) : W64 := BitVec.ofNat 64 (bits w 127 64)

/-- Fields of a two-operand scalar instruction: IMM takes the place of XB when IMMB is set. -/
def scalarUsed (w : Nat) : List (Nat × Nat) :=
  (27, 27) :: (21, 12) :: (if scImmb w then [(127, 64)] else [(26, 22)])

/-- A two-operand scalar instruction (R139). -/
def scalarOp (op : Nat) (f : W64 → W64 → W64) (k : CoreRef) (s : State) : State :=
  s.issueRow k 0x0 op scalarUsed (fun s i =>
    let b := if scImmb i.w then scImm i.w else i.core.getX (scXb i.w)
    i.regs s [scXd i.w, scXa i.w, if scImmb i.w then 0 else scXb i.w] (fun s =>
      i.done s (i.core.setX (scXd i.w) (f (i.core.getX (scXa i.w)) b))))

/-- A shift uses the low 6 bits of its count. -/
def count6 (b : W64) : Nat := b.toNat % 64

def sMin (a b : W64) : W64 := if b.slt a then b else a
def sMax (a b : W64) : W64 := if a.slt b then b else a

def execAdd (k : CoreRef) (s : State) : Host.Outcome State Fault Refusal := .next (scalarOp 0x00 (· + ·) k s)
def execSub (k : CoreRef) (s : State) : Host.Outcome State Fault Refusal := .next (scalarOp 0x01 (· - ·) k s)
def execMul (k : CoreRef) (s : State) : Host.Outcome State Fault Refusal := .next (scalarOp 0x02 (· * ·) k s)
def execAnd64 (k : CoreRef) (s : State) : Host.Outcome State Fault Refusal := .next (scalarOp 0x03 (· &&& ·) k s)
def execOr64 (k : CoreRef) (s : State) : Host.Outcome State Fault Refusal := .next (scalarOp 0x04 (· ||| ·) k s)
def execXor64 (k : CoreRef) (s : State) : Host.Outcome State Fault Refusal := .next (scalarOp 0x05 (· ^^^ ·) k s)
def execShl (k : CoreRef) (s : State) : Host.Outcome State Fault Refusal := .next (scalarOp 0x06 (fun a b => a <<< count6 b) k s)
def execShr (k : CoreRef) (s : State) : Host.Outcome State Fault Refusal := .next (scalarOp 0x07 (fun a b => a >>> count6 b) k s)
def execSar (k : CoreRef) (s : State) : Host.Outcome State Fault Refusal :=
  .next (scalarOp 0x08 (fun a b => a.sshiftRight (count6 b)) k s)
def execMin (k : CoreRef) (s : State) : Host.Outcome State Fault Refusal := .next (scalarOp 0x09 sMin k s)
def execMax (k : CoreRef) (s : State) : Host.Outcome State Fault Refusal := .next (scalarOp 0x0A sMax k s)

def execLi (k : CoreRef) (s : State) : Host.Outcome State Fault Refusal :=
  .next (s.issueRow k 0x0 0x0B (fun _ => [(16, 12), (127, 64)]) (fun s i =>
    i.regs s [scXd i.w] (fun s => i.done s (i.core.setX (scXd i.w) (scImm i.w)))))

/-- The tile-store address of SLD and SST: XA + IMM[15:0]. -/
def scAddr (i : Issue) : Nat := (i.core.getX (scXa i.w) + BitVec.ofNat 64 (bits i.w 79 64)).toNat

def execSld (k : CoreRef) (s : State) : Host.Outcome State Fault Refusal :=
  .next (s.issueRow k 0x0 0x0C (fun _ => [(21, 12), (127, 64)]) (fun s i =>
    i.regs s [scXd i.w, scXa i.w] (fun s =>
      let a := scAddr i
      if a % 8 ≠ 0 ∨ tileBytes < a + 8 then i.faultAt s pfPlacement a
      else i.reading s a 8 (fun s =>
        i.done s (i.core.setX (scXd i.w) (BitVec.ofNat 64 (leNat (i.core.tsRead a 8))))))))

def execSst (k : CoreRef) (s : State) : Host.Outcome State Fault Refusal :=
  .next (s.issueRow k 0x0 0x0D (fun _ => [(26, 17), (127, 64)]) (fun s i =>
    i.regs s [scXa i.w, scXb i.w] (fun s =>
      let a := scAddr i
      if a % 8 ≠ 0 ∨ tileBytes < a + 8 then i.faultAt s pfPlacement a
      else i.writing s a 8 (fun s =>
        i.done s (i.core.tsWrite a (leBytes 8 (i.core.getX (scXb i.w)).toNat))))))

/-- The special registers (R142). -/
def specialReg (s : State) (k : CoreRef) (ctx code : Nat) : Option W64 :=
  let cl := s.cluster k.cluster.val
  let l := cl.launch.bind s.launch?
  let set := (l.map (·.set)).getD []
  let rank := (set.filter (fun c => c < k.cluster.val)).length
  let n := fun (x : Nat) => some (BitVec.ofNat 64 x)
  match code with
  | 0x00 => n k.core.val
  | 0x01 => n k.cluster.val
  | 0x02 => n (k.cluster.val / 80)
  | 0x03 => n rank
  | 0x04 => n set.length
  | 0x05 => n (rank * 80 + k.core.val)
  | 0x06 => n ((l.map (·.step.toNat)).getD 0)
  | 0x07 => n ctx
  | 0x08 => n s.guy.node
  | 0x09 => n (((mget s.host.ctxs ctx).map (·.rank)).getD 0)
  | 0x0A => n ((s.cur.clock - cl.startClock) / 1000)
  | 0x0B => n s.now
  | c => if 0x10 ≤ c ∧ c ≤ 0x17 then some (((l.map (·.args)).getD []).getD (c - 0x10) 0) else none

def execSpr (k : CoreRef) (s : State) : Host.Outcome State Fault Refusal :=
  .next (s.issueRow k 0x0 0x0E (fun _ => [(16, 12), (127, 64)]) (fun s i =>
    i.regs s [scXd i.w] (fun s =>
      match specialReg s k i.ctx (bits i.w 71 64) with
      | some v => i.done s (i.core.setX (scXd i.w) v)
      | none => i.fault s pfSpr)))

end Sys2Proof.Machine
end

