-- ==== Sys2Proof/Machine/Take.lean ====
section
/-! DEFINITION. Taking packets (13_host_link.md R398 to R402, R405, R414, R510): the header checks, the order of rings, what every
packet is checked for, torn packets. -/

namespace Sys2Proof.Machine

def stInvalidOpcode : Nat := 1
def stPacketLength : Nat := 2
def stPacketReserved : Nat := 3

/-! ### The opcodes (R414) -/

/-- What a packet of an opcode is held against: its units (0 any), whether only context 0 issues it, its parameters. -/
structure OpcodeRule where
  units : Nat
  driver : Bool
  check : List Byte → Option Nat

def noCheck (_ : List Byte) : Option Nat := none

/-- The assigned opcodes of the host link, the pool, HBM, programs, copies and packs. -/
def opcodeLow (op : Nat) : Option OpcodeRule :=
  match op with
  | 0x0000 => some ⟨0, false, noCheck⟩
  | 0x0010 => some ⟨1, true, checkBind⟩
  | 0x0011 => some ⟨1, true, checkUnbind⟩
  | 0x0012 => some ⟨1, true, checkPlace⟩
  | 0x0100 => some ⟨1, true, checkQuotaSet⟩
  | 0x0101 => some ⟨1, false, checkMap⟩
  | 0x0102 => some ⟨1, false, checkUnmap⟩
  | 0x0103 => some ⟨1, false, checkUnmap⟩
  | 0x0104 => some ⟨1, false, checkUnmap⟩
  | 0x0105 => some ⟨1, false, checkUnmap⟩
  | 0x0106 => some ⟨1, true, checkEvictStore⟩
  | 0x0107 => some ⟨1, true, checkHostMap⟩
  | 0x0108 => some ⟨1, true, checkHostUnmap⟩
  | 0x0109 => some ⟨1, false, checkExport⟩
  | 0x010A => some ⟨1, false, checkStallRead⟩
  | 0x0180 => some ⟨1, true, checkGroupMode⟩
  | 0x0181 => some ⟨1, true, checkPpr⟩
  | 0x0182 => some ⟨1, true, checkLoopback⟩
  | 0x0200 => some ⟨3, false, checkLaunch⟩
  | 0x0201 => some ⟨1, false, checkAbort⟩
  | 0x0202 => some ⟨1, true, checkGrant⟩
  | 0x0203 => some ⟨1, true, checkGrant⟩
  | 0x0300 => some ⟨2, false, checkCopy⟩
  | 0x0310 => some ⟨1, false, checkPackInit⟩
  | 0x0311 => some ⟨1, false, checkPackAdvance⟩
  | _ => none

/-- Those of the collectives, the conservators, time, pegs and the catalogue. -/
def opcodeMid (op : Nat) : Option OpcodeRule :=
  match op with
  | 0x0400 => some ⟨1, false, checkCollStart⟩
  | 0x0401 => some ⟨1, false, checkCollCancel⟩
  | 0x0500 => some ⟨2, false, checkUpdApply⟩
  | 0x0501 => some ⟨2, false, checkUpdNorm⟩
  | 0x0502 => some ⟨1, false, checkRecords⟩
  | 0x0503 => some ⟨1, false, checkRecords⟩
  | 0x0504 => some ⟨1, false, checkRecords⟩
  | 0x0505 => some ⟨1, false, checkSweep⟩
  | 0x0600 => some ⟨1, true, checkTimeSet⟩
  | 0x0601 => some ⟨1, false, checkTimeMark⟩
  | 0x0610 => some ⟨1, true, checkPegQuota⟩
  | 0x0611 => some ⟨1, false, checkPegAlloc⟩
  | 0x0612 => some ⟨1, false, checkPegFree⟩
  | 0x0613 => some ⟨1, false, checkPegOp⟩
  | 0x0614 => some ⟨1, false, checkPegOp⟩
  | 0x0615 => some ⟨1, false, checkPegWait⟩
  | 0x0616 => some ⟨1, false, checkPegWait⟩
  | 0x0620 => some ⟨1, false, checkCatBind⟩
  | 0x0621 => some ⟨1, true, checkCatBind⟩
  | _ => none

/-- Those of administration and statistics. -/
def opcodeHigh (op : Nat) : Option OpcodeRule :=
  match op with
  | 0x0700 => some ⟨1, true, checkCtxCreate⟩
  | 0x0701 => some ⟨1, true, checkCtxDestroy⟩
  | 0x0702 => some ⟨1, true, checkRingCreate⟩
  | 0x0703 => some ⟨1, true, checkRingDestroy⟩
  | 0x0704 => some ⟨1, true, checkRingResume⟩
  | 0x0720 => some ⟨1, true, checkRstContext⟩
  | 0x0721 => some ⟨1, true, checkRstUnit⟩
  | 0x0740 => some ⟨1, true, checkTestRun⟩
  | 0x0741 => some ⟨1, true, checkRepairMap⟩
  | 0x0742 => some ⟨1, true, checkRepairFuse⟩
  | 0x0750 => some ⟨1, true, checkPowerState⟩
  | 0x0751 => some ⟨1, true, checkSensorRead⟩
  | 0x0752 => some ⟨1, true, checkPatchActivate⟩
  | 0x0760 => some ⟨1, true, checkRouteWrite⟩
  | 0x0761 => some ⟨1, true, checkPortCtrl⟩
  | 0x0770 => some ⟨1, true, checkFwStage⟩
  | 0x0771 => some ⟨1, true, checkCfgStage⟩
  | 0x0772 => some ⟨1, true, checkCfgCommit⟩
  | 0x0800 => some ⟨2, false, checkStatInit⟩
  | 0x0801 => some ⟨1, false, checkStatList 8⟩
  | 0x0802 => some ⟨1, false, checkGscaleInit⟩
  | 0x0803 => some ⟨1, false, checkStatList 16⟩
  | _ => none

def opcodeRule (op : Nat) : Option OpcodeRule :=
  if op < 0x0400 then opcodeLow op else if op < 0x0700 then opcodeMid op else opcodeHigh op

/-- The checks of a taken packet in the order of R402; none when it may start. -/
def packetFault (ctx : Nat) (packet : List Byte) : Option Nat :=
  let h := fld packet 0 8
  match opcodeRule (pkOpcode h) with
  | none => some stInvalidOpcode
  | some r =>
    if r.units ≠ 0 ∧ r.units ≠ pkLength h then some stPacketLength
    else if bits h 31 26 ≠ 0 then some stPacketReserved
    else
      match r.check packet with
      | some e => some e
      | none => if r.driver && ctx != 0 then some stNotDriver else none

/-! ### Headers (R399) -/

/-- Where unit `j` from HEAD of a ring lies. -/
def unitPa (ctx ring : Nat) (r : Ring) (j : Nat) : Nat := ringBase ctx ring + 64 * ((r.head.toNat + j) % 1024)

/-- The units of the packet at HEAD. -/
def unitParts (ctx ring : Nat) (r : Ring) (n : Nat) : List (Nat × Nat) :=
  (List.range n).map (fun j => (unitPa ctx ring r j, 64))

/-- The header value at HEAD and what stands as its complement. -/
def State.headerAt (s : State) (ctx ring : Nat) (r : Ring) : Nat × Nat :=
  let b := s.hbm.peek (unitPa ctx ring r 0) 16
  (fld b 0 8, fld b 8 8)

/-- The checks of R399 on a header. -/
def takeHeaderOk (ctx : Nat) (r : Ring) (h : Nat × Nat) : Bool :=
  h.2 == 2 ^ 64 - 1 - h.1 && pkSeq h.1 == r.nextSeq.toNat && pkContext h.1 == ctx && decide (1 ≤ pkLength h.1)

/-! ### Which ring is served (R401, R405) -/

/-- The Askax takes packets at all: it is ready and awake, no reset of L2 or above runs, no restart or commit holds them. -/
def State.taking (s : State) : Bool :=
  s.alive && s.rst.ready && s.rst.l2.isEmpty && s.rst.l3.isNone && s.cur.power == .active && s.cur.waking.isNone &&
    s.board.restart.isNone && !s.host.taken.any (fun t => t.opcode == 0x0772)

/-- A ring whose header may be read: units are ready, no fault or reset stops it, a completion slot is free, no peg wait holds
it. -/
def State.ringOpen (s : State) (ctx ring : Nat) (r : Ring) : Bool :=
  let mine := s.host.taken.filter (fun t => t.q.ctx.val == ctx && t.q.ring.val == ring)
  (mget s.host.ctxs ctx).any (fun c => !c.faulted) && !s.inL0 ctx && !r.faulted && decide (1 ≤ r.ready) &&
    decide (r.unread + mine.length < r.cqEntries) && !mine.any (fun t => t.opcode == 0x0615 || t.opcode == 0x0616)

/-- A packet with a valid header that may be taken now: all its units are there, and FENCE finds nothing outstanding. -/
def State.packetReady (s : State) (ctx ring : Nat) (r : Ring) : Bool :=
  let h := s.headerAt ctx ring r
  takeHeaderOk ctx r h && decide (pkLength h.1 ≤ r.ready) &&
    !(pkFence h.1 && s.host.taken.any (fun t => t.q.ctx.val == ctx && t.q.ring.val == ring))

/-- The rings with packets ready, in the order of their numbers. -/
def State.readyRings (s : State) : List Nat :=
  (s.host.rings.filter (fun e =>
    s.ringOpen (e.1 / 4) (e.1 % 4) e.2 && e.2.pollSince.isNone && s.packetReady (e.1 / 4) (e.1 % 4) e.2)).map (·.1)

/-- The ring whose turn it is: the next one after the ring served last, the lowest when none was (log entries
20 and 55). -/
def State.turnRing (s : State) : Option Nat :=
  let l := s.readyRings
  match s.host.lastRing with
  | none => l.head?
  | some k => match l.find? (fun x => decide (k < x)) with
    | some x => some x
    | none => l.head?

/-! ### Taking (R399, R402) -/

/-- The packet at HEAD taken: its units copied, HEAD and SEQ advanced; then checked. -/
def State.takePacket (s : State) (c : Ctx) (r : RingNo) (x : Ring) : State :=
  let n := pkLength (s.headerAt c.val r.val x).1
  let parts := unitParts c.val r.val x n
  match parts.findSome? (fun p => s.hbm.damagedIn p.1 p.2) with
  | some line => s.uncorrectable 5 (some c.val) line 0
  | none =>
    let packet := peekParts s.hbm parts
    let q : CmdRef := ⟨c, r, x.nextSeq⟩
    let s := { s with hbm := readPartsDir s.hbm parts true }
    let s := s.setRing c.val r.val { x with head := x.head + BitVec.ofNat 32 n, nextSeq := x.nextSeq + 1 }
    let s := s.setHost (fun h => { h with
      taken := h.taken ++ [⟨q, packet, false, false⟩], lastRing := some (ringKey c.val r.val) })
    let s := s.cpProgress c.val r.val
    match packetFault c.val packet with
    | none => s
    | some e => if pkOpcode (fld packet 0 8) = 0x0200 then s.endLaunch q e 0 0 else s.completeBare q e

/-- A header read that passed no check, or was read again: through the slices (R219), or uncorrectable (R208, reader code 5). -/
def State.headerRead (s : State) (c : Ctx) (r : RingNo) (x : Ring) (f : State → State) : State :=
  match s.hbm.damagedIn (unitPa c.val r.val x 0) 64 with
  | some line => s.uncorrectable 5 (some c.val) line 0
  | none => f { s with hbm := s.hbm.readLines (unitPa c.val r.val x 0) 64 true }

/-- A ring whose units lie in a stack that accepts no accesses waits for it (R196, R214, R267). -/
def State.ringWait (s : State) (c : Ctx) (r : RingNo) : State := s.stallOn (.ring c r) c.val 0

/-- PACKET_TAKE: the ring whose turn it is gives its packet; a header that fails its checks starts the polling. -/
def execPacketTake (c : Ctx) (r : RingNo) (s : State) : Host.Outcome State Fault Refusal :=
  .next (
    match (if s.taking then s.ring? c.val r.val else none) with
    | none => s
    | some x =>
      if !s.ringOpen c.val r.val x || x.pollSince.isSome then s
      else if !s.hbm.stacksReady (unitParts c.val r.val x 1) then s.ringWait c r
      else if !takeHeaderOk c.val x (s.headerAt c.val r.val x) then
        (s.stallOff (.ring c r)).headerRead c r x (fun s =>
          s.setRing c.val r.val { x with pollSince := some s.local_, lastPoll := s.local_ })
      else if s.turnRing == some (ringKey c.val r.val) then
        if s.hbm.stacksReady (unitParts c.val r.val x (pkLength (s.headerAt c.val r.val x).1)) then
          (s.stallOff (.ring c r)).takePacket c r x
        else s.ringWait c r
      else s)

/-- A header that failed is read again after 1 µs, while nothing stops the taking of packets on its ring; one that passes now is taken
in its turn. -/
def execPacketHeaderRepoll (c : Ctx) (r : RingNo) (s : State) : Host.Outcome State Fault Refusal :=
  .next (
    match (if s.taking then s.ring? c.val r.val else none) with
    | none => s
    | some x =>
      if !s.ringOpen c.val r.val x || x.pollSince.isNone || decide (s.local_ < x.lastPoll + 1000) || !s.hbm.stacksReady (unitParts c.val r.val x 1) then s
      else
        s.headerRead c r x (fun s =>
          if takeHeaderOk c.val x (s.headerAt c.val r.val x) then s.setRing c.val r.val { x with pollSince := none }
          else s.setRing c.val r.val { x with lastPoll := s.local_ }))

/-- A header that still fails after TORN_US: ST_TORN_PACKET with the expected SEQ, and the ring faults; HEAD stays. -/
def execTornPacketTimeout (c : Ctx) (r : RingNo) (s : State) : Host.Outcome State Fault Refusal :=
  .next (
    match (if s.taking then s.ring? c.val r.val else none) with
    | none => s
    | some x =>
      match x.pollSince with
      | none => s
      | some t =>
        let h := s.headerAt c.val r.val x
        if !s.ringOpen c.val r.val x ∨ s.local_ < t + 1000 * s.tornUs ∨ takeHeaderOk c.val x h ∨ !s.hbm.stacksReady (unitParts c.val r.val x 1) then s
        else
          s.headerRead c r x (fun s =>
            let seq := x.nextSeq.toNat
            let s := s.setRing c.val r.val { x with pollSince := none }
            let s := s.raise 0x0202 (srcCp c.val r.val) (some c.val) [c.val, x.head.toNat + seq * 2 ^ 32, h.1, h.2]
            s.writeRecord c.val r.val seq stTornPacket h.1 h.2 false))

end Sys2Proof.Machine
end

