-- ==== Sys2Proof/Machine/Vector.lean ====
section
/-! DEFINITION. Vector instructions (05_core_programs.md R155; 04_cores.md R117, R118). -/

namespace Sys2Proof.Machine

def vecVd (w : Nat) : Nat := bits w 16 12
def vecVa (w : Nat) : Nat := bits w 21 17
def vecVb (w : Nat) : Nat := bits w 26 22
def vecVc (w : Nat) : Nat := bits w 31 27
def vecXs (w : Nat) : Nat := bits w 36 32
def vecBsc (w : Nat) : Bool := w.testBit 37
def vecSat (w : Nat) : Bool := w.testBit 38
def vecCond (w : Nat) : Nat := bits w 41 39
def vecImm (w : Nat) : Nat := bits w 57 42

/-- Fields of an instruction with a B operand, and `more` beside them: XS takes the place of VB when BSC is set. -/
def vecUsed (more : List (Nat × Nat)) (w : Nat) : List (Nat × Nat) :=
  (37, 37) :: (21, 12) :: (if vecBsc w then (36, 32) else (26, 22)) :: more

/-- The B operand: VB, or XS[31:0] in every lane. -/
def Issue.vecB (i : Issue) : W512 := if vecBsc i.w then splat (i.core.x32 (vecXs i.w)) else i.core.getV (vecVb i.w)

def mapLanes2 (f : W32 → W32 → W32) (a b : W512) : W512 :=
  ofLanes ((List.range 16).map (fun j => f (lane a j) (lane b j)))
def mapLanes3 (f : W32 → W32 → W32 → W32) (a b c : W512) : W512 :=
  ofLanes ((List.range 16).map (fun j => f (lane a j) (lane b j) (lane c j)))
def mapLanes (f : W32 → W32) (a : W512) : W512 := ofLanes ((lanes a).map f)

/-- An instruction d ← f(a, b), lane by lane. `more` lists its further fields. -/
def vectorOp (op : Nat) (more : List (Nat × Nat)) (f : Nat → W32 → W32 → W32) (k : CoreRef) (s : State) : State :=
  s.issueRow k 0x4 op (vecUsed more) (fun s i =>
    i.regs s [if vecBsc i.w then vecXs i.w else 0] (fun s =>
      i.done s (i.core.setV (vecVd i.w) (mapLanes2 (f i.w) (i.core.getV (vecVa i.w)) i.vecB))))

/-- An instruction of a, b and c. -/
def vectorOp3 (op : Nat) (f : W32 → W32 → W32 → W32) (k : CoreRef) (s : State) : State :=
  s.issueRow k 0x4 op (vecUsed [(31, 27)]) (fun s i =>
    i.regs s [if vecBsc i.w then vecXs i.w else 0] (fun s =>
      i.done s (i.core.setV (vecVd i.w)
        (mapLanes3 f (i.core.getV (vecVa i.w)) i.vecB (i.core.getV (vecVc i.w))))))

/-- An instruction of a alone. -/
def vectorOp1 (op : Nat) (f : W512 → W512) (k : CoreRef) (s : State) : State :=
  s.issueRow k 0x4 op (fun _ => [(21, 12)]) (fun s i =>
    i.done s (i.core.setV (vecVd i.w) (f (i.core.getV (vecVa i.w)))))

def execVadd (k : CoreRef) (s : State) : Host.Outcome State Fault Refusal := .next (vectorOp 0x00 [] (fun _ => F32.add) k s)
def execVsub (k : CoreRef) (s : State) : Host.Outcome State Fault Refusal := .next (vectorOp 0x01 [] (fun _ => F32.sub) k s)
def execVmul (k : CoreRef) (s : State) : Host.Outcome State Fault Refusal := .next (vectorOp 0x02 [] (fun _ => F32.mul) k s)
def execVfma (k : CoreRef) (s : State) : Host.Outcome State Fault Refusal := .next (vectorOp3 0x03 F32.fma k s)
def execVmin (k : CoreRef) (s : State) : Host.Outcome State Fault Refusal := .next (vectorOp 0x04 [] (fun _ => F32.minNum) k s)
def execVmax (k : CoreRef) (s : State) : Host.Outcome State Fault Refusal := .next (vectorOp 0x05 [] (fun _ => F32.maxNum) k s)
def execVdiv (k : CoreRef) (s : State) : Host.Outcome State Fault Refusal := .next (vectorOp 0x06 [] (fun _ => F32.div) k s)
def execVsqrt (k : CoreRef) (s : State) : Host.Outcome State Fault Refusal := .next (vectorOp1 0x07 (mapLanes F32.sqrt) k s)

/-- COND of VCMP; codes 5 to 7 are reserved. -/
def vecTest (cond : Nat) (a b : W32) : Bool :=
  match cond with
  | 0 => F32.eq a b
  | 1 => !F32.eq a b
  | 2 => F32.lt a b
  | 3 => F32.le a b
  | _ => F32.isNaN a || F32.isNaN b

def execVcmp (k : CoreRef) (s : State) : Host.Outcome State Fault Refusal :=
  .next (s.issueRow k 0x4 0x08 (vecUsed [(41, 39)]) (fun s i =>
    if 4 < vecCond i.w then i.fault s pfField
    else i.regs s [if vecBsc i.w then vecXs i.w else 0] (fun s =>
      i.done s (i.core.setV (vecVd i.w)
        (mapLanes2 (fun a b => if vecTest (vecCond i.w) a b then 0xFFFFFFFF else 0) (i.core.getV (vecVa i.w)) i.vecB)))))

def execVsel (k : CoreRef) (s : State) : Host.Outcome State Fault Refusal :=
  .next (vectorOp3 0x09 (fun a b c => if a = 0 then c else b) k s)

/-- Neighbours combined: the elements in pairs, in order. -/
def pairUp (f : W32 → W32 → W32) : List W32 → List W32
  | a :: b :: r => f a b :: pairUp f r
  | l => l

/-- The reduction of 16 lanes in four levels of pairs (R117), in lane 0. -/
def reduceLanes (f : W32 → W32 → W32) (a : W512) : W512 :=
  ofLanes ((pairUp f (pairUp f (pairUp f (pairUp f (lanes a))))) ++ List.replicate 15 0)

def execVradd (k : CoreRef) (s : State) : Host.Outcome State Fault Refusal := .next (vectorOp1 0x0A (reduceLanes F32.add) k s)
def execVrmax (k : CoreRef) (s : State) : Host.Outcome State Fault Refusal := .next (vectorOp1 0x0B (reduceLanes F32.maxNum) k s)
def execVrmin (k : CoreRef) (s : State) : Host.Outcome State Fault Refusal := .next (vectorOp1 0x0C (reduceLanes F32.minNum) k s)

/-- An INT32 result by SAT (R79). -/
def satInt (sat : Bool) (x : Int) : W32 :=
  if sat then BitVec.ofInt 32 (max (-2147483648) (min 2147483647 x)) else BitVec.ofInt 32 x

def execViadd (k : CoreRef) (s : State) : Host.Outcome State Fault Refusal :=
  .next (vectorOp 0x10 [(38, 38)] (fun w a b => satInt (vecSat w) (a.toInt + b.toInt)) k s)
def execVisub (k : CoreRef) (s : State) : Host.Outcome State Fault Refusal :=
  .next (vectorOp 0x11 [(38, 38)] (fun w a b => satInt (vecSat w) (a.toInt - b.toInt)) k s)
/-- VIMUL keeps the low 32 bits, whatever SAT says (log entry 69). -/
def execVimul (k : CoreRef) (s : State) : Host.Outcome State Fault Refusal :=
  .next (vectorOp 0x12 [(38, 38)] (fun _ a b => a * b) k s)
def execVand (k : CoreRef) (s : State) : Host.Outcome State Fault Refusal := .next (vectorOp 0x13 [] (fun _ => (· &&& ·)) k s)
def execVor (k : CoreRef) (s : State) : Host.Outcome State Fault Refusal := .next (vectorOp 0x14 [] (fun _ => (· ||| ·)) k s)
def execVxor (k : CoreRef) (s : State) : Host.Outcome State Fault Refusal := .next (vectorOp 0x15 [] (fun _ => (· ^^^ ·)) k s)
def execVshl (k : CoreRef) (s : State) : Host.Outcome State Fault Refusal :=
  .next (vectorOp 0x16 [] (fun _ a b => a <<< (b.toNat % 32)) k s)
def execVshr (k : CoreRef) (s : State) : Host.Outcome State Fault Refusal :=
  .next (vectorOp 0x17 [] (fun _ a b => a >>> (b.toNat % 32)) k s)
def execVsar (k : CoreRef) (s : State) : Host.Outcome State Fault Refusal :=
  .next (vectorOp 0x18 [] (fun _ a b => a.sshiftRight (b.toNat % 32)) k s)
def execVimin (k : CoreRef) (s : State) : Host.Outcome State Fault Refusal :=
  .next (vectorOp 0x19 [] (fun _ a b => if b.slt a then b else a) k s)
def execVimax (k : CoreRef) (s : State) : Host.Outcome State Fault Refusal :=
  .next (vectorOp 0x1A [] (fun _ a b => if a.slt b then b else a) k s)

/-! ### Transcendentals (R118): special values as stated, free within 2 units in the last place elsewhere (R95; log entry 5) -/

/-- The signed zero and infinity with the sign of a value. -/
def zeroLike (x : W32) : W32 := x &&& 0x80000000
def infLike (x : W32) : W32 := zeroLike x ||| 0x7F800000

/-- A transcendental at a finite argument: a free result within the bound of R95. -/
def near2 (op : Nat) (x : W32) : W32 :=
  match f32 x with
  | .fin s m e => boundedResult 2 false (transcendentalDy op s m e) (Config.transcendental op x)
  | _ => f32NaN

/-- Thresholds: the least code whose exponential overflows, and the least negative code whose exponential lies below the
smallest subnormal. -/
def expResult (op excess under : Nat) (x : W32) : W32 :=
  match f32 x with
  | .nan => f32NaN
  | .inf true => 0
  | .inf false => f32PosInf
  | .fin false _ _ => if excess ≤ x.toNat then f32PosInf else near2 op x
  | .fin true _ _ => if under ≤ x.toNat then 0 else near2 op x

def logResult (op : Nat) (x : W32) : W32 :=
  match f32 x with
  | .nan => f32NaN
  | .inf s => if s then f32NaN else f32PosInf
  | .fin s m _ => if m = 0 then f32NegInf else if s then f32NaN else near2 op x

def rcpResult (x : W32) : W32 :=
  match f32 x with
  | .nan => f32NaN
  | .inf _ => zeroLike x
  | .fin _ m _ => if m = 0 then infLike x else near2 0x24 x

def rsqrtResult (x : W32) : W32 :=
  match f32 x with
  | .nan => f32NaN
  | .inf s => if s then f32NaN else 0
  | .fin s m _ => if m = 0 then infLike x else if s then f32NaN else near2 0x25 x

def trigResult (op : Nat) (x : W32) : W32 :=
  if (f32 x).isFin then near2 op x else f32NaN

/-- TANH, SIGMOID and ERF: limits at the infinities. -/
def limitResult (op : Nat) (low high : W32) (x : W32) : W32 :=
  match f32 x with
  | .nan => f32NaN
  | .inf s => if s then low else high
  | .fin _ _ _ => near2 op x

def minusOne : W32 := 0xBF800000

def execVexp2 (k : CoreRef) (s : State) : Host.Outcome State Fault Refusal :=
  .next (vectorOp1 0x20 (mapLanes (expResult 0x20 0x43000000 0xC3150001)) k s)
def execVexp (k : CoreRef) (s : State) : Host.Outcome State Fault Refusal :=
  .next (vectorOp1 0x21 (mapLanes (expResult 0x21 0x42B17218 0xC2CE8ED0)) k s)
def execVlog2 (k : CoreRef) (s : State) : Host.Outcome State Fault Refusal := .next (vectorOp1 0x22 (mapLanes (logResult 0x22)) k s)
def execVlog (k : CoreRef) (s : State) : Host.Outcome State Fault Refusal := .next (vectorOp1 0x23 (mapLanes (logResult 0x23)) k s)
def execVrcp (k : CoreRef) (s : State) : Host.Outcome State Fault Refusal := .next (vectorOp1 0x24 (mapLanes rcpResult) k s)
def execVrsqrt (k : CoreRef) (s : State) : Host.Outcome State Fault Refusal := .next (vectorOp1 0x25 (mapLanes rsqrtResult) k s)
def execVsin (k : CoreRef) (s : State) : Host.Outcome State Fault Refusal := .next (vectorOp1 0x26 (mapLanes (trigResult 0x26)) k s)
def execVcos (k : CoreRef) (s : State) : Host.Outcome State Fault Refusal := .next (vectorOp1 0x27 (mapLanes (trigResult 0x27)) k s)
def execVtanh (k : CoreRef) (s : State) : Host.Outcome State Fault Refusal :=
  .next (vectorOp1 0x28 (mapLanes (limitResult 0x28 minusOne F32.one)) k s)
def execVsigmoid (k : CoreRef) (s : State) : Host.Outcome State Fault Refusal :=
  .next (vectorOp1 0x29 (mapLanes (limitResult 0x29 0 F32.one)) k s)
def execVerf (k : CoreRef) (s : State) : Host.Outcome State Fault Refusal :=
  .next (vectorOp1 0x2A (mapLanes (limitResult 0x2A minusOne F32.one)) k s)

/-! ### Moves -/

/-- The tile-store address of VLD and VST: XS + IMM16. -/
def Issue.vecAddr (i : Issue) : Nat := (i.core.getX (vecXs i.w) + BitVec.ofNat 64 (vecImm i.w)).toNat

def execVld (k : CoreRef) (s : State) : Host.Outcome State Fault Refusal :=
  .next (s.issueRow k 0x4 0x30 (fun _ => [(16, 12), (36, 32), (57, 42)]) (fun s i =>
    i.regs s [vecXs i.w] (fun s =>
      let a := i.vecAddr
      if a % 64 ≠ 0 ∨ tileBytes < a + 64 then i.faultAt s pfPlacement a
      else i.reading s a 64 (fun s =>
        i.done s (i.core.setV (vecVd i.w) (BitVec.ofNat 512 (leNat (i.core.tsRead a 64))))))))

def execVst (k : CoreRef) (s : State) : Host.Outcome State Fault Refusal :=
  .next (s.issueRow k 0x4 0x31 (fun _ => [(21, 17), (36, 32), (57, 42)]) (fun s i =>
    i.regs s [vecXs i.w] (fun s =>
      let a := i.vecAddr
      if a % 64 ≠ 0 ∨ tileBytes < a + 64 then i.faultAt s pfPlacement a
      else i.writing s a 64 (fun s =>
        i.done s (i.core.tsWrite a (leBytes 64 (i.core.getV (vecVa i.w)).toNat))))))

def execVmovx (k : CoreRef) (s : State) : Host.Outcome State Fault Refusal :=
  .next (s.issueRow k 0x4 0x32 (fun _ => [(16, 12), (36, 32)]) (fun s i =>
    i.regs s [vecXs i.w] (fun s => i.done s (i.core.setV (vecVd i.w) (splat (i.core.x32 (vecXs i.w)))))))

def execVextr (k : CoreRef) (s : State) : Host.Outcome State Fault Refusal :=
  .next (s.issueRow k 0x4 0x33 (fun _ => [(21, 17), (36, 32), (57, 42)]) (fun s i =>
    i.regs s [vecXs i.w] (fun s =>
      i.done s (i.core.setX (vecXs i.w) ((lane (i.core.getV (vecVa i.w)) (vecImm i.w % 16)).setWidth 64)))))

end Sys2Proof.Machine
end

