-- ==== Sys2Proof/Machine/Dispatch.lean ====
section
/-! DEFINITION. Which meaning each command has: one arm per constructor of `Instr`, each one direct call. -/

namespace Sys2Proof.Machine

def exec (i : Instr) (s : State) : Host.Outcome State Fault Refusal :=
  match i with
  | .pwrGoodRise straps patch => Sys2Proof.Machine.execPwrGoodRise straps patch s
  | .pwrGoodFall => Sys2Proof.Machine.execPwrGoodFall s
  | .perstNRelease rate width flit => Sys2Proof.Machine.execPerstNRelease rate width flit s
  | .perstNAssert => Sys2Proof.Machine.execPerstNAssert s
  | .functionLevelReset => Sys2Proof.Machine.execFunctionLevelReset s
  | .dlDown lost => Sys2Proof.Machine.execDlDown lost s
  | .dlUp rate width flit => Sys2Proof.Machine.execDlUp rate width flit s
  | .holdTimeExpiry => Sys2Proof.Machine.execHoldTimeExpiry s
  | .fastThrottleAssert => Sys2Proof.Machine.execFastThrottleAssert s
  | .fastThrottleRelease => Sys2Proof.Machine.execFastThrottleRelease s
  | .throttleHoldExpiry => Sys2Proof.Machine.execThrottleHoldExpiry s
  | .timePpsEdge clock10M => Sys2Proof.Machine.execTimePpsEdge clock10M s
  | .testTokenPulse => Sys2Proof.Machine.execTestTokenPulse s
  | .tokenRegenTimeout => Sys2Proof.Machine.execTokenRegenTimeout s
  | .analogueComparatorTrip sensor reading => Sys2Proof.Machine.execAnalogueComparatorTrip sensor reading s
  | .doorbellSqTailWrite c r v => Sys2Proof.Machine.execDoorbellSqTailWrite c r v s
  | .doorbellCqHeadWrite c r v => Sys2Proof.Machine.execDoorbellCqHeadWrite c r v s
  | .packetTake c r => Sys2Proof.Machine.execPacketTake c r s
  | .packetHeaderRepoll c r => Sys2Proof.Machine.execPacketHeaderRepoll c r s
  | .tornPacketTimeout c r => Sys2Proof.Machine.execTornPacketTimeout c r s
  | .interruptCoalesceTimeout c r => Sys2Proof.Machine.execInterruptCoalesceTimeout c r s
  | .msixVectorUnmask v => Sys2Proof.Machine.execMsixVectorUnmask v s
  | .apertureWrite a off data => Sys2Proof.Machine.execApertureWrite a off data s
  | .apertureRead a off len => Sys2Proof.Machine.execApertureRead a off len s
  | .placementWrite requester off data => Sys2Proof.Machine.execPlacementWrite requester off data s
  | .placementRead requester off len => Sys2Proof.Machine.execPlacementRead requester off len s
  | .commandWindowWrite off data => Sys2Proof.Machine.execCommandWindowWrite off data s
  | .hlCtx0EnableWrite v => Sys2Proof.Machine.execHlCtx0EnableWrite v s
  | .hlCtx0ResumeWrite v => Sys2Proof.Machine.execHlCtx0ResumeWrite v s
  | .timeCtrlWrite v => Sys2Proof.Machine.execTimeCtrlWrite v s
  | .reqClippedClear v => Sys2Proof.Machine.execReqClippedClear v s
  | .registerWrite w => Sys2Proof.Machine.execRegisterWrite w s
  | .curClockLimitsWrite v => Sys2Proof.Machine.execCurClockLimitsWrite v s
  | .curPowerCapWrite v => Sys2Proof.Machine.execCurPowerCapWrite v s
  | .curThrottlePointWrite v => Sys2Proof.Machine.execCurThrottlePointWrite v s
  | .rstRequestL2 v => Sys2Proof.Machine.execRstRequestL2 v s
  | .rstRequestL3 v => Sys2Proof.Machine.execRstRequestL3 v s
  | .rstRequestL4 v => Sys2Proof.Machine.execRstRequestL4 v s
  | .memHpprWrite v => Sys2Proof.Machine.execMemHpprWrite v s
  | .glbStageWindowWrite off data => Sys2Proof.Machine.execGlbStageWindowWrite off data s
  | .glbStageGo v => Sys2Proof.Machine.execGlbStageGo v s
  | .glbRollbackWrite v => Sys2Proof.Machine.execGlbRollbackWrite v s
  | .getVersion t => Sys2Proof.Machine.execGetVersion t s
  | .getCapabilities t => Sys2Proof.Machine.execGetCapabilities t s
  | .negotiateAlgorithms t offersEd25519 offersSha384 => Sys2Proof.Machine.execNegotiateAlgorithms t offersEd25519 offersSha384 s
  | .getDigests t => Sys2Proof.Machine.execGetDigests t s
  | .getCertificate t slot off len => Sys2Proof.Machine.execGetCertificate t slot off len s
  | .challenge t slot nonce => Sys2Proof.Machine.execChallenge t slot nonce s
  | .getMeasurements t index nonce => Sys2Proof.Machine.execGetMeasurements t index nonce s
  | .pldmSensorRead id => Sys2Proof.Machine.execPldmSensorRead id s
  | .nop q => Sys2Proof.Machine.execNop q s
  | .apertureBind q => Sys2Proof.Machine.execApertureBind q s
  | .apertureUnbind q => Sys2Proof.Machine.execApertureUnbind q s
  | .placeSet q => Sys2Proof.Machine.execPlaceSet q s
  | .poolQuotaSet q => Sys2Proof.Machine.execPoolQuotaSet q s
  | .memMap q => Sys2Proof.Machine.execMemMap q s
  | .memUnmap q => Sys2Proof.Machine.execMemUnmap q s
  | .memPin q => Sys2Proof.Machine.execMemPin q s
  | .memUnpin q => Sys2Proof.Machine.execMemUnpin q s
  | .memPrefetch q => Sys2Proof.Machine.execMemPrefetch q s
  | .poolEvictStore q => Sys2Proof.Machine.execPoolEvictStore q s
  | .hostMap q => Sys2Proof.Machine.execHostMap q s
  | .hostUnmap q => Sys2Proof.Machine.execHostUnmap q s
  | .peerExport q => Sys2Proof.Machine.execPeerExport q s
  | .stallRead q => Sys2Proof.Machine.execStallRead q s
  | .memGroupMode q => Sys2Proof.Machine.execMemGroupMode q s
  | .memPpr q => Sys2Proof.Machine.execMemPpr q s
  | .memLoopback q => Sys2Proof.Machine.execMemLoopback q s
  | .loopbackDurationExpiry failing => Sys2Proof.Machine.execLoopbackDurationExpiry failing s
  | .progLaunch q => Sys2Proof.Machine.execProgLaunch q s
  | .progAbort q => Sys2Proof.Machine.execProgAbort q s
  | .clusterGrant q => Sys2Proof.Machine.execClusterGrant q s
  | .clusterRelease q => Sys2Proof.Machine.execClusterRelease q s
  | .copy q => Sys2Proof.Machine.execCopy q s
  | .copyComplete q => Sys2Proof.Machine.execCopyComplete q s
  | .packTableInit q => Sys2Proof.Machine.execPackTableInit q s
  | .packTableAdvance q => Sys2Proof.Machine.execPackTableAdvance q s
  | .collStart q => Sys2Proof.Machine.execCollStart q s
  | .collCancel q => Sys2Proof.Machine.execCollCancel q s
  | .updApply q => Sys2Proof.Machine.execUpdApply q s
  | .updNorm q => Sys2Proof.Machine.execUpdNorm q s
  | .recInit q => Sys2Proof.Machine.execRecInit q s
  | .recExport q => Sys2Proof.Machine.execRecExport q s
  | .recImport q => Sys2Proof.Machine.execRecImport q s
  | .consSweep q => Sys2Proof.Machine.execConsSweep q s
  | .consCommandStart q => Sys2Proof.Machine.execConsCommandStart q s
  | .updateCommit q => Sys2Proof.Machine.execUpdateCommit q s
  | .timeSet q => Sys2Proof.Machine.execTimeSet q s
  | .timeMark q => Sys2Proof.Machine.execTimeMark q s
  | .pegQuotaSet q => Sys2Proof.Machine.execPegQuotaSet q s
  | .pegAlloc q => Sys2Proof.Machine.execPegAlloc q s
  | .pegFree q => Sys2Proof.Machine.execPegFree q s
  | .pegSignal q => Sys2Proof.Machine.execPegSignal q s
  | .pegSet q => Sys2Proof.Machine.execPegSet q s
  | .pegWaitGe q => Sys2Proof.Machine.execPegWaitGe q s
  | .pegWaitEq q => Sys2Proof.Machine.execPegWaitEq q s
  | .pegWaitTimeout => Sys2Proof.Machine.execPegWaitTimeout s
  | .catRingBind q => Sys2Proof.Machine.execCatRingBind q s
  | .catExportBind q => Sys2Proof.Machine.execCatExportBind q s
  | .ctxCreate q => Sys2Proof.Machine.execCtxCreate q s
  | .ctxDestroy q => Sys2Proof.Machine.execCtxDestroy q s
  | .ringCreate q => Sys2Proof.Machine.execRingCreate q s
  | .ringDestroy q => Sys2Proof.Machine.execRingDestroy q s
  | .ringResume q => Sys2Proof.Machine.execRingResume q s
  | .rstContext q => Sys2Proof.Machine.execRstContext q s
  | .rstUnit q => Sys2Proof.Machine.execRstUnit q s
  | .testRun q => Sys2Proof.Machine.execTestRun q s
  | .repairMapRead q => Sys2Proof.Machine.execRepairMapRead q s
  | .repairFuse q => Sys2Proof.Machine.execRepairFuse q s
  | .curPowerState q => Sys2Proof.Machine.execCurPowerState q s
  | .curSensorRead q => Sys2Proof.Machine.execCurSensorRead q s
  | .curPatchActivate q patch => Sys2Proof.Machine.execCurPatchActivate q patch s
  | .glRouteWrite q => Sys2Proof.Machine.execGlRouteWrite q s
  | .glPortRetrain q => Sys2Proof.Machine.execGlPortRetrain q s
  | .glPortDisable q => Sys2Proof.Machine.execGlPortDisable q s
  | .glPortEnable q => Sys2Proof.Machine.execGlPortEnable q s
  | .fwStage q => Sys2Proof.Machine.execFwStage q s
  | .cfgStage q => Sys2Proof.Machine.execCfgStage q s
  | .cfgCommit q => Sys2Proof.Machine.execCfgCommit q s
  | .processorRestartComplete => Sys2Proof.Machine.execProcessorRestartComplete s
  | .statInit q => Sys2Proof.Machine.execStatInit q s
  | .statClose q => Sys2Proof.Machine.execStatClose q s
  | .gscaleInit q => Sys2Proof.Machine.execGscaleInit q s
  | .gscaleAdvance q => Sys2Proof.Machine.execGscaleAdvance q s
  | .launchStart q => Sys2Proof.Machine.execLaunchStart q s
  | .clusterProgramEnd c => Sys2Proof.Machine.execClusterProgramEnd c s
  | .clusterDrained c => Sys2Proof.Machine.execClusterDrained c s
  | .launchComplete q => Sys2Proof.Machine.execLaunchComplete q s
  | .clusterGateTimeout c => Sys2Proof.Machine.execClusterGateTimeout c s
  | .add k => Sys2Proof.Machine.execAdd k s
  | .sub k => Sys2Proof.Machine.execSub k s
  | .mul k => Sys2Proof.Machine.execMul k s
  | .and64 k => Sys2Proof.Machine.execAnd64 k s
  | .or64 k => Sys2Proof.Machine.execOr64 k s
  | .xor64 k => Sys2Proof.Machine.execXor64 k s
  | .shl k => Sys2Proof.Machine.execShl k s
  | .shr k => Sys2Proof.Machine.execShr k s
  | .sar k => Sys2Proof.Machine.execSar k s
  | .min k => Sys2Proof.Machine.execMin k s
  | .max k => Sys2Proof.Machine.execMax k s
  | .li k => Sys2Proof.Machine.execLi k s
  | .sld k => Sys2Proof.Machine.execSld k s
  | .sst k => Sys2Proof.Machine.execSst k s
  | .spr k => Sys2Proof.Machine.execSpr k s
  | .br k => Sys2Proof.Machine.execBr k s
  | .brc k => Sys2Proof.Machine.execBrc k s
  | .loop k => Sys2Proof.Machine.execLoop k s
  | .endProgram k => Sys2Proof.Machine.execEndProgram k s
  | .branchNop k => Sys2Proof.Machine.execBranchNop k s
  | .mma k => Sys2Proof.Machine.execMma k s
  | .epi k => Sys2Proof.Machine.execEpi k s
  | .accRead k => Sys2Proof.Machine.execAccRead k s
  | .accWrite k => Sys2Proof.Machine.execAccWrite k s
  | .accZero k => Sys2Proof.Machine.execAccZero k s
  | .vadd k => Sys2Proof.Machine.execVadd k s
  | .vsub k => Sys2Proof.Machine.execVsub k s
  | .vmul k => Sys2Proof.Machine.execVmul k s
  | .vfma k => Sys2Proof.Machine.execVfma k s
  | .vmin k => Sys2Proof.Machine.execVmin k s
  | .vmax k => Sys2Proof.Machine.execVmax k s
  | .vdiv k => Sys2Proof.Machine.execVdiv k s
  | .vsqrt k => Sys2Proof.Machine.execVsqrt k s
  | .vcmp k => Sys2Proof.Machine.execVcmp k s
  | .vsel k => Sys2Proof.Machine.execVsel k s
  | .vradd k => Sys2Proof.Machine.execVradd k s
  | .vrmax k => Sys2Proof.Machine.execVrmax k s
  | .vrmin k => Sys2Proof.Machine.execVrmin k s
  | .viadd k => Sys2Proof.Machine.execViadd k s
  | .visub k => Sys2Proof.Machine.execVisub k s
  | .vimul k => Sys2Proof.Machine.execVimul k s
  | .vand k => Sys2Proof.Machine.execVand k s
  | .vor k => Sys2Proof.Machine.execVor k s
  | .vxor k => Sys2Proof.Machine.execVxor k s
  | .vshl k => Sys2Proof.Machine.execVshl k s
  | .vshr k => Sys2Proof.Machine.execVshr k s
  | .vsar k => Sys2Proof.Machine.execVsar k s
  | .vimin k => Sys2Proof.Machine.execVimin k s
  | .vimax k => Sys2Proof.Machine.execVimax k s
  | .vexp2 k => Sys2Proof.Machine.execVexp2 k s
  | .vexp k => Sys2Proof.Machine.execVexp k s
  | .vlog2 k => Sys2Proof.Machine.execVlog2 k s
  | .vlog k => Sys2Proof.Machine.execVlog k s
  | .vrcp k => Sys2Proof.Machine.execVrcp k s
  | .vrsqrt k => Sys2Proof.Machine.execVrsqrt k s
  | .vsin k => Sys2Proof.Machine.execVsin k s
  | .vcos k => Sys2Proof.Machine.execVcos k s
  | .vtanh k => Sys2Proof.Machine.execVtanh k s
  | .vsigmoid k => Sys2Proof.Machine.execVsigmoid k s
  | .verf k => Sys2Proof.Machine.execVerf k s
  | .vld k => Sys2Proof.Machine.execVld k s
  | .vst k => Sys2Proof.Machine.execVst k s
  | .vmovx k => Sys2Proof.Machine.execVmovx k s
  | .vextr k => Sys2Proof.Machine.execVextr k s
  | .cvt k => Sys2Proof.Machine.execCvt k s
  | .xfer k => Sys2Proof.Machine.execXfer k s
  | .stream k => Sys2Proof.Machine.execStream k s
  | .xwait k => Sys2Proof.Machine.execXwait k s
  | .cbld k => Sys2Proof.Machine.execCbld k s
  | .cbst k => Sys2Proof.Machine.execCbst k s
  | .credit k => Sys2Proof.Machine.execCredit k s
  | .swait k => Sys2Proof.Machine.execSwait k s
  | .dpGet k => Sys2Proof.Machine.execDpGet k s
  | .dpPut k => Sys2Proof.Machine.execDpPut k s
  | .dpWait k => Sys2Proof.Machine.execDpWait k s
  | .dpAtomAddFp32 k => Sys2Proof.Machine.execDpAtomAddFp32 k s
  | .dpAtomAddBf16 k => Sys2Proof.Machine.execDpAtomAddBf16 k s
  | .dpAtomAddInt32 k => Sys2Proof.Machine.execDpAtomAddInt32 k s
  | .dpAtomAddInt64 k => Sys2Proof.Machine.execDpAtomAddInt64 k s
  | .dpAtomMinFp32 k => Sys2Proof.Machine.execDpAtomMinFp32 k s
  | .dpAtomMinBf16 k => Sys2Proof.Machine.execDpAtomMinBf16 k s
  | .dpAtomMaxFp32 k => Sys2Proof.Machine.execDpAtomMaxFp32 k s
  | .dpAtomMaxBf16 k => Sys2Proof.Machine.execDpAtomMaxBf16 k s
  | .dpAtomAnd k => Sys2Proof.Machine.execDpAtomAnd k s
  | .dpAtomOr k => Sys2Proof.Machine.execDpAtomOr k s
  | .dpAtomXor k => Sys2Proof.Machine.execDpAtomXor k s
  | .dpAtomExchange k => Sys2Proof.Machine.execDpAtomExchange k s
  | .dpAtomCompareExchange k => Sys2Proof.Machine.execDpAtomCompareExchange k s
  | .dpAtomLineAdd k => Sys2Proof.Machine.execDpAtomLineAdd k s
  | .scanAffine k => Sys2Proof.Machine.execScanAffine k s
  | .scanAddF32 k => Sys2Proof.Machine.execScanAddF32 k s
  | .scanAddI32 k => Sys2Proof.Machine.execScanAddI32 k s
  | .scanMaxF32 k => Sys2Proof.Machine.execScanMaxF32 k s
  | .scanBarrier k => Sys2Proof.Machine.execScanBarrier k s
  | .scanChain c => Sys2Proof.Machine.execScanChain c s
  | .psig k => Sys2Proof.Machine.execPsig k s
  | .pset k => Sys2Proof.Machine.execPset k s
  | .pwge k => Sys2Proof.Machine.execPwge k s
  | .pweq k => Sys2Proof.Machine.execPweq k s
  | .sbind k => Sys2Proof.Machine.execSbind k s
  | .sflush k => Sys2Proof.Machine.execSflush k s
  | .svec k => Sys2Proof.Machine.execSvec k s
  | .streamRequestIssue c sid => Sys2Proof.Machine.execStreamRequestIssue c sid s
  | .streamUnitLanded c sid unit => Sys2Proof.Machine.execStreamUnitLanded c sid unit s
  | .transferComplete k tag => Sys2Proof.Machine.execTransferComplete k tag s
  | .daypackComplete k dtag => Sys2Proof.Machine.execDaypackComplete k dtag s
  | .streamTagReread r => Sys2Proof.Machine.execStreamTagReread r s
  | .streamDeadlineExpiry r => Sys2Proof.Machine.execStreamDeadlineExpiry r s
  | .stallReportTimeout c unit => Sys2Proof.Machine.execStallReportTimeout c unit s
  | .agingTick => Sys2Proof.Machine.execAgingTick s
  | .evictionComplete frame confirmed => Sys2Proof.Machine.execEvictionComplete frame confirmed s
  | .pageReturnStart c page => Sys2Proof.Machine.execPageReturnStart c page s
  | .pageReturnComplete c page => Sys2Proof.Machine.execPageReturnComplete c page s
  | .hostReadCompletion id data => Sys2Proof.Machine.execHostReadCompletion id data s
  | .hbmReadResponse x => Sys2Proof.Machine.execHbmReadResponse x s
  | .caParityReport stack pc => Sys2Proof.Machine.execCaParityReport stack pc s
  | .refreshInterval stack => Sys2Proof.Machine.execRefreshInterval stack s
  | .wcFlushTimeout line => Sys2Proof.Machine.execWcFlushTimeout line s
  | .stackTrainingComplete x => Sys2Proof.Machine.execStackTrainingComplete x s
  | .flitReceived p flit => Sys2Proof.Machine.execFlitReceived p flit s
  | .nakFlitReceived p flit => Sys2Proof.Machine.execNakFlitReceived p flit s
  | .idleFlitReceived p flit => Sys2Proof.Machine.execIdleFlitReceived p flit s
  | .lpiFlitReceived p flit => Sys2Proof.Machine.execLpiFlitReceived p flit s
  | .replayTimeout p => Sys2Proof.Machine.execReplayTimeout p s
  | .frameReceived p frame => Sys2Proof.Machine.execFrameReceived p frame s
  | .writeBlockReceived p => Sys2Proof.Machine.execWriteBlockReceived p s
  | .writeAckReceived p => Sys2Proof.Machine.execWriteAckReceived p s
  | .readReqReceived p => Sys2Proof.Machine.execReadReqReceived p s
  | .readRespReceived p => Sys2Proof.Machine.execReadRespReceived p s
  | .pegBlockReceived p => Sys2Proof.Machine.execPegBlockReceived p s
  | .collDataReceived p => Sys2Proof.Machine.execCollDataReceived p s
  | .collReadyReceived p => Sys2Proof.Machine.execCollReadyReceived p s
  | .collSummaryReceived p => Sys2Proof.Machine.execCollSummaryReceived p s
  | .collHeaderReceived p => Sys2Proof.Machine.execCollHeaderReceived p s
  | .beaconRequestReceived p => Sys2Proof.Machine.execBeaconRequestReceived p s
  | .beaconReplyReceived p => Sys2Proof.Machine.execBeaconReplyReceived p s
  | .beaconIntervalTick => Sys2Proof.Machine.execBeaconIntervalTick s
  | .ptpMessageReceived p x => Sys2Proof.Machine.execPtpMessageReceived p x s
  | .ptpSyncInterval => Sys2Proof.Machine.execPtpSyncInterval s
  | .measurementLossTimeout => Sys2Proof.Machine.execMeasurementLossTimeout s
  | .slotPlanPeriodBoundary p => Sys2Proof.Machine.execSlotPlanPeriodBoundary p s
  | .e2eAckTimer src tc => Sys2Proof.Machine.execE2eAckTimer src tc s
  | .e2eAckReceived p => Sys2Proof.Machine.execE2eAckReceived p s
  | .e2eNakReceived p => Sys2Proof.Machine.execE2eNakReceived p s
  | .e2eResendTimeout dest tc => Sys2Proof.Machine.execE2eResendTimeout dest tc s
  | .connectionIdleExpiry sender node tc => Sys2Proof.Machine.execConnectionIdleExpiry sender node tc s
  | .signalDetected p => Sys2Proof.Machine.execSignalDetected p s
  | .trainingAttemptEnd p x => Sys2Proof.Machine.execTrainingAttemptEnd p x s
  | .linkLoss p => Sys2Proof.Machine.execLinkLoss p s
  | .collectiveStart q => Sys2Proof.Machine.execCollectiveStart q s
  | .collTagReread q => Sys2Proof.Machine.execCollTagReread q s
  | .collDeadlineExpiry q => Sys2Proof.Machine.execCollDeadlineExpiry q s
  | .collEndDeadlineExpiry q => Sys2Proof.Machine.execCollEndDeadlineExpiry q s
  | .collectiveComplete q => Sys2Proof.Machine.execCollectiveComplete q s
  | .lateWindowExpiry c tag => Sys2Proof.Machine.execLateWindowExpiry c tag s
  | .thermalSample readings => Sys2Proof.Machine.execThermalSample readings s
  | .voltageSample readings => Sys2Proof.Machine.execVoltageSample readings s
  | .currentSample readings statusWords => Sys2Proof.Machine.execCurrentSample readings statusWords s
  | .powerLoopTick => Sys2Proof.Machine.execPowerLoopTick s
  | .voltageSettled => Sys2Proof.Machine.execVoltageSettled s
  | .idleEntryTimeout => Sys2Proof.Machine.execIdleEntryTimeout s
  | .curatorWatchdogExpiry => Sys2Proof.Machine.execCuratorWatchdogExpiry s
  | .curatorRestartComplete => Sys2Proof.Machine.execCuratorRestartComplete s
  | .thermalSensorCheck apart => Sys2Proof.Machine.execThermalSensorCheck apart s
  | .voltageMonitorCheck apart => Sys2Proof.Machine.execVoltageMonitorCheck apart s
  | .watchdogExpiry c => Sys2Proof.Machine.execWatchdogExpiry c s
  | .quiesceComplete c => Sys2Proof.Machine.execQuiesceComplete c s
  | .quiesceTimeout c unit core engine => Sys2Proof.Machine.execQuiesceTimeout c unit core engine s
  | .heartbeatTimeout unit => Sys2Proof.Machine.execHeartbeatTimeout unit s
  | .unitBistComplete unit core engine x => Sys2Proof.Machine.execUnitBistComplete unit core engine x s
  | .testConditionCheck x => Sys2Proof.Machine.execTestConditionCheck x s
  | .coldBistRetry => Sys2Proof.Machine.execColdBistRetry s
  | .bistBatchComplete x => Sys2Proof.Machine.execBistBatchComplete x s
  | .coldBistPhaseComplete x => Sys2Proof.Machine.execColdBistPhaseComplete x s
  | .rotationInterval c => Sys2Proof.Machine.execRotationInterval c s
  | .rotationTestComplete c x => Sys2Proof.Machine.execRotationTestComplete c x s
  | .timePpsOutPulse => Sys2Proof.Machine.execTimePpsOutPulse s
  | .postPackageRepairComplete hard rowPassed => Sys2Proof.Machine.execPostPackageRepairComplete hard rowPassed s
  | .wakeComplete => Sys2Proof.Machine.execWakeComplete s
  | .conservatorCommandComplete q => Sys2Proof.Machine.execConservatorCommandComplete q s
  | .platformEventMessageCollect => Sys2Proof.Machine.execPlatformEventMessageCollect s
  | .endpointIdAssignment eid => Sys2Proof.Machine.execEndpointIdAssignment eid s
  | .tapOperation x => Sys2Proof.Machine.execTapOperation x s
  | .configurationRequest off write => Sys2Proof.Machine.execConfigurationRequest off write s
  | .bootBringupComplete => Sys2Proof.Machine.execBootBringupComplete s

end Sys2Proof.Machine
end

