-- ==== Sys2Proof/Safety.lean ====
section
/-! DEFINITION. The terms that the statements use: when a row is enabled, what a step may touch, and what a run keeps. -/

namespace Sys2Proof.Machine

/-! ### Answers of exec -/

/-- A row answers a next state of which a property holds. -/
def Runs (c : Instr) (s : State) (P : State → Prop) : Prop := ∃ t, exec c s = .next t ∧ P t

/-- A row answers exactly this state. -/
def RunsTo (c : Instr) (s t : State) : Prop := exec c s = .next t

/-! ### Core-instruction rows -/

/-- A core can issue the instruction `i` of a class and operation: its cluster runs, it neither ended nor waits, its index lies in
the image, every bit outside the fields the instruction uses is clear (R136, R137), and the word, registers and accumulator
quarters that it reads hold no flipped bit (R133). -/
structure Issues (s : State) (k : CoreRef) (cls op : Nat) (used : Nat → List (Nat × Nat)) (i : Issue) : Prop where
  issue : s.issue? k = some i
  inImage : i.core.pc < i.cl.image.length
  isClass : wClass i.w = cls
  isOp : wOp i.w = op
  clear : reservedClear i.w (used i.w) = true
  reads : s.issueReads i = (s, true)

/-- No outstanding atomic is to write one of the registers (R121). -/
def Issue.free (i : Issue) (rs : List Nat) : Prop := ∀ r ∈ rs, i.core.xBusy r = false

/-- A stretch of the tile store can be read, and holds no flipped bit (R122, R133). -/
def Issue.clean (i : Issue) (s : State) (off n : Nat) : Prop := i.core.canRead off n = true ∧ s.eng.flips = []

/-- Nothing changed but one core, the stall episodes and the progress counters: the host side, the memories, the pegs, the
catalogue, the special registers, the other cores and clusters stand as they stood. -/
structure OnlyCore (s : State) (k : CoreRef) (t : State) : Prop where
  rest : t = { s with
    eng := { s.eng with clusters := t.eng.clusters }
    tier := { s.tier with episodes := t.tier.episodes, stalls := t.tier.stalls }
    rst := { s.rst with progress := t.rst.progress, counters := t.rst.counters } }
  clusters : ∀ c, c ≠ k.cluster.val → t.cluster c = s.cluster c
  cluster : t.cluster k.cluster.val = { s.cluster k.cluster.val with cores := (t.cluster k.cluster.val).cores }
  cores : ∀ n, n ≠ k.core.val → mget (t.cluster k.cluster.val).cores n = mget (s.cluster k.cluster.val).cores n

/-- The row completes on the core: it leaves the core as `c` with its index moved on, and nothing else changes. -/
def Leaves (row : Instr) (s : State) (k : CoreRef) (c : CoreSt) : Prop :=
  Runs row s (fun t => t.core k = c ∧ OnlyCore s k t)

/-! ### Packet rows -/

/-- A taken command whose turn it is, of an opcode (R399, R401): the row of that opcode starts it. -/
structure Turn (s : State) (q : CmdRef) (opcode : Nat) (t : Taken) : Prop where
  taken : s.findTaken q = some t
  alive : s.alive = true
  isOpcode : t.opcode = opcode
  notStarted : t.started = false
  notInReset : s.inL0 q.ctx.val = false
  turn : t.begun = true ∨ s.nextTurn q = some q

/-- The state with the command's turn marked as come. -/
def State.begin (s : State) (q : CmdRef) : State :=
  { s with host := { s.host with
      taken := replaceFirst (fun t => t.q == q) (fun t => { t with begun := true }) s.host.taken } }

/-- The register named is written whole, with an upper half that is the lower half's complement (R8). -/
def Matched (v : RegValue) (x : W32) : Prop := v = .full (rwpPair x)

/-! ### Blocks that a port delivers -/

/-- The next block of a type that a port delivers (R330, R350). -/
def Arrives (s : State) (p ty : Nat) (b : InBlock) : Prop := s.alive = true ∧ s.arrived p ty = some b

/-! ### What a run keeps -/

/-- The anti-rollback fuses hold at most 64 burnt bits (R474). -/
def State.fusesWf (s : State) : Prop := s.board.rollback ≤ 64

end Sys2Proof.Machine
end

