-- ==== Sys2Proof/WellFormed.lean ====
section
/-! DEFINITION. Which commands the outside can send: the operand ranges that the types of Syntax.lean do not hold already.
The meanings are total: a command that is not well formed has an effect too, and no rule of the manual speaks of it. -/

namespace Sys2Proof

/-- Link rates 1 to 7 (2.5 to 128 GT/s) and widths x16, x8, x4 (13_host_link.md, HL_LINK). -/
def linkWf (rate width : Nat) : Bool :=
  decide (1 ≤ rate) && decide (rate ≤ 7) && (width == 4 || width == 8 || width == 16)

/-- A stretch of at least one byte that ends inside its window. -/
def stretchWf (off n size : Nat) : Bool := decide (1 ≤ n) && decide (off + n ≤ size)

/-- A BIST result: memory codes of R135, and rows with spares left to speak of. -/
def BistResult.wf (x : BistResult) : Bool := x.rows.all (fun r => decide (r.memory ≤ 4) && decide (r.core < 84))

/-- A checked analogue fault is one of the seven checks of R453. -/
def PhaseResult.wf (x : PhaseResult) : Bool :=
  x.analogue.all (fun a => decide (a.check ≠ 0)) && x.failedUnits.all (fun u => decide (u < 2 ^ 16))

def StackTrained.wf (x : StackTrained) : Bool := x.failedPcs.all (fun p => decide (p.1 < 32))

/-- Operands in the ranges that the manual gives them. -/
def Instr.wf : Instr → Bool
  | .perstNRelease rate width _ => linkWf rate width
  | .dlUp rate width _ => linkWf rate width
  | .apertureWrite _ off data => stretchWf off.toNat data.length (2 ^ 32)
  | .apertureRead _ off len => stretchWf off.toNat len (2 ^ 32)
  | .placementWrite _ off data => stretchWf off.toNat data.length (2 ^ 36)
  | .placementRead _ off len => stretchWf off.toNat len (2 ^ 36)
  | .commandWindowWrite off data => stretchWf off.toNat data.length (2 ^ 28)
  | .glbStageWindowWrite off data => stretchWf off.toNat data.length (2 ^ 15)
  | .loopbackDurationExpiry failing => failing.all (fun l => decide (l < 1536))
  | .evictionComplete frame _ => decide (frame < Config.poolFrames)
  | .pageReturnStart _ page => decide (page < 2 ^ 27)
  | .pageReturnComplete _ page => decide (page < 2 ^ 27)
  | .wcFlushTimeout line => decide (line < 2 ^ 34)
  | .stackTrainingComplete x => x.all StackTrained.wf
  | .flitReceived _ flit => flit.length == 256
  | .nakFlitReceived _ flit => flit.length == 256
  | .idleFlitReceived _ flit => flit.length == 256
  | .lpiFlitReceived _ flit => flit.length == 256
  | .unitBistComplete _ _ _ x => x.wf
  | .rotationTestComplete _ x => x.wf
  | .bistBatchComplete x => x.all (fun b => b.result.wf)
  | .coldBistPhaseComplete x => x.wf
  | _ => true

end Sys2Proof
end

