-- ==== Sys2Proof/Certificates/Slice0/Obligations.lean ====
section
/-! DEFINITION. The statements about the model that the provers prove. Tables of rows come first in each part; every statement
about rows names the next state that exec answers. -/

open Sys2Proof Sys2Proof.Machine

/-! ### Core instructions: scalar (05_core_programs.md R139 to R142) -/

/-- Scalar operations of two operands: row, operation code, result. -/
def Sys2Proof.scalarRows : List ((CoreRef → Instr) × Nat × (W64 → W64 → W64)) :=
  [(.add, 0x00, fun a b => a + b), (.sub, 0x01, fun a b => a - b), (.mul, 0x02, fun a b => BitVec.ofNat 64 (a.toNat * b.toNat)),
   (.and64, 0x03, fun a b => a &&& b), (.or64, 0x04, fun a b => a ||| b), (.xor64, 0x05, fun a b => a ^^^ b),
   (.shl, 0x06, fun a b => BitVec.ofNat 64 (a.toNat * 2 ^ (b.toNat % 64))),
   (.shr, 0x07, fun a b => BitVec.ofNat 64 (a.toNat / 2 ^ (b.toNat % 64))),
   (.sar, 0x08, fun a b => BitVec.ofInt 64 (a.toInt / 2 ^ (b.toNat % 64))),
   (.min, 0x09, fun a b => BitVec.ofInt 64 (min a.toInt b.toInt)), (.max, 0x0A, fun a b => BitVec.ofInt 64 (max a.toInt b.toInt))]

/-- ADD to MAX (R139): XD takes the result of XA and of XB, or of IMM in its place, X0 reading as zero and ignoring the write;
the index moves on and nothing else changes. -/
def Obligations.ScalarOperations : Prop :=
  ∀ row ∈ scalarRows, ∀ s k i, Issues s k 0x0 row.2.1 scalarUsed i →
    i.free [bits i.w 16 12, bits i.w 21 17, if i.w.testBit 27 then 0 else bits i.w 26 22] →
    let b := if i.w.testBit 27 then BitVec.ofNat 64 (bits i.w 127 64) else i.core.getX (bits i.w 26 22)
    Leaves (row.1 k) s k (i.core.setX (bits i.w 16 12) (row.2.2 (i.core.getX (bits i.w 21 17)) b)).advance

/-- LI, SLD, SST and SPR (R139, R142): XD takes IMM; the 8 bytes at XA + IMM[15:0] are loaded or stored, at a multiple of 8
inside the tile store; XD takes the special register. CYCLE counts the clock since the cluster's start (log entry 111). -/
def Obligations.ScalarMoves : Prop :=
  ∀ s k i,
    (Issues s k 0x0 0x0B (fun _ => [(16, 12), (127, 64)]) i → i.free [bits i.w 16 12] →
      Leaves (.li k) s k (i.core.setX (bits i.w 16 12) (BitVec.ofNat 64 (bits i.w 127 64))).advance) ∧
    (Issues s k 0x0 0x0C (fun _ => [(21, 12), (127, 64)]) i → i.free [bits i.w 16 12, bits i.w 21 17] →
      ∀ a, a = (i.core.getX (bits i.w 21 17) + BitVec.ofNat 64 (bits i.w 79 64)).toNat → a % 8 = 0 → a + 8 ≤ 49152 →
      i.clean s a 8 →
      Leaves (.sld k) s k (i.core.setX (bits i.w 16 12) (BitVec.ofNat 64 (leNat (memRead i.core.ts a 8)))).advance) ∧
    (Issues s k 0x0 0x0D (fun _ => [(26, 17), (127, 64)]) i → i.free [bits i.w 21 17, bits i.w 26 22] →
      ∀ a, a = (i.core.getX (bits i.w 21 17) + BitVec.ofNat 64 (bits i.w 79 64)).toNat → a % 8 = 0 → a + 8 ≤ 49152 →
      i.core.canWrite a 8 = true →
      Leaves (.sst k) s k ({ i.core with ts := memWrite i.core.ts a (leBytes 8 (i.core.getX (bits i.w 26 22)).toNat) } : CoreSt).advance) ∧
    (Issues s k 0x0 0x0E (fun _ => [(16, 12), (127, 64)]) i → i.free [bits i.w 16 12] →
      let code := bits i.w 71 64
      let put := fun (v : W64) => (i.core.setX (bits i.w 16 12) v).advance
      let n := fun (x : Nat) => (BitVec.ofNat 64 x : W64)
      (code = 0x00 → Leaves (.spr k) s k (put (n k.core.val))) ∧
      (code = 0x01 → Leaves (.spr k) s k (put (n k.cluster.val))) ∧
      (code = 0x02 → Leaves (.spr k) s k (put (n (k.cluster.val / 80)))) ∧
      (code = 0x07 → Leaves (.spr k) s k (put (n i.ctx))) ∧
      (code = 0x08 → Leaves (.spr k) s k (put (n s.guy.node))) ∧
      (code = 0x0B → Leaves (.spr k) s k (put (n s.time.ns))) ∧
      (code = 0x0A → Leaves (.spr k) s k (put (n ((s.cur.clock - i.cl.startClock) / 1000)))) ∧
      (0x10 ≤ code → code ≤ 0x17 → ∀ q l, i.cl.launch = some q → s.launch? q = some l →
        Leaves (.spr k) s k (put (l.args.getD (code - 0x10) 0))))

/-! ### Core instructions: branches and loops (R140, R141) -/

/-- The tests of COND 0 to 5 on the values of two registers. -/
def Sys2Proof.condTable : List (W64 → W64 → Bool) :=
  [fun a b => a == b, fun a b => a != b, fun a b => decide (a.toInt < b.toInt), fun a b => decide (b.toInt ≤ a.toInt),
   fun a b => decide (a.toNat < b.toNat), fun a b => decide (b.toNat ≤ a.toNat)]

/-- BR, BRC, LOOP, NOP and END (R140, R141). A taken branch goes to TARGET and leaves the loops whose body does not hold it; LOOP
enters its body with XD at pass 0, or goes on after TARGET for a COUNT of 0; END with nothing outstanding and no slot bound ends
the core. Where execution goes after an instruction (R141): a loop whose body ends there starts its next pass with XD at the
number of the pass, and ends after its last pass; with no loop ending there the index moves by one. -/
def Obligations.BranchesAndLoops : Prop :=
  (∀ s k i,
    (Issues s k 0xA 0x00 (fun _ => [(35, 26)]) i → bits i.w 35 26 < i.cl.image.length →
      Leaves (.br k) s k (i.core.jump (bits i.w 35 26))) ∧
    (Issues s k 0xA 0x01 (fun w => (16, 12) :: (35, 22) :: (if brImmb w then [(95, 64)] else [(21, 17)])) i →
      i.free [bits i.w 16 12, if i.w.testBit 25 then 0 else bits i.w 21 17] → bits i.w 35 26 < i.cl.image.length →
      ∀ test, condTable[bits i.w 24 22]? = some test →
      let b := if i.w.testBit 25 then (BitVec.ofNat 32 (bits i.w 95 64)).signExtend 64 else i.core.getX (bits i.w 21 17)
      Leaves (.brc k) s k (if test (i.core.getX (bits i.w 16 12)) b then i.core.jump (bits i.w 35 26) else i.core.advance)) ∧
    (Issues s k 0xA 0x02 (fun w => (41, 36) :: (35, 26) :: (if brCntx w then [(16, 12)] else [(95, 64)])) i →
      i.free [bits i.w 40 36, if i.w.testBit 41 then bits i.w 16 12 else 0] → bits i.w 35 26 < i.cl.image.length →
      i.core.pc < bits i.w 35 26 → i.core.loops.length < 4 →
      let n := if i.w.testBit 41 then (i.core.getX (bits i.w 16 12)).toNat else bits i.w 95 64
      (n = 0 → Leaves (.loop k) s k (i.core.advanceFrom (bits i.w 35 26))) ∧
      (n ≠ 0 → Leaves (.loop k) s k ({ i.core with
          pc := i.core.pc + 1
          loops := ⟨i.core.pc + 1, bits i.w 35 26, bits i.w 40 36, 0, n⟩ :: i.core.loops }.setX (bits i.w 40 36) 0))) ∧
    (Issues s k 0xA 0x03 (fun _ => []) i → i.core.xfers = [] → i.core.days = [] → i.core.slots = [] →
      (∀ r ∈ s.tier.remotes, r.2.owner ≠ .epi k) → i.cl.scans = [] →
      Leaves (.endProgram k) s k { i.core with ended := true }) ∧
    (Issues s k 0xA 0x04 (fun _ => []) i → Leaves (.branchNop k) s k i.core.advance)) ∧
  (∀ (c : CoreSt) (l : LoopSt) (r : List LoopSt), c.loops = l :: r →
    (l.last = c.pc → l.pass + 1 < l.count →
      c.advance = { c with loops := { l with pass := l.pass + 1 } :: r, pc := l.first }.setX l.xd (BitVec.ofNat 64 (l.pass + 1))) ∧
    (l.last = c.pc → l.count ≤ l.pass + 1 → c.advance = ({ c with loops := r } : CoreSt).advance) ∧
    ((∀ x ∈ c.loops, x.last ≠ c.pc) → c.advance = { c with pc := c.pc + 1 }))

/-! ### Core instructions: vectors (R117, R118, R155) -/

/-- Vector operations of two operands, lane by lane: row, operation code, further fields, result of a lane by the word. -/
def Sys2Proof.vectorRows : List ((CoreRef → Instr) × Nat × List (Nat × Nat) × (Nat → W32 → W32 → W32)) :=
  let sat := fun (w : Nat) (x : Int) => if w.testBit 38 then BitVec.ofInt 32 (max (-2 ^ 31) (min (2 ^ 31 - 1) x)) else BitVec.ofInt 32 x
  [(.vadd, 0x00, [], fun _ => F32.add), (.vsub, 0x01, [], fun _ => F32.sub), (.vmul, 0x02, [], fun _ => F32.mul),
   (.vmin, 0x04, [], fun _ => F32.minNum), (.vmax, 0x05, [], fun _ => F32.maxNum), (.vdiv, 0x06, [], fun _ => F32.div),
   (.viadd, 0x10, [(38, 38)], fun w a b => sat w (a.toInt + b.toInt)),
   (.visub, 0x11, [(38, 38)], fun w a b => sat w (a.toInt - b.toInt)),
   (.vimul, 0x12, [(38, 38)], fun _ a b => BitVec.ofInt 32 (a.toInt * b.toInt)),
   (.vand, 0x13, [], fun _ a b => a &&& b), (.vor, 0x14, [], fun _ a b => a ||| b), (.vxor, 0x15, [], fun _ a b => a ^^^ b),
   (.vshl, 0x16, [], fun _ a b => BitVec.ofNat 32 (a.toNat * 2 ^ (b.toNat % 32))),
   (.vshr, 0x17, [], fun _ a b => BitVec.ofNat 32 (a.toNat / 2 ^ (b.toNat % 32))),
   (.vsar, 0x18, [], fun _ a b => BitVec.ofInt 32 (a.toInt / 2 ^ (b.toNat % 32))),
   (.vimin, 0x19, [], fun _ a b => BitVec.ofInt 32 (min a.toInt b.toInt)),
   (.vimax, 0x1A, [], fun _ a b => BitVec.ofInt 32 (max a.toInt b.toInt))]

/-- The tests of VCMP by COND. -/
def Sys2Proof.laneTests : List (W32 → W32 → Bool) :=
  [F32.eq, fun a b => !F32.eq a b, F32.lt, F32.le, fun a b => F32.isNaN a || F32.isNaN b]

/-- Register B of a vector instruction: VB, or XS[31:0] in every lane. -/
def Sys2Proof.operandB (i : Issue) : W512 :=
  if i.w.testBit 37 then splat ((i.core.getX (bits i.w 36 32)).setWidth 32) else i.core.getV (bits i.w 26 22)

/-- Vector operations of two operands, VCMP, VFMA and VSEL (R155): every lane of VD takes the result of the same lane of VA, of B,
and for VFMA and VSEL of VC; the index moves on and nothing else changes. Lane j of a register formed lane by lane comes from the
lanes j of its operands (R96). -/
def Obligations.VectorOperations : Prop :=
  (∀ s k i, i.free [if i.w.testBit 37 then bits i.w 36 32 else 0] →
    (∀ row ∈ vectorRows, Issues s k 0x4 row.2.1 (vecUsed row.2.2.1) i →
      Leaves (row.1 k) s k (i.core.setV (bits i.w 16 12)
        (mapLanes2 (row.2.2.2 i.w) (i.core.getV (bits i.w 21 17)) (operandB i))).advance) ∧
    (Issues s k 0x4 0x08 (vecUsed [(41, 39)]) i → ∀ test, laneTests[bits i.w 41 39]? = some test →
      Leaves (.vcmp k) s k (i.core.setV (bits i.w 16 12)
        (mapLanes2 (fun a b => if test a b then 0xFFFFFFFF else 0) (i.core.getV (bits i.w 21 17)) (operandB i))).advance) ∧
    (Issues s k 0x4 0x03 (vecUsed [(31, 27)]) i →
      Leaves (.vfma k) s k (i.core.setV (bits i.w 16 12)
        (mapLanes3 F32.fma (i.core.getV (bits i.w 21 17)) (operandB i) (i.core.getV (bits i.w 31 27)))).advance) ∧
    (Issues s k 0x4 0x09 (vecUsed [(31, 27)]) i →
      Leaves (.vsel k) s k (i.core.setV (bits i.w 16 12)
        (mapLanes3 (fun a b c => if a = 0 then c else b) (i.core.getV (bits i.w 21 17)) (operandB i)
          (i.core.getV (bits i.w 31 27)))).advance)) ∧
  (∀ (f : W32 → W32 → W32) (g : W32 → W32 → W32 → W32) (h : W32 → W32) (a b c : W512) (x : W32) (j : Nat), j < 16 →
    lane (mapLanes2 f a b) j = f (lane a j) (lane b j) ∧
    lane (mapLanes3 g a b c) j = g (lane a j) (lane b j) (lane c j) ∧
    lane (mapLanes h a) j = h (lane a j) ∧ lane (splat x) j = x ∧ ofLanes (lanes a) = a)

/-- Vector instructions of one operand: row, operation code, result. -/
def Sys2Proof.unaryRows : List ((CoreRef → Instr) × Nat × (W512 → W512)) :=
  let tree := fun (f : W32 → W32 → W32) (a : W512) =>
    let l1 := fun (n : Nat) => f (lane a (2 * n)) (lane a (2 * n + 1))
    let l2 := fun (n : Nat) => f (l1 (2 * n)) (l1 (2 * n + 1))
    let l3 := fun (n : Nat) => f (l2 (2 * n)) (l2 (2 * n + 1))
    ofLanes (f (l3 0) (l3 1) :: List.replicate 15 0)
  [(.vsqrt, 0x07, mapLanes F32.sqrt), (.vradd, 0x0A, tree F32.add), (.vrmax, 0x0B, tree F32.maxNum),
   (.vrmin, 0x0C, tree F32.minNum), (.vexp2, 0x20, mapLanes (expResult 0x20 0x43000000 0xC3150001)),
   (.vexp, 0x21, mapLanes (expResult 0x21 0x42B17218 0xC2CE8ED0)), (.vlog2, 0x22, mapLanes (logResult 0x22)),
   (.vlog, 0x23, mapLanes (logResult 0x23)), (.vrcp, 0x24, mapLanes rcpResult), (.vrsqrt, 0x25, mapLanes rsqrtResult),
   (.vsin, 0x26, mapLanes (trigResult 0x26)), (.vcos, 0x27, mapLanes (trigResult 0x27)),
   (.vtanh, 0x28, mapLanes (limitResult 0x28 0xBF800000 0x3F800000)), (.vsigmoid, 0x29, mapLanes (limitResult 0x29 0 0x3F800000)),
   (.verf, 0x2A, mapLanes (limitResult 0x2A 0xBF800000 0x3F800000))]

/-- The special values of the transcendentals (R118; FP32 codes, R62): row, operation code, operands and their results. The canonical
NaN is 0x7FC00000. -/
def Sys2Proof.specialRows : List ((CoreRef → Instr) × Nat × List (W32 × W32)) :=
  let inf := (0x7F800000 : W32)
  let ninf := (0xFF800000 : W32)
  let nan := (0x7FC00000 : W32)
  let nan2 : List (W32 × W32) := [(0x7F800001, nan), (0xFFFFFFFF, nan)]
  let log : List (W32 × W32) := [(0, ninf), (0x80000000, ninf), (0xBF800000, nan), (ninf, nan), (inf, inf)] ++ nan2
  let exp : List (W32 × W32) := [(ninf, 0), (inf, inf), (0x7F7FFFFF, inf), (0xFF7FFFFF, 0)] ++ nan2
  let trig : List (W32 × W32) := [(inf, nan), (ninf, nan)] ++ nan2
  [(.vexp2, 0x20, exp ++ [(0x43000000, inf)]), (.vexp, 0x21, exp), (.vlog2, 0x22, log), (.vlog, 0x23, log),
   (.vrcp, 0x24, [(0, inf), (0x80000000, ninf), (inf, 0), (ninf, 0x80000000)] ++ nan2),
   (.vrsqrt, 0x25, [(0, inf), (0x80000000, ninf), (0xBF800000, nan), (inf, 0)] ++ nan2), (.vsin, 0x26, trig), (.vcos, 0x27, trig),
   (.vtanh, 0x28, [(inf, 0x3F800000), (ninf, 0xBF800000)] ++ nan2), (.vsigmoid, 0x29, [(inf, 0x3F800000), (ninf, 0)] ++ nan2),
   (.verf, 0x2A, [(inf, 0x3F800000), (ninf, 0xBF800000)] ++ nan2)]

/-- The transcendentals at the other operands: row, operation code, and the finite operands (sign, significand, code) that have no
special value. -/
def Sys2Proof.boundedRows : List ((CoreRef → Instr) × Nat × (Bool → Nat → W32 → Bool)) :=
  let any := fun (_ : Bool) (_ : Nat) (_ : W32) => true
  let positive := fun (neg : Bool) (m : Nat) (_ : W32) => !neg && m != 0
  [(.vexp2, 0x20, fun neg _ x => decide (x.toNat < (if neg then 0xC3150001 else 0x43000000))),
   (.vexp, 0x21, fun neg _ x => decide (x.toNat < (if neg then 0xC2CE8ED0 else 0x42B17218))),
   (.vlog2, 0x22, positive), (.vlog, 0x23, positive), (.vrcp, 0x24, fun _ m _ => m != 0), (.vrsqrt, 0x25, positive),
   (.vsin, 0x26, any), (.vcos, 0x27, any), (.vtanh, 0x28, any), (.vsigmoid, 0x29, any), (.verf, 0x2A, any)]

/-- VSQRT, the reductions and the transcendentals (R95, R117, R118): VD takes the result of VA and nothing else changes; a reduction
combines neighbours in four levels and leaves its result in lane 0 and zero in the others; a transcendental has its special values
lane by lane, and elsewhere the part's own result where it lies within 2 units in the last place of the function's value, which is
otherwise rounded to nearest in its place (the part's own result is free: log entries 5 and 71). -/
def Obligations.VectorUnary : Prop :=
  (∀ row ∈ unaryRows, ∀ s k i, Issues s k 0x4 row.2.1 (fun _ => [(21, 12)]) i →
    Leaves (row.1 k) s k (i.core.setV (bits i.w 16 12) (row.2.2 (i.core.getV (bits i.w 21 17)))).advance) ∧
  (∀ row ∈ specialRows, ∀ s k i, Issues s k 0x4 row.2.1 (fun _ => [(21, 12)]) i →
    Runs (row.1 k) s (fun t => ∀ j < 16, ∀ p ∈ row.2.2, lane (i.core.getV (bits i.w 21 17)) j = p.1 →
      lane ((t.core k).getV (bits i.w 16 12)) j = p.2)) ∧
  (∀ row ∈ boundedRows, ∀ s k i, Issues s k 0x4 row.2.1 (fun _ => [(21, 12)]) i →
    Runs (row.1 k) s (fun t => ∀ j < 16, ∀ neg m e, let x := lane (i.core.getV (bits i.w 21 17)) j
      f32 x = .fin neg m e → row.2.2 neg m x = true →
      let exact := transcendentalDy row.2.1 neg m e
      let own := Config.transcendental row.2.1 x
      lane ((t.core k).getV (bits i.w 16 12)) j = if withinUlps 2 false exact own then own else toF32 (FVal.ofDy exact false)))

/-- VLD, VST, VMOVX and VEXTR (R155): 64 bytes at XS + IMM16, a multiple of 64 inside the tile store; XS[31:0] in every lane; the
lane of VA that IMM16 mod 16 names, zero-extended in XS. -/
def Obligations.VectorMoves : Prop :=
  ∀ s k i, i.free [bits i.w 36 32] →
    let a := (i.core.getX (bits i.w 36 32) + BitVec.ofNat 64 (bits i.w 57 42)).toNat
    (Issues s k 0x4 0x30 (fun _ => [(16, 12), (36, 32), (57, 42)]) i → a % 64 = 0 → a + 64 ≤ 49152 → i.clean s a 64 →
      Leaves (.vld k) s k (i.core.setV (bits i.w 16 12) (BitVec.ofNat 512 (leNat (memRead i.core.ts a 64)))).advance) ∧
    (Issues s k 0x4 0x31 (fun _ => [(21, 17), (36, 32), (57, 42)]) i → a % 64 = 0 → a + 64 ≤ 49152 →
      i.core.canWrite a 64 = true →
      Leaves (.vst k) s k
        ({ i.core with ts := memWrite i.core.ts a (leBytes 64 (i.core.getV (bits i.w 21 17)).toNat) } : CoreSt).advance) ∧
    (Issues s k 0x4 0x32 (fun _ => [(16, 12), (36, 32)]) i →
      Leaves (.vmovx k) s k (i.core.setV (bits i.w 16 12) (splat ((i.core.getX (bits i.w 36 32)).setWidth 32))).advance) ∧
    (Issues s k 0x4 0x33 (fun _ => [(21, 17), (36, 32), (57, 42)]) i →
      Leaves (.vextr k) s k (i.core.setX (bits i.w 36 32)
        ((lane (i.core.getV (bits i.w 21 17)) (bits i.w 57 42 % 16)).setWidth 64)).advance)

/-! ### Core instructions: matrix engine and conversions (R104, R109, R110, R156) -/

/-- MMA, ACC_READ, ACC_WRITE and ACC_ZERO (R104 to R109, R152). A multiply of two allowed formats whose tiles lie in the tile store,
with valid scales for scaled-block operands and matching quarter classes (or ZERO), adds into every element of the named tile and,
with ZERO, sets its class; a read lays the tile out in row-major order, a write fills it and sets its class, a zeroing too. -/
def Obligations.MatrixTiles : Prop :=
  ∀ s k i, s.eng.flips = [] →
    let w := i.w
    (Issues s k 0x1 0x00 (fun w => if (Fmt.ofCode (bits w 24 21)).isNone then [(127, 12)] else mmaUsed w) i →
      ∀ m n fa fb, accShape (bits w 16 12) = some (m, n) → Fmt.ofCode (bits w 24 21) = some fa → Fmt.ofCode (bits w 28 25) = some fb →
      pairAllowed fa fb = true → bits w 19 18 ≠ 0 → (fa ≠ .fp32 → bits w 19 18 = 1) → (w.testBit 20 → fa.isInt) →
      (fa.isSb → i.free [bits w 90 86, bits w 95 91] ∧ scaleValid (i.core.x32 (bits w 90 86)) = true ∧
        scaleValid (i.core.x32 (bits w 95 91)) = true) →
      let side := fun (rows : Nat) => if fa.isSb then rows * (512 / fa.bits / 32) * 2 else 0
      64 * bits w 39 30 + 64 * m ≤ 49152 → 64 * bits w 49 40 + 64 * n ≤ 49152 →
      64 * bits w 59 50 + side m ≤ 49152 → 64 * bits w 69 60 + side n ≤ 49152 →
      (w.testBit 17 = false → ∀ q ∈ accQuarters (bits w 16 12), i.core.intQuarters.contains q = fa.isInt) →
      i.core.canRead (64 * bits w 39 30) (64 * m) = true → i.core.canRead (64 * bits w 49 40) (64 * n) = true →
      i.core.canRead (64 * bits w 59 50) (side m) = true → i.core.canRead (64 * bits w 69 60) (side n) = true →
      let o : MmaOps := ⟨fa, fb, 64 * bits w 39 30, 64 * bits w 49 40, 64 * bits w 59 50, 64 * bits w 69 60,
        zpValue fa (bits w 77 70), zpValue fb (bits w 85 78), F32.mul (i.core.x32 (bits w 90 86)) (i.core.x32 (bits w 95 91)),
        w.testBit 20, bits w 19 18⟩
      let c := mmaTile i.core o (bits w 16 12) m n (w.testBit 17)
      Leaves (.mma k) s k (if w.testBit 17 then c.setClass (bits w 16 12) fa.isInt else c).advance) ∧
    (∀ m n, accShape (bits w 16 12) = some (m, n) →
      let at_ := 64 * bits w 57 48
      (Issues s k 0x3 0x01 (fun _ => [(17, 12), (57, 48)]) i → (i.core.tileClass (bits w 16 12)).isSome → at_ + 4 * m * n ≤ 49152 →
        i.core.canWrite at_ (4 * m * n) = true →
        let c := i.core.tsWrite at_ ((tileCells m n).flatMap (fun p =>
          leBytes 4 (i.core.getAcc (accPlace (bits w 16 12) p.1 p.2)).toNat))
        Leaves (.accRead k) s k (if w.testBit 17 then c.clearTile (bits w 16 12) m n else c).advance) ∧
      (Issues s k 0x3 0x02 (fun _ => [(16, 12), (47, 47), (57, 48)]) i → at_ + 4 * m * n ≤ 49152 →
        i.core.canRead at_ (4 * m * n) = true →
        Leaves (.accWrite k) s k (((tileCells m n).foldl (fun c p =>
          c.setAcc (accPlace (bits w 16 12) p.1 p.2) (i.core.tsWord (at_ + 4 * (n * p.1 + p.2)))) i.core).setClass
            (bits w 16 12) (w.testBit 47)).advance) ∧
      (Issues s k 0x3 0x03 (fun _ => [(16, 12), (47, 47)]) i →
        Leaves (.accZero k) s k ((i.core.clearTile (bits w 16 12) m n).setClass (bits w 16 12) (w.testBit 47)).advance))

/-- One element of an INT8 or UINT8 multiply without SAT (R79, R104, R105): the accumulator plus the sum of the 64 products of the
codes less their zero points, modulo 2^32. -/
def Obligations.IntegerMultiplyWraps : Prop :=
  ∀ (c : CoreSt) (o : MmaOps) (acc : W32) (i j : Nat), (o.fa = .int8 ∨ o.fa = .uint8) → o.sat = false →
    mmaElem c o acc i j = acc + BitVec.ofInt 32 (((List.range 64).map (fun t =>
      (intOfCode o.fa (rowCode c o.aBase i o.fa t) - o.za) * (intOfCode o.fb (rowCode c o.bBase j o.fb t) - o.zb))).sum)

/-- EPI and CVT (R110 to R115, R153, R154, R156). An epilogue whose fields are valid and whose operands lie in the tile store
writes the converted rows and the side entries of a scaled-block format into the tile store (DEST 0), or to the addresses XD + r ×
the pitch beside it (DEST 1), counts them in its bound slot, and clears the tile when asked; a conversion writes the converted
codes and side entries of its N elements. The rows of DEST 1 leave in order, each once a transfer slot is free and no earlier
transfer touches its lines (log entry 66), and the instruction completes after the last one. Clearing a tile (R116) leaves every
element zero and the quarters' classes as they are, so that a later multiply without ZERO starts from zero. -/
def Obligations.EpilogueAndConvert : Prop :=
  (∀ s k i, s.eng.flips = [] →
    let w := i.w
    (i.core.rows = [] → Issues s k 0x3 0x00 (fun _ => [(46, 12), (92, 48)]) i →
      ∀ m n fmt rm int, accShape (bits w 16 12) = some (m, n) → Fmt.ofCode (bits w 37 34) = some fmt →
      RM.ofCode (bits w 39 38) = some rm → i.core.tileClass (bits w 16 12) = some int →
      i.stat (bits w 46 44) ≠ .reserved → i.stat (bits w 46 44) ≠ .unbound →
      bits w 33 30 ≤ 8 → (fmt.isSb → bits w 72 68 < 31 ∧ 24 ≤ bits w 16 12 ∧ scaleValid (i.core.x32 (bits w 72 68 + 1)) = true) →
      bits w 82 78 < 30 → bits w 57 48 < 768 → bits w 67 58 < 768 →
      (∀ r, i.core.xBusy r = false) →
      let sv := epiVector i.core (bits w 19 18) (bits w 72 68) m n
      let bv := epiVector i.core (bits w 21 20) (bits w 77 73) m n
      badVector sv = false → badVector bv = false → (∀ v ∈ [sv, bv], ∀ p, v = some p → i.core.canRead p.1 p.2 = true) →
      let o := epiOps s i m n int fmt rm
      let rows := (List.range m).map (o.row i.core)
      let fin := fun (c : CoreSt) =>
        let c := (i.stat (bits w 46 44)).count c (rows.flatMap (·.counted))
        if w.testBit 17 then c.clearTile (bits w 16 12) m n else c
      (w.testBit 43 = false →
        let len := m * n * fmt.bits / 8
        let side := if fmt.isSb then 2 * m else 0
        64 * bits w 57 48 + len ≤ 49152 → 64 * bits w 67 58 + side ≤ 49152 →
        i.core.canWrite (64 * bits w 57 48) len = true → i.core.canWrite (64 * bits w 67 58) side = true →
        let c := i.core.tsWrite (64 * bits w 57 48) (rows.flatMap (·.bytes))
        Leaves (.epi k) s k (fin (if fmt.isSb then c.tsWrite (64 * bits w 67 58) (rows.flatMap (·.side)) else c)).advance) ∧
      (w.testBit 43 = true → bits w 92 88 + (if fmt.isSb then 3 else 1) ≤ 31 →
        let xd := bits w 92 88
        let at_ := fun (x r : Nat) => (i.core.getX x + BitVec.ofNat 64 r * i.core.getX (x + 1)).toNat
        let out := rows.zipIdx.map (fun p => (at_ xd p.2, p.1.bytes)) ++
          (if fmt.isSb then rows.zipIdx.map (fun p => (at_ (xd + 2) p.2, p.1.side)) else [])
        ∀ ws s' x, resolveRows s i.ctx out = .ok ws → s.checkRows i.ctx ws = (s', .ok (), x) →
          RunsTo (.epi k) s ((s'.setCore k (fin i.core)).sendRows i ws))) ∧
    (Issues s k 0x5 0x00 cvUsed i →
      ∀ fs fd rm, Fmt.ofCode (bits w 15 12) = some fs → Fmt.ofCode (bits w 19 16) = some fd → RM.ofCode (bits w 21 20) = some rm →
      i.stat (bits w 27 25) ≠ .reserved → i.stat (bits w 27 25) ≠ .unbound → (∀ r, i.core.xBusy r = false) →
      let both := fs.isSb && fd.isSb
      let xaux := bits w 58 54
      let dAux := if both then xaux + 2 else xaux
      (fs.isSb || fd.isSb → xaux + (if both then 3 else 1) ≤ 31) →
      let src := (i.core.getX (bits w 33 29)).toNat
      let dst := (i.core.getX (bits w 38 34)).toNat
      let n := (i.core.getX (bits w 43 39)).toNat
      let srcSide := (i.core.getX (xaux + 1)).toNat
      let dstSide := (i.core.getX (dAux + 1)).toNat
      (fs.isSb || fd.isSb → n % 32 = 0) → (fd.isSb → fs ≠ fd → scaleValid (i.core.x32 dAux) = true) →
      src % 64 = 0 → dst % 64 = 0 → src + planeBytes fs n ≤ 49152 → dst + planeBytes fd n ≤ 49152 →
      (fs.isSb → srcSide + n / 16 ≤ 49152) → (fd.isSb → dstSide + n / 16 ≤ 49152) →
      let sIn := if fs.isSb then n / 16 else 0
      let sOut := if fd.isSb then n / 16 else 0
      i.core.canRead src (planeBytes fs n) = true → i.core.canRead srcSide sIn = true →
      i.core.canWrite dst (planeBytes fd n) = true → i.core.canWrite dstSide sOut = true →
      let o : CvtOps := ⟨fs, fd, rm.withGrad (w.testBit 24), w.testBit 22, w.testBit 23,
        s.srKey i (i.core.x32 (bits w 53 49)).toNat, (i.core.getX (bits w 48 44)).toNat, i.core.x32 xaux, i.core.x32 dAux⟩
      let r := convertRun o (codesOf fs.bits (memRead i.core.ts src (planeBytes fs n)) n) (codesOf 16 (memRead i.core.ts srcSide sIn) (sIn / 2))
      let c := i.core.tsWrite dst (packCodes fd.bits r.codes)
      let c := if fd.isSb then c.tsWrite dstSide (sideBytes r.sides) else c
      Leaves (.cvt k) s k ((i.stat (bits w 27 25)).count c r.counted).advance)) ∧
  (∀ (c : CoreSt) (a m n : Nat), accShape a = some (m, n) →
    let d := c.clearTile a m n
    d.intQuarters = c.intQuarters ∧ (∀ r col, r < m → col < n → d.getAcc (accPlace a r col) = 0) ∧
    ∀ o, mmaTile d o a m n false = mmaTile d o a m n true) ∧
  (∀ (s : State) (i : Issue),
    s.sendRows i [] = i.done (s.setRows i.k []) { s.core i.k with rows := [] } ∧
    (∀ w r, (s.core i.k).before (s.core i.k).nextOrd [(w.va, w.bytes.length)] = false →
      (vaSpace w.va = 0 ∨ (s.core i.k).xfers.length + s.epiOpen i.k < 8) →
      ∀ t, s.writePiece (.epi i.k) i.core.pc i.ctx s.tier.nextRemote w.va w.bytes w.who 0 = (t, .ok ()) →
        s.sendRows i (w :: r) = (t.dropRows i.k).sendRows i r) ∧
    (∀ w r, (s.core i.k).before (s.core i.k).nextOrd [(w.va, w.bytes.length)] = false →
      (s.core i.k).xfers.length + s.epiOpen i.k < 8 →
      ∀ t c, s.writePiece (.epi i.k) i.core.pc i.ctx s.tier.nextRemote w.va w.bytes w.who 0 = (t, .wait c) →
        t.tier.nextRemote ≠ s.tier.nextRemote → s.sendRows i (w :: r) = (t.dropRows i.k).sendRows i r))

/-! ### Core instructions: the cluster buffer, waits and transfers (R157 to R160, R254, R256, R260, R261) -/

/-- XWAIT, DP_WAIT, SWAIT, CBLD, CBST and CREDIT (R157, R159, R254, R256): a wait whose transfers are done moves on; whole lines are
copied between the cluster buffer, as the core sees it, and the tile store, a store to the buffer being noted behind the core's
earlier ones until it becomes visible to the other cores (R123; log entry 114); credits that fit their pool are returned, and make
the core's writes visible. -/
def Obligations.WaitsAndBuffer : Prop :=
  ∀ s k i, s.eng.flips = [] →
    let w := i.w
    let x1 := i.core.getX (bits w 36 32)
    (Issues s k 0x6 0x02 (fun _ => [(56, 56), (25, 22)]) i → bits w 25 22 < 8 →
      (if w.testBit 56 then i.core.xfers = [] else mget i.core.xfers (bits w 25 22) = none) →
      Leaves (.xwait k) s k i.core.advance) ∧
    (Issues s k 0x7 0x03 (fun _ => [(60, 60), (44, 41)]) i →
      (if w.testBit 60 then i.core.days = [] else mget i.core.days (bits w 44 41) = none) →
      Leaves (.dpWait k) s k i.core.advance) ∧
    (Issues s k 0x6 0x06 (fun _ => [(36, 26)]) i → i.free [bits w 36 32] →
      (∀ x, mget i.cl.streams (bits w 31 26) = some x → x1.toNat ≤ x.landed) →
      Leaves (.swait k) s k i.core.advance) ∧
    (∀ cb n ts, cb = (i.core.getX (bits w 41 37)).toNat → n = x1.toNat → ts = 64 * bits w 51 42 →
      cb % 64 = 0 → n % 64 = 0 → cb + n ≤ 2097152 → ts < 49152 → ts + n ≤ 49152 → i.free [bits w 41 37, bits w 36 32] →
      (Issues s k 0x6 0x03 (fun _ => [(51, 32)]) i → i.core.canWrite ts n = true →
        Leaves (.cbld k) s k ({ i.core with ts := memWrite i.core.ts ts (memRead (i.cl.bufOf k.core.val) cb n) } : CoreSt).advance) ∧
      (Issues s k 0x6 0x04 (fun _ => [(51, 32)]) i → i.core.canRead ts n = true →
        Runs (.cbst k) s (fun t => t.core k = i.core.advance ∧
          (t.cluster k.cluster.val).hidden = i.cl.hidden ++ [⟨k.core.val, cb, memRead i.core.ts ts n⟩] ∧
          OnlyCore s k (t.setCluster k.cluster.val { t.cluster k.cluster.val with hidden := i.cl.hidden })))) ∧
    (Issues s k 0x6 0x05 (fun _ => [(55, 52), (36, 32)]) i → i.free [bits w 36 32] →
      ∀ p, mget i.cl.pools (bits w 55 52) = some p → p.credits + x1.toNat ≤ p.units →
      Runs (.credit k) s (fun t => t.core k = i.core.advance ∧
        (t.cluster k.cluster.val).pools = mset i.cl.pools (bits w 55 52) { p with credits := p.credits + x1.toNat } ∧
        (t.cluster k.cluster.val).buf = (i.cl.publish (· == k.core.val)).buf ∧
        (t.cluster k.cluster.val).hidden = i.cl.hidden.filter (fun h => h.core != k.core.val) ∧
        OnlyCore s k (t.setCluster k.cluster.val
          { t.cluster k.cluster.val with pools := i.cl.pools, buf := i.cl.buf, hidden := i.cl.hidden })))

/-- XFER, DP_GET and DP_PUT at issue (R158, R159, R260, R261): with a free tag, a valid descriptor (or a daypack inside its 256
bytes) and a tile-store stretch that is free, the transfer is entered under its tag behind the core's earlier ones, with the
stretches that it will reach and the cause that it waits under, if it must wait. -/
def Obligations.TransferIssue : Prop :=
  ∀ s k i,
    let w := i.w
    (Issues s k 0x6 0x00 (fun _ => [(25, 12)]) i → bits w 25 22 < 8 → 64 * bits w 21 12 < 49152 →
      mget i.core.xfers (bits w 25 22) = none → i.clean s (64 * bits w 21 12) 64 →
      let bs := memRead i.core.ts (64 * bits w 21 12) 64
      let d := Desc.of bs
      d.valid .xfer = true → i.core.xfers.length + s.epiOpen k < 8 →
      (if d.scatter then i.core.canRead d.local_ d.bytes = true else i.core.canWrite d.local_ (64 * d.units) = true) →
      let enter := fun (u : State) (reach : Option (List (Nat × Nat))) (cause : Option Nat) =>
        RunsTo (.xfer k) s ((i.done u { i.core with
          xfers := mset i.core.xfers (bits w 25 22) ⟨i.core.pc, bs, d.deadline, false, i.core.nextOrd, reach, false, cause⟩
          nextOrd := i.core.nextOrd + 1 }).xferLate k (bits w 25 22))
      (∀ s' c x, s.xferPieces i.ctx d = (s', .wait c, x) → enter s' none (some c)) ∧
      (∀ s' ps x s'' y, s.xferPieces i.ctx d = (s', .ok ps, x) →
        let asked := s'.askPieces (.xfer k (Fin.ofNat 8 (bits w 25 22))) i.core.pc i.ctx (.program false) d.noalloc d.scatter d.deadline ps
        let reach := ps.map (fun p => (p.va, p.len))
        (asked = (s'', .ok (), y) → enter s'' (some reach) none) ∧
        (∀ c, asked = (s'', .wait c, y) → enter s'' (some reach) (some c)))) ∧
    (i.free [bits w 16 12] →
      let va := (i.core.getX (bits w 16 12)).toNat
      let n := bits w 24 17 + 1
      let ts := bits w 40 25
      va % 256 + n ≤ 256 → mget i.core.days (bits w 44 41) = none → ts + n ≤ 49152 →
      ∀ put s' g cause, s.askPiece (.daypack k (Fin.ofNat 16 (bits w 44 41))) i.core.pc i.ctx (.program false) false put 0 ⟨0, va, n⟩ =
          (s', g) → (g = .ok () ∧ cause = none ∨ ∃ c, g = .wait c ∧ cause = some c) →
        let enter := fun (op : DayOp) => i.done s' { i.core with
          days := mset i.core.days (bits w 44 41) ⟨i.core.pc, op, ts, n, BitVec.ofNat 64 va, i.core.nextOrd, false, cause⟩
          nextOrd := i.core.nextOrd + 1 }
        (put = false → Issues s k 0x7 0x00 (fun _ => [(44, 12)]) i → i.core.canWrite ts n = true →
          RunsTo (.dpGet k) s (enter .get)) ∧
        (put = true → Issues s k 0x7 0x01 (fun _ => [(44, 12)]) i → i.core.canRead ts n = true →
          RunsTo (.dpPut k) s (enter .put)))

/-- TRANSFER_COMPLETE and DAYPACK_COMPLETE (R159, R260 to R262): a transfer of a running or draining cluster, whose lines no earlier
transfer of its core and no row of its epilogue is still to reach, moves its data: bytes gathered enter the tile store, bytes of the
tile store are written to memory, an atomic that was held is applied, its old value enters XRET; then its tag is free. -/
def Obligations.TransferCompletion : Prop :=
  ∀ s (k : CoreRef), s.moving k.cluster.val = true → s.eng.flips = [] →
    let ctx := (s.cluster k.cluster.val).holder.getD 0
    (∀ (tag : Fin 8) x, mget (s.core k).xfers tag.val = some x → (x.late ∨ s.timePassed x.deadline = false) →
      let d := Desc.of x.desc
      let o : Owner := .xfer k tag
      let free := fun (u : State) => (u.setCore k { u.core k with xfers := mdel (u.core k).xfers tag.val }).dropRemotes o
      ∀ s1 ps y, s.xferPieces ctx d = (s1, .ok ps, y) → s1.eng = s.eng →
        let reach := ps.map (fun p => (p.va, p.len))
        let s2 := s1.setCore k { s1.core k with xfers := mset (s1.core k).xfers tag.val { x with reach := some reach } }
        (s2.core k).before x.ord reach = false → s2.rowsMeet k reach = false →
        (d.scatter = false → ∀ s3 bs z, s2.gatherPieces o x.pc ctx (.program false) d.noalloc d.deadline ps = (s3, .ok bs, z) →
          RunsTo (.transferComplete k tag) s
            (free (s3.setCore k ((s3.core k).tsWrite d.local_ (bsub bs 0 (64 * d.units)))))) ∧
        (d.scatter = true → ∀ s3 z,
          s2.scatterPieces o x.pc ctx (.program false) d.deadline d.whole ps (memRead (s2.core k).ts d.local_ d.bytes) =
            (s3, .ok (), z) →
          RunsTo (.transferComplete k tag) s
            (free (if s3.piecesSent o ps then s3.updXfer k tag.val (fun x => { x with sent := true }) else s3)))) ∧
    (∀ (tag : Fin 16) x, mget (s.core k).days tag.val = some x →
      let o : Owner := .daypack k tag
      let ps : List Piece := [⟨0, x.va.toNat, x.len⟩]
      let free := fun (u : State) => (u.setCore k { u.core k with days := mdel (u.core k).days tag.val }).dropRemotes o
      (∀ xret old, x.op = .atom xret old →
        RunsTo (.daypackComplete k tag) s (free (s.setCore k ((s.core k).setX xret old)))) ∧
      ((s.core k).before x.ord [(x.va.toNat, x.len)] = false → s.rowsMeet k [(x.va.toNat, x.len)] = false →
        (∀ aop xret a b line, x.op = .held aop xret a b line →
          ∀ s2 old, s.tryAtom ctx aop x.len x.va.toNat a b line = (s2, .ok old) →
          RunsTo (.daypackComplete k tag) s (free (s2.setCore k ((s2.core k).setX xret old)))) ∧
        (x.op = .get → ∀ s2 bs z, s.gatherPieces o x.pc ctx (.program false) false 0 ps = (s2, .ok bs, z) →
          RunsTo (.daypackComplete k tag) s (free (s2.setCore k ((s2.core k).tsWrite x.ts bs)))) ∧
        (x.op = .put → ∀ s2 z,
          s.scatterPieces o x.pc ctx (.program false) 0 false ps (memRead (s.core k).ts x.ts x.len) = (s2, .ok (), z) →
          RunsTo (.daypackComplete k tag) s
            (free (if s2.piecesSent o ps then s2.updDay k tag.val (fun x => { x with sent := true }) else s2)))))

/-- DP_ATOM by operation: row, code, bytes at W64 clear and set, new value from the old one, XO and XO + 1 (R160, R222). -/
def Sys2Proof.atomRows : List ((CoreRef → Instr) × Nat × Nat × Nat × (Nat → W64 → W64 → W64 → W64)) :=
  let f32 := fun (f : W32 → W32 → W32) (_ : Nat) (o x _ : W64) => ((f (o.setWidth 32) (x.setWidth 32)).setWidth 64 : W64)
  let b16 := fun (f : Nat → Nat → Nat) (_ : Nat) (o x _ : W64) => (BitVec.ofNat 64 (f (o.toNat % 2 ^ 16) (x.toNat % 2 ^ 16)) : W64)
  [(.dpAtomAddFp32, 0x0, 4, 4, f32 F32.add), (.dpAtomAddBf16, 0x1, 2, 2, b16 BF16.add),
   (.dpAtomAddInt32, 0x2, 4, 4, f32 (fun a b => a + b)), (.dpAtomAddInt64, 0x3, 8, 8, fun _ o x _ => o + x),
   (.dpAtomMinFp32, 0x4, 4, 4, f32 F32.minNum), (.dpAtomMinBf16, 0x5, 2, 2, b16 BF16.minNum),
   (.dpAtomMaxFp32, 0x6, 4, 4, f32 F32.maxNum), (.dpAtomMaxBf16, 0x7, 2, 2, b16 BF16.maxNum),
   (.dpAtomAnd, 0x8, 4, 8, fun _ o x _ => o &&& x), (.dpAtomOr, 0x9, 4, 8, fun _ o x _ => o ||| x),
   (.dpAtomXor, 0xA, 4, 8, fun _ o x _ => o ^^^ x), (.dpAtomExchange, 0xB, 4, 8, fun _ _ x _ => x),
   (.dpAtomCompareExchange, 0xC, 4, 8, fun n o x y => if o.toNat % 2 ^ (8 * n) = x.toNat % 2 ^ (8 * n) then y else o)]

/-- The atomics (R160, R222, R261, R262): a DP_ATOM on an aligned local address whose page can be written replaces the bytes there by
the result of its operation; with XRET 0 it is complete, otherwise the old value is outstanding under its tag. LINE-ADD adds the line
of the tile store to the line in memory, value by value. One whose line an earlier transfer of the core is still to reach becomes
outstanding with its operands. -/
def Obligations.Atomics : Prop :=
  ∀ s k i, Issues s k 0x7 0x02 atomFields i → mget i.core.days (bits i.w 44 41) = none → (∀ r, i.core.xBusy r = false) →
    let w := i.w
    let va := (i.core.getX (bits w 16 12)).toNat
    let xo := bits w 54 50
    let xret := bits w 59 55
    vaSpace va = 0 →
    let enter := fun (u : State) (op : DayOp) (n : Nat) => i.done u { i.core with
      days := mset i.core.days (bits w 44 41) ⟨i.core.pc, op, 0, n, BitVec.ofNat 64 va, i.core.nextOrd, false, none⟩
      nextOrd := i.core.nextOrd + 1 }
    let late := fun (n : Nat) => (i.core.before i.core.nextOrd [(va, n)] || s.rowsMeet k [(va, n)]) = true
    (∀ row ∈ atomRows, bits w 48 45 = row.2.1 → (row.2.1 = 0xC → xo < 31) →
      let n := if w.testBit 49 ∧ row.2.1 ≥ 8 then row.2.2.2.1 else row.2.2.1
      va % n = 0 →
      (late n → RunsTo (row.1 k) s (enter s (.held row.2.1 xret (i.core.getX xo) (i.core.getX (xo + 1)) []) n)) ∧
      (¬ late n → ∀ s' pa len more, s.reachVa i.ctx va n (.program false) 0 = (s', .ok ((pa, len) :: more)) →
        let old : W64 := BitVec.ofNat 64 (leNat (s'.hbm.peek pa n))
        let new := row.2.2.2.2 n old (i.core.getX xo) (i.core.getX (xo + 1))
        let s'' := { s' with hbm := s'.hbm.atomic i.ctx s'.local_ pa (leBytes n new.toNat) }
        RunsTo (row.1 k) s (if xret = 0 then i.done s'' i.core else enter s'' (.atom xret old) n))) ∧
    (bits w 48 45 = 0xD → va % 64 = 0 → bits w 40 25 % 64 = 0 → bits w 40 25 + 64 ≤ 49152 → i.clean s (bits w 40 25) 64 →
      let line := memRead i.core.ts (bits w 40 25) 64
      (late 64 → RunsTo (.dpAtomLineAdd k) s (enter s (.held 0xD 0 (i.core.getX xo) (i.core.getX (xo + 1)) line) 64)) ∧
      (¬ late 64 → ∀ s' pa len more, s.reachVa i.ctx va 64 (.program false) 0 = (s', .ok ((pa, len) :: more)) →
        let new := lineAdd (s'.hbm.peek pa 64) line
        RunsTo (.dpAtomLineAdd k) s (i.done { s' with hbm := s'.hbm.atomic i.ctx s'.local_ pa new } i.core)))

/-! ### Core instructions: scans, pegs, statistics (R127 to R129, R161 to R164) -/

/-- The scan rows and their SOP. -/
def Sys2Proof.scanRows : List ((CoreRef → Instr) × Nat) :=
  [(.scanAffine, 0), (.scanAddF32, 1), (.scanAddI32, 2), (.scanMaxF32, 3), (.scanBarrier, 4)]

/-- A scan or barrier issued (R128, R129, R161): the core waits, and the scan with its registers is noted in its cluster. -/
def Obligations.ScansIssued : Prop :=
  ∀ row ∈ scanRows, ∀ s k i, Issues s k 0x8 0x00 scanUsed i → bits i.w 15 12 = row.2 →
    (∀ c ∈ i.cl.cores, c.2.ended = false) →
    Runs (row.1 k) s (fun t => t.core k = { i.core with wait := some .scan } ∧
      mget (t.cluster k.cluster.val).scans k.core.val = some ⟨row.2, i.w.testBit 36, i.w.testBit 37, bits i.w 20 16, bits i.w 25 21,
        bits i.w 30 26, bits i.w 35 31⟩ ∧
      OnlyCore s k (t.setCluster k.cluster.val { t.cluster k.cluster.val with scans := i.cl.scans }))

/-- SCAN_CHAIN (R127, R128): once all 80 cores have issued the same scan, the value enters at core 0 from its VH, every core
combines it with its own lanes and passes it on, its VD takes what came in (EXCLUSIVE) or what goes out, every core's index moves
on, and its vector engine's counter advances; a barrier makes every write to the cluster buffer visible (R129). What the chain leaves on each core (R127, R128): the j-th core in logical order gets, in its VD, the value that entered
it (EXCLUSIVE) or the one it sends on, no longer waits and moves on; a barrier changes no register. -/
def Obligations.ScanChains : Prop :=
  (∀ s (c : ClusterNo),
    let cl := s.cluster c.val
    s.alive = true → cl.state = .running → s.inL0 (cl.holder.getD 0) = false → cl.scanning.length = 80 →
    ∀ n c0 x0 rest, cl.scanning = (n, c0, x0) :: rest →
      (∀ p ∈ cl.scanning, p.2.2.sop = x0.sop ∧ p.2.2.excl = x0.excl ∧ p.2.2.sat = x0.sat) →
      let chain := chainCores (lanes (c0.getV x0.vh)) cl.scanning
      let seen := if x0.sop = 4 then cl.publish (fun _ => true) else cl
      RunsTo (.scanChain c) s (chain.foldl (fun s p => s.engineProgress ⟨c, Fin.ofNat 80 p.1⟩ 1)
        (s.setCluster c.val { seen with scans := [], cores := chain.foldl (fun m p => mset m p.1 p.2) cl.cores }))) ∧
  (∀ (h : List W32) (l : List (Nat × CoreSt × ScanIssue)) (n : Nat) (c : CoreSt) (x : ScanIssue) (rest : List (Nat × CoreSt × ScanIssue)),
    l = (n, c, x) :: rest →
    let out := if x.sop = 4 then h else (List.range 16).map (fun j =>
      scanOp x.sop x.sat (lane (c.getV x.va) j) (h.getD j 0) (lane (c.getV x.vb) j))
    ∃ c', chainCores h l = (n, c') :: chainCores out rest ∧
      (x.sop = 4 → c' = ({ c with wait := none } : CoreSt).advance) ∧
      (x.sop ≠ 4 → c' = (({ c with wait := none } : CoreSt).setV x.vd (ofLanes (if x.excl then h else out))).advance))

/-- PSIG, PSET, PWGE and PWEQ (R162, R163), on a local peg that the context owns and with the core's earlier writes complete: the
core's writes to the cluster buffer become visible (R123), and the peg takes the sum or the value; a wait that the peg meets puts its value in XRET; one that it does not meet yet enters the wait
table and the core waits. To another node, the operation leaves as a block. -/
def Obligations.ProgramPegs : Prop :=
  ∀ s k i, i.free [bits i.w 16 12, bits i.w 21 17, bits i.w 26 22, bits i.w 31 27] →
    let idx := (i.core.getX (bits i.w 16 12)).toNat
    let v := i.core.getX (bits i.w 21 17)
    let node := bits i.w 47 32
    let used := fun (_ : Nat) => [(21, 12), (47, 32)]
    idx < 16384 →
    ((node = 0xFFFF ∨ node = s.guy.node) → s.pegOwned i.ctx idx = true → i.writesDone s = true →
      (Issues s k 0x9 0x00 used i → RunsTo (.psig k) s (((i.done s i.core).publish k).pegAdd idx v)) ∧
      (Issues s k 0x9 0x01 used i → RunsTo (.pset k) s (((i.done s i.core).publish k).pegTake idx v))) ∧
    (node ≠ 0xFFFF → node ≠ s.guy.node → i.writesDone s = true →
      ∀ s', (Issues s k 0x9 0x00 used i →
          s.sendBlock (srcCluster k.cluster.val) node 0 false true (pegBlock node s.guy.node i.ctx idx false v) = (s', true) →
          RunsTo (.psig k) s ((i.done s' i.core).publish k)) ∧
        (Issues s k 0x9 0x01 used i →
          s.sendBlock (srcCluster k.cluster.val) node 0 false true (pegBlock node s.guy.node i.ctx idx true v) = (s', true) →
          RunsTo (.pset k) s ((i.done s' i.core).publish k))) ∧
    (node = 0xFFFF → s.pegOwned i.ctx idx = true → ∀ p, mget s.pegs.pegs idx = some p →
      let limit := (i.core.getX (bits i.w 26 22)).toNat
      let xret := bits i.w 31 27
      ∀ eq row, (eq, row) ∈ [(false, Instr.pwge k), (true, Instr.pweq k)] →
        Issues s k 0x9 (if eq then 0x03 else 0x02) (fun _ => [(31, 12), (47, 32)]) i →
        let met := if eq then p.value = v else v.toNat ≤ p.value.toNat
        (met → Leaves row s k (i.core.setX xret p.value).advance) ∧
        (¬ met → s.timePassed limit = false → s.pegs.waits.length < 32768 →
          Runs row s (fun t => t.core k = { i.core with wait := some (.peg xret) } ∧
            t.pegs = { s.pegs with waits := s.pegs.waits ++ [⟨.prog k, i.ctx, idx, eq, v, limit⟩] } ∧
            t.hbm = s.hbm ∧ t.host = s.host)))

/-- SBIND, SVEC and SFLUSH (R164, R179, R180): a slot bound anew is empty; 16 lanes are counted in order; a flush merges the slot
into its record and clears the slot's values. -/
def Obligations.StatisticsSlots : Prop :=
  ∀ s k i,
    let n := bits i.w 13 12
    (Issues s k 0xB 0x00 (fun _ => [(23, 12)]) i → i.free [bits i.w 18 14, bits i.w 23 19] →
      let slot : Slot := ⟨(i.core.getX (bits i.w 18 14)).setWidth 32, i.core.getX (bits i.w 23 19), .empty⟩
      Leaves (.sbind k) s k ({ i.core with slots := mset i.core.slots n slot } : CoreSt).advance) ∧
    (∀ t, mget i.core.slots n = some t →
      (Issues s k 0xB 0x02 (fun _ => [(13, 12), (28, 24)]) i →
        let stats := ((lanes (i.core.getV (bits i.w 28 24))).map (fun v => (v, classF32 v))).foldl (fun t p => t.count p.1 p.2) t.stats
        Leaves (.svec k) s k ({ i.core with slots := mset i.core.slots n { t with stats := stats } } : CoreSt).advance) ∧
      (Issues s k 0xB 0x01 (fun _ => [(13, 12)]) i →
        ∀ s', s.statMerge k.cluster.val i.ctx (s.clusterStep k.cluster.val) t = (s', .ok ()) →
          RunsTo (.sflush k) s (i.done s' { i.core with slots := mset i.core.slots n { t with stats := .empty } })))

/-! ### Streams and copies (08_tiers_and_streams.md R251 to R263, R267, R268) -/

/-- STREAM (R251 to R255): a valid descriptor on a free stream number is handed to the cluster's stream engine: the stream is
entered with nothing issued or landed, and the core's writes to the cluster buffer become visible (R123; log entry 114); on a pool it takes its place in the queue and the ring; its tag is read and its deadline
looked at. -/
def Obligations.StreamIssue : Prop :=
  ∀ s k i, Issues s k 0x6 0x01 (fun _ => [(31, 26), (21, 12)]) i → 64 * bits i.w 21 12 < 49152 →
    mget i.cl.streams (bits i.w 31 26) = none → i.clean s (64 * bits i.w 21 12) 64 →
    let sid := bits i.w 31 26
    let bs := memRead i.core.ts (64 * bits i.w 21 12) 64
    let d := Desc.of bs
    d.valid .stream = true →
    let enter := fun (u : State) (pos : Nat) =>
      let v := (i.done u i.core).publish k
      ((v.setStream k.cluster.val sid ⟨k.core.val, i.core.pc, bs, pos, 0, 0, [], d.deadline, !d.tag, false, v.local_, false, .start⟩).streamTag
        k.cluster (Fin.ofNat 64 sid)).streamLate k.cluster (Fin.ofNat 64 sid)
    (d.lkind ≠ 0 → RunsTo (.stream k) s (enter s 0)) ∧
    (d.lkind = 0 → ∀ p, poolFor i.cl d = some p →
      let p' := { p with pos := (p.pos + d.units) % max 1 p.units, queue := p.queue ++ [sid] }
      RunsTo (.stream k) s (enter (s.setCluster k.cluster.val { i.cl with pools := mset i.cl.pools d.pool p' }) p.pos))

/-- STREAM_REQUEST_ISSUE and STREAM_UNIT_LANDED (R254 to R256, R258): the stream at the head of its pool's queue takes one credit
and its next unit is requested; a group of units that moved lands and advances the stream engine's counter by its units, and the last one completes the stream, once
its table record can be merged, and signals its peg. -/
def Obligations.StreamProgress : Prop :=
  (∀ s (c : ClusterNo) (sid : Fin 64) x, s.moving c.val = true → s.stream? c.val sid.val = some x →
    let d := Desc.of x.desc
    let m := s.streamMover c sid x
    (x.issued < d.units → x.tagOk = true →
      let took := fun (p : Pool) =>
        { p with credits := p.credits - 1, queue := if x.issued + 1 = d.units then p.queue.drop 1 else p.queue }
      ∀ s0, (d.lkind ≠ 0 ∧ s0 = s ∨ d.lkind = 0 ∧ ∃ p, mget (s.cluster c.val).pools d.pool = some p ∧
          p.queue.head? = some sid.val ∧ 0 < p.credits ∧
          s0 = s.setCluster c.val { s.cluster c.val with pools := mset (s.cluster c.val).pools d.pool (took p) }) →
        let s1 := (s0.setStream c.val sid.val { x with issued := x.issued + 1 }).stallOff (.stream c sid)
        (d.scatter ∨ d.pack → RunsTo (.streamRequestIssue c sid) s s1) ∧
        (d.scatter = false → d.pack = false → ∀ s2 ps y,
          s1.dataPieces m.ctx d (m.who false) (64 * x.issued) (64 * x.issued + d.span x.issued (x.issued + 1))
            (64 * (x.issued / d.group * d.group)) = (s2, .ok ps, y) →
          (d.whole → RunsTo (.streamRequestIssue c sid) s s2) ∧
          (d.whole = false → ∀ s3 z, s2.askPieces m.owner m.pc m.ctx (m.who false) d.noalloc false d.deadline ps = (s3, .ok (), z) →
            RunsTo (.streamRequestIssue c sid) s s3))) ∧
    (∀ unit lo hi, lo = unit / d.group * d.group → hi = min (lo + d.group) d.units → hi ≤ x.issued → lo < hi → x.landed ≤ lo →
      lo ∉ x.ahead → (d.scatter → lo = x.landed) →
      ∀ s1 run z, s.moveGroup m d (s.ringSide c.val x) x.pack lo hi = (s1, run, .ok (), z) →
        let y := landUnits { x with pack := run } lo hi
        let s2 := s1.progress (unitKey (srcCluster c.val) 0xFF 3) m.ctx (hi - lo)
        (x.landed < d.units → y.landed < d.units →
          RunsTo (.streamUnitLanded c sid unit) s ((s2.setStream c.val sid.val y).stallOff (.stream c sid))) ∧
        (x.landed < d.units → d.units ≤ y.landed → RunsTo (.streamUnitLanded c sid unit) s (s2.endStream c sid y))) ∧
    (∀ unit, d.units ≤ x.landed → RunsTo (.streamUnitLanded c sid unit) s (s.endStream c sid x))) ∧
  (∀ (s : State) (c : ClusterNo) (sid : Fin 64) (y : Stream),
    let d := Desc.of y.desc
    let m := s.streamMover c sid y
    ∀ s2, s.packMerge m.user y.pack d d.deadline = (s2, .ok ()) →
      let s3 := ((s2.setStream c.val sid.val y).streamLate c sid).dropStream c sid
      s.endStream c sid y = if d.sigPeg = 0xFFFF then s3 else s3.completionSignal m.ctx d.sigPeg 1 (srcCluster c.val))

/-- COPY, COPY_COMPLETE, STREAM_TAG_REREAD, STREAM_DEADLINE_EXPIRY and STALL_REPORT_TIMEOUT (R257, R259, R263, R268). -/
def Obligations.CopiesAndDeadlines : Prop :=
  ∀ s (q : CmdRef),
    (∀ t, Turn s q 0x0300 t → (Desc.of (bsub t.packet 64 64)).valid .copy = true →
      let bs := bsub t.packet 64 64
      let d := Desc.of bs
      let u := (s.begin q).startTaken q
      let x : Copy := ⟨q, bs, BitVec.ofNat 32 (fld t.packet 16 4), d.deadline, !d.tag, false, false, u.local_, 0, .start⟩
      RunsTo (.copy q) s (({ u with tier := { u.tier with copies := u.tier.copies ++ [x] } }.copyTag q).copyLate q)) ∧
    (∀ x, s.alive = true → s.inL0 q.ctx.val = false → s.copy? q = some x →
      (x.tagOk = true → ∀ s1 y s2,
        (s.copyLate q).copyGroups { x with late := x.late || (s.copyLate q).timePassed x.deadline } (Desc.of x.desc).units = (s1, y, .ok ()) →
        s1.packMerge y.mover.user y.pack (Desc.of y.desc) y.deadline = (s2, .ok ()) →
        RunsTo (.copyComplete q) s (s2.endCopy y stOk)) ∧
      (x.tagOk = false → x.lastTag + 1000 ≤ s.local_ → RunsTo (.streamTagReread (.copy q)) s (s.copyTag q)) ∧
      RunsTo (.streamDeadlineExpiry (.copy q)) s (s.copyLate q)) ∧
    (∀ (c : ClusterNo) (sid : Fin 64) x, s.moving c.val = true → s.stream? c.val sid.val = some x →
      (x.tagOk = false → x.lastTag + 1000 ≤ s.local_ → RunsTo (.streamTagReread (.stream c sid)) s (s.streamTag c sid)) ∧
      RunsTo (.streamDeadlineExpiry (.stream c sid)) s (s.streamLate c sid)) ∧
    (∀ (k : CoreRef) (tag : Fin 8), s.moving k.cluster.val = true →
      RunsTo (.streamDeadlineExpiry (.xfer k tag)) s (s.xferLate k tag.val)) ∧
    (∀ (c : Ctx) unit e, s.alive = true → s.tier.episodes.find? (fun e => e.unit == unit && e.ctx == c.val) = some e →
      e.reported = false → s.stallReportUs ≠ 0 → 1000 * s.stallReportUs ≤ s.local_ - e.since →
      Runs (.stallReportTimeout c unit) s (fun t =>
        t = ({ s with tier := { s.tier with
          episodes := replaceFirst (fun x => x == e) (fun x => { x with reported := true }) s.tier.episodes } } : State).raise
            0x040A (stallSource unit) (some e.ctx) [e.ctx, e.cause, s.local_ - e.since, stallSource unit]))

/-! ### Launches (05_core_programs.md R144 to R151, R168; 04_cores.md R134) -/

/-- PROG_LAUNCH and LAUNCH_START (R147 to R149): with every named cluster held and in service and its image checked, a launch is
queued; the first queued launch of its ring whose peg condition holds and whose clusters are idle starts every one of them with
its cores cleared, at index 0, and raises EV_PROG_START. A cluster that starts (R97, R149) runs its image with every core cleared
and no scan, pool or stream left; no other cluster changes. -/
def Obligations.LaunchAndStart : Prop :=
  (∀ s (q : CmdRef),
    (∀ t, Turn s q 0x0200 t →
      let set := clusterSet t.packet 64
      let w := set.foldl State.mapMet (s.begin q)
      w.launchRefusal q.ctx.val set = none →
      let enter := fun (u : State) (image : List W128) =>
        let v := (u.startTaken q).stallOff (.cmd q)
        let l : Launch :=
          { q := q, progVa := BitVec.ofNat 64 (fld t.packet 16 8), waitEn := (fld t.packet 24 2).testBit 0, waitPeg := fld t.packet 32 4
            waitValue := BitVec.ofNat 64 (fld t.packet 40 8), sigEn := (fld t.packet 24 2).testBit 1, sigPeg := fld t.packet 36 4
            sigAddend := BitVec.ofNat 64 (fld t.packet 48 8), step := BitVec.ofNat 32 (fld t.packet 28 4), set := set
            args := (List.range 8).map (fun j => BitVec.ofNat 64 (fld t.packet (128 + 8 * j) 8)), image := image, phase := .queued
            pegMet := false, started := 0, stop := none, result1 := 0 }
        ({ v with eng := { v.eng with launches := v.eng.launches ++ [l] } } : State).launchPegs q.ctx.val q.ring.val 1
      let va := fld t.packet 16 8
      va % 64 = 0 → vaSpace va = 0 →
      ∀ s1 h s2 b, w.readVa q.ctx.val va 64 (.other false) false 0 = (s1, .ok h) →
        fld h 0 4 = 0x50470A10 → 1 ≤ fld h 4 2 → fld h 4 2 ≤ 1024 → fld h 6 2 = 0 → zeroBytes h 12 64 = true →
        s1.readVa q.ctx.val (va + 64) (16 * fld h 4 2) (.other false) false 0 = (s2, .ok b) → (crc32c b).toNat = fld h 8 4 →
        RunsTo (.progLaunch q) s (enter s2 ((List.range (fld h 4 2)).map (fun j => BitVec.ofNat 128 (fld b (16 * j) 16))))) ∧
    (s.alive = true → s.inL0 q.ctx.val = false → (s.launch? q).isSome →
      let u := s.launchPegs q.ctx.val q.ring.val 1
      ∀ l, u.launch? q = some l → l.phase = .queued → (∃ f, u.firstQueued q.ctx.val q.ring.val = some f ∧ f.q = q) →
        (l.waitEn → l.pegMet) →
        let w := l.set.foldl State.mapMet u
        w.launchRefusal q.ctx.val l.set = none →
        (∀ c ∈ l.set, (w.cluster c).state = .idle ∨ (w.cluster c).state = .gated) → w.cur.power = .active →
        let v := (l.set.foldl (fun s c => s.startCluster q l.image c) w)
        let v := v.setLaunch q (fun l => { l with phase := .running, started := v.now })
        let v := v.raise 0x0221 (srcCp q.ctx.val q.ring.val) (some q.ctx.val)
          [q.seq.toNat, l.progVa.toNat, l.step.toNat, l.set.length]
        RunsTo (.launchStart q) s (v.launchPegs q.ctx.val q.ring.val v.eng.launches.length))) ∧
  (∀ (s : State) (q : CmdRef) image (c : ClusterNo) (j : Fin 80),
    let t := s.startCluster q image c.val
    (t.cluster c.val).state = .running ∧ (t.cluster c.val).image = image ∧ (t.cluster c.val).launch = some q ∧
    (t.cluster c.val).scans = [] ∧ (t.cluster c.val).pools = [] ∧ (t.cluster c.val).streams = [] ∧ t.core ⟨c, j⟩ = .reset ∧
    (∀ d, d ≠ c.val → t.cluster d = s.cluster d))

/-- PROG_ABORT, CLUSTER_GRANT, CLUSTER_RELEASE, CLUSTER_PROGRAM_END, CLUSTER_DRAINED, LAUNCH_COMPLETE and CLUSTER_GATE_TIMEOUT
(R134, R145, R150, R168). -/
def Obligations.LaunchEnds : Prop :=
  ∀ s (q : CmdRef) (c : ClusterNo),
    (∀ t, Turn s q 0x0201 t →
      let mine := s.eng.launches.filter (fun l => l.q.ctx == q.ctx && l.phase == .running && l.stop.isNone)
      RunsTo (.progAbort q) s
        ((mine.foldl (fun s l => s.stopLaunch l.q 0x0206 0) (s.begin q)).complete q stOk mine.length 0)) ∧
    (∀ t, Turn s q 0x0202 t → mhas s.host.ctxs (fld t.packet 16 2) = true →
      (∀ d ∈ clusterSet t.packet 24, ∀ h, (s.cluster d).holder = some h → h = fld t.packet 16 2) →
      RunsTo (.clusterGrant q) s (((clusterSet t.packet 24).foldl (fun s d =>
        s.setCluster d { s.cluster d with holder := some (fld t.packet 16 2) }) (s.begin q)).complete q stOk 0 0)) ∧
    (∀ t, Turn s q 0x0203 t → mhas s.host.ctxs (fld t.packet 16 2) = true →
      let mine := (clusterSet t.packet 24).filter (fun d => (s.cluster d).holder == some (fld t.packet 16 2))
      RunsTo (.clusterRelease q) s ((mine.foldl (fun s d =>
        if (s.cluster d).busy then s.setCluster d { s.cluster d with releasing := true } else s.giveBack d) (s.begin q)).complete
          q stOk 0 0)) ∧
    (s.alive = true → s.inL0 ((s.cluster c.val).holder.getD 0) = false →
      ((s.cluster c.val).state = .running → (∀ j : Fin 80, (s.core ⟨c, j⟩).ended = true) →
        RunsTo (.clusterProgramEnd c) s (s.setCluster c.val { s.cluster c.val with state := .draining })) ∧
      ((s.cluster c.val).state = .draining → s.drained c = true → RunsTo (.clusterDrained c) s (s.idleCluster c.val))) ∧
    (s.alive = true → s.inL0 q.ctx.val = false → ∀ l, s.launch? q = some l → l.phase = .running →
      (∀ d ∈ l.set, (s.cluster d).launch ≠ some q) →
      let st := l.stop.getD 0
      let u := (s.endLaunch q st l.started l.result1).raise 0x0222 (srcCp q.ctx.val q.ring.val) (some q.ctx.val)
        [q.seq.toNat, st, s.time.ns - l.started, 0]
      RunsTo (.launchComplete q) s
        (if l.sigEn && st == 0 then u.completionSignal q.ctx.val l.sigPeg l.sigAddend (srcCp q.ctx.val q.ring.val) else u)) ∧
    (s.alive = true → (s.cluster c.val).state = .idle → (s.cluster c.val).holder = none →
      ∀ us, us = bits (s.reg rEnvelope) 63 32 → us ≠ 0 → (s.cluster c.val).idleSince + 1000 * us ≤ s.local_ →
      RunsTo (.clusterGateTimeout c) s (s.setCluster c.val { s.cluster c.val with state := .gated, buf := [], hidden := [] }))

/-! ### Statistics and pack tables (06_scaling.md R183, R188, R190; 09_pack_format.md R283) -/

/-- STAT_INIT, GSCALE_INIT and PACK_TABLE_INIT (R190, R283): the empty record, its scale entry and an empty ring, the gradient scale
entry, or the empty table record is written at the address, and the command completes. -/
def Obligations.RecordsInitialised : Prop :=
  ∀ s (q : CmdRef) t u,
    let va := fld t.packet 16 8
    (Turn s q 0x0800 t →
      let c := bsub t.packet 64 64
      let sc := BitVec.ofNat 32 (fld c 0 4)
      let inv := F32.div 0x3F800000 sc
      let bytes := StatRecord.bytes ⟨fld t.packet 24 4, fld t.packet 28 4, .empty, 0⟩ ++
        scaleWith c sc inv (fld t.packet 28 4) (fld c 12 1) (fld c 12 1) sc inv ++ List.replicate 1024 0
      (s.begin q).writeVa q.ctx.val va bytes (.other false) 0 = (u, .ok ()) → RunsTo (.statInit q) s (u.complete q stOk 0 0)) ∧
    (Turn s q 0x0802 t →
      let k := (BitVec.ofNat 8 (fld t.packet 28 1)).toInt
      let bytes := gscaleBytes k k (bsub t.packet 29 2) (fld t.packet 24 4) 0 (bsub t.packet 31 3 ++ bsub t.packet 36 4) (F32.pow2 k)
        (F32.pow2 k) (List.replicate 16 0x80)
      (s.begin q).writeVa q.ctx.val va bytes (.other false) 0 = (u, .ok ()) → RunsTo (.gscaleInit q) s (u.complete q stOk 0 0)) ∧
    (Turn s q 0x0310 t →
      let bytes := leBytes 4 (fld t.packet 24 4) ++ leBytes 1 (fld t.packet 28 1) ++ List.replicate 2107 0
      (s.begin q).writeVa q.ctx.val va bytes (.other false) 0 = (u, .ok ()) → RunsTo (.packTableInit q) s (u.complete q stOk 0 0))

/-- STAT_CLOSE, GSCALE_ADVANCE and PACK_TABLE_ADVANCE (R183, R188, R283): the list is read, its items are run in order, and the
command completes with the number of items that succeeded. Signals its peg when asked. -/
def Obligations.ListCommands : Prop :=
  ∀ s (q : CmdRef) t u b,
    let n := fld t.packet 24 4
    let step := fld t.packet 28 4
    let read := fun (each : Nat) =>
      (s.begin q).readVa q.ctx.val (fld t.packet 16 8) (each * n) (.other false) false 0 = (u, Got.ok b)
    let items := fun (each : Nat) => (List.range n).map (fun j => fld b (each * j) each)
    let ends := fun (row : Instr) (r : State × ItemEnd × Nat × Option (Nat × Nat)) =>
      ∀ v, r = (v, .done, n, none) → RunsTo row s
        (if (fld t.packet 36 2).testBit 0 then
          (v.complete q stOk n 0).completionSignal q.ctx.val (fld t.packet 32 4) (BitVec.ofNat 64 (fld t.packet 40 8))
            (srcCp q.ctx.val q.ring.val)
        else v.complete q stOk n 0)
    (Turn s q 0x0801 t → read 8 → ends (.statClose q) (runItems (fun v va => v.closeItem q va step) u 0 0 none (items 8))) ∧
    (Turn s q 0x0803 t → read 16 → ends (.gscaleAdvance q) (runItems (fun v p => v.advanceEntry q step p) u 0 0 none (items 16))) ∧
    (Turn s q 0x0311 t → read 8 → ends (.packTableAdvance q) (runItems (fun v va => v.advanceRecord q step va) u 0 0 none (items 8)))

/-! ### Fabric time (02_fabric_time.md R29 to R44, R58) -/

/-- TIME_SET, TIME_MARK, TIME_CTRL, TIME_PPS_EDGE, the measurement loss, the pulse on TIME_PPS_OUT at a whole second, the period
boundary (R31, R32, R37, R42, R58). A whole second or a boundary may be one nanosecond old, since the count may step over it (log entry
84). -/
def Obligations.TimeCommands : Prop :=
  ∀ s (q : CmdRef) (p : Port),
    (∀ t, Turn s q 0x0600 t → (s.timeSource = 0 ∨ s.timeSource = 3 ∨ (s.reg 0x020010).testBit 8 = true) →
      let u := (s.begin q).stepTime (fld t.packet 16 8)
      RunsTo (.timeSet q) s
        (({ u with time := { u.time with ppsReady := true, ppsSecond := none } } : State).complete q stOk s.time.ns 0)) ∧
    (∀ t, Turn s q 0x0601 t →
      let u := (s.begin q).raise 0x0A0B srcTime (some q.ctx.val) [fld t.packet 16 8, fld t.packet 24 8, fld t.packet 32 8, fld t.packet 40 8]
      RunsTo (.timeMark q) s (u.complete q stOk ((u.cat.global.head?.map (·.seq.toNat)).getD 0) 0)) ∧
    (s.hostUp = true → ∀ x : W64,
      let u := ({ s with held := mdel s.held 0x020010 } : State).setReg 0x020010 (x &&& 0x0000FFFF00FFF70F)
      let changed := ({ u with time := { u.time with
        inWindow := 0, outWindow := 0, lastMeasure := u.local_, ppsSecond := none, beacon := none } } : State).toHoldover
      RunsTo (.timeCtrlWrite (.full x)) s (if u.timeSource = s.timeSource then u else changed)) ∧
    (s.alive = true → s.timeSource = 3 → s.time.ppsReady = true →
      let sec := match s.time.ppsSecond with
        | some n => n + 1
        | none => (s.time.ns + 500000000) / 1000000000
      RunsTo (.timePpsEdge true) s (({ s with time := { s.time with ppsSecond := some sec } } : State).measure
        ((sec * 1000000000 : Nat) - (s.time.ns : Int)))) ∧
    (s.alive = true → s.timeSource ≠ 0 → s.time.state ≠ .unset →
      s.time.lastMeasure + s.lossIntervals * s.measureNs ≤ s.time.localNs →
      RunsTo .measurementLossTimeout s (({ s with time := { s.time with
        inWindow := 0, outWindow := 0, lastMeasure := s.time.localNs, ptp := { s.time.ptp with master := none } } } : State).toHoldover)) ∧
    (s.alive = true → (s.reg 0x020010).testBit 10 = true → s.time.state ≠ .unset → s.time.lastPpsOut ≠ s.time.ns / 1000000000 →
      s.time.ns % 1000000000 < 2 →
      RunsTo .timePpsOutPulse s { s with time := { s.time with
        ppsOutUntil := some (s.time.localNs + 10000), lastPpsOut := s.time.ns / 1000000000 } }) ∧
    (s.alive = true → s.time.state ≠ .unset → ∀ x, mget s.plans p.val = some x →
      let boundary := fun (b : List Byte) (now : Nat) => planEpoch b ≤ now ∧ (now - planEpoch b) % planPeriod b < 2
      (x.removing = true → (∀ b, x.live = some b → boundary b (x.count s.time.ns)) → RunsTo (.slotPlanPeriodBoundary p) s
        ((({ s with plans := mset s.plans p.val ⟨none, none, false, none⟩ } : State).raise 0x0A06 srcTime none [p.val, 0, 0, 0]).pump p.val)) ∧
      (x.removing = false → ∀ b, x.committed = some b → boundary b s.time.ns → RunsTo (.slotPlanPeriodBoundary p) s
        ((({ s with plans := mset s.plans p.val ⟨some b, none, false, none⟩ } : State).raise 0x0A06 srcTime none
          [p.val, planEpoch b, 0, 0]).pump p.val)))

/-- Beacons and PTP (R29, R30): a beacon goes out once per interval, a master answers it with its times, the reply measures half the
difference of the two delays; a Sync with its Follow_Up and a delay response of the best master, in this clock's domain, do the
same. An Announce makes its sender the master when there is none or it is better; a delay request is answered with its
correction; an Announce and a two-step Sync leave each master port every Sync interval, the Follow_Up with the Sync's stamp. -/
def Obligations.BeaconsAndPtp : Prop :=
  ∀ s (p : Port), s.alive = true →
    (s.beaconing = true → s.beaconPort = some p.val → s.time.lastBeacon + s.beaconIntervalNs ≤ s.time.localNs →
      RunsTo .beaconIntervalTick s
        (({ s with time := { s.time with beacon := some s.time.ns, lastBeacon := s.time.localNs } } : State).sendOn p.val 0
          (blockBytes (s.port p.val).neighbour s.guy.node tyBeacon 0 0 0 s.time.ns 0 []))) ∧
    (∀ b, Arrives s p.val tyBeacon b →
      (blkArg b.bytes = 0 → s.beaconMaster = true → (s.port p.val).direct = true → RunsTo (.beaconRequestReceived p) s
        ((s.sendOn p.val 0 (blockBytes (blkSrc b.bytes) s.guy.node tyBeacon 0 0 0 s.time.ns 1 (leBytes 8 s.time.ns))).delivered p.val b)) ∧
      (blkArg b.bytes = 1 → s.beaconing = true → s.beaconPort = some p.val → ∀ t1, s.time.beacon = some t1 →
        RunsTo (.beaconReplyReceived p) s ((({ s with time := { s.time with beacon := none } } : State).measure
          ((((fld (blkData b.bytes) 0 8 : Int) - t1) - ((s.time.ns : Int) - (blkAddr b.bytes : Int))).fdiv 2)).delivered p.val b))) ∧
    (s.ptpOn = true → (s.port p.val).switched = true → (s.port p.val).usable = true →
      let ps := s.time.ptp
      ∀ src : Nat,
      let got := fun (b : PtpBody) => Instr.ptpMessageReceived p ⟨bits (s.reg 0x020018) 15 8, src, b⟩
      (s.masterPorts.contains p.val = true → ∀ n c, RunsTo (got (.delayReq n c)) s (s.ptpSend p.val (.delayResp n src s.time.ns c))) ∧
      (s.timeSource = 1 → (∀ c, (s.slaveOnly = true ∨ betterClock (s.clockId, s.ownClock) (src, c) = false) →
          (ps.master = none ∨ ∃ b, ps.master = some b ∧ betterClock (src, c) (b.source, b.clock) = true) →
          RunsTo (got (.announce c)) s (s.setPtp (fun x => { x with master := some ⟨p.val, src, c⟩ }))) ∧
        (∀ m, ps.master = some m → m.port = p.val → m.source = src →
          (∀ n o c, RunsTo (got (.sync n false o c)) s (s.ptpSynced p.val (o + c) s.time.ns)) ∧
          (∀ n o c, RunsTo (got (.sync n true o c)) s (s.setPtp (fun x => { x with twoStep := some (n, s.time.ns, c) }))) ∧
          (∀ n o c t2 c2, ps.twoStep = some (n, t2, c2) → RunsTo (got (.followUp n o c)) s (s.ptpSynced p.val (o + c + c2) t2)) ∧
          (∀ n r c t1 t2 t3, ps.delayReq = some (n, t3) → ps.sync = some (t1, t2) →
            RunsTo (got (.delayResp n s.clockId r c)) s
              ((s.setPtp (fun x => { x with delayReq := none, sync := none })).measure (((t1 - t2) + ((r - c) - t3)).fdiv 2)))))) ∧
    (s.masterPorts ≠ [] → s.time.ptp.lastSync + s.syncNs ≤ s.time.localNs →
      let n := s.time.ptp.txSeq
      let o := match s.time.ptp.master with
        | some m => { m.clock with steps := m.clock.steps + 1 }
        | none => s.ownClock
      RunsTo .ptpSyncInterval s ((s.masterPorts.foldl (fun u j => (u.ptpSend j (.announce o)).ptpSend j (.sync n true 0 0)) s).setPtp
        (fun x => { x with txSeq := (n + 1) % 65536, lastSync := s.time.localNs })))

/-- A measurement of fabric time (R27, R32 to R34): it gives a rate estimate, free within ±100 ppm (log entry 103); while UNSET it
steps time at once; within the step limit it sets the correction to be slewed; beyond it, it steps time with ALLOW_STEP set, and
otherwise slews too and is not LOCKED any more. -/
def Obligations.TimeMeasured : Prop :=
  ∀ (s : State) (off : Int),
    let e := s.estimateRate
    let u : State := { e with time := { e.time with offset := off, lastMeasure := s.time.localNs } }
    let limit := 1000 * bits (s.reg 0x020010) 47 32
    (s.time.state = .unset → s.measure off = u.stepTime ((s.time.ns : Int) + off).toNat) ∧
    (e = { s with freeCtr := s.freeCtr + 1, time := { s.time with rate := e.time.rate } } ∧ e.time.rate.natAbs ≤ 429496) ∧
    (s.time.state ≠ .unset → off.natAbs ≤ limit → (s.measure off).time.slew = off * 2 ^ 32) ∧
    (s.time.state ≠ .unset → limit < off.natAbs →
      ((s.reg 0x020010).testBit 8 = true → (s.measure off).time.ns = ((s.time.ns : Int) + off).toNat % 2 ^ 64) ∧
      ((s.reg 0x020010).testBit 8 = false →
        (s.measure off).time.slew = off * 2 ^ 32 ∧ (s.measure off).time.state ≠ .locked))

/-! ### Pegs and the catalogue (02_fabric_time.md R45 to R57) -/

/-- PEG_QUOTA_SET, PEG_ALLOC, PEG_FREE, PEG_SIGNAL, PEG_SET, PEG_WAIT_GE, PEG_WAIT_EQ and PEG_WAIT_TIMEOUT (R45 to R50). An
allocation takes some range of free pegs within the quota and zeroes it; which range is the model's free choice (log entry 3). A
signal-add or set of a peg that no wait in time is met by (R46 to R48): the peg holds the sum modulo 2^64 or the value, and nothing else
changes. -/
def Obligations.PegCommands : Prop :=
  (∀ s (q : CmdRef) t,
    let ctx := q.ctx.val
    let i := fld t.packet 16 4
    let v := BitVec.ofNat 64 (fld t.packet 24 8)
    let u := s.begin q
    (Turn s q 0x0610 t → RunsTo (.pegQuotaSet q) s
      (({ u with pegs := { u.pegs with quota := mset s.pegs.quota (fld t.packet 16 2) (fld t.packet 20 4) } } : State).complete q stOk 0 0)) ∧
    (Turn s q 0x0611 t → (s.pegs.pegs.filter (fun x => x.2.owner == ctx)).length + i ≤ mgetD s.pegs.quota ctx 0 → s.freeBases i ≠ [] →
      ∃ base ∈ s.freeBases i, RunsTo (.pegAlloc q) s
        (({ u with freeCtr := u.freeCtr + 1, pegs := { u.pegs with
          pegs := (List.range i).foldl (fun m j => mset m (base + j) ⟨ctx, 0⟩) s.pegs.pegs } } : State).complete q stOk base 0)) ∧
    (Turn s q 0x0612 t → (∀ j, j < fld t.packet 20 4 → s.pegOwned ctx (i + j) = true) →
      let inside := fun (j : Nat) => decide (i ≤ j) && decide (j < i + fld t.packet 20 4)
      let gone := s.pegs.waits.filter (fun w => inside w.peg)
      let rest := { u with pegs := { u.pegs with
        pegs := s.pegs.pegs.filter (fun x => !inside x.1), waits := s.pegs.waits.filter (fun w => !inside w.peg) } }
      RunsTo (.pegFree q) s ((gone.foldl (fun a w => a.breakWait w stPegNotOwned pfPeg) rest).complete q stOk 0 0)) ∧
    ((fld t.packet 20 2 = 0xFFFF ∨ fld t.packet 20 2 = s.guy.node) → s.pegOwned ctx i = true →
      (Turn s q 0x0613 t → RunsTo (.pegSignal q) s ((u.pegAdd i v).complete q stOk 0 0)) ∧
      (Turn s q 0x0614 t → RunsTo (.pegSet q) s ((u.pegTake i v).complete q stOk 0 0))) ∧
    (fld t.packet 20 2 ≠ 0xFFFF → fld t.packet 20 2 ≠ s.guy.node →
      let sent := fun (set : Bool) =>
        (u.sendBlock (srcCp ctx q.ring.val) (fld t.packet 20 2) 0 false true (pegBlock (fld t.packet 20 2) s.guy.node ctx i set v)).1
      (Turn s q 0x0613 t → RunsTo (.pegSignal q) s ((sent false).complete q stOk 0 0)) ∧
      (Turn s q 0x0614 t → RunsTo (.pegSet q) s ((sent true).complete q stOk 0 0))) ∧
    (∀ eq row, (eq, row) ∈ [(false, Instr.pegWaitGe q), (true, Instr.pegWaitEq q)] → Turn s q (if eq then 0x0616 else 0x0615) t →
      ((fld t.packet 20 4).testBit 0 = true → s.time.state ≠ .unset) → ∀ g, mget s.pegs.pegs i = some g → g.owner = ctx →
      let limit := fld t.packet 32 8
      let met := if eq then g.value = v else v.toNat ≤ g.value.toNat
      (met → RunsTo row s (u.complete q stOk g.value.toNat 0)) ∧
      (¬ met → s.timePassed limit = false → s.pegs.waits.length < 32768 → RunsTo row s
        ((({ u with pegs := { u.pegs with waits := s.pegs.waits ++ [⟨.cmd q, ctx, i, eq, v, limit⟩] } } : State).startTaken q).stallOn
          (.cmd q) ctx 7))) ∧
    (s.alive = true →
      let rest := { s with pegs := { s.pegs with waits := s.pegs.waits.filter (fun w => !s.timePassed w.timeout) } }
      RunsTo .pegWaitTimeout s ((s.pegs.waits.filter (fun w => s.timePassed w.timeout)).foldl (fun a w =>
        (a.raise 0x0A07 srcTime (some w.ctx) [w.peg, ((mget a.pegs.pegs w.peg).map (·.value.toNat)).getD 0, 0, 0]).breakWait w 0x0505
          pfPegTimeout) rest))) ∧
  (∀ (s : State) (i : Nat) (v : W64) (p : Peg), mget s.pegs.pegs i = some p → (∀ w ∈ s.pegs.waits, w.peg = i → w.met v = false ∨ s.timePassed w.timeout = true) →
    s.pegTake i v = { s with pegs := { s.pegs with pegs := mset s.pegs.pegs i { p with value := v } } } ∧
    (p.value.toNat ≤ (p.value + v).toNat → s.pegAdd i v = s.pegTake i (p.value + v)))

/-- PEG_BLOCK_RECEIVED (R51): an operation of another node is applied when the peg's owner has the sender's context id. Any other is
discarded and counted and raises EV_PEG_REMOTE_REJECT with the sender's node and the peg's index; nothing is sent back. -/
def Obligations.RemotePegOperations : Prop :=
  ∀ s (p : Port) b, Arrives s p.val tyPeg b →
    let ctx := blkCtx b.bytes % 1024
    let i := bits (blkAddr b.bytes) 13 0
    let v := BitVec.ofNat 64 (blkArg b.bytes)
    (∀ g, mget s.pegs.pegs i = some g → g.owner = ctx →
      RunsTo (.pegBlockReceived p) s ((if (blkAddr b.bytes).testBit 16 then s.pegTake i v else s.pegAdd i v).delivered p.val b)) ∧
    ((∀ g, mget s.pegs.pegs i = some g → g.owner ≠ ctx) → RunsTo (.pegBlockReceived p) s
      ((({ s with pegs := { s.pegs with remoteRejects := min (2 ^ 16 - 1) (s.pegs.remoteRejects + 1) } } : State).raise 0x0A09 srcTime none
        [blkSrc b.bytes, i, 0, 0]).delivered p.val b))

/-- CAT_RING_BIND and CAT_EXPORT_BIND (R54, R55): a context's ring starts empty under a zeroed header; the export buffer starts
with the records not copied yet, those overwritten before counted as lost. A catalogue record (R52 to R54): it takes the next SEQ,
fabric time and state, stands at the head of the global ring and of the Curator's copy, and SEQ counts on. -/
def Obligations.CatalogueBuffers : Prop :=
  (∀ s (q : CmdRef) t,
    let base := fld t.packet 16 8
    let n := fld t.packet 24 4
    let ctx := q.ctx.val
    (Turn s q 0x0620 t → vaSpace base = 0 → ∀ u l v, (s.begin q).parts ctx base (64 + 64 * n) true (.other false) 0 = (u, .ok l) →
      u.writeVa ctx base (List.replicate 64 0) (.other false) 0 = (v, .ok ()) →
      RunsTo (.catRingBind q) s
        (({ v with cat := { v.cat with rings := mset v.cat.rings ctx ⟨base, n, 0, 0, 0⟩ } } : State).complete q stOk 0 0)) ∧
    (Turn s q 0x0621 t → ∀ iova, hostLookup s ctx base true = some iova →
      (∀ p ∈ pagesOf base (64 + 64 * n), (hostLookup s ctx p.1 true).isSome = true) →
      let lost := s.cat.overwritten
      let u := (s.begin q).toHost (.catExport iova (List.replicate 64 0))
      let u := { u with cat := { u.cat with
        exportRing := some ⟨base, n, 0, lost, BitVec.ofNat 32 s.cat.exported⟩, exported := u.cat.exported + lost
        globalLost := satAdd 32 u.cat.globalLost lost } }
      RunsTo (.catExportBind q) s ((u.cat.uncopied.foldl (fun a r => a.exportOne r) u.exportLost).complete q stOk 0 0))) ∧
  (∀ (s : State) code src ctx args fatal lost,
    let r := (s.generate code src ctx args fatal lost).1
    let t := (s.generate code src ctx args fatal lost).2
    r.seq = s.cat.nextSeq ∧ r.event = code ∧ r.source = src ∧ r.time = s.time.ns ∧ r.timeState = s.time.state ∧
    r.args = args.map (BitVec.ofNat 64) ∧ t.cat.nextSeq = s.cat.nextSeq + 1 ∧ t.cat.global.head? = some r ∧
    t.cat.curator.head? = some r ∧ (s.cat.global.length ≤ 1048576 → t.cat.global.length ≤ 1048576) ∧
    (s.cat.curator.length ≤ 4096 → t.cat.curator.length ≤ 4096) ∧ r.bytes.length = 64)

/-! ### The host link (13_host_link.md) -/

/-- The doorbells (R397): with the host up, a SQ_TAIL that moves from TAIL by at most the units the ring has free becomes TAIL, a
CQ_HEAD that consumes no more than is unread becomes CQ_HEAD; any other value is ignored and counted; either wakes the package. -/
def Obligations.Doorbells : Prop :=
  ∀ s (c : Ctx) (r : RingNo) (v : W32), s.hostUp = true →
    let u := s.beginWake
    (∀ x, s.ring? c.val r.val = some x →
      let ahead := (v - x.head).toNat
      (ahead ≤ 1024 → (x.tail - x.head).toNat ≤ ahead → RunsTo (.doorbellSqTailWrite c r v) s (u.setRing c.val r.val { x with tail := v })) ∧
      (1024 < ahead ∨ ahead < (x.tail - x.head).toNat → RunsTo (.doorbellSqTailWrite c r v) s (u.badDoorbell c r v 1)) ∧
      ((v - x.cqHead).toNat ≤ (x.cqTail - x.cqHead).toNat →
        RunsTo (.doorbellCqHeadWrite c r v) s (u.setRing c.val r.val { x with cqHead := v })) ∧
      ((x.cqTail - x.cqHead).toNat < (v - x.cqHead).toNat → RunsTo (.doorbellCqHeadWrite c r v) s (u.badDoorbell c r v 2))) ∧
    (s.ring? c.val r.val = none → RunsTo (.doorbellSqTailWrite c r v) s (u.badDoorbell c r v 1) ∧
      RunsTo (.doorbellCqHeadWrite c r v) s (u.badDoorbell c r v 2))

/-- PACKET_TAKE, PACKET_HEADER_REPOLL and TORN_PACKET_TIMEOUT (R399, R401, R402): the ring whose turn it is gives its packet: HEAD
and SEQ move on and the packet is outstanding, or completes with the status of the first check it fails; a header that failed is
read again after 1 µs; one that fails for TORN_US completes with ST_TORN_PACKET. Each read goes through the slices (R219), and a ring's
wait for its stack ends with it. The header checks of R399: a header passes when
its second half is its complement, its SEQ is the one expected, its CONTEXT is the ring's, and its LENGTH is not zero. -/
def Obligations.PacketTaking : Prop :=
  (∀ s (c : Ctx) (r : RingNo) x, s.taking = true → s.ring? c.val r.val = some x →
    let h := s.headerAt c.val r.val x
    (s.ringOpen c.val r.val x = true → x.pollSince = none → takeHeaderOk c.val x h = true →
      s.turnRing = some (4 * c.val + r.val) → s.hbm.stacksReady (unitParts c.val r.val x 1) = true →
      s.hbm.stacksReady (unitParts c.val r.val x (pkLength h.1)) = true →
      (unitParts c.val r.val x (pkLength h.1)).findSome? (fun p => s.hbm.damagedIn p.1 p.2) = none →
      let packet := peekParts s.hbm (unitParts c.val r.val x (pkLength h.1))
      let q : CmdRef := ⟨c, r, x.nextSeq⟩
      let w := s.stallOff (.ring c r)
      let u := ({ w with hbm := readPartsDir s.hbm (unitParts c.val r.val x (pkLength h.1)) true } : State).setRing c.val r.val
        { x with head := x.head + BitVec.ofNat 32 (pkLength h.1), nextSeq := x.nextSeq + 1 }
      let u := ({ u with host := { u.host with
        taken := u.host.taken ++ [⟨q, packet, false, false⟩], lastRing := some (4 * c.val + r.val) } } : State).cpProgress c.val r.val
      (packetFault c.val packet = none → RunsTo (.packetTake c r) s u) ∧
      (∀ e, packetFault c.val packet = some e → RunsTo (.packetTake c r) s
        (if pkOpcode (fld packet 0 8) = 0x0200 then u.endLaunch q e 0 0 else u.completeBare q e))) ∧
    (s.hbm.stacksReady (unitParts c.val r.val x 1) = true → s.hbm.damagedIn (unitPa c.val r.val x 0) 64 = none →
    let w : State := { s with hbm := s.hbm.readLines (unitPa c.val r.val x 0) 64 true }
    (s.ringOpen c.val r.val x = true → x.pollSince = none → takeHeaderOk c.val x h = false → RunsTo (.packetTake c r) s
      (({ s.stallOff (.ring c r) with hbm := w.hbm } : State).setRing c.val r.val
        { x with pollSince := some s.time.localNs, lastPoll := s.time.localNs })) ∧
    (∀ since, x.pollSince = some since → s.ringOpen c.val r.val x = true →
      (takeHeaderOk c.val x (w.headerAt c.val r.val x) = true → x.lastPoll + 1000 ≤ s.time.localNs →
        RunsTo (.packetHeaderRepoll c r) s (w.setRing c.val r.val { x with pollSince := none })) ∧
      (takeHeaderOk c.val x (w.headerAt c.val r.val x) = false → x.lastPoll + 1000 ≤ s.time.localNs →
        RunsTo (.packetHeaderRepoll c r) s (w.setRing c.val r.val { x with lastPoll := s.time.localNs })) ∧
      (takeHeaderOk c.val x h = false → since + 1000 * s.tornUs ≤ s.time.localNs →
        RunsTo (.tornPacketTimeout c r) s (((w.setRing c.val r.val { x with pollSince := none }).raise 0x0202 (srcCp c.val r.val) (some c.val)
          [c.val, x.head.toNat + x.nextSeq.toNat * 2 ^ 32, h.1, h.2]).writeRecord c.val r.val x.nextSeq.toNat 4 h.1 h.2 false))))) ∧
  (∀ (ctx : Nat) (r : Ring) (h g : Nat), takeHeaderOk ctx r (h, g) = true ↔
    (g = 2 ^ 64 - 1 - h ∧ bits h 63 42 = r.nextSeq.toNat ∧ bits h 41 32 = ctx ∧ 1 ≤ bits h 23 16))

/-- A completion record (R406, R407, R409): the command leaves the taken ones, its record of 32 bytes goes to slot CQ_TAIL mod
ENTRIES with the phase of that pass, in two writes of which the second holds the word with the phase, CQ_TAIL counts on, and progress
is marked; with the link up and no interrupt asked for,
nothing else of the host side changes. -/
def Obligations.CompletionRecord : Prop :=
  ∀ (s : State) (q : CmdRef) (t : Taken) (r : Ring) (status r0 r1 : Nat), s.findTaken q = some t → s.ring? q.ctx.val q.ring.val = some r → s.host.link.dlUp = true →
    (fld t.packet 0 8).testBit 24 = false → status ≠ 0x0201 → status ≠ 4 →
    let n := r.cqTail.toNat
    let phase := if n / r.cqEntries % 2 = 0 then 1 else 0
    let word := phase * 2 ^ 63 + (2 ^ 22 - 1 - q.seq.toNat) * 2 ^ 38 + q.seq.toNat * 2 ^ 16 + status % 2 ^ 16
    let record := leBytes 8 r0 ++ leBytes 8 r1 ++ leBytes 8 s.time.ns ++ leBytes 8 word
    let u := s.complete q status r0 r1
    let iova := r.cqIova + 32 * (n % r.cqEntries)
    u.hostOut = s.hostOut ++ [.completion q.ctx.val q.ring.val n iova (record.take 24),
      .completion q.ctx.val q.ring.val n (iova + 24) (record.drop 24)] ∧
    u.host = { s.host with
      taken := s.host.taken.filter (fun x => x.q != q)
      rings := mset s.host.rings (4 * q.ctx.val + q.ring.val) { r with cqTail := r.cqTail + 1 } } ∧
    u.hbm = s.hbm ∧ u.cat = s.cat ∧ u.pegs = s.pegs ∧ u.regs = s.regs ∧ mget u.rst.progress q.ctx.val = some s.time.localNs

/-- INTERRUPT_COALESCE_TIMEOUT and MSIX_VECTOR_UNMASK (R409): the ring's pending count is cleared and its vector signalled; a
vector that is unmasked with its pending bit set sends its message. -/
def Obligations.Interrupts : Prop :=
  ∀ s,
    (∀ (c : Ctx) (r : RingNo) x t, s.alive = true → s.ring? c.val r.val = some x → x.irqSince = some t → x.coalNs ≠ 0 →
      t + x.coalNs ≤ s.time.localNs → RunsTo (.interruptCoalesceTimeout c r) s
        ((s.setRing c.val r.val { x with irqPending := 0, irqSince := none }).signalVector x.vector)) ∧
    (∀ (v : Fin 2048) e, s.hostUp = true → mget s.host.msix v.val = some e → e.pending = true →
      RunsTo (.msixVectorUnmask v) s { s with
        host := { s.host with msix := mset s.host.msix v.val { e with masked := false, pending := false } }
        hostOut := s.hostOut ++ [.msix v.val] })

/-- APERTURE_WRITE, APERTURE_READ, PLACEMENT_WRITE, PLACEMENT_READ and COMMAND_WINDOW_WRITE (R391, R392, R396, R411), where the
access is allowed and every page is resident; a placement read ends in Unsupported Request. -/
def Obligations.HostAccesses : Prop :=
  ∀ s, s.hostUp = true →
    (∀ (a : Fin 16) off data b u l, mget s.host.apertures a.val = some b → b.write = true →
      s.hostAccess b.ctx (b.va + off.toNat) data.length true = (u, .parts l) →
      RunsTo (.apertureWrite a off data) s (({ u with hbm := writeParts u.hbm b.ctx u.local_ l data } : State).settleWc u.hbm.wc)) ∧
    (∀ (a : Fin 16) off len b u l, mget s.host.apertures a.val = some b → b.read = true →
      s.hostAccess b.ctx (b.va + off.toNat) len false = (u, .parts l) → l.findSome? (fun p => u.hbm.damagedIn p.1 p.2) = none →
      RunsTo (.apertureRead a off len) s
        (({ u with hbm := readPartsDir u.hbm l false } : State).answer (.data (peekParts u.hbm l)))) ∧
    (∀ (requester : BitVec 16) (off : BitVec 36) (data : List Byte) i p u l, s.isPlacer requester.toNat = true →
      s.host.placements.find? (fun p => p.2.requester == requester.toNat && decide (p.2.offset ≤ off.toNat) &&
        decide (off.toNat + data.length ≤ p.2.offset + p.2.length)) = some (i, p) →
      s.hostAccess p.ctx (p.va + (off.toNat - p.offset)) data.length true = (u, .parts l) →
      let v := ({ u with hbm := writeParts u.hbm p.ctx u.local_ l data } : State).settleWc u.hbm.wc
      (p.sigPeg = none → RunsTo (.placementWrite requester off data) s v) ∧
      (∀ g, p.sigPeg = some g → off.toNat + data.length = p.offset + p.length →
        RunsTo (.placementWrite requester off data) s (v.completionSignal p.ctx g 1 srcPcie)) ∧
      (off.toNat + data.length ≠ p.offset + p.length → RunsTo (.placementWrite requester off data) s v)) ∧
    (∀ (requester : BitVec 16) off len, s.isPlacer requester.toNat = true →
      RunsTo (.placementRead requester off len) s { s with answers := s.answers ++ [.unsupported] }) ∧
    (∀ (off : BitVec 28) (data : List Byte), data ≠ [] → off.toNat / 0x10000 = (off.toNat + data.length - 1) / 0x10000 →
      s.hbm.stackDown [(0xFFD0000000 + off.toNat, data.length)] = false →
      s.hbm.stacksReady [(0xFFD0000000 + off.toNat, data.length)] = true →
      ((s.ring? (off.toNat / 0x40000) (off.toNat / 0x10000 % 4)).isSome → RunsTo (.commandWindowWrite off data) s
        (({ s with hbm := s.hbm.write (off.toNat / 0x40000) s.time.localNs (0xFFD0000000 + off.toNat) data } : State).settleWc s.hbm.wc)) ∧
      (s.ring? (off.toNat / 0x40000) (off.toNat / 0x10000 % 4) = none → RunsTo (.commandWindowWrite off data) s
        { s with host := { s.host with windowDrops := satAdd 32 s.host.windowDrops 1 } }))

/-- DL_DOWN, DL_UP, HOLD_TIME_EXPIRY, FUNCTION_LEVEL_RESET, PERST_N and configuration requests (R388, R412, R413, R480). -/
def Obligations.HostLink : Prop :=
  ∀ s, s.alive = true →
    (s.host.link.dlUp = true → ∀ n,
      let p := takeWrites n s.hostOut.reverse
      let again := (p.2.filterMap (fun o => match o with
        | .completion c r n _ _ => some (c, r, n)
        | _ => none)).eraseDups.length
      RunsTo (.dlDown n) s (({ s with
        hostOut := p.1.reverse
        host := { s.host with link := { s.host.link with
          dlUp := false, rate := 0, width := 0, flit := false, downs := satAdd 16 s.host.link.downs 1
          downSince := some s.time.localNs, lost := p.2 } } } : State).raise 0x0102 srcPcie none
            [p.2.length, again, (tierContexts p.2).length, 0])) ∧
    (∀ rate width flit, (width = 4 ∨ width = 8 ∨ width = 16) → 1 ≤ rate → rate ≤ 7 → (6 ≤ rate → flit = true) →
      (s.host.link.laneOut = true → width ≠ 16) →
      (s.host.link.dlUp = false → s.host.perstN = true →
        (s.host.link.downSince = none → RunsTo (.dlUp rate width flit) s (s.linkUp rate width flit)) ∧
        (∀ t, s.host.link.downSince = some t → s.time.localNs ≤ t + 1000000 * s.holdMs →
          let u := (s.setLink (fun l => { l with lost := [], waiting := [] })).linkUp rate width flit
          RunsTo (.dlUp rate width flit) s
            (s.host.link.waiting.foldl State.flushOne (s.host.link.lost.foldl State.repeatLost u))) ∧
        (∀ t, s.host.link.downSince = some t → t + 1000000 * s.holdMs < s.time.localNs →
          RunsTo (.dlUp rate width flit) s ((s.hostLoss 1).linkUp rate width flit))) ∧
      (s.host.perstN = false → RunsTo (.perstNRelease rate width flit) s
        ((s.setHost (fun h => { h with perstN := true })).linkUp rate width flit))) ∧
    (∀ t, s.host.link.downSince = some t → t + 1000000 * s.holdMs ≤ s.time.localNs → RunsTo .holdTimeExpiry s (s.hostLoss 1)) ∧
    (s.host.link.dlUp = true → s.board.functionReady = true → RunsTo .functionLevelReset s (s.hostLoss 2)) ∧
    (s.host.perstN = true → s.serving = true → Runs .perstNAssert s (fun t => t.host.perstN = false ∧ t.host.link.dlUp = false ∧
      t.board = (s.hostLoss 3).board ∧ t.hbm = (s.hostLoss 3).hbm ∧ t.eng = (s.hostLoss 3).eng)) ∧
    (s.host.link.dlUp = true → ∀ off : BitVec 12,
      (s.board.functionReady = false → ∀ w, RunsTo (.configurationRequest off w) s { s with answers := s.answers ++ [.retry] }) ∧
      (s.board.functionReady = true → ∀ v, RunsTo (.configurationRequest off (some v)) s
        { s with host := { s.host with config := mset s.host.config (off.toNat / 4 * 4) v } }) ∧
      (s.board.functionReady = true → Runs (.configurationRequest off none) s
        (fun t => ∃ v, t = { s with answers := s.answers ++ [.config v] })))

/-- The commands that bind apertures and placements and make contexts and rings, and the registers of context 0 (R391, R393 to R396,
R403, R411, R415). -/
def Obligations.HostCommands : Prop :=
  ∀ s (q : CmdRef) t,
    let u := s.begin q
    let c := fld t.packet 16 2
    let ring := fld t.packet 18 1
    (Turn s q 0x0000 t → RunsTo (.nop q) s (u.complete q stOk 0 0)) ∧
    (Turn s q 0x0010 t → mhas s.host.ctxs (fld t.packet 20 2) = true →
      let b : Aperture := ⟨fld t.packet 20 2, fld t.packet 24 8, (fld t.packet 17 1).testBit 0, (fld t.packet 17 1).testBit 1⟩
      RunsTo (.apertureBind q) s ((u.setHost (fun h => { h with apertures := mset h.apertures (fld t.packet 16 1) b })).complete q stOk 0 0)) ∧
    (Turn s q 0x0011 t → RunsTo (.apertureUnbind q) s
      ((u.setHost (fun h => { h with apertures := mdel h.apertures (fld t.packet 16 1) })).complete q stOk 0 0)) ∧
    (Turn s q 0x0012 t → (fld t.packet 17 1).testBit 0 = false → RunsTo (.placeSet q) s
      ((u.setHost (fun h => { h with placements := mdel h.placements (fld t.packet 16 1) })).complete q stOk 0 0)) ∧
    (Turn s q 0x0012 t → (fld t.packet 17 1).testBit 0 = true → mhas s.host.ctxs (fld t.packet 20 2) = true →
      let sig := (fld t.packet 17 1).testBit 1
      let peg := fld t.packet 48 4
      (sig → peg < 16384 ∧ s.pegOwned (fld t.packet 20 2) peg = true) →
      let x : Placement := ⟨fld t.packet 18 2, fld t.packet 20 2, fld t.packet 24 8, fld t.packet 32 8, fld t.packet 40 8,
        if sig then some peg else none⟩
      (∀ p ∈ s.host.placements, p.1 ≠ fld t.packet 16 1 → p.2.overlaps x = false) →
      RunsTo (.placeSet q) s ((u.setHost (fun h => { h with placements := mset h.placements (fld t.packet 16 1) x })).complete q stOk 0 0)) ∧
    (Turn s q 0x0700 t → mhas s.host.ctxs c = false → RunsTo (.ctxCreate q) s
      (((u.makeContext c (BitVec.ofNat 64 (fld t.packet 24 8)) (fld t.packet 18 2) (fld t.packet 32 8)).raise 0x0204
        (srcCp q.ctx.val q.ring.val) (some c) [c, fld t.packet 18 2, fld t.packet 32 8, 0]).complete q stOk 0 0)) ∧
    (Turn s q 0x0701 t → mhas s.host.ctxs c = true → Runs (.ctxDestroy q) s (fun v =>
      (∃ e, mget v.rst.l0 c = some e ∧ e.destroy = some q) ∧ v.host.ctxs = s.host.ctxs ∧ v.hbm = s.hbm ∧
      (s.inL0 c = false → v.pegs.waits = s.pegs.waits.filter (fun w => w.ctx != c)))) ∧
    (mhas s.host.ctxs c = true →
      (Turn s q 0x0702 t → s.ring? c ring = none → RunsTo (.ringCreate q) s
        ((u.makeRing c ring (fld t.packet 20 4) (fld t.packet 24 8) (fld t.packet 32 2) (fld t.packet 34 2) (fld t.packet 36 4)).complete
          q stOk 0 0)) ∧
      (Turn s q 0x0703 t → (s.ring? c ring).isSome → (∀ x ∈ s.host.taken, x.q.ctx.val ≠ c ∨ x.q.ring.val ≠ ring) → RunsTo (.ringDestroy q) s
        ((u.setHost (fun h => { h with rings := mdel h.rings (4 * c + ring) })).complete q stOk 0 0)) ∧
      (Turn s q 0x0704 t → ∀ x r, mget s.host.ctxs c = some x → s.ring? c ring = some r → x.faulted = true →
        (BitVec.ofNat 32 (fld t.packet 20 4) - r.head).toNat ≤ (r.tail - r.head).toNat → RunsTo (.ringResume q) s
        ((u.resumeRing c ring (BitVec.ofNat 32 (fld t.packet 20 4)) (fld t.packet 24 4)).complete q stOk 0 0))) ∧
    (s.hostUp = true → ∀ x : W64,
      (x.getLsbD 0 = true → mhas s.host.ctxs 0 = false → s.rst.ready = true →
        let v := ({ s with held := mdel s.held 0x080208 } : State).setReg 0x080208 x
        let n := x.toNat
        RunsTo (.hlCtx0EnableWrite (.full x)) s ((v.makeRing 0 0 (2 ^ (6 + min 10 (bits n 4 1))) (s.reg 0x080200 / 4096 * 4096)
          (max 1 (bits n 15 5)) (max 1 (bits n 31 16)) (bits n 63 32)).makeContext 0 0 0 60000000000)) ∧
      (∀ cx r, mget s.host.ctxs 0 = some cx → cx.faulted = true → s.ring? 0 (s.reg 0x080218 % 4) = some r →
        ((x.setWidth 32 : W32) - r.head).toNat ≤ (r.tail - r.head).toNat → RunsTo (.hlCtx0ResumeWrite (.full x)) s
          (({ s with held := mdel s.held 0x080210 } : State).resumeRing 0 (s.reg 0x080218 % 4) (x.setWidth 32) (bits x.toNat 53 32))))


/-! ### Registers (00_scope.md) -/

/-- The RWP registers: offset, row. -/
def Sys2Proof.protectedRows : List (Nat × (RegValue → Instr)) :=
  [(0x030008, .curClockLimitsWrite), (0x030010, .curPowerCapWrite), (0x030018, .curThrottlePointWrite), (0x040008, .rstRequestL2),
   (0x040008, .rstRequestL3), (0x040008, .rstRequestL4), (0x068500, .memHpprWrite), (0x000220, .glbRollbackWrite)]

/-- The offset that a rejected write of a register was made to. -/
def Sys2Proof.rejectedAt (off : Nat) : RegValue → Nat
  | .full _ => off
  | .lower _ => off
  | .upper _ => off + 4

/-- R8: a write to an RWP register other than one of 8 bytes whose upper half is the complement of its lower half changes nothing
but the count and the offset of GLB_RWP_REJECT, which is the offset that was written. -/
def Obligations.RejectedProtectedWrites : Prop :=
  ∀ row ∈ protectedRows ++ [(0x000210, .glbStageGo), (0x040058, fun v => match v with
      | .full x => .registerWrite (.w8 0x800B x)
      | .lower x => .registerWrite (.w4 0x10016 x)
      | .upper x => .registerWrite (.w4 0x10017 x))],
    ∀ (s : State) (v : RegValue), s.hostUp = true → (row.1 = 0x000210 → s.board.functionReady = true) → (∀ x, ¬ Matched v x) →
      RunsTo (row.2 v) s { s with rwpCount := min (2 ^ 32 - 1) (s.rwpCount + 1), rwpLast := rejectedAt row.1 v }

/-- Registers of 64 bits whose write only keeps a value: offset, the bits that software writes. -/
def Sys2Proof.wideRegisters : List (Nat × W64) :=
  [(0x020018, 0xFFFFFFF3), (0x068300, 0xFFFF), (0x060008, 0xFFFFFFFFFFFF0000), (0x060010, 0xFFFFFFFFFFFFFFFF),
   (0x050008, 0xFFFFFFFF80000FFF), (0x050010, 0xFFFFFF), (0x050018, 0xFFFFFFFF), (0x050020, 0xFFFFFFFFFFFF0000),
   (0x050200, 0xFFFF), (0x050258, 0xFFFF), (0x080008, 0x0000FFFF0000FFFF), (0x030020, 0xFFFFFFFF00030FFF), (0x030028, 0xFFF),
   (0x040010, 0xFFFF0001), (0x040048, 0xFFFFFFFF00000001)]

/-- Registers of 32 bits of the same kind. -/
def Sys2Proof.narrowRegisters : List (Nat × W64) :=
  [(0x060100, 0x3FF), (0x050028, 0xFFFF), (0x080010, 0x1), (0x080218, 0x3), (0x030030, 0x1FF), (0x040020, 0x3FF), (0x000208, 0x3FF8000)]

/-- REGISTER_WRITE (R3, R4, R6, R7): a whole write keeps the writable bits; a lower half waits for the upper one, which makes the
write take effect; an offset that no chapter defines ignores the write; a masked vector that is pending and is unmasked sends its
message. CUR_STATUS gives up REQ_CLIPPED for a 1 alone. -/
def Obligations.RegisterWrites : Prop :=
  ∀ (s : State), s.hostUp = true →
    (∀ r ∈ wideRegisters, ∀ (x : W64),
      RunsTo (.registerWrite (.w8 (BitVec.ofNat 23 (r.1 / 8)) x)) s (({ s with held := mdel s.held r.1 } : State).setReg r.1 (x &&& r.2))) ∧
    (∀ r ∈ wideRegisters, ∀ (lo hi : W32),
      let t : State := { s with held := mset s.held r.1 lo }
      RunsTo (.registerWrite (.w4 (BitVec.ofNat 24 (r.1 / 4)) lo)) s t ∧
      RunsTo (.registerWrite (.w4 (BitVec.ofNat 24 (r.1 / 4 + 1)) hi)) t
        (({ s with held := mdel (mset s.held r.1 lo) r.1 } : State).setReg r.1 (BitVec.ofNat 64 (lo.toNat + hi.toNat * 2 ^ 32) &&& r.2))) ∧
    (∀ r ∈ narrowRegisters, ∀ (x : W32),
      RunsTo (.registerWrite (.w4 (BitVec.ofNat 24 (r.1 / 4)) x)) s (s.setReg r.1 (x.setWidth 64 &&& r.2))) ∧
    (∀ (d : BitVec 23) (x : W64), rwMask (8 * d.toNat) = none → 8 * d.toNat ≠ 0x040058 →
      ¬ (0x010000 ≤ 8 * d.toNat ∧ 8 * d.toNat < 0x018000) → RunsTo (.registerWrite (.w8 d x)) s s) ∧
    (∀ (v : Fin 2048) e, mget s.host.msix v.val = some e → e.masked = true → e.pending = true →
      RunsTo (.registerWrite (.w4 (BitVec.ofNat 24 (0x4003 + 4 * v.val)) 0)) s { s with
        host := { s.host with msix := mset s.host.msix v.val { e with masked := false, pending := false } }
        hostOut := s.hostOut ++ [.msix v.val] }) ∧
    (∀ x : W64, RunsTo (.reqClippedClear (.full x)) s
      (let t : State := { s with held := mdel s.held 0x030000 }
       if x.getLsbD 22 then t.setReg 0x030000 0 else t))

/-- The protected registers, written with their complement: the envelope (R422, R424), where a value in force that differs from
the value written sets REQ_CLIPPED and raises EV_CUR_REQUEST_CLIPPED; a reset request (R448); a hard repair request (R215), which
waits for the next retrain of a stack in mission, runs at once on one out of mission, and fails on one that has failed. -/
def Obligations.ProtectedWrites : Prop :=
  ∀ (s : State) (v : RegValue) (x : W32), s.hostUp = true → Matched v x →
    let clip := fun (u : State) (off written inForce : Nat) =>
      let u := u.setReg off (rwpPair (BitVec.ofNat 32 inForce))
      if inForce = written then u
      else (u.setReg 0x030000 (BitVec.ofNat 64 (2 ^ 22))).raise 0x0B05 srcCur none [off, written, inForce, 0]
    let n := x.toNat
    (RunsTo (.curPowerCapWrite v) s
      (let cap := max 600 (min 2200 (n % 2 ^ 16))
       let u := s.setReg 0x030010 (rwpPair (BitVec.ofNat 32 cap))
       if cap = n % 2 ^ 16 then u
       else (u.setReg 0x030000 (BitVec.ofNat 64 (2 ^ 22))).raise 0x0B05 srcCur none [0x030010, n, cap, 0])) ∧
    (∀ i : Fin 8, (i.val = 7 ∨ 2250 - 150 * i.val ≤ n % 2 ^ 16) → (i.val = 0 ∨ n % 2 ^ 16 < 2400 - 150 * i.val) →
      Runs (.curThrottlePointWrite v) s (fun t => t.reg 0x030018 = (rwpPair (BitVec.ofNat 32 (2250 - 150 * i.val))).toNat)) ∧
    (let c := pointBelow (n / 2 ^ 16)
     let f := max c (pointAbove (n % 2 ^ 16))
     let u := clip s 0x030008 n ((2250 - 150 * c) * 2 ^ 16 + (2250 - 150 * f))
     RunsTo (.curClockLimitsWrite v) s { u with cur := { u.cur with loop := max c (min u.cur.loop f) } }) ∧
    (bits n 27 2 = 0 →
      let u := s.setReg 0x040008 (rwpPair x)
      (bits n 31 28 = 2 → RunsTo (.rstRequestL2 v) s (u.startL2 (n % 4) 2 0 [])) ∧
      (bits n 31 28 = 3 → RunsTo (.rstRequestL3 v) s (u.startL3 2 0)) ∧
      (bits n 31 28 = 4 → s.serving = true → RunsTo (.rstRequestL4 v) s (u.startL4 2 4 0))) ∧
    (bits n 31 30 = 1 → s.hbm.hpprState ≠ 1 → s.hbm.hpprState ≠ 2 →
      let stack := bits n 29 26
      let u := s.setReg 0x068500 (rwpPair x)
      ((s.stack stack).state = .ready → (s.stack stack).trained = true → mhas s.rst.l2 (stack / 4) = false →
        RunsTo (.memHpprWrite v) s
          { u with hbm := { u.hbm with hpprQueued := some (n % 2 ^ 30), hpprState := 1, hpprCause := 0 } }) ∧
      ((s.stack stack).trained = false ∨ (s.stack stack).state = .loopback ∨ mhas s.rst.l2 (stack / 4) = true →
        (s.stack stack).state ≠ .failed →
        (0 < s.sparesLeft (n % 2 ^ 30) → RunsTo (.memHpprWrite v) s
          { u with hbm := { u.hbm with
            hpprQueued := none, hpprState := 2, hpprCause := 0
            repairs := u.hbm.repairs ++ [⟨none, true, n % 2 ^ 30, s.time.localNs⟩] } }) ∧
        (s.sparesLeft (n % 2 ^ 30) = 0 → RunsTo (.memHpprWrite v) s
          { u with hbm := { u.hbm with hpprQueued := none, hpprState := 4, hpprCause := 1, hpprSpares := 0 } })) ∧
      ((s.stack stack).state = .failed → RunsTo (.memHpprWrite v) s
        { u with hbm := { u.hbm with hpprQueued := none, hpprState := 4, hpprCause := 2 } }))

/-! ### The Curator (14_curator.md) -/

/-- The filters (R420): the median of the last three samples, then a first-order filter with the weight 2^-TAU. -/
def Sys2Proof.filtered (x : Sensor) (tau : Nat) (r : Int) : Sensor :=
  { x with
    last := r :: x.last.take 2
    y := match r :: x.last.take 2 with
      | [a, b, c] =>
        let m := max (min a b) (min (max a b) c) * 2 ^ 32
        some (match x.y with
          | none => m
          | some y => y + (m - y).fdiv (2 ^ tau))
      | _ => x.y }

/-- The samples and checks of the Curator (R419, R420, R421, R427, R429, R453): THERMAL_SAMPLE filters each working sensor's
reading, and trips the package when a median reaches 115 °C; VOLTAGE_SAMPLE and CURRENT_SAMPLE filter theirs;
ANALOGUE_COMPARATOR_TRIP trips at once; the checks leave out what fails them. -/
def Obligations.SensorSamples : Prop :=
  (∀ (x : Sensor) (tau : Nat) (r : Int), x.take tau r = filtered x tau r) ∧
  (∀ (s : State) (i : Fin 256) (r : Int), s.alive = true → RunsTo (.analogueComparatorTrip i r) s
    (let u := s.raiseWith 0x0B04 srcCur none [i.val, (BitVec.ofInt 64 r).toNat, 2, 0] true false
     { u with cur := { u.cur with tripped := true } })) ∧
  (∀ (s : State), s.alive = true → s.cur.restartSince = none →
    (∀ l : List Int, Runs (.voltageSample l) s (fun t =>
      (∀ i r, i < 24 → l[i]? = some r → s.cur.monitorsOut.contains i = false →
        t.sensor (280 + i) = filtered (s.sensor (280 + i)) (min 12 (bits (s.reg 0x030028) 7 4)) r) ∧
      t.hbm = s.hbm ∧ t.host = s.host ∧ t.cat = s.cat ∧ t.eng = s.eng)) ∧
    (∀ l : List Int, Runs (.thermalSample l) s (fun t =>
      (∀ i r, i < 264 → l[i]? = some r → (s.sensor i).failed = 0 → -40000 ≤ r → r ≤ 150000 →
        (t.sensor i).y = (filtered (s.sensor i) (min 12 (bits (s.reg 0x030028) 3 0)) r).y) ∧
      (∀ i, i < 264 → (s.sensor i).failed ≠ 0 → t.sensor i = s.sensor i) ∧
      (∀ n r, n < 16 → l[264 + n]? = some r →
        t.sensor (264 + n) = filtered (s.sensor (264 + n)) (min 12 (bits (s.reg 0x030028) 3 0)) r) ∧
      (∀ m, hottest t.junctions = some m → 115000 ≤ m.2 → t.cur.tripped = true))) ∧
    (∀ l w, Runs (.currentSample l w) s (fun t => ∀ i ∈ s.regulators, t.sensor (304 + i) = match l.getD i none with
      | some r => { filtered (s.sensor (304 + i)) (min 12 (bits (s.reg 0x030028) 11 8)) r with missed := 0 }
      | none => { s.sensor (304 + i) with missed := (s.sensor (304 + i)).missed + 1 })) ∧
    (∀ l : List Int, (∀ x ∈ l, x.natAbs ≤ 3000) → RunsTo (.thermalSensorCheck l) s s.lostCause) ∧
    (∀ l : List Int, (∀ x ∈ l, x.natAbs ≤ 10) → RunsTo (.voltageMonitorCheck l) s s) ∧
    (∀ (i : Fin 24) (d : Int), 10 < d.natAbs → s.cur.monitorsOut.contains i.val = false →
      Runs (.voltageMonitorCheck (List.replicate i.val 0 ++ [d])) s (fun t => t.cur.monitorsOut = i.val :: s.cur.monitorsOut)))

/-- The power loop, fast throttle and power states (R423, R425, R426, R428, R430, R431, R441): a rise takes its point when the
voltage has settled; FAST_THROTTLE_N counts, holds the throttle point and ends its cause 1 ms after its release; an idle part
becomes Idle, and wakes to Active; the controller restarts at its watchdog's expiry. -/
def Obligations.PowerAndThrottle : Prop :=
  ∀ (s : State), s.alive = true →
    (s.cur.restartSince = none →
      (∀ p since, s.cur.rise = some (p, since) →
        RunsTo .voltageSettled s { s with cur := { s.cur with point := p, rise := none, pointChanges := (s.cur.pointChanges + 1) % 2 ^ 16 } } ∧
        RunsTo .powerLoopTick s (((s.atLeast s.demands).departure 0).departure 1)) ∧
      (s.cur.rise = none → s.cur.causes = [] → (∀ i ∈ s.regulators, (s.sensor (304 + i)).missed < 3) →
        s.power ≤ (bits (s.reg 0x030010) 15 0 : Nat) * wattUnit →
        95 * ((bits (s.reg 0x030010) 15 0 : Nat) * wattUnit) ≤ 100 * s.power → s.ceilIdx ≤ s.cur.loop → s.cur.point = s.cur.loop →
        s.cur.loop ≤ s.floorIdx → RunsTo .powerLoopTick s { s with cur := { s.cur with below := 0, floorYield := false } })) ∧
    (s.cur.fastLow = false → Runs .fastThrottleAssert s (fun t => t.cur.fastLow = true ∧ t.cur.fastSince = s.time.localNs ∧
      t.cur.fastThrottles = min (2 ^ 16 - 1) (s.cur.fastThrottles + 1) ∧ s.throttleIdx ≤ t.cur.point ∧ s.cur.point ≤ t.cur.point ∧
      (t.cause? 3).isSome)) ∧
    (s.cur.fastLow = true → RunsTo .fastThrottleRelease s
      (({ s with cur := { s.cur with fastLow := false, fastHold := some s.time.localNs } } : State).raise 0x0B03 srcCur none
        [2, if s.phaseRuns then 1800 else 2250 - 150 * s.cur.point, s.time.localNs - s.cur.fastSince, 0])) ∧
    (∀ x, s.cur.fastHold = some x → x + 1000000 ≤ s.time.localNs →
      RunsTo .throttleHoldExpiry s (({ s with cur := { s.cur with fastHold := none } } : State).causeOff 3)) ∧
    (s.rst.ready = true → s.cur.power = .active → bits (s.reg 0x030020) 63 32 ≠ 0 → (∀ c ∈ s.eng.clusters, c.2.busy = false) →
      s.cur.busyUntil + 1000 * bits (s.reg 0x030020) 63 32 ≤ s.time.localNs →
      RunsTo .idleEntryTimeout s (({ s with cur := { s.cur with power := .idle } } : State).raise 0x0B06 srcCur none [0, 1, 0, 0])) ∧
    (∀ from_ x, s.cur.waking = some (from_, x) → x + (if from_ = .rest then 30000000 else 10000) ≤ s.time.localNs →
      Runs .wakeComplete s (fun t => t.cur.power = .active ∧ t.cur.waking = none ∧ t.cur.busyUntil = s.time.localNs ∧
        (from_ = .idle → t.hbm.stackList = s.hbm.stackList))) ∧
    (s.cur.restartSince = none → Runs .curatorWatchdogExpiry s (fun t =>
      t.cur.restartSince = some s.time.localNs ∧ s.throttleIdx ≤ t.cur.point ∧ t.cat = s.cat)) ∧
    (∀ x, s.cur.restartSince = some x → Runs .curatorRestartComplete s (fun t =>
      t.cur.restartSince = none ∧ t.rst.restarts = min (2 ^ 16 - 1) (s.rst.restarts + 1)))

/-- The sideband and the Curator's commands (R432, R434, R435): a sensor read answers the filtered value, or the package's power,
clock or power state, or none for a sensor left out; the oldest message is
collected; an endpoint ID is kept; the power state is read, or Rest entered when no other command is outstanding; the sensors are
written to memory; a patch that passes its checks runs. -/
def Obligations.CuratorServices : Prop :=
  ∀ (s : State),
    (s.board.pwrGood = true →
      (let answers := fun (id : BitVec 16) (a : Option Int) => RunsTo (.pldmSensorRead id) s
        { s with cur := { s.cur with pldm := s.cur.pldm ++ [(id.toNat, a)] } }
       (∀ id : BitVec 16, 1 ≤ id.toNat → id.toNat ≤ 336 →
         (s.sensorGone (id.toNat - 1) = false → answers id (some (s.shownY (id.toNat - 1)))) ∧
         (s.sensorGone (id.toNat - 1) = true → answers id none)) ∧
       answers 1001 (some (s.power.fdiv wattUnit).toNat) ∧
       answers 1002 (some (if s.phaseRuns then 1800 else 2250 - 150 * s.cur.point : Nat)) ∧
       answers 1003 (some s.cur.power.code) ∧
       (∀ id : BitVec 16, id.toNat = 0 ∨ 336 < id.toNat → id ≠ 1001 → id ≠ 1002 → id ≠ 1003 → answers id none)) ∧
      RunsTo .platformEventMessageCollect s { s with cur := { s.cur with messages := s.cur.messages.drop 1 } } ∧
      ∀ eid, RunsTo (.endpointIdAssignment eid) s { s with cur := { s.cur with eid := eid } }) ∧
    (∀ (q : CmdRef) t, let u := s.begin q
      (Turn s q 0x0750 t →
        (fld t.packet 16 1 = 0 → RunsTo (.curPowerState q) s (u.complete q stOk s.cur.power.code 0)) ∧
        (fld t.packet 16 1 ≠ 0 → (∀ x ∈ s.host.taken, x.q = q) →
          RunsTo (.curPowerState q) s (u.enterRest.complete q stOk 2 0) ∧ u.enterRest.cur.power = .rest) ∧
        (fld t.packet 16 1 ≠ 0 → (∃ x ∈ s.host.taken, x.q ≠ q) → RunsTo (.curPowerState q) s u)) ∧
      (Turn s q 0x0751 t → ∀ v, u.writeVa q.ctx.val (fld t.packet 16 8) ((List.range 336).flatMap (fun i =>
          if s.sensorGone i then leBytes 4 0x80000000 ++ leBytes 4 0x80000000
          else leBytes 4 (BitVec.ofInt 32 ((s.sensor i).m.getD 0)).toNat ++ leBytes 4 (BitVec.ofInt 32 (s.shownY i)).toNat))
          (.other false) 0 = (v, .ok ()) → RunsTo (.curSensorRead q) s (v.complete q stOk 2688 0)) ∧
      (Turn s q 0x0752 t → ∀ x : PatchFound, x.present = true → x.image.length ≤ 98304 → x.digestOk = true → x.signaturesOk = true →
        s.board.patchFloor ≤ x.version.toNat → RunsTo (.curPatchActivate q x) s
          ((({ u with board := { u.board with patch := some (x.version.toNat, x.image) } } : State).raise 0x0B09 srcCur none
            [1, x.version.toNat, x.version.toNat, 0]).complete q stOk x.version.toNat 0)))

/-! ### Boot, firmware and identity (16_boot_and_identity.md) -/

/-- Power and boot (R469 to R474, R477, R480, R481, R499): a fall of PWR_GOOD leaves only the fuses and the hard repairs; the bring-up lets an image
be staged; GO checks image and configuration and begins cold BIST, or stays in WAIT_IMAGE with the first cause; trained stacks are
READY and the processors start. -/
def Obligations.PowerAndBoot : Prop :=
  ∀ (s : State),
    let unpowered : HbmSt := { State.reset.hbm with
      stackList := (s.hbm.stackList.filter (fun k => !k.2.hardUsed.isEmpty)).map (fun k => (k.1, { Stack.reset with hardUsed := k.2.hardUsed })) }
    (s.board.pwrGood = true → Runs .pwrGoodFall s (fun t =>
      t.board = { State.reset.board with rollback := s.board.rollback, keySlots := s.board.keySlots, patchFloor := s.board.patchFloor } ∧
      t.rst.repair.fused = s.rst.repair.fused ∧ t.hbm = unpowered ∧ t.eng = State.reset.eng ∧ t.host = State.reset.host ∧
      t.cat = State.reset.cat ∧ t.regs = [])) ∧
    (s.board.pwrGood = false → ∀ straps patch, Runs (.pwrGoodRise straps patch) s (fun t =>
      t.board.pwrGood = true ∧ t.board.straps = straps.toNat ∧ t.guy.slot = straps.toNat ∧ t.board.phase = .rom ∧
      t.board.rollback = s.board.rollback ∧ t.hbm = unpowered ∧ t.rst.ready = false)) ∧
    (s.alive = true →
      (s.board.phase = .rom → Runs .bootBringupComplete s (fun t =>
        t.board.functionReady = true ∧ t.board.phase = .waitImage ∧ t.hbm = s.hbm)) ∧
      (s.board.phase = .waitImage → RunsTo .bootBringupComplete s { s with board := { s.board with relane := false } }) ∧
      (∀ (off : BitVec 15) data, s.host.link.dlUp = true → s.board.functionReady = true →
        bits (s.reg 0x000208) 25 15 < 1792 → off.toNat + data.length ≤ 32768 →
        let at_ := 0xFE04000000 + 32768 * bits (s.reg 0x000208) 25 15 + off.toNat
        ((∀ c ∈ s.host.taken, c.opcode ≠ 0x0772) → RunsTo (.glbStageWindowWrite off data) s { s with hbm := s.hbm.poke at_ data }) ∧
        ((∃ c ∈ s.host.taken, c.opcode = 0x0772) → RunsTo (.glbStageWindowWrite off data) s
          { s with board := { s.board with heldStage := s.board.heldStage ++ [(at_, data)] } })) ∧
      (∀ v i cause, s.host.link.dlUp = true → s.board.functionReady = true → Matched v 1 → s.board.phase = .waitImage → s.board.relane = false →
        s.checkImage stagingBase = (cause, i) →
        (cause ≠ 0 → Runs (.glbStageGo v) s (fun t => t.board.phase = .waitImage ∧ t.board.refuseCause = cause ∧
          t.board.relane = (cause == 5) ∧ t.hbm.mem = s.hbm.mem)) ∧
        (cause = 0 → s.configFault.isSome → Runs (.glbStageGo v) s (fun t =>
          t.board.phase = .waitImage ∧ t.board.version = s.board.version ∧ t.board.config = s.board.config)) ∧
        (cause = 0 → s.configFault = none → Runs (.glbStageGo v) s (fun t =>
          t.board.phase = .coldBist ∧ t.rst.test.phase = 1 ∧ t.board.version = i.version ∧ t.board.svn = i.svn ∧
          ∀ n : Fin 16, (t.stack n.val).state = .selfRefresh))) ∧
      (∀ x, s.hbm.training = List.range 16 → s.hbm.loop = none → s.board.phase = .hbmTraining → s.rst.l3 = none → s.rst.l2 = [] →
        ((∀ y ∈ x, y.failedPcs = []) → (s.checkImage runningBase).1 = 0 → Runs (.stackTrainingComplete x) s (fun t =>
          t.board.phase = .ready ∧ t.rst.ready = true ∧ t.hbm.training = [] ∧ ∀ n : Fin 16, (t.stack n.val).state = .ready)) ∧
        (∀ y, x = [y] → y.failedPcs ≠ [] → Runs (.stackTrainingComplete x) s (fun t =>
          t.board.phase = .notReady ∧ t.rst.fault = true ∧ (t.stack y.stack.val).state = .failed))) ∧
      (∀ x, s.board.restart = some x → RunsTo .processorRestartComplete s
        (({ s with board := { s.board with restart := none } } : State).raise 0x0E03 srcBoot none
          [s.board.version, s.board.svn, 2, s.time.localNs - x])))

/-- FW_STAGE, CFG_STAGE and CFG_COMMIT (R469, R477 to R479): bytes of context 0 go to the staging areas; a commit that passes
applies the staged configuration, and the staged image where it asks for that; one that fails changes nothing but its record. The
writes to the staging areas that it held take effect when it ends. -/
def Obligations.StageAndCommit : Prop :=
  ∀ (s : State) (q : CmdRef) t,
    let u := s.begin q
    (Turn s q 0x0770 t → u.hbm.stacksReady [(0xFE04000000 + fld t.packet 24 4, fld t.packet 28 4)] = true → ∀ v b, u.readVa q.ctx.val (fld t.packet 16 8) (fld t.packet 28 4) (.other false) true 0 = (v, .ok b) →
      RunsTo (.fwStage q) s (({ v with hbm := v.hbm.writeLines (0xFE04000000 + fld t.packet 24 4) b } : State).complete q stOk (fld t.packet 28 4) 0)) ∧
    (Turn s q 0x0771 t → u.hbm.stacksReady [(0xFE07800000, 4096)] = true → ∀ v b, u.readVa q.ctx.val (fld t.packet 16 8) 4096 (.other false) true 0 = (v, .ok b) →
      RunsTo (.cfgStage q) s (({ v with hbm := v.hbm.writeLines 0xFE07800000 b } : State).complete q stOk 4096 0)) ∧
    (Turn s q 0x0772 t → s.rst.l2 = [] → s.rst.l3 = none → (∀ x ∈ s.host.taken, x.q = q) →
      ((fld t.packet 16 4).testBit 0 = false →
        (∀ o, s.configFault = some o → RunsTo (.cfgCommit q) s ((u.refuseConfig o).complete q 0x0771 0 o).releaseStage) ∧
        (s.configFault = none → (s.commitMoves = false ∨ (∀ c ∈ s.host.ctxs, c.1 = 0)) →
          RunsTo (.cfgCommit q) s ((u.applyConfig false).complete q stOk (u.applyConfig false).board.generation 0).releaseStage) ∧
        (s.configFault = none → s.commitMoves = true → (∃ c ∈ s.host.ctxs, c.1 ≠ 0) → RunsTo (.cfgCommit q) s (u.complete q 0x0772 0 0).releaseStage)) ∧
      ((fld t.packet 16 4).testBit 0 = true → ∀ cause i, s.checkImage stagingBase = (cause, i) →
        (cause ≠ 0 → RunsTo (.cfgCommit q) s ((u.refuseImage stagingBase cause i).complete q 0x0770 0 cause).releaseStage) ∧
        (cause = 0 → s.configFault = none → (∀ c ∈ s.host.ctxs, c.1 = 0) → Runs (.cfgCommit q) s (fun t =>
          t.board.restart = some s.time.localNs ∧ t.board.version = i.version ∧ t.board.svn = i.svn ∧ t.rst.ready = s.rst.ready))))

/-- The requests of SPDM: transport in, the row's requirement on the connection, its answer and the connection after it. -/
def Sys2Proof.attestRows (t : Transport) : List (Instr × (SpdmConn → Bool) × SpdmConn × SpdmAnswer) :=
  [(.getVersion t, fun _ => true, ⟨true, false, false⟩, .version), (.getCapabilities t, fun c => c.version, ⟨true, true, false⟩, .capabilities),
   (.negotiateAlgorithms t true true, fun c => c.caps, ⟨true, true, true⟩, .algorithms)]

/-- Attestation and the test access port (R483 to R485, R508): a request in its place of the sequence is answered, one before it
is Unexpected, any during an L3 is Busy; the chains, their digests, challenges and measurements answer after the algorithms are
agreed; the test access port moves as IEEE 1149.1 says and takes no land once boot has left WAIT_IMAGE. -/
def Obligations.AttestationAndTap : Prop :=
  ∀ (s : State),
    (∀ t, s.spdmReached t = true → s.rst.l3 = none →
      (∀ row ∈ attestRows t,
        (row.2.1 (s.spdmConn t) = true → RunsTo row.1 s ((s.setConn t row.2.2.1).spdmAnswer t row.2.2.2)) ∧
        (row.2.1 (s.spdmConn t) = false → RunsTo row.1 s (s.spdmAnswer t .unexpected))) ∧
      ((s.spdmConn t).algorithms = true →
        RunsTo (.getDigests t) s (s.spdmAnswer t
          (.digests [Config.sha384 (Config.certificateChain 0), Config.sha384 (Config.certificateChain 1)])) ∧
        (∀ slot off len, slot < 2 → off < (Config.certificateChain slot).length → RunsTo (.getCertificate t slot off len) s
          (let part := ((Config.certificateChain slot).drop off).take len
           s.spdmAnswer t (.certificate part ((Config.certificateChain slot).length - off - part.length)))) ∧
        (∀ slot nonce, slot < 2 → Runs (.challenge t slot nonce) s (fun u => ∃ body, u.board.spdmOut = s.board.spdmOut ++
          [(t, .challenge slot body (Config.ed25519Sign body) (Config.mldsaSign body))] ∧ u.host = s.host ∧ u.hbm = s.hbm)) ∧
        (∀ index nonce, 1 ≤ index → index ≤ 5 → Runs (.getMeasurements t index nonce) s (fun u => ∃ e m, u.board.spdmOut = s.board.spdmOut ++
          [(t, .measurements [(index, s.measurement index)] e m)] ∧ u.host = s.host ∧ u.hbm = s.hbm)) ∧
        (∀ nonce, Runs (.getMeasurements t 0xFF nonce) s (fun u => ∃ e m, u.board.spdmOut = s.board.spdmOut ++
          [(t, .measurements ([1, 2, 3, 4, 5].map (fun i => (i, s.measurement i))) e m)])))) ∧
    (∀ t, s.spdmReached t = true → s.rst.l3.isSome → ∀ row ∈ attestRows t, RunsTo row.1 s (s.spdmAnswer t .busy)) ∧
    (s.alive = true → ∀ x, Runs (.tapOperation x) s (fun u =>
      (x.trstN = false → u.board.tap.state = .testLogicReset ∧ u.board.tap.instr = .bypass) ∧
      (x.trstN = true → u.board.tap.state = s.board.tap.state.next x.tms) ∧
      (s.board.phase ≠ .rom → s.board.phase ≠ .waitImage → u.board.tap.lands = false) ∧
      (s.board.tap.state = .shiftDr → x.trstN = true → (s.board.tap.acting s.board.phase).boundary = false →
        u.board.tap.tdo = some s.board.tap.bypass ∧ u.board.tap.bypass = x.tdi) ∧
      u.hbm = s.hbm ∧ u.eng = s.eng ∧ u.host = s.host))

/-! ### Tiers and the pool (08_tiers_and_streams.md) -/

/-- The context that a TARGET field names, where the sender may name it (R269). -/
def Sys2Proof.reaches (s : State) (q : CmdRef) (target ctx : Nat) : Prop :=
  ctx = (if target = 0xFFFF then q.ctx.val else target) ∧ (ctx = q.ctx.val ∨ q.ctx.val = 0) ∧ mhas s.host.ctxs ctx = true

/-- A page's entry is RESIDENT. -/
def Sys2Proof.resident (s : State) (ctx p : Nat) : Prop := ∃ v, s.entry ctx p = some v ∧ pteState v = 0

/-- The commands of the pool (R238 to R242, R245, R246, R249, R268, R269): each has its effect on the tables and completes. -/
def Obligations.PoolCommands : Prop :=
  ∀ (s : State) (q : CmdRef) t ctx,
    let u := s.begin q
    let tier := fun (f : TierSt → TierSt) => { u with tier := f u.tier }
    let pages := fun (n : Nat) => (List.range n).map (bits (fld t.packet 16 8) 47 21 + ·)
    (Turn s q 0x0100 t → ctx = fld t.packet 16 2 → mhas s.host.ctxs ctx = true → fld t.packet 20 4 ≤ fld t.packet 24 4 →
      s.reservedSum - (s.quotaOf ctx).1 + fld t.packet 20 4 ≤ Config.poolFrames → s.pinned ctx ≤ fld t.packet 20 4 →
      s.framesOf ctx ≤ fld t.packet 24 4 → s.quotaCorrupt ctx = false →
      let r := BitVec.ofNat 32 (fld t.packet 20 4)
      let l := BitVec.ofNat 32 (fld t.packet 24 4)
      RunsTo (.poolQuotaSet q) s
        ((tier (fun x => { x with quota := mset x.quota ctx ⟨r, ~~~r, l, ~~~l⟩ })).complete q stOk (s.framesOf ctx) 0)) ∧
    (Turn s q 0x0106 t → s.tier.slots = [] → RunsTo (.poolEvictStore q) s
      ((tier (fun x => { x with store := some (fld t.packet 16 8, fld t.packet 24 4), storeFull := false })).complete q stOk 0 0)) ∧
    (Turn s q 0x0101 t → reaches s q (fld t.packet 28 2) ctx → s.quotaCorrupt ctx = false →
      (∀ p ∈ pages (fld t.packet 24 4), walk s ctx p = .none ∧ mhas s.tier.ptes (ctx * 2 ^ 27 + p) = false) →
      (fld t.packet 30 2).testBit 2 = false →
      ∀ v l, u.getFrames ctx (fld t.packet 24 4) (bits (fld t.packet 30 2) 1 1) (bits (fld t.packet 30 2) 6 5) false = (v, .frames l) →
      RunsTo (.memMap q) s
        ((v.mapPages ctx (bits (fld t.packet 16 8) 47 21) (fld t.packet 30 2) l).background.complete q stOk (fld t.packet 24 4) 0)) ∧
    (Turn s q 0x0102 t → reaches s q (fld t.packet 28 2) ctx →
      (∀ p ∈ pages (fld t.packet 24 4), resident s ctx p) → Runs (.memUnmap q) s (fun v =>
        v = ((pages (fld t.packet 24 4)).foldl (fun s p => (s.releasePage ctx p).freshL1 ctx p) u).complete q stOk (fld t.packet 24 4) 0 ∧
        ∀ p ∈ pages (fld t.packet 24 4), mget v.tier.ptes (ctx * 2 ^ 27 + p) = none)) ∧
    (Turn s q 0x0103 t → reaches s q (fld t.packet 28 2) ctx → (∀ p ∈ pages (fld t.packet 24 4), resident s ctx p) →
      s.quotaCorrupt ctx = false →
      s.pinned ctx + ((pages (fld t.packet 24 4)).filter (fun p => !(s.entry ctx p).any ptePin)).length ≤ (s.quotaOf ctx).1 →
      (∀ w ∈ s.tier.pageWaits, w.q ≠ q) → RunsTo (.memPin q) s
        (((pages (fld t.packet 24 4)).foldl (fun s p => s.setEntry ctx p (pinnedPte ((s.entry ctx p).getD 0) true)) u).complete
          q stOk 0 0)) ∧
    (Turn s q 0x0104 t → reaches s q (fld t.packet 28 2) ctx → (∀ p ∈ pages (fld t.packet 24 4), resident s ctx p) →
      RunsTo (.memUnpin q) s
        (((pages (fld t.packet 24 4)).foldl (fun s p => s.setEntry ctx p (pinnedPte ((s.entry ctx p).getD 0) false)) u).complete
          q stOk 0 0)) ∧
    (Turn s q 0x0105 t → reaches s q (fld t.packet 28 2) ctx → (∀ p ∈ pages (fld t.packet 24 4), resident s ctx p) →
      (∀ w ∈ s.tier.pageWaits, w.q ≠ q) → RunsTo (.memPrefetch q) s (u.complete q stOk 0 0)) ∧
    (Turn s q 0x0107 t → reaches s q (fld t.packet 36 2) ctx → (∀ p ∈ pages (fld t.packet 32 4), s.hostEntry ctx p = false) →
      fld t.packet 32 4 = 1 → l1Corrupt s.tier.hostL1 ctx (bits (fld t.packet 16 8) 47 21) = false → RunsTo (.hostMap q) s
        (let p := bits (fld t.packet 16 8) 47 21
         (tier (fun x => { x with
           hostL1 := mset x.hostL1 (l1Key ctx p) (l1Valid ctx (p / 8192))
           hostPtes := mset x.hostPtes (ctx * 2 ^ 27 + p) (Pair64.of (fld t.packet 24 8 + fld t.packet 38 2 % 2 * 2 + 1)) })).complete
           q stOk 0 0)) ∧
    (Turn s q 0x0108 t → reaches s q (fld t.packet 36 2) ctx → s.tier.remotes = [] →
      (∀ p ∈ pages (fld t.packet 32 4), mhas s.tier.hostPtes (ctx * 2 ^ 27 + p) = true) → Runs (.hostUnmap q) s (fun v =>
        ∀ p ∈ pages (fld t.packet 32 4), mget v.tier.hostPtes (ctx * 2 ^ 27 + p) = none)) ∧
    (Turn s q 0x0109 t →
      (fld t.packet 24 8 = 0 → RunsTo (.peerExport q) s
        ((tier (fun x => { x with exports := mdel x.exports q.ctx.val })).complete q stOk 0 0)) ∧
      (fld t.packet 24 8 ≠ 0 → (∀ p ∈ pages (fld t.packet 24 8 / 2097152), (s.entry q.ctx.val p).isSome) →
        let e : Sys2Proof.Machine.Export := ⟨fld t.packet 16 8, fld t.packet 24 8, (fld t.packet 32 4).testBit 0⟩
        RunsTo (.peerExport q) s ((tier (fun x => { x with exports := mset x.exports q.ctx.val e })).complete q stOk 0 0))) ∧
    (Turn s q 0x010A t → reaches s q (fld t.packet 24 2) ctx →
      ∀ v, u.writeVa q.ctx.val (fld t.packet 16 8) (u.stallBytes ctx) (.other false) 0 = (v, .ok ()) →
      RunsTo (.stallRead q) s (v.complete q stOk 160 0))

/-- The events of the pool and the tiers (R241, R243, R244, R247): a tick ages the resident frames; a confirmed eviction leaves
the page EVICTED in its slot and the frame free; a return takes a frame, and ends with the page RESIDENT there; an answer of the
host fills the read that asked for it. -/
def Obligations.PoolEvents : Prop :=
  ∀ (s : State), s.alive = true →
    (s.tier.lastAging + s.agingNs ≤ s.time.localNs → RunsTo .agingTick s { s with tier := { s.tier with
      lastAging := s.time.localNs
      frames := s.tier.frames.map (fun x =>
        if (s.entry x.2.ctx x.2.page).any (fun v => pteState v == 0) then
          (x.1, { x.2 with age := if x.2.touched then 0 else min 255 (x.2.age + 1), touched := false })
        else x) } }) ∧
    (∀ e v frame, s.host.link.dlUp = true → s.tier.evictions.find? (fun x => x.frame == frame) = some e → e.sent = true →
      s.entry e.ctx e.page = some v →
      (s.hbm.metaGot (ptePack v) (metaAddr (frame * pageBytes)) (slotMetaAddr e.slot) = .ready →
        Runs (.evictionComplete frame true) s (fun t =>
          mget t.tier.frames frame = none ∧ (∀ x ∈ t.tier.evictions, x.frame ≠ frame) ∧
          mget t.tier.ptes (e.ctx * 2 ^ 27 + e.page) = some (Pair64.of (movedPte v e.slot 2)) ∧ t.tier.slots = s.tier.slots ∧
          t.tier.evicted = (s.tier.evicted + 1) % 2 ^ 32)) ∧
      (s.hbm.frameReady frame = true → RunsTo (.evictionComplete frame false) s (s.sendEviction e))) ∧
    (∀ (c : Ctx) page r v, s.tier.returns.find? (fun r => r.ctx == c.val && r.page == page) = some r → s.entry c.val page = some v →
      (r.frame = none → r.met = false → s.quotaCorrupt c.val = false → (∀ x ∈ s.tier.returns, x.before r = false) → ∀ w f l,
        s.getFrames c.val 1 (s.returnKind r).1 (s.returnKind r).2 true = (w, .frames (f :: l)) →
        RunsTo (.pageReturnStart c page) s
          ((((w.setEntry c.val page (movedPte v r.slot 3)).setTier (fun t => { t with
            frames := mset t.frames f ⟨c.val, page, 0, false⟩ })).readSlot { r with frame := some f }).background)) ∧
      (∀ f, r.filled = true → r.frame = some f → s.tier.pageWaits = [] →
        s.hbm.metaGot (ptePack v) (slotMetaAddr r.slot) (metaAddr (f * pageBytes)) = .ready → Runs (.pageReturnComplete c page) s (fun t =>
        mget t.tier.ptes (c.val * 2 ^ 27 + page) = some (Pair64.of (movedPte v f 0)) ∧ mget t.tier.slots r.slot = none ∧
        t.tier.returned = (s.tier.returned + 1) % 2 ^ 32 ∧ t.tier.frames = s.tier.frames))) ∧
    (∀ id r cells, s.host.link.dlUp = true → mget s.tier.remotes id = some r → r.write = false → r.node = none → r.data = none →
      RunsTo (.hostReadCompletion id (some cells)) s
        { s with tier := { s.tier with remotes := mset s.tier.remotes id { r with data := some (answerBytes cells r.len) } } })

/-! ### The stacks (07_hbm.md) -/

/-- The stacks' commands and events (R199, R205 to R217, R224 to R230): a group's mode changes at a command; a repair takes a
spare; a loop-back runs out of mission and ends with its lanes; a read that fails is issued again, twice, and is then
uncorrectable; an error on command or address resets the writers; a partial entry leaves after FLUSH_NS. -/
def Obligations.StackCommands : Prop :=
  ∀ (s : State),
    (∀ (q : CmdRef) t, let u := s.begin q
      (Turn s q 0x0180 t → fld t.packet 16 4 + fld t.packet 20 4 ≤ 32512 → s.hbm.repairs = [] → s.readyStacks.length = 16 →
        Runs (.memGroupMode q) s (fun v =>
        (∀ g, fld t.packet 16 4 ≤ g → g < fld t.packet 16 4 + fld t.packet 20 4 → v.hbm.isDieLocal g = (fld t.packet 24 1 == 1)) ∧
        (∀ g, g < fld t.packet 16 4 ∨ fld t.packet 16 4 + fld t.packet 20 4 ≤ g → v.hbm.isDieLocal g = s.hbm.isDieLocal g) ∧
        v.findTaken q = none)) ∧
      (Turn s q 0x0181 t →
        let x := pprTarget (fld t.packet 16 1) (fld t.packet 17 1) (fld t.packet 18 1) (fld t.packet 19 1) (fld t.packet 20 1)
          (fld t.packet 22 2)
        ((s.stack (targetStack x)).state = .ready → 0 < s.sparesLeft x → RunsTo (.memPpr q) s
          (({ u with hbm := { u.hbm with repairs := u.hbm.repairs ++ [⟨some q, false, x, s.time.localNs⟩] } } : State).startTaken q)) ∧
        ((s.stack (targetStack x)).state ≠ .ready → RunsTo (.memPpr q) s (u.complete q 0x0181 0 0)) ∧
        ((s.stack (targetStack x)).state = .ready → s.sparesLeft x = 0 → RunsTo (.memPpr q) s (u.complete q 0x0182 0 0))) ∧
      (Turn s q 0x0182 t → s.hbm.loop = none →
        let n := fld t.packet 16 1
        let l : Loopback := ⟨q, n, fld t.packet 17 1, fld t.packet 18 1, BitVec.ofNat 64 (fld t.packet 24 8),
          s.time.localNs + 1000 * fld t.packet 20 4, (s.stack n).state⟩
        (s.outOfMission n = true → RunsTo (.memLoopback q) s
          (let v := u.setStack n { s.stack n with state := .loopback }
           ({ v with hbm := { v.hbm with loop := some l } } : State).startTaken q)) ∧
        (s.outOfMission n = false → RunsTo (.memLoopback q) s (u.completeBare q 0x0181)))) ∧
    (∀ x, RunsTo (.refreshInterval x) s s) ∧
    (s.alive = true →
      (∀ l failing, s.hbm.loop = some l → l.until_ ≤ s.time.localNs → Runs (.loopbackDurationExpiry failing) s (fun t =>
        t.hbm.loop = none ∧ (t.stack l.stack).state = l.before ∧ ((∀ i ∈ failing, 1536 ≤ i) → t.hbm.lbFail = []))) ∧
      (∀ x : HbmRead, let line := x.pa.toNat / 64
        let ctx := x.ctx.map (·.val)
        let mine := fun (r : ReIssue) => r.reader == x.reader.val && r.ctx == ctx && r.line == line
        (s.stack (s.hbm.locate (64 * line)).1).state = .ready → x.report.val ≠ 1 →
        (s.hbm.readFault x line = 0 → s.hbm.reissues.find? mine = none → RunsTo (.hbmReadResponse x) s s) ∧
        (s.hbm.readFault x line ≠ 0 → s.hbm.reissues.find? mine = none → RunsTo (.hbmReadResponse x) s
          (({ s with hbm := { s.hbm with
            reissues := s.hbm.reissues.filter (fun r => !mine r) ++ [⟨x.reader.val, ctx, line, 1⟩] } } : State).reissueStall x
              (s.hbm.locate (64 * line)).1 line true)) ∧
        (∀ r, s.hbm.readFault x line ≠ 0 → s.hbm.reissues.find? mine = some r → 2 ≤ r.attempts → RunsTo (.hbmReadResponse x) s
          ((({ s with hbm := { s.hbm with reissues := s.hbm.reissues.filter (fun r => !mine r) } } : State).reissueStall x
            (s.hbm.locate (64 * line)).1 line false).readLost x.reader.val ctx line (s.hbm.readFault x line)))) ∧
      (∀ (stack : Fin 16) (pc : Fin 32), s.hbm.recent = [] → s.hbm.reissues = [] →
        RunsTo (.caParityReport stack pc) s (s.raise 0x0604 (srcStack stack.val) none [stack.val, pc.val, 0, 0])) ∧
      (∀ (stack : Fin 16) (pc : Fin 32) (c : Ctx) at_, (at_, 32 * stack.val + pc.val, c.val) ∈ s.hbm.recent →
        s.time.localNs ≤ at_ + 1000 → mhas s.host.ctxs c.val = true → Runs (.caParityReport stack pc) s (fun t => t.inL0 c.val = true)) ∧
      (∀ line e, s.hbm.wc.find? (fun e => e.line == line) = some e → e.since + s.flushNs ≤ s.time.localNs →
        s.hbm.stacksReady [(64 * line, 64)] = true → RunsTo (.wcFlushTimeout line) s
          (({ s with hbm := { s.hbm with wc := s.hbm.wc.filter (fun x => x.line != line) } } : State).settleWc s.hbm.wc)) ∧
      (∀ hard ok r, s.hbm.repairs.find? (fun r => r.hard == hard) = some r → Runs (.postPackageRepairComplete hard ok) s (fun t =>
        t.hbm.repairs = s.hbm.repairs.erase r ∧ t.hbm.mem = s.hbm.mem ∧
        (let n := targetStack r.target
         let spares := fun (u : State) (m : Stack → Map Nat) => mgetD (m (u.stack n)) (targetGroup r.target) 0
         spares t Stack.sparesUsed = spares s Stack.sparesUsed + (if hard then 0 else 1) ∧
         spares t Stack.hardUsed = spares s Stack.hardUsed + (if hard then 1 else 0)) ∧
        (hard = true → t.hbm.hpprState = if ok then 3 else 4))))

/-! ### Conservators (10_conservators.md) -/

/-- The rows that start a conservator command: row, opcode. -/
def Sys2Proof.conservatorRows (q : CmdRef) : List (Instr × Nat) :=
  [(.updApply q, 0x0500), (.updNorm q, 0x0501), (.recInit q, 0x0502), (.recExport q, 0x0503), (.recImport q, 0x0504), (.consSweep q, 0x0505)]

/-- A shard's records and working copy written whole (R322): every place that the command writes can be written, and the writes. -/
def Sys2Proof.shardWrites (s : State) (ctx : Nat) (d : Shard) (recs : List (List Byte)) (sc : W32 × W32) : State × Got Unit :=
  let recWrites := (recs.zipIdx).map (fun r => (d.recs + 256 * r.2, r.1))
  let wkWrites := workingWrites d (working d sc.1 sc.2 (recs.flatMap (recordWide d))) (recs.map (fun _ => true))
  State.andThen (s.allWritable ctx (recWrites.map (fun w => (w.1, 256, .conservator)) ++
      wkWrites.map (fun w => (w.1, w.2.length, .other false)) ++ [(d.hdr, 64, .other false), (d.commit, 64, .conservator)]))
    (fun s _ => State.andThen (s.writeAll ctx .conservator recWrites) (fun s _ => s.writeAll ctx (.other false) wkWrites))

/-- The records of a shard, and what an update makes of those that are at its step (R305, R309). -/
def Sys2Proof.updated (d : Shard) (t : Taken) (i : UpdInputs) (k : Int) (c : W32) : List (List Byte) :=
  let step := fld t.packet 16 4
  let grads := gradValues d i.grads
  ((recordsOf i.recs d.count).zipIdx).map (fun r =>
    if recordStand d step r.1 ≠ 1 then r.1
    else if (skipWords t i.health).any (fun n => n != 0) then recordHeader d ((step + 1) % 2 ^ 32) true false ++ bsub r.1 16 240
    else recordHeader d ((step + 1) % 2 ^ 32) false (F32.lt c F32.one) ++
      recordBody d (updateRecord d (updConst d i.sched step k) c r.1 ((grads.drop (d.params * r.2)).take d.params)))

/-- A conservator command that runs in `s` with its descriptor `d`: wherever the accesses of its work are answered and its inputs
pass the checks of R303 to R322, `goal` holds of what its run leaves to its completion, and of the memory it leaves. -/
def Sys2Proof.consRun (s : State) (x : ConsCmd) (t : Taken) (d : Shard) (goal : (ConsEnd → State → Prop) → Prop) : Prop :=
  let ctx := x.q.ctx.val
  let o : Accessor := .other false
  let par := fun (a n : Nat) => fld t.packet a n
  let step := par 16 4
  let word := fun (bits : List Byte) (a : Nat) => BitVec.ofNat 32 (fld bits a 4)
  -- UPD_APPLY
  (t.opcode = 0x0500 → ∀ a i k c b, s.updInputs ctx d t = (a, .ok i) → d.sched % 16 = 0 → scheduleValid i.sched = true →
    gscaleK i.gscale step = some k → clipFactor d ((List.range (par 60 4)).map (fun j => word i.clip (4 * j))) = some c →
    (∀ j, j < par 56 4 → fld i.health (16 * j) 4 = step) →
    let next := (step + 1) % 2 ^ 32
    let stands := (recordsOf i.recs d.count).map (recordStand d step)
    let skip := (skipWords t i.health).any (fun n => n != 0)
    let n := (stands.filter (fun v => v == 1)).length
    let done := tagOf i.commit == some next && n == 0
    let recs := updated d t i k c
    let wide := recs.flatMap (recordWide d)
    let amax := if skip || done then word i.header 16 else amaxOf wide
    let sc := if skip || done then (word i.header 8, word i.header 12) else nextScale d (word i.header 16) (word i.header 8) (word i.header 12)
    let recWrites := ((recs.zipIdx).filter (fun r => stands.getD r.2 0 == 1)).map (fun r => (d.recs + 256 * r.2, r.1))
    let wkWrites := workingWrites d (working d sc.1 sc.2 wide)
      (stands.map (fun v => !skip && (v == 1 || (v == 2 && tagOf i.commit != some next))))
    failing d [step, next] (recordsOf i.recs d.count) = [] →
    State.andThen (a.allWritable ctx (recWrites.map (fun w => (w.1, 256, .conservator)) ++
        wkWrites.map (fun w => (w.1, w.2.length, o)) ++ [(d.lstat, 64, o), (d.hdr, 64, o), (d.commit, 64, .conservator)]))
      (fun s _ => State.andThen (s.writeAll ctx .conservator recWrites) (fun s _ => s.writeAll ctx o wkWrites)) = (b, .ok ()) →
    goal (fun e _ => e.status = stOk ∧ e.r0 = n ∧ e.r1 = (stands.filter (fun v => v == 2)).length + 2 ^ 32 * 0xFFFFFFFF ∧
      e.committed = !done ∧ e.swept = none ∧ ∃ stats, e.writes = (d.lstat, stats) ::
        (if done then [] else [(d.hdr, shardHeader d next sc.1 sc.2 amax), (d.commit, commitLine d next)]))) ∧
  -- UPD_NORM
  (t.opcode = 0x0501 → ∀ a b c g grads k ps, s.readVa ctx (par 40 8) 64 o false 0 = (a, .ok g) →
    a.readVa ctx (par 32 8) d.gradBytes o false 0 = (b, .ok grads) → b.parts ctx (par 48 8) 4 true o 0 = (c, .ok ps) →
    gscaleK g step = some k →
    goal (fun e u =>
      let n := sumSquares ((gradValues d grads).map (fun z => F32.mul z (gradFactor d k)))
      e = ⟨stOk, n.toNat, 0, [(par 48 8, leBytes 4 n.toNat)], [], false, none⟩ ∧ u.hbm = c.hbm)) ∧
  -- REC_INIT
  (t.opcode = 0x0502 → ∀ a b c vals h, s.readPieces (.cons x.q 0) 0 ctx o false 0 (chunks (par 32 8) (4 * d.nparam)) = (a, .ok vals) →
    a.readVa ctx d.hdr 64 o false 0 = (b, .ok h) →
    let v := (List.range d.nparam).map (fun j => word vals (4 * j))
    let recs := (List.range d.count).map (fun r => freshRecord d step ((v.drop (d.params * r)).take d.params))
    let amax := (finiteOf v).foldl (fun m v => F32.maxNum m (F32.abs v)) 0
    let sc := nextScale d amax (word h 8) (word h 12)
    shardWrites b ctx d recs sc = (c, .ok ()) →
    goal (fun e u => u.hbm = c.hbm ∧
      e = ⟨stOk, d.count, 0, [(d.hdr, shardHeader d step sc.1 sc.2 amax), (d.commit, commitLine d step)], [], true, none⟩)) ∧
  -- REC_EXPORT
  (t.opcode = 0x0503 → ∀ a b c, s.readShard ctx d = (a, .ok b) → tagOf (bsub b 0 64) = some step → tagOf (bsub b 64 64) = some step →
    failing d [step] (recordsOf (b.drop 128) d.count) = [] →
    a.writePieces (.cons x.q x.unit) 0 ctx o 0 (chunks (par 32 8) (128 + 256 * d.count)) b = (c, .ok ()) →
    goal (fun e u => u.hbm = c.hbm ∧ e = ⟨stOk, 128 + 256 * d.count, 0, [], [], false, none⟩)) ∧
  -- REC_IMPORT
  (t.opcode = 0x0504 → ∀ a b c, s.readPieces (.cons x.q 0) 0 ctx o false 0 (chunks (par 32 8) (128 + 256 * d.count)) = (a, .ok b) →
    tagOf (bsub b 0 64) = some step → tagOf (bsub b 64 64) = some step → failing d [step] (recordsOf (b.drop 128) d.count) = [] →
    let recs := (recordsOf (b.drop 128) d.count).map (fun r =>
      bsub r 0 11 ++ leBytes 1 (fld r 11 1 % 4 + 4 * bit01 d.shadow) ++ leBytes 2 d.owner ++ bsub r 14 242)
    shardWrites a ctx d recs (word b 72, word b 76) = (c, .ok ()) →
    goal (fun e u => u.hbm = c.hbm ∧
      e = ⟨stOk, d.count, 0, [(d.hdr, bsub b 64 64), (d.commit, commitLine d step)], [], true, none⟩)) ∧
  -- CONS_SWEEP of a sound shard
  (t.opcode = 0x0505 → ∀ a b p w y side z ps,
    let derive_ := (par 20 4).testBit 0
    let wk := working d (word b 72) (word b 76) ((recordsOf (b.drop 128) d.count).flatMap (recordWide d))
    s.readShard ctx d = (a, .ok b) → tagOf (bsub b 0 64) = some step → tagOf (bsub b 64 64) = some step →
    failing d [step] (recordsOf (b.drop 128) d.count) = [] →
    (if derive_ then a.readVa ctx d.wc d.planeBytes o false 0 else (a, .ok [])) = (p, .ok w) →
    (if derive_ && d.isSb then p.readVa ctx d.side d.sideBytes o false 0 else (p, .ok [])) = (y, .ok side) →
    y.parts ctx (par 32 8) 64 true o 0 = (z, .ok ps) →
    (derive_ = true → planeCodes d.fmt.bits w d.nparam = wk.codes.map (·.1)) →
    (derive_ = true → d.isSb = true → planeCodes 16 side (d.nparam / 32) = wk.side) →
    goal (fun e u => u.hbm = z.hbm ∧ ∃ n ≤ d.nparam,
      e = ⟨stOk, 0, 0, [(par 32 8, leBytes 8 n ++ leBytes 8 0 ++ leBytes 8 (2 ^ 64 - 1) ++ leBytes 8 0 ++ leBytes 8 0 ++
        leBytes 4 step ++ leBytes 4 step ++ List.replicate 16 0)], [], false, some 0⟩))

/-- The conservators' commands (R289, R291, R298, R310, R316 to R323): a descriptor that is not valid ends the command with 0x0301;
a valid one enters the list under its records, waits while an earlier command holds one of them, and runs otherwise; what has run is
written, recorded and signalled at its completion. -/
def Obligations.ConservatorCommands : Prop :=
  ∀ (s : State) (q : CmdRef) t,
    let ctx := q.ctx.val
    let held := fun (u : State) (x : ConsCmd) =>
      ∃ y ∈ u.cons.cmds.takeWhile (fun c => c.q != q), y.q.ctx = q.ctx ∧ y.lo < x.hi ∧ x.lo < y.hi
    (∀ row ∈ conservatorRows q, Turn s q row.2 t → ∀ v b,
      (s.begin q).readVa ctx (fld t.packet 24 8) 128 (.other false) false 0 = (v, .ok b) →
      let d := Shard.of b
      let x : ConsCmd := ⟨q, d.recs, if row.2 = 0x0501 then d.recs else d.recs + 256 * d.count, (v.startTaken q).consOf ctx d.recs, none⟩
      let w : State := { v.startTaken q with cons := { v.cons with cmds := v.cons.cmds ++ [x] } }
      (Shard.valid b (fld t.packet 16 4) = false → RunsTo row.1 s (v.refuseCons q 0x0301)) ∧
      (Shard.valid b (fld t.packet 16 4) = true →
        (v.shardPages ctx d = false → RunsTo row.1 s ((v.walksMet ctx d.stretches).refuseCons q 0x0301)) ∧
        (v.shardPages ctx d = true → s.consCmd? q = none →
          (held w x → RunsTo row.1 s w) ∧
          (¬ held w x → ∀ r, w.readVa ctx (fld t.packet 24 8) 128 (.other false) false 0 = (r, .ok b) → r.shardPages ctx d = true →
            consRun (r.stallOff (.cmd q)) x t d (fun made =>
              Runs row.1 s (fun u => ∃ e, u.consCmd? q = some { x with ran := some e } ∧ made e u)))))) ∧
    (s.alive = true → s.inL0 ctx = false → s.findTaken q = some t → ∀ x, s.consCmd? q = some x →
      (∀ e, x.ran = some e → RunsTo (.consCommandStart q) s s) ∧
      (x.ran = none → held s x → RunsTo (.consCommandStart q) s s) ∧
      (x.ran = none → ¬ held s x → 0x0500 ≤ t.opcode → t.opcode ≤ 0x0505 → ∀ r b,
        s.readVa ctx (fld t.packet 24 8) 128 (.other false) false 0 = (r, .ok b) → Shard.valid b (fld t.packet 16 4) = true →
        r.shardPages ctx (Shard.of b) = true → consRun (r.stallOff (.cmd q)) x t (Shard.of b) (fun made =>
          Runs (.consCommandStart q) s (fun u => ∃ e, u.consCmd? q = some { x with ran := some e } ∧ made e u))) ∧
      (∀ e v row, x.ran = some e → (t.opcode = 0x0500 ∧ row = .updateCommit q ∨ (0x0501 ≤ t.opcode ∧ t.opcode ≤ 0x0505) ∧
          row = .conservatorCommandComplete q) →
        s.writeAll ctx .conservator e.writes = (v, .ok ()) → v.findTaken q = some t →
        let w : State := { v with cons := { v.cons with
          committed := if e.committed then (v.cons.committed + 1) % 2 ^ 32 else v.cons.committed
          sweeps := if e.swept.isSome then (v.cons.sweeps + 1) % 2 ^ 32 else v.cons.sweeps
          mismatches := min (2 ^ 32 - 1) (v.cons.mismatches + e.swept.getD 0) } }
        let w := if e.status = stOk ∧ (t.opcode = 0x0500 ∨ t.opcode = 0x0502 ∨ t.opcode = 0x0504) then w.consProgress x else w
        let r := e.events.foldl (fun s y => s.raise y.1 (srcCons x.unit) (some ctx) y.2) (w.endCons q e.status e.r0 e.r1)
        let signal := fun (at_ : Nat) => r.completionSignal ctx (fld t.packet at_ 4) (BitVec.ofNat 64 (fld t.packet (at_ + 8) 8))
          (srcCons x.unit)
        (e.status ≠ stOk ∨ 0x0502 ≤ t.opcode ∨ (t.opcode = 0x0500 ∧ (fld t.packet 76 2).testBit 0 = false) ∨
          (t.opcode = 0x0501 ∧ (fld t.packet 60 2).testBit 0 = false) → RunsTo row s r) ∧
        (e.status = stOk → t.opcode = 0x0500 → (fld t.packet 76 2).testBit 0 = true → RunsTo row s (signal 72)) ∧
        (e.status = stOk → t.opcode = 0x0501 → (fld t.packet 60 2).testBit 0 = true → RunsTo row s (signal 56))))

/-! ### Collectives (12_collectives.md) -/

/-- The next COLL block of a kind that a port delivers, with no reserved bit set, and the collective that it names, which has not
passed its END_DEADLINE. -/
structure Sys2Proof.CollArrives (s : State) (p kind : Nat) (b : InBlock) (c : Coll) : Prop where
  alive : s.alive = true
  first : firstOfKind kind (s.port p).inbox [] = some b
  reserved : s.collReserved b.bytes = false
  names : s.collOf b.bytes = some (c, false)
  inTime : s.timePassed c.endDeadline = false

/-- The collectives' commands (R354 to R359, R370, R374 to R378, R381, R382): a start joins its queue and begins when it is first
and its parameters hold; it ends when everything is sent, received and written, at a cancel, or at its last deadline. -/
def Obligations.CollectiveCommands : Prop :=
  ∀ (s : State) (q : CmdRef) t,
    (Turn s q 0x0400 t → s.coll.queued = [] → (fld t.packet 40 2).testBit 0 = false → RunsTo (.collStart q) s
      (let u := (s.begin q).startTaken q
       { u with coll := { u.coll with queued := [⟨q, false⟩] } })) ∧
    (Turn s q 0x0401 t →
      let mine := fun (c : Coll) => c.q.ctx.val == q.ctx.val && c.d.tag == fld t.packet 16 4
      let u := s.begin q
      let u : State := { u with coll := { u.coll with windows := u.coll.windows.filter (fun w => !mine w.coll)
                                                      early := u.coll.early.filter (fun b => !ofTag q.ctx.val (fld t.packet 16 4) b) } }
      (s.coll.running.find? mine = none → RunsTo (.collCancel q) s (u.complete q stOk 0 0)) ∧
      (∀ c, s.coll.running.find? mine = some c → RunsTo (.collCancel q) s ((u.endColl c 0x0404 0xFFFFFFFF).complete q stOk 1 0))) ∧
    (s.alive = true → s.inL0 q.ctx.val = false →
      (∀ b ranks inner v, s.findTaken q = some t → s.coll.queued = [⟨q, false⟩] → (fld t.packet 40 2).testBit 0 = false →
        (s.coll.running.filter (fun x => x.engine == fld t.packet 20 1)).length < 256 →
        s.collRead q.ctx.val (fld t.packet 24 8) s.guy.node = (v, .ok (b, some (.ok (ranks, inner)), [])) → (CollD.of b).op ≠ 7 →
        let g : CollG := ⟨CollD.of b, ranks.length, inner, ranks.idxOf s.guy.node⟩
        v.coll.running.any (fun x => x.ctx == q.ctx.val && x.d.tag == (CollD.of b).tag) = false →
        g.ok (g.flows.filter (fun f => !f.out)).length = true → v.collPages q.ctx.val g 0 = (true, false) →
        RunsTo (.collectiveStart q) s (((v.beginColl q t g b ranks
          (permutePlan [] ((CollD.of b).scratchSize / (CollD.of b).unit))).collEarly q).collPegs q.ctx.val q.ring.val 1)) ∧
      (∀ c, s.coll? q = some c →
        (∀ v b, c.d.tagged = true → c.tagOk = false → c.lastTag + 1000 ≤ s.time.localNs →
          s.readVa c.q.ctx.val c.d.tagVa 64 (.other false) false c.endDeadline = (v, .ok b) → fld b 0 4 = c.step →
          fld b 4 4 + c.step = 2 ^ 32 - 1 → RunsTo (.collTagReread q) s
            ((v.stallOff (.cmd c.q)).collWork { c with tagOk := true, header := b, lastTag := (v.stallOff (.cmd c.q)).time.localNs })) ∧
        (c.d.fmode ≠ 0 → c.dead = false → s.timePassed c.deadline = true →
          let owing := (c.flows.filter (fun f => !f.out && f.stage == 0 && decide (f.pos < f.chunks.length))).map (·.peer)
          RunsTo (.collDeadlineExpiry q) s (s.collWork { c with dead := true, late := sortBy id owing })) ∧
        (s.timePassed c.endDeadline = true →
          let a := c.awaited.getD (0xFFFFFFFF, c.stages.foldl max 0)
          RunsTo (.collEndDeadlineExpiry q) s ((s.raise 0x0904 (srcColl c.engine) (some c.q.ctx.val)
            [c.d.tag, a.2, a.1, c.ranks.getD a.1 0xFFFF]).endColl c 0x0403 a.1)) ∧
        (∀ d, (s.collWork c).coll? q = some d → d.finished = true → d.missing = 0 → d.d.fmode = 0 →
          (s.collWork c).findTaken q = some t →
          ((fld t.packet 40 2).testBit 1 = false → RunsTo (.collectiveComplete q) s ((s.collWork c).endColl d stOk 0xFFFFFFFF)) ∧
          ((fld t.packet 40 2).testBit 1 = true → RunsTo (.collectiveComplete q) s
            (((s.collWork c).endColl d stOk 0xFFFFFFFF).completionSignal d.q.ctx.val (fld t.packet 36 4)
              (BitVec.ofNat 64 (fld t.packet 56 8)) (srcColl d.engine)))) ∧
        (∀ d, (s.collWork c).coll? q = some d → d.finished = false → RunsTo (.collectiveComplete q) s (s.collWork c)))) ∧
    (s.alive = true → ∀ (ctx : Ctx) (tag : W32), RunsTo (.lateWindowExpiry ctx tag) s { s with coll := { s.coll with
      windows := s.coll.windows.filter (fun w =>
        !(w.coll.q.ctx.val == ctx.val && w.coll.d.tag == tag.toNat && decide (w.closes ≤ s.time.ns))) } })

/-- The blocks of a collective (R361, R362, R370, R373): DATA of the step and chunk expected joins what has arrived, READY adds
credits, SUMMARY and HEADER wait for their use. A DATA or HEADER block of no collective is stray, which the engine of the port's
group reports; a READY or SUMMARY block waits for its collective to start, which is the model's reading (log entry 101). -/
def Obligations.CollectiveBlocks : Prop :=
  ∀ (s : State) (p : Port) (b : InBlock),
    (∀ row ∈ [(Instr.collDataReceived p, 0), (.collHeaderReceived p, 3)],
      s.alive = true → firstOfKind row.2 (s.port p.val).inbox [] = some b → s.collOf b.bytes = none →
      RunsTo row.1 s ((s.stray b.bytes 1 (p.val / 4)).delivered p.val b)) ∧
    (∀ row ∈ [(Instr.collReadyReceived p, 1), (.collSummaryReceived p, 2)],
      s.alive = true → firstOfKind row.2 (s.port p.val).inbox [] = some b → s.collOf b.bytes = none →
      RunsTo row.1 s ((if mhas s.host.ctxs (blkCtx b.bytes) then
        ({ s with coll := { s.coll with early := s.coll.early ++ [b.bytes] } } : State) else s.stray b.bytes 1 (p.val / 4)).delivered p.val b)) ∧
    (∀ c k f, CollArrives s p.val 0 b c → c.d.raw = true → blkArg b.bytes / 2 ^ 32 = c.step → c.late = [] →
      s.timePassed c.deadline = false →
      let i := blkArg b.bytes % 2 ^ 32
      let rank := c.ranks.idxOf (blkSrc b.bytes)
      let stage := bits (blkAddr b.bytes) 35 32
      c.flows.findIdx? (fun f => !f.out && f.stage == stage && f.stripe == bits (blkAddr b.bytes) 39 36 && f.peer == rank) = some k →
      c.flows[k]? = some f → f.chunks[f.pos]? = some i → f.pos < f.credit → mget c.parts (partKey stage rank i) = none →
      let w : ChunkWire := ⟨.empty, F32.one, bsub (blkData b.bytes) 0 (if c.d.wire = 0 then 2048 else c.g.payloadLen i)⟩
      c.g.payloadLen i ≤ w.payload.length → c.stages.contains stage = true → s.takesWrites c.q.ctx.val (c.landing f i) = true →
      RunsTo (.collDataReceived p) s ((s.collWork { c with
        flows := c.flows.set k { f with pos := f.pos + 1 }
        parts := mset c.parts (partKey stage rank i) w }).delivered p.val b)) ∧
    (∀ c k f, CollArrives s p.val 1 b c →
      c.flows.findIdx? (fun f => f.out && f.stage == bits (blkAddr b.bytes) 35 32 && f.stripe == bits (blkAddr b.bytes) 39 36 &&
        f.peer == c.ranks.idxOf (blkSrc b.bytes)) = some k → c.flows[k]? = some f →
      RunsTo (.collReadyReceived p) s
        ((s.collWork { c with flows := c.flows.set k { f with credit := max f.credit (blkArg b.bytes % 2 ^ 32) } }).delivered p.val b)) ∧
    (∀ c, CollArrives s p.val 2 b c → fld (blkData b.bytes) 0 4 = c.step → bits (blkAddr b.bytes) 35 32 = 0 →
      RunsTo (.collSummaryReceived p) s ((s.collWork { c with
        sumIn := mset c.sumIn (c.ranks.idxOf (blkSrc b.bytes)) (HealthW.of (blkData b.bytes)) }).delivered p.val b)) ∧
    (∀ c, CollArrives s p.val 3 b c → blkArg b.bytes / 2 ^ 32 = c.step →
      RunsTo (.collHeaderReceived p) s ((s.collWork { c with
        headersIn := mset c.headersIn (c.ranks.idxOf (blkSrc b.bytes)) (bsub (blkData b.bytes) 0 64) }).delivered p.val b))

/-! ### Guylines (11_guylines.md) -/

/-- Links and ports (R332 to R335, R341, R342, R348, R349, R351): a flit that fails its CRC is counted and answered with a NAK,
one out of order too; a replay sends every unacknowledged flit again; a port trains, fails at its third attempt, and comes up
beside the neighbour that the wiring names; the port commands and the timers of connections act as named. -/
def Obligations.LinksAndPorts : Prop :=
  ∀ (s : State) (p : Port), s.alive = true →
    let x := s.port p.val
    (x.mode = 1 → x.usable = true → ∀ f, ∀ row ∈ [(Instr.idleFlitReceived p f, 0, id), (.flitReceived p f, 1, fun s => s.flitData p.val f),
        (.nakFlitReceived p f, 2, fun s => if (s.port p.val).unacked = [] then s else s.replay p.val),
        (.lpiFlitReceived p f, 3, fun s => s.setPort p.val { s.port p.val with
          lpiHeard := true, state := if (s.port p.val).lpiSent then .lpi else (s.port p.val).state })],
      (flitOk f = true → flitType f = row.2.1 → RunsTo row.1 s ((row.2.2 (s.flitHeader p.val f)).release.pump p.val)) ∧
      (flitOk f = false → RunsTo row.1 s (((s.setPort p.val { x with crcErrors := min (2 ^ 16 - 1) (x.crcErrors + 1) }).owesNak p.val).pump
        p.val))) ∧
    (∀ f, bits (fld f 0 2) 11 0 ≠ x.rxNext → s.flitData p.val f = s.setPort p.val { x with nakDue := x.nakDue || !x.nakSent, nakSent := true }) ∧
    (x.mode = 1 → x.usable = true → x.unacked ≠ [] → x.advanceAt + s.replayNs p.val ≤ s.time.localNs → x.replayRuns < 15 →
      RunsTo (.replayTimeout p) s ((s.setPort p.val { x with
        resent := 0, replays := min (2 ^ 32 - 1) (x.replays + 1), replayRuns := x.replayRuns + 1, advanceAt := s.time.localNs }).pump p.val)) ∧
    (x.state = .down → x.mode = 1 → RunsTo (.signalDetected p) s (s.setPort p.val { x with state := .training })) ∧
    (x.state = .training → ∀ e : TrainEnd,
      (e.result = .abandoned → RunsTo (.trainingAttemptEnd p e) s (s.setPort p.val { x with state := .down })) ∧
      (e.result = .failed → RunsTo (.trainingAttemptEnd p e) s (s.setPort p.val { x with
        fails := min 15 (x.fails + 1), state := if 2 ≤ x.fails then .failed else .training })) ∧
      (e.result = .up → x.mode = 2 → s.macOk = false → RunsTo (.trainingAttemptEnd p e) s (s.setPort p.val { x with state := .down })) ∧
      (e.result = .up → x.mode = 2 → s.macOk = true → x.trained = false → RunsTo (.trainingAttemptEnd p e) s
        ((((s.setPort p.val { x with
          state := .up, fails := 0, trained := true, rtt := e.rttNs.toNat, neighbour := 0xFFFF, nbSlot := 0, nbPort := 0
          replayRuns := 0, advanceAt := s.time.localNs }).blocksAcked []).raise 0x0801 (srcPort p.val) none
            [p.val, 2, 0xFFFF, e.rttNs.toNat]).release.pump p.val)) ∧
      (e.result = .up → x.mode = 1 → wiring s.guy.boardSize s.guy.slot p.val = some (e.slot.toNat, e.port.toNat) →
        e.boardSize.toNat = s.guy.boardSize → x.trained = false → RunsTo (.trainingAttemptEnd p e) s
          (let seen := x.unacked.takeWhile (fun f => f.seq != e.expects.toNat)
           (((s.setPort p.val { x with
             state := .up, fails := 0, trained := true, rtt := e.rttNs.toNat, neighbour := e.neighbour.toNat
             nbSlot := e.slot.toNat, nbPort := e.port.toNat, unacked := x.unacked.drop seen.length, resent := 0
             replayRuns := 0, advanceAt := s.time.localNs }).blocksAcked (seen.flatMap (·.ends))).raise 0x0801 (srcPort p.val) none
               [p.val, 1, e.neighbour.toNat, e.rttNs.toNat]).release.pump p.val)) ∧
      (e.result = .up → x.mode = 1 → wiring s.guy.boardSize s.guy.slot p.val ≠ some (e.slot.toNat, e.port.toNat) →
        Runs (.trainingAttemptEnd p e) s (fun t => (t.port p.val).state = .failed))) ∧
    (x.usable = true → Runs (.linkLoss p) s (fun t => (t.port p.val).state = .down ∧ (t.port p.val).unacked = x.unacked ∧
      (t.port p.val).rxNext = x.rxNext ∧ t.hbm = s.hbm)) ∧
    (∀ (node : BitVec 16) (tc : Fin 8), let key := 8 * node.toNat + tc.val
      (∀ c, mget s.guy.receivers key = some c →
        (0 < c.due → c.dueSince + s.ackNs ≤ s.time.localNs → RunsTo (.e2eAckTimer node tc) s (s.sendE2eAck c.port node.toNat tc.val)) ∧
        (c.idleSince + 1000000 * s.idleMs ≤ s.time.localNs → RunsTo (.connectionIdleExpiry false node tc) s
          ({ s with guy := { s.guy with receivers := mdel s.guy.receivers key } } : State).takeHeld)) ∧
      (∀ c, mget s.guy.senders key = some c →
        (c.unacked ≠ [] → c.advanceAt + c.rto ≤ s.time.localNs → RunsTo (.e2eResendTimeout node tc) s (s.resend node.toNat tc.val false)) ∧
        (c.unacked = [] → c.idleSince + 2 * (1000000 * s.idleMs) ≤ s.time.localNs → RunsTo (.connectionIdleExpiry true node tc) s
          ({ s with guy := { s.guy with senders := mdel s.guy.senders key } } : State).release))) ∧
    (∀ (q : CmdRef) t, let u := s.begin q
      (Turn s q 0x0760 t → ∀ v b, u.readVa q.ctx.val (fld t.packet 16 8) (16 * fld t.packet 24 4) (.other false) false 0 = (v, .ok b) →
        let items := (List.range (fld t.packet 24 4)).map (fun i => bsub b (16 * i) 16)
        (∀ i ∈ items, routeItemBad i = false) → RunsTo (.glRouteWrite q) s
          (({ v with guy := { v.guy with routes := items.foldl (fun m x =>
            mset m (fld x 0 2) (BitVec.ofNat 32 (fld x 8 4), BitVec.ofNat 32 (fld x 12 4))) v.guy.routes } } : State).release.complete
            q stOk (fld t.packet 24 4) 0)) ∧
      (Turn s q 0x0761 t → fld t.packet 16 1 = p.val → (x.mode = 1 ∨ x.mode = 2) →
        (fld t.packet 17 1 = 1 → x.state = .failed → RunsTo (.glPortRetrain q) s
          ((u.setPort p.val { x with fails := 0, state := .down }).complete q stOk 1 0)) ∧
        (fld t.packet 17 1 = 2 → x.usable = false → RunsTo (.glPortDisable q) s
          ((u.setPort p.val { x with state := .disabled }).complete q stOk 0 0)) ∧
        (fld t.packet 17 1 = 3 → x.state = .disabled → RunsTo (.glPortEnable q) s
          ((u.setPort p.val { x with fails := 0, state := .down }).complete q stOk 1 0))))

/-- The blocks of peers and connections (R249, R329, R330, R337, R341, R342): a request inside the window is performed and
answered; an answer settles the access that asked for it; an acknowledgement frees what it covers, a NAK sends it again; a frame
to this node gives its blocks. -/
def Obligations.PeerBlocks : Prop :=
  ∀ (s : State) (p : Port) (b : InBlock),
    let ctx := blkCtx b.bytes
    (Arrives s p.val 1 b → ∀ va v, exportWindow s ctx (blkAddr b.bytes) (blkData b.bytes).length true = .ok va →
      s.writeVa ctx va (blkData b.bytes) (.other false) 0 = (v, .ok ()) →
      RunsTo (.writeBlockReceived p) s ((v.peerAnswer p.val b.bytes 2 0 []).delivered p.val b)) ∧
    (Arrives s p.val 3 b → ∀ va v d, exportWindow s ctx (blkAddr b.bytes) (bits (blkArg b.bytes) 28 16) false = .ok va →
      s.readVa ctx va (bits (blkArg b.bytes) 28 16) (.other false) false 0 = (v, .ok d) →
      RunsTo (.readReqReceived p) s ((v.peerAnswer p.val b.bytes 4 0 d).delivered p.val b)) ∧
    (∀ ty row, (ty = 1 ∧ row = Instr.writeBlockReceived p ∨ ty = 3 ∧ row = .readReqReceived p) → Arrives s p.val ty b →
      ∀ c, exportWindow s ctx (blkAddr b.bytes) (if ty = 1 then (blkData b.bytes).length else bits (blkArg b.bytes) 28 16) (ty == 1) = .error c →
      RunsTo row s (((s.peerReject p.val b.bytes c).peerAnswer p.val b.bytes (ty + 1) c []).delivered p.val b)) ∧
    (mhas s.host.ctxs ctx = true → bits (blkArg b.bytes) 19 16 = 0 →
      (Arrives s p.val 2 b → ∀ k r, s.answered b.bytes true = some (k, r) →
        ((∀ e, r.owner ≠ .epi e) → RunsTo (.writeAckReceived p) s
          (({ s with tier := { s.tier with remotes := mset s.tier.remotes k { r with acked := true } } } : State).release.delivered p.val b)) ∧
        (∀ e, r.owner = .epi e → RunsTo (.writeAckReceived p) s
          (({ s with tier := { s.tier with remotes := mdel s.tier.remotes k } } : State).release.delivered p.val b))) ∧
      (Arrives s p.val 4 b → ∀ k r, s.answered b.bytes false = some (k, r) → RunsTo (.readRespReceived p) s
        (let d := bsub (blkData b.bytes) 0 r.len
         ({ s with tier := { s.tier with remotes := mset s.tier.remotes k { r with data := some d } } } : State).delivered p.val b))) ∧
    (Arrives s p.val 8 b → ∀ c u rest, let key := 8 * blkSrc b.bytes + blkArg b.bytes % 8
      mget s.guy.senders key = some c → c.unacked = u :: rest → blkSeq b.bytes = u.seq → u.seq < 2 ^ 32 →
      (∀ y ∈ rest, (u.seq + 2 ^ 32 - y.seq) % 2 ^ 32 ≥ 2 ^ 31) → RunsTo (.e2eAckReceived p) s
        (let c' : Sender := { c with unacked := rest, rto := 1000 * s.rtoUs, advanceAt := s.time.localNs, idleSince := s.time.localNs }
         ((({ s with guy := { s.guy with senders := mset s.guy.senders key c' } } : State).blocksAcked [u.id]).release).delivered p.val b)) ∧
    (Arrives s p.val 9 b → RunsTo (.e2eNakReceived p) s
      ((s.resend (blkSrc b.bytes) (blkArg b.bytes % 8) ((blkArg b.bytes).testBit 3)).delivered p.val b)) ∧
    (∀ body, s.alive = true → (s.port p.val).mode = 2 → (s.port p.val).usable = true → s.etherType < 2 ^ 16 → s.etherType ≠ 0x8100 →
      let head := s.mac s.guy.node ++ s.mac 0 ++ (leBytes 2 s.etherType).reverse ++ body
      RunsTo (.frameReceived p (head ++ leBytes 4 (crc32 head).toNat)) s
        (((cutBlocks 256 body).1.foldl (fun s b => s.gotBlock p.val (blkCls b) b) s).pump p.val))

/-! ### Resets and self-test (15_recovery_and_test.md) -/

/-- The resets (R437 to R450, R466): an expired watchdog, a lost heartbeat, a unit that does not acknowledge, a result of BIST,
and the two commands start and end the levels; a second L2 of a die within 60 s is an L3, a second L3 within 600 s leaves the
Askax not ready. -/
def Obligations.ResetLevels : Prop :=
  ∀ (s : State), s.alive = true →
    (∀ (c : Ctx) x, mget s.host.ctxs c.val = some x → s.inL0 c.val = false → s.rst.frozen = none →
      let n := (s.host.taken.filter (fun t => t.q.ctx == c)).length
      let last := mgetD s.rst.progress c.val 0
      n ≠ 0 → c.val ≠ 0 → last + x.window ≤ s.time.localNs → RunsTo (.watchdogExpiry c) s
        ((s.raise 0x0C01 srcRst (some c.val) [c.val, s.time.ns - (s.time.localNs - last), x.window, n]).startL0 c.val 1)) ∧
    (∀ (c : Ctx) e, mget s.rst.l0 c.val = some e → e.waits = [] → RunsTo (.quiesceComplete c) s (s.finishL0 c.val)) ∧
    (∀ (c : Ctx) u (core : Fin 84) (engine : Fin 4) e, mget s.rst.l0 c.val = some e → unitHasL1 u = true →
      let k := L1Key.of u core.val engine.val
      e.since + 1000 * max 100 (bits (s.reg 0x040010) 31 16) ≤ s.time.localNs → e.waits.contains k = false →
      s.serving = true →
      (s.workOn u).contains c.val = true → s.covered u = false → Runs (.quiesceTimeout c u core engine) s (fun t =>
        mget t.rst.l0 c.val = some { e with waits := k :: e.waits } ∧ ∀ x ∈ t.rst.l1, x.key = k → c.val ∉ x.after)) ∧
    (∀ u, s.serving = true → hasHeartbeat u = true → s.covered u = false → (∀ x ∈ s.rst.l1, x.key ≠ L1Key.of u 0 0) →
      RunsTo (.heartbeatTimeout u) s
        ((s.raise 0x0C04 srcRst none [unitSource u, s.time.ns - 1000000, 1, 0]).startL1 (L1Key.of u 0 0) 4 [] [])) ∧
    (∀ u (core : Fin 84) (engine : Fin 4) y, s.rst.l1.find? (fun x => x.key == L1Key.of u core.val engine.val && x.after.isEmpty) = some y →
      s.rst.test.run = none →
      (y.again = false → RunsTo (.unitBistComplete u core engine ⟨.passed, []⟩) s (s.endL1 y 0)) ∧
      (∀ e sig, RunsTo (.unitBistComplete u core engine ⟨.failed e sig, []⟩) s (s.failL1 y e.val sig))) ∧
    (s.rst.l2 = [] → s.rst.l3 = none → s.rst.test.run = none → ∀ (q : CmdRef) t,
      (Turn s q 0x0720 t → mhas s.host.ctxs (fld t.packet 16 2) = true → Runs (.rstContext q) s (fun u =>
        (∃ e, mget u.rst.l0 (fld t.packet 16 2) = some e ∧ q ∈ e.asked) ∧ u.host.ctxs = s.host.ctxs ∧ u.hbm = s.hbm)) ∧
      (Turn s q 0x0721 t → ∀ u, unitOfSource (fld t.packet 16 2) = some u → (∀ x ∈ (s.begin q).commandsOn u, x.ctx.val ≠ 0 ∨ x = q) →
        RunsTo (.rstUnit q) s
          (((s.begin q).startTaken q).startL1 (L1Key.of u (fld t.packet 18 1) (fld t.packet 19 1)) 2 [0] [q]))) ∧
    (s.serving = true → s.rst.l3 = none → ∀ cause level,
      (∀ x, s.rst.l3Last = some x → s.time.localNs < x + 600000000000 → s.startL3 cause level = s.notReady 6) ∧
      (∀ d asked x, s.rst.l2 = [] → mget s.rst.l2Last d = some x → s.time.localNs < x + 60000000000 →
        s.startL2 d cause level asked = s.startL3 6 2))

/-- Self-test (R452 to R464): the token, the conditions and the phases of cold BIST, TEST_RUN, the repair map and its fuses,
rotation. -/
def Obligations.SelfTest : Prop :=
  ∀ (s : State),
    let test := fun (f : TestSt → TestSt) => ({ s with rst := { s.rst with test := f s.rst.test } } : State)
    (s.alive = true →
      (s.rst.test.heavy = true → RunsTo .testTokenPulse s (test (fun t => { t with token := true, tokenSeen := s.time.localNs }))) ∧
      (s.rst.test.heavy = false → RunsTo .testTokenPulse s
        (test (fun t => { t with token := false, tokenSeen := s.time.localNs, pulses := t.pulses + 1 }))) ∧
      (s.guy.slot = 0 → s.rst.test.heavy = true → s.rst.test.token = false →
        max s.rst.test.tokenSeen s.rst.test.heavySince + 2000000000 ≤ s.time.localNs → RunsTo .tokenRegenTimeout s
          ((test (fun t => { t with token := true, tokenSeen := s.time.localNs })).raise 0x0D09 srcRst none
            [0, s.time.localNs - s.rst.test.tokenSeen, 0, 0])) ∧
      (s.rst.test.phase ≠ 0 → s.rst.test.refusedAt = none → ∀ x : TestConditions,
        (720 ≤ x.vddMv → x.vddMv ≤ 780 → x.clockPpm ≤ 100 → s.rst.test.departures = s.cur.departures →
          RunsTo (.testConditionCheck x) s s) ∧
        (x.vddMv < 720 ∨ 780 < x.vddMv → RunsTo (.testConditionCheck x) s (s.refuseTest 1 x.vddMv x.clockPpm))) ∧
      (∀ x, s.rst.test.refusedAt = some x → x + 1000000000 ≤ s.time.localNs →
        RunsTo .coldBistRetry s (s.beginPhase s.rst.test.phase (s.rst.test.phase == 3))) ∧
      (s.rst.test.heavy = true → s.rst.test.token = true → s.rst.test.run = none → ∀ x : List CoreBist,
        (∀ y ∈ x, y.cluster.val % 80 / 8 = s.rst.test.batch ∧ y.result = ⟨.passed, []⟩ ∧
          (s.fusedCores y.cluster.val).contains y.core.val = false) →
        RunsTo (.bistBatchComplete x) s (test (fun t => { t with
          found := t.found ++ x, token := false, pulses := t.pulses + 1, batch := t.batch + 1
          heavy := decide (t.batch + 1 < 10), heavySince := s.time.localNs }))) ∧
      (s.rst.test.refusedAt = none →
        (s.rst.test.phase = 1 → ∀ n, RunsTo (.coldBistPhaseComplete ⟨n, [], []⟩) s
          ((test (fun t => { t with tested := t.tested + n })).beginPhase 2 false)) ∧
        (s.rst.test.phase = 1 → ∀ n u l, Runs (.coldBistPhaseComplete ⟨n, u :: l, []⟩) s (fun t =>
          t.board.phase = .notReady ∧ t.rst.fault = true ∧ t.rst.ready = false)) ∧
        (s.rst.test.phase = 2 → ∀ n, RunsTo (.coldBistPhaseComplete ⟨n, [], []⟩) s
          ((test (fun t => { t with tested := t.tested + n })).beginPhase 3 true)) ∧
        (s.rst.test.phase = 3 → 10 ≤ s.rst.test.batch → ∀ x,
          Runs (.coldBistPhaseComplete x) s (fun t =>
            t.rst.test.phase = 4 ∧ t.rst.test.found = s.rst.test.found ∧ t.rst.repair = s.rst.repair)) ∧
        (s.rst.test.phase = 4 → s.board.phase = .coldBist → (∀ y ∈ s.rst.test.found, y.result = ⟨.passed, []⟩) → ∀ x,
          Runs (.coldBistPhaseComplete x) s (fun t =>
            t.board.phase = .hbmTraining ∧ t.hbm.training = List.range 16 ∧ t.rst.repair = s.rst.repair))) ∧
      (∀ c : ClusterNo, s.rst.ready = true → (s.cluster c.val).state = .idle → RunsTo (.rotationInterval c) s (s.rotateSwap c.val)) ∧
      (∀ c : ClusterNo, mget s.rst.rotate.testing c.val = some (s.cur.departures, s.cur.monitorsOut.length) →
        RunsTo (.rotationTestComplete c ⟨.passed, []⟩) s
          (let u : State := { s with rst := { s.rst with rotate := { s.rst.rotate with
             testing := mdel s.rst.rotate.testing c.val } } }
           let u := match s.aside c.val with
             | some p => u.tested c.val p
             | none => u
           (({ u with rst := { u.rst with rotate := { u.rst.rotate with passed := (s.rst.rotate.passed + 1) % 2 ^ 32 } } } : State).raise
             0x0D01 srcRst none [3, 1, 0, s.time.localNs - mgetD s.rst.rotate.lastSwap c.val 0]).endSweep))) ∧
    (∀ (q : CmdRef) t, let u := s.begin q
      let set_ := clusterSet t.packet 24
      (Turn s q 0x0740 t → s.resetBusy = false → fld t.packet 16 1 = 1 → set_ ≠ [] →
        (∀ c ∈ set_, (s.cluster c).holder = some 0 ∧ (s.cluster c).state = .idle) → Runs (.testRun q) s (fun v =>
          v.rst.test.run = some ⟨q, 1, fld t.packet 18 2, fld t.packet 20 2, set_, 0, 0, 0⟩ ∧ v.rst.test.phase = 5 ∧
          v.rst.test.heavy = true ∧ v.hbm = s.hbm)) ∧
      (Turn s q 0x0741 t → ∀ v, u.writeVa q.ctx.val (fld t.packet 16 8) s.repairMap (.other false) 0 = (v, .ok ()) →
        RunsTo (.repairMapRead q) s (v.complete q stOk 20480 0)) ∧
      (Turn s q 0x0742 t → (∀ c ∈ set_, mgetD s.rst.repair.fencedC c 0 = 0 ∧ mgetD s.rst.repair.fusedC c 0 = 0 ∧
          s.rst.repair.absent.contains c = false) →
        let v : State := { u with regs := mdel u.regs 0x040058 }
        let new := fun (c : Nat) => (s.fencedCores c).length - (s.fusedCores c).length
        (s.reg 0x040058 ≠ (rwpPair 0x46555345).toNat → RunsTo (.repairFuse q) s (v.complete q 0x0724 0 0)) ∧
        (s.reg 0x040058 = (rwpPair 0x46555345).toNat → (∀ c ∈ set_, (s.fencedCores c).length ≤ 4) → RunsTo (.repairFuse q) s
          ((set_.foldl State.burnCluster v).complete q stOk (set_.map new).sum 0))))

/-- The anti-rollback fuses (R474): a matched write of N burns bits until the counter reads N where N is above it, not above the
running image's SVN and within the 64 bits, and burns nothing otherwise, raising EV_ROLLBACK both times; no step of any kind lets
the counter fall. -/
def Obligations.RollbackFuses : Prop :=
  (∀ (s : State) (v : RegValue) (x : W32), s.hostUp = true → Matched v x →
    let n := x.toNat
    (s.board.rollback < n → n ≤ s.board.svn → n ≤ 64 → RunsTo (.glbRollbackWrite v) s
      (({ s with board := { s.board with rollback := n } } : State).raise 0x0E06 srcBoot none [s.board.rollback, n, 1, 0])) ∧
    (¬ (s.board.rollback < n ∧ n ≤ s.board.svn ∧ n ≤ 64) → RunsTo (.glbRollbackWrite v) s
      (s.raise 0x0E06 srcBoot none [s.board.rollback, n, 2, 0]))) ∧
  (∀ (s t : State), step s = .next t → s.board.rollback ≤ t.board.rollback)

/-! ### Steps (the model's own frame of them: log entry 9) -/

/-- A step takes the command at the front of the queue and runs it with the rest; on an empty queue one nanosecond passes (the
model's choice, log entry 9): fabric time, the local count and the arithmetic clock's count move on, and nothing else changes while
no port has anything to send and nothing waits for a stack. -/
def Obligations.StepRunsFront : Prop :=
  (∀ (c : Instr) (s : State) (rest : List Instr), s.pending = c :: rest → step s = exec c { s with pending := rest }) ∧
  (∀ (s : State), s.pending = [] → ∃ t, step s = .next t ∧ t.pending = [] ∧
    (s.alive = true → s.guy.ports = [] → s.time.slew = 0 → s.time.rate = 0 → s.time.frac < 2 ^ 32 → s.time.ppsOutUntil = none →
      s.hbm.training = [] → s.cat.waiting = [] → s.hbm.unreported = [] → s.tier.evictions = [] → s.tier.returns = [] →
      t = { s with
        time := { s.time with localNs := s.time.localNs + 1, ns := (s.time.ns + 1) % 2 ^ 64 }
        cur := { s.cur with clock := s.cur.clock + (if s.cur.power = .rest then 0 else s.mhz) } }))

/-- Reset (R5, R24, R46, R54, R403, R451, R470, R474): no power, no context, ring, peg or record, every fuse unburnt, no core
fenced, the fuses' count within its 64 bits, every memory in its canonical form and no command waiting. -/
def Obligations.ResetState : Prop :=
  let s := State.reset
  s.pending = [] ∧ s.board.pwrGood = false ∧ s.board.phase = .rom ∧ s.rst.ready = false ∧ s.host.link.dlUp = false ∧ s.host.ctxs = [] ∧
  s.host.rings = [] ∧ s.host.taken = [] ∧ s.pegs.pegs = [] ∧ s.pegs.waits = [] ∧ s.cat.global = [] ∧ s.cat.nextSeq = 0 ∧
  s.time.state = .unset ∧ s.time.ns = 0 ∧ s.rst.repair.fenced = [] ∧ s.coll.running = [] ∧ s.cons.cmds = [] ∧ s.tier.frames = [] ∧
  s.board.rollback = 0 ∧ s.fusesWf ∧ Memory.wf s.hbm.mem = true ∧ s.alive = false ∧
  (∀ c, (s.cluster c).state = .gated ∧ (s.cluster c).holder = none ∧ (s.cluster c).buf = []) ∧ (∀ p, (s.port p).state = .down)

/-- Every step keeps the queue's order and the number of fuses (R474): a step takes at most the front command from the queue and
puts none in; the anti-rollback count stays within its 64 fuses. -/
def Obligations.QueueAndFusesKept : Prop :=
  ∀ (s t : State), step s = .next t → t.pending = s.pending.tail ∧ (s.fusesWf → t.fusesWf)
end

