-- ==== Sys2Proof/Laws/Tables.lean ====
section
/-! SUPPORT. Laws of sparse tables: a read after a write. They hold of every list, sorted or not. -/

namespace Sys2Proof.Machine

@[simp] theorem mget_mset_self {α : Type} (m : Map α) (k : Nat) (v : α) : mget (mset m k v) k = some v := by
  induction m with
  | nil => simp [mset, mget]
  | cons p r ih =>
    obtain ⟨a, x⟩ := p
    simp only [mset]
    split
    · simp [mget]
    · split
      · simp [mget]
      · simp [mget, *]

theorem mget_mset_ne {α : Type} (m : Map α) {k j : Nat} (v : α) (h : j ≠ k) : mget (mset m k v) j = mget m j := by
  induction m with
  | nil => simp [mset, mget, Ne.symm h]
  | cons p r ih =>
    obtain ⟨a, x⟩ := p
    simp only [mset]
    split
    · simp [mget, Ne.symm h]
    · split
      · rename_i e
        subst e
        simp [mget, Ne.symm h]
      · by_cases e : a = j
        · simp [mget, e]
        · simp [mget, e, ih]

@[simp] theorem mgetD_mset_self {α : Type} (m : Map α) (k : Nat) (v d : α) : mgetD (mset m k v) k d = v := by
  simp [mgetD]

theorem mgetD_mset_ne {α : Type} (m : Map α) {k j : Nat} (v d : α) (h : j ≠ k) :
    mgetD (mset m k v) j d = mgetD m j d := by
  simp [mgetD, mget_mset_ne m v h]

@[simp] theorem mhas_mset_self {α : Type} (m : Map α) (k : Nat) (v : α) : mhas (mset m k v) k = true := by
  simp [mhas]

theorem mdel_cons {α : Type} (a : Nat) (x : α) (r : Map α) (k : Nat) :
    mdel ((a, x) :: r) k = if a = k then mdel r k else (a, x) :: mdel r k := by
  by_cases e : a = k <;> simp [mdel, e]

@[simp] theorem mget_mdel_self {α : Type} (m : Map α) (k : Nat) : mget (mdel m k) k = none := by
  induction m with
  | nil => rfl
  | cons p r ih =>
    obtain ⟨a, x⟩ := p
    rw [mdel_cons]
    split
    · exact ih
    · simp [mget, *]

theorem mget_mdel_ne {α : Type} (m : Map α) {k j : Nat} (h : j ≠ k) : mget (mdel m k) j = mget m j := by
  induction m with
  | nil => rfl
  | cons p r ih =>
    obtain ⟨a, x⟩ := p
    rw [mdel_cons]
    split
    · rename_i e
      have : a ≠ j := fun y => h (y ▸ e)
      simp [mget, this, ih]
    · simp [mget, ih]

end Sys2Proof.Machine
end

