-- ==== Sys2Proof/Laws/Commands.lean ====
section
/-! SUPPORT. What the shared operations behind the rows of commands, blocks and registers do: performing a command whose turn it
is, delivering a block that arrived, a matched write of a protected register. -/

namespace Sys2Proof.Machine

/-- A command whose turn it is, performed by the row of its opcode. -/
theorem perform_of {s : State} {q : CmdRef} {op : Nat} {t : Taken} (f : State → Taken → State) (h : Turn s q op t) :
    s.perform q op f = f (s.begin q) t := by
  simp only [State.perform, h.taken]
  rw [if_pos]
  · rfl
  · have := h.turn
    simp [h.alive, h.isOpcode, h.notStarted, h.notInReset]
    rcases this with e | e <;> simp [e]

/-- A row of another opcode, or of a command that was not taken, finds nothing to do. -/
theorem perform_none {s : State} {q : CmdRef} (op : Nat) (f : State → Taken → State) (h : s.findTaken q = none) :
    s.perform q op f = s := by simp [State.perform, h]

/-- A block delivered by the row of its type. -/
theorem deliver_of {s : State} {p ty : Nat} {b : InBlock} (f : State → List Byte → State) (h : Arrives s p ty b) :
    s.deliver p ty f = (f s b.bytes).delivered p b := by
  simp [State.deliver, h.1, h.2]

/-- With no block of the type at the head of a class, a row of delivery finds nothing to do. -/
theorem deliver_none {s : State} {p ty : Nat} (f : State → List Byte → State) (h : s.arrived p ty = none) :
    s.deliver p ty f = s := by
  simp [State.deliver, h]

end Sys2Proof.Machine
end

