-- ==== Sys2Proof/Laws/Kept.lean ====
section
/-! SUPPORT. What a command leaves of the queue and of the anti-rollback fuses: the rules by which the lemmas of the other files
of this group go. A row's meaning never touches either, but for the fuses' own register. -/

namespace Sys2Proof.Machine

/-- `t` has the queue and the anti-rollback count of `r`. -/
def Kept (r t : State) : Prop := t.pending = r.pending ∧ t.board.rollback = r.board.rollback

/-- The same of a state that may be answered. -/
structure KeptO (r : State) (o : Option State) : Prop where
  kept : ∀ t, o = some t → Kept r t

/-- The same of an outcome that is a next state. -/
structure KeptE (r : State) (o : Host.Outcome State Fault Refusal) : Prop where
  kept : ∀ t, o = .next t → Kept r t

theorem Kept.refl (r : State) : Kept r r := ⟨rfl, rfl⟩

theorem kept_mk {r s : State} {freeCtr regs held rwpCount rwpLast time plans pegs cat host hbm tier eng stat pack rst cons coll guy
    board cur hostOut answers} (hb : board.rollback = s.board.rollback) (h : Kept r s) :
    Kept r ⟨s.pending, freeCtr, regs, held, rwpCount, rwpLast, time, plans, pegs, cat, host, hbm, tier, eng, stat, pack, rst, cons, coll,
      guy, board, cur, hostOut, answers⟩ := ⟨h.1, hb.trans h.2⟩

theorem keptE_next {r s : State} (h : Kept r s) : KeptE r (.next s) := by
  refine ⟨fun t e => ?_⟩; cases e; exact h

theorem keptO_some {r s : State} (h : Kept r s) : KeptO r (some s) := by
  refine ⟨fun t e => ?_⟩; cases e; exact h

theorem keptO_none {r : State} : KeptO r none := by
  refine ⟨fun t e => ?_⟩; cases e

theorem keptO_map {r : State} {f : State → State} {o : Option State} (hf : ∀ s, Kept r s → Kept r (f s)) (h : KeptO r o) :
    KeptO r (o.map f) := by
  refine ⟨fun t e => ?_⟩
  obtain ⟨s, hs, rfl⟩ := Option.map_eq_some_iff.mp e
  exact hf s (h.kept s hs)

theorem kept_fst {r a : State} {α : Type} {b : α} {e : State × α} (q : e = (a, b)) (h : Kept r e.1) : Kept r a := by
  subst q; exact h

theorem kept_fstEq {r : State} {α : Type} {a e : State × α} (q : e = a) (h : Kept r e.1) : Kept r a.1 := by
  subst q; exact h

theorem kept_snd {r a : State} {α : Type} {b : α} {e : α × State} (q : e = (b, a)) (h : Kept r e.2) : Kept r a := by
  subst q; exact h

theorem kept_some {r a : State} {e : Option State} (q : e = some a) (h : KeptO r e) : Kept r a := h.kept a q

theorem foldl_kept {r : State} {α : Type} {f : State → α → State} {l : List α} {s : State}
    (hf : ∀ s x, Kept r s → Kept r (f s x)) (h : Kept r s) : Kept r (l.foldl f s) := by
  induction l generalizing s with
  | nil => exact h
  | cons a l ih => exact ih (hf s a h)

theorem foldl_keptP {r : State} {α β : Type} {f : State × β → α → State × β} {l : List α} {s : State × β}
    (hf : ∀ s b x, Kept r s → Kept r (f (s, b) x).1) (h : Kept r s.1) : Kept r (l.foldl f s).1 := by
  induction l generalizing s with
  | nil => exact h
  | cons a l ih => exact ih (hf s.1 s.2 a h)

end Sys2Proof.Machine
end

