-- ==== Sys2Proof/Laws/KeptCore.lean ====
section
/-! SUPPORT. The queue and the anti-rollback fuses are kept by the core of the model: registers, events, accesses, programs. -/

namespace Sys2Proof.Machine

/-! ### Machine/Ops.lean -/

theorem State.setReg_kept {r : State} (s : State) (off : Nat) (v : W64) (h0 : Kept r s) :
    Kept r (State.setReg s off v) := by
  dsimp only [State.setReg]
  with_reducible repeat' first
    | assumption | intro _ | apply kept_mk rfl

theorem State.free_kept {r : State} (s : State) (h0 : Kept r s) :
    Kept r (State.free s).2 := by
  dsimp only [State.free]
  with_reducible repeat' first
    | assumption | intro _ | refine kept_snd (by assumption) ?_ | apply kept_mk rfl

theorem State.toHost_kept {r : State} (s : State) (o : HostOut) (h0 : Kept r s) :
    Kept r (State.toHost s o) := by
  dsimp only [State.toHost]
  with_reducible repeat' first
    | assumption | intro _ | split | apply kept_mk rfl

theorem State.answer_kept {r : State} (s : State) (a : HostAnswer) (h0 : Kept r s) :
    Kept r (State.answer s a) := by
  dsimp only [State.answer]
  with_reducible repeat' first
    | assumption | intro _ | apply kept_mk rfl

theorem State.signalVector_kept {r : State} (s : State) (v : Nat) (h0 : Kept r s) :
    Kept r (State.signalVector s v) := by
  dsimp only [State.signalVector]
  with_reducible repeat' first
    | assumption | intro _ | apply State.toHost_kept | split | apply kept_mk rfl

theorem State.generate_kept {r : State} (s : State) (code : Nat) (src : Nat) (ctx : Option Nat) (args : List Nat) (fatal : Bool) (lost : Bool) (h0 : Kept r s) :
    Kept r (State.generate s code src ctx args fatal lost).2 := by
  dsimp only [State.generate]
  with_reducible repeat' first
    | assumption | intro _ | refine kept_snd (by assumption) ?_ | apply kept_mk rfl

theorem State.exportPut_kept {r : State} (s : State) (g : CatRing) (h : Nat) (a : Nat) (r0 : Record) (h0 : Kept r s) :
    Kept r (State.exportPut s g h a r0) := by
  dsimp only [State.exportPut]
  with_reducible repeat' first
    | assumption | intro _ | apply State.toHost_kept | apply kept_mk rfl

theorem State.exportOne_kept {r : State} (s : State) (r0 : Record) (h0 : Kept r s) :
    Kept r (State.exportOne s r0) := by
  dsimp only [State.exportOne]
  with_reducible repeat' first
    | assumption | intro _ | apply State.free_kept | apply State.exportPut_kept | split | refine kept_snd (by assumption) ?_ | apply kept_mk rfl

theorem State.leaveWc_kept {r : State} (s : State) (before : List WcEntry) (h0 : Kept r s) :
    Kept r (State.leaveWc s before) := by
  dsimp only [State.leaveWc]
  with_reducible repeat' first
    | assumption | intro _ | apply foldl_kept | apply foldl_keptP | apply kept_mk rfl

theorem State.ringMismatch_kept {r : State} (s : State) (ctx : Nat) (va : Nat) (h0 : Kept r s) :
    Kept r (State.ringMismatch s ctx va) := by
  dsimp only [State.ringMismatch]
  with_reducible repeat' first
    | assumption | intro _ | apply State.generate_kept | apply State.exportOne_kept | split | refine kept_snd (by assumption) ?_

theorem State.ringRead_kept {r : State} (s : State) (ctx : Nat) (g : CatRing) (h0 : Kept r s) :
    Kept r (State.ringRead s ctx g) := by
  dsimp only [State.ringRead]
  with_reducible repeat' first
    | assumption | intro _ | split | apply kept_mk rfl

theorem State.toCtxRing_kept {r : State} (s : State) (ctx : Nat) (r0 : Record) (h0 : Kept r s) :
    Kept r (State.toCtxRing s ctx r0) := by
  dsimp only [State.toCtxRing]
  with_reducible repeat' first
    | assumption | intro _ | apply State.leaveWc_kept | apply State.ringMismatch_kept | apply State.ringRead_kept | split | apply kept_mk rfl

theorem State.forCtxRing_kept {r : State} (s : State) (ctx : Nat) (r0 : Record) (h0 : Kept r s) :
    Kept r (State.forCtxRing s ctx r0) := by
  dsimp only [State.forCtxRing]
  with_reducible repeat' first
    | assumption | intro _ | apply State.toCtxRing_kept | split | apply kept_mk rfl

theorem State.flushRings_kept {r : State} (s : State) (h0 : Kept r s) :
    Kept r (State.flushRings s) := by
  dsimp only [State.flushRings]
  with_reducible repeat' first
    | assumption | intro _ | apply foldl_kept | apply foldl_keptP | apply State.forCtxRing_kept | apply kept_mk rfl

theorem State.exportLost_kept {r : State} (s : State) (h0 : Kept r s) :
    Kept r (State.exportLost s) := by
  dsimp only [State.exportLost]
  with_reducible repeat' first
    | assumption | intro _ | apply State.free_kept | apply State.generate_kept | apply State.exportPut_kept | split
    | refine kept_snd (by assumption) ?_ | apply kept_mk rfl

theorem State.ctxRingLost_kept {r : State} (s : State) (ctx : Nat) (h0 : Kept r s) :
    Kept r (State.ctxRingLost s ctx) := by
  dsimp only [State.ctxRingLost]
  with_reducible repeat' first
    | assumption | intro _ | apply State.generate_kept | apply State.exportOne_kept | apply State.toCtxRing_kept | split
    | refine kept_snd (by assumption) ?_ | apply kept_mk rfl

theorem State.raiseWith_kept {r : State} (s : State) (code : Nat) (src : Nat) (ctx : Option Nat) (args : List Nat) (fatal : Bool) (vec0 : Bool) (h0 : Kept r s) :
    Kept r (State.raiseWith s code src ctx args fatal vec0) := by
  dsimp only [State.raiseWith]
  with_reducible repeat' first
    | assumption | intro _ | apply State.exportLost_kept | apply State.ctxRingLost_kept | apply State.generate_kept | apply State.forCtxRing_kept
    | apply State.exportOne_kept | apply State.signalVector_kept | split | refine kept_snd (by assumption) ?_ | apply kept_mk rfl

theorem State.raise_kept {r : State} (s : State) (code : Nat) (src : Nat) (ctx : Option Nat) (args : List Nat) (h0 : Kept r s) :
    Kept r (State.raise s code src ctx args) := by
  dsimp only [State.raise]
  with_reducible repeat' first
    | assumption | intro _ | apply State.raiseWith_kept

theorem State.raiseLimited_kept {r : State} (s : State) (unit : Nat) (period : Nat) (code : Nat) (src : Nat) (ctx : Option Nat) (args : Nat → List Nat) (h0 : Kept r s) :
    Kept r (State.raiseLimited s unit period code src ctx args) := by
  dsimp only [State.raiseLimited]
  with_reducible repeat' first
    | assumption | intro _ | apply State.raise_kept | split | apply kept_mk rfl

theorem State.progress_kept {r : State} (s : State) (unit : Nat) (ctx : Nat) (n : optParam Nat 1) (h0 : Kept r s) :
    Kept r (State.progress s unit ctx n) := by
  dsimp only [State.progress]
  with_reducible repeat' first
    | assumption | intro _ | apply kept_mk rfl

theorem State.cpProgress_kept {r : State} (s : State) (ctx : Nat) (ring : Nat) (h0 : Kept r s) :
    Kept r (State.cpProgress s ctx ring) := by
  dsimp only [State.cpProgress]
  with_reducible repeat' first
    | assumption | intro _ | apply State.progress_kept

theorem State.stallOff_kept {r : State} (s : State) (u : StallUnit) (h0 : Kept r s) :
    Kept r (State.stallOff s u) := by
  dsimp only [State.stallOff]
  with_reducible repeat' first
    | assumption | intro _ | split | apply kept_mk rfl

theorem State.stallOn_kept {r : State} (s : State) (u : StallUnit) (ctx : Nat) (cause : Nat) (h0 : Kept r s) :
    Kept r (State.stallOn s u ctx cause) := by
  dsimp only [State.stallOn]
  with_reducible repeat' first
    | assumption | intro _ | apply State.stallOff_kept | split | apply kept_mk rfl

theorem State.startL0_kept {r : State} (s : State) (ctx : Nat) (cause : Nat) (h0 : Kept r s) :
    Kept r (State.startL0 s ctx cause) := by
  dsimp only [State.startL0]
  with_reducible repeat' first
    | assumption | intro _ | split | apply kept_mk rfl

theorem State.uncorrectable_kept {r : State} (s : State) (reader : Nat) (ctx : Option Nat) (line : Nat) (what : Nat) (h0 : Kept r s) :
    Kept r (State.uncorrectable s reader ctx line what) := by
  dsimp only [State.uncorrectable]
  with_reducible repeat' first
    | assumption | intro _ | apply State.raise_kept | apply State.startL0_kept | split | apply kept_mk rfl

theorem State.reportReads_kept {r : State} (s : State) (h0 : Kept r s) :
    Kept r (State.reportReads s) := by
  dsimp only [State.reportReads]
  with_reducible repeat' first
    | assumption | intro _ | apply foldl_kept | apply foldl_keptP | apply State.uncorrectable_kept | split | apply kept_mk rfl

theorem State.settleWc_kept {r : State} (s : State) (before : List WcEntry) (h0 : Kept r s) :
    Kept r (State.settleWc s before) := by
  dsimp only [State.settleWc]
  with_reducible repeat' first
    | assumption | intro _ | apply State.reportReads_kept | apply State.leaveWc_kept

theorem State.drainStacks_kept {r : State} (s : State) (stackList : List Nat) (h0 : Kept r s) :
    Kept r (State.drainStacks s stackList) := by
  dsimp only [State.drainStacks]
  with_reducible repeat' first
    | assumption | intro _ | apply State.settleWc_kept | apply kept_mk rfl

theorem State.touch_kept {r : State} (s : State) (ctx : Nat) (va : Nat) (h0 : Kept r s) :
    Kept r (State.touch s ctx va) := by
  dsimp only [State.touch]
  with_reducible repeat' first
    | assumption | intro _ | split | apply kept_mk rfl

theorem State.touchAll_kept {r : State} (s : State) (ctx : Nat) (parts : List (Nat × Nat)) (h0 : Kept r s) :
    Kept r (State.touchAll s ctx parts) := by
  dsimp only [State.touchAll]
  with_reducible repeat' first
    | assumption | intro _ | apply foldl_kept | apply foldl_keptP | apply State.touch_kept

theorem State.walkMet_kept {r : State} (s : State) (ctx : Nat) (va : Nat) (h0 : Kept r s) :
    Kept r (State.walkMet s ctx va) := by
  dsimp only [State.walkMet]
  with_reducible repeat' first
    | assumption | intro _ | apply State.raise_kept | apply State.uncorrectable_kept | split

theorem State.walksMet_kept {r : State} (s : State) (ctx : Nat) (parts : List (Nat × Nat)) (h0 : Kept r s) :
    Kept r (State.walksMet s ctx parts) := by
  dsimp only [State.walksMet]
  with_reducible repeat' first
    | assumption | intro _ | apply foldl_kept | apply foldl_keptP | apply State.walkMet_kept

theorem State.miss_kept {r : State} (s : State) (ctx : Nat) (deadline : Nat) (va : Nat) (h0 : Kept r s) :
    Kept r (State.miss s ctx deadline va) := by
  dsimp only [State.miss]
  with_reducible repeat' first
    | assumption | intro _ | apply State.walkMet_kept | split | apply kept_mk rfl

theorem State.missAll_kept {r : State} (s : State) (ctx : Nat) (deadline : Nat) (parts : List (Nat × Nat)) (h0 : Kept r s) :
    Kept r (State.missAll s ctx deadline parts) := by
  dsimp only [State.missAll]
  with_reducible repeat' first
    | assumption | intro _ | apply foldl_kept | apply foldl_keptP | apply State.miss_kept

theorem State.partsWhen_kept {r : State} (s : State) (ready : HbmSt → List (Nat × Nat) → Bool) (ctx : Nat) (va : Nat) (n : Nat) (write : Bool) (who : Accessor) (deadline : Nat) (h0 : Kept r s) :
    Kept r (State.partsWhen s ready ctx va n write who deadline).1 := by
  dsimp only [State.partsWhen]
  with_reducible repeat' first
    | assumption | intro _ | apply State.touchAll_kept | apply State.missAll_kept | split | refine kept_fst (by assumption) ?_
    | refine kept_fstEq (by assumption) ?_

theorem State.parts_kept {r : State} (s : State) (ctx : Nat) (va : Nat) (n : Nat) (write : Bool) (who : Accessor) (deadline : Nat) (h0 : Kept r s) :
    Kept r (State.parts s ctx va n write who deadline).1 := by
  dsimp only [State.parts]
  with_reducible repeat' first
    | assumption | intro _ | apply State.partsWhen_kept | refine kept_fst (by assumption) ?_ | refine kept_fstEq (by assumption) ?_

theorem State.readVa_kept {r : State} (s : State) (ctx : Nat) (va : Nat) (n : Nat) (who : Accessor) (noalloc : Bool) (deadline : Nat) (h0 : Kept r s) :
    Kept r (State.readVa s ctx va n who noalloc deadline).1 := by
  dsimp only [State.readVa]
  with_reducible repeat' first
    | assumption | intro _ | apply State.parts_kept | split | refine kept_fst (by assumption) ?_ | refine kept_fstEq (by assumption) ?_
    | apply kept_mk rfl

theorem State.writeVa_kept {r : State} (s : State) (ctx : Nat) (va : Nat) (bs : List Byte) (who : Accessor) (deadline : Nat) (whole : optParam Bool false) (h0 : Kept r s) :
    Kept r (State.writeVa s ctx va bs who deadline whole).1 := by
  dsimp only [State.writeVa]
  with_reducible repeat' first
    | assumption | intro _ | apply State.parts_kept | apply State.settleWc_kept | split | refine kept_fst (by assumption) ?_
    | refine kept_fstEq (by assumption) ?_ | apply kept_mk rfl

theorem State.reachVa_kept {r : State} (s : State) (ctx : Nat) (va : Nat) (n : Nat) (who : Accessor) (deadline : Nat) (h0 : Kept r s) :
    Kept r (State.reachVa s ctx va n who deadline).1 := by
  dsimp only [State.reachVa]
  with_reducible repeat' first
    | assumption | intro _ | apply State.parts_kept | split | refine kept_fst (by assumption) ?_ | refine kept_fstEq (by assumption) ?_

theorem State.atomicParts_kept {r : State} (s : State) (ctx : Nat) (parts : List (Nat × Nat)) (bs : List Byte) (h0 : Kept r s) :
    Kept r (State.atomicParts s ctx parts bs) := by
  dsimp only [State.atomicParts]
  with_reducible repeat' first
    | assumption | intro _ | apply foldl_kept | apply foldl_keptP | apply kept_mk rfl

theorem State.undefineVa_kept {r : State} (s : State) (ctx : Nat) (va : Nat) (n : Nat) (h0 : Kept r s) :
    Kept r (State.undefineVa s ctx va n) := by
  dsimp only [State.undefineVa]
  with_reducible repeat' first
    | assumption | intro _ | apply foldl_kept | apply foldl_keptP | split | apply kept_mk rfl

/-! ### Machine/Operands.lean -/

theorem State.setCluster_kept {r : State} (s : State) (c : Nat) (x : Cluster) (h0 : Kept r s) :
    Kept r (State.setCluster s c x) := by
  dsimp only [State.setCluster]
  with_reducible repeat' first
    | assumption | intro _ | apply kept_mk rfl

theorem State.setCore_kept {r : State} (s : State) (k : CoreRef) (x : CoreSt) (h0 : Kept r s) :
    Kept r (State.setCore s k x) := by
  dsimp only [State.setCore]
  with_reducible repeat' first
    | assumption | intro _ | apply State.setCluster_kept

/-! ### Machine/Queue.lean -/

theorem State.dropTaken_kept {r : State} (s : State) (q : CmdRef) (h0 : Kept r s) :
    Kept r (State.dropTaken s q) := by
  dsimp only [State.dropTaken]
  with_reducible repeat' first
    | assumption | intro _ | apply kept_mk rfl

theorem State.startTaken_kept {r : State} (s : State) (q : CmdRef) (h0 : Kept r s) :
    Kept r (State.startTaken s q) := by
  dsimp only [State.startTaken]
  with_reducible repeat' first
    | assumption | intro _ | apply kept_mk rfl

theorem State.setRing_kept {r : State} (s : State) (ctx : Nat) (ring : Nat) (r0 : Ring) (h0 : Kept r s) :
    Kept r (State.setRing s ctx ring r0) := by
  dsimp only [State.setRing]
  with_reducible repeat' first
    | assumption | intro _ | apply kept_mk rfl

theorem State.signalRing_kept {r : State} (s : State) (ctx : Nat) (ring : Nat) (h0 : Kept r s) :
    Kept r (State.signalRing s ctx ring) := by
  dsimp only [State.signalRing]
  with_reducible repeat' first
    | assumption | intro _ | apply State.signalVector_kept | apply State.setRing_kept | split

theorem State.faultRing_kept {r : State} (s : State) (ctx : Nat) (ring : Nat) (status : Nat) (seq : Nat) (h0 : Kept r s) :
    Kept r (State.faultRing s ctx ring status seq) := by
  dsimp only [State.faultRing]
  with_reducible repeat' first
    | assumption | intro _ | apply State.setRing_kept | apply State.raise_kept | split | apply kept_mk rfl

theorem State.writeRecord_kept {r : State} (s : State) (ctx : Nat) (ring : Nat) (seq : Nat) (status : Nat) (r0 : Nat) (r1 : Nat) (irq : Bool) (h0 : Kept r s) :
    Kept r (State.writeRecord s ctx ring seq status r0 r1 irq) := by
  dsimp only [State.writeRecord]
  with_reducible repeat' first
    | assumption | intro _ | apply State.setRing_kept | apply State.cpProgress_kept | apply State.toHost_kept | apply State.signalRing_kept
    | apply State.faultRing_kept | split

theorem State.complete_kept {r : State} (s : State) (q : CmdRef) (status : Nat) (r0 : Nat) (r1 : Nat) (h0 : Kept r s) :
    Kept r (State.complete s q status r0 r1) := by
  dsimp only [State.complete]
  with_reducible repeat' first
    | assumption | intro _ | apply State.writeRecord_kept | apply State.stallOff_kept | apply State.dropTaken_kept | split

theorem State.completeBare_kept {r : State} (s : State) (q : CmdRef) (status : Nat) (h0 : Kept r s) :
    Kept r (State.completeBare s q status) := by
  dsimp only [State.completeBare]
  with_reducible repeat' first
    | assumption | intro _ | apply State.complete_kept

theorem State.engineProgress_kept {r : State} (s : State) (k : CoreRef) (engine : Nat) (h0 : Kept r s) :
    Kept r (State.engineProgress s k engine) := by
  dsimp only [State.engineProgress]
  with_reducible repeat' first
    | assumption | intro _ | apply State.progress_kept

theorem State.endCoreWait_kept {r : State} (s : State) (k : CoreRef) (v : W64) (h0 : Kept r s) :
    Kept r (State.endCoreWait s k v) := by
  dsimp only [State.endCoreWait]
  with_reducible repeat' first
    | assumption | intro _ | apply State.engineProgress_kept | apply State.stallOff_kept | apply State.setCore_kept | split

theorem State.satisfy_kept {r : State} (s : State) (w : Wait) (v : W64) (h0 : Kept r s) :
    Kept r (State.satisfy s w v) := by
  dsimp only [State.satisfy]
  with_reducible repeat' first
    | assumption | intro _ | apply State.complete_kept | apply State.endCoreWait_kept | split | apply kept_mk rfl

theorem State.pegTake_kept {r : State} (s : State) (i : Nat) (v : W64) (h0 : Kept r s) :
    Kept r (State.pegTake s i v) := by
  dsimp only [State.pegTake]
  with_reducible repeat' first
    | assumption | intro _ | apply foldl_kept | apply foldl_keptP | apply State.satisfy_kept | split | apply kept_mk rfl

theorem State.pegAdd_kept {r : State} (s : State) (i : Nat) (a : W64) (h0 : Kept r s) :
    Kept r (State.pegAdd s i a) := by
  dsimp only [State.pegAdd]
  with_reducible repeat' first
    | assumption | intro _ | apply State.raise_kept | apply State.pegTake_kept | split

theorem State.completionSignal_kept {r : State} (s : State) (ctx : Nat) (peg : Nat) (addend : W64) (unit : Nat) (h0 : Kept r s) :
    Kept r (State.completionSignal s ctx peg addend unit) := by
  dsimp only [State.completionSignal]
  with_reducible repeat' first
    | assumption | intro _ | apply State.pegAdd_kept | apply State.raise_kept | split

theorem State.startWait_kept {r : State} (s : State) (w : Wait) (h0 : Kept r s) :
    Kept r (State.startWait s w).1 := by
  dsimp only [State.startWait]
  with_reducible repeat' first
    | assumption | intro _ | apply State.raise_kept | split | refine kept_fst (by assumption) ?_ | refine kept_fstEq (by assumption) ?_
    | apply kept_mk rfl

theorem State.perform_kept {r : State} (s : State) (q : CmdRef) (opcode : Nat) (f : State → Taken → State) (h0 : Kept r s) (h1 : ∀ x0 x1, Kept r (x0) → Kept r (f x0 x1)) :
    Kept r (State.perform s q opcode f) := by
  dsimp only [State.perform]
  with_reducible repeat' first
    | assumption | intro _ | apply h1 | split | apply kept_mk rfl

/-! ### Machine/Program.lean -/

theorem State.elemVa_kept {r : State} (s : State) (ctx : Nat) (d : Desc) (who : Accessor) (n : Nat) (h0 : Kept r s) :
    Kept r (State.elemVa s ctx d who n).1 := by
  dsimp only [State.elemVa]
  with_reducible repeat' first
    | assumption | intro _ | apply State.readVa_kept | split | refine kept_fst (by assumption) ?_ | refine kept_fstEq (by assumption) ?_

theorem State.undefineUnits_kept {r : State} (s : State) (ctx : Nat) (d : Desc) (who : Accessor) (units : List Nat) (h0 : Kept r s) :
    Kept r (State.undefineUnits s ctx d who units) := by
  dsimp only [State.undefineUnits]
  with_reducible repeat' first
    | assumption | intro _ | apply foldl_kept | apply foldl_keptP | apply State.elemVa_kept | apply State.undefineVa_kept | split
    | refine kept_fst (by assumption) ?_ | refine kept_fstEq (by assumption) ?_

theorem State.undefineTarget_kept {r : State} (s : State) (ctx : Nat) (d : Desc) (who : Accessor) (units : List Nat) (h0 : Kept r s) :
    Kept r (State.undefineTarget s ctx d who units) := by
  dsimp only [State.undefineTarget]
  with_reducible repeat' first
    | assumption | intro _ | apply foldl_kept | apply foldl_keptP | apply State.undefineUnits_kept | apply State.undefineVa_kept | split

theorem State.setLaunch_kept {r : State} (s : State) (q : CmdRef) (f : Launch → Launch) (h0 : Kept r s) :
    Kept r (State.setLaunch s q f) := by
  dsimp only [State.setLaunch]
  with_reducible repeat' first
    | assumption | intro _ | apply kept_mk rfl

theorem State.publish_kept {r : State} (s : State) (k : CoreRef) (h0 : Kept r s) :
    Kept r (State.publish s k) := by
  dsimp only [State.publish]
  with_reducible repeat' first
    | assumption | intro _ | apply State.setCluster_kept

theorem State.stopStreams_kept {r : State} (s : State) (ctx : Nat) (c : Nat) (h0 : Kept r s) :
    Kept r (State.stopStreams s ctx c) := by
  dsimp only [State.stopStreams]
  with_reducible repeat' first
    | assumption | intro _ | apply foldl_kept | apply foldl_keptP | apply State.undefineTarget_kept | apply State.setCluster_kept

theorem State.stopLaunch_kept {r : State} (s : State) (q : CmdRef) (status : Nat) (result1 : W64) (h0 : Kept r s) :
    Kept r (State.stopLaunch s q status result1) := by
  dsimp only [State.stopLaunch]
  with_reducible repeat' first
    | assumption | intro _ | apply foldl_kept | apply foldl_keptP | apply State.stopStreams_kept | apply State.setCluster_kept
    | apply State.setLaunch_kept | split | apply kept_mk rfl

theorem State.progFault_kept {r : State} (s : State) (k : CoreRef) (code : Nat) (pc : Nat) (addr : Nat) (cores : Nat) (h0 : Kept r s) :
    Kept r (State.progFault s k code pc addr cores) := by
  dsimp only [State.progFault]
  with_reducible repeat' first
    | assumption | intro _ | apply State.setCluster_kept | apply State.raise_kept | apply State.stopLaunch_kept | split | apply kept_mk rfl

theorem State.lateFault_kept {r : State} (s : State) (k : CoreRef) (code : Nat) (pc : Nat) (addr : Nat) (h0 : Kept r s) :
    Kept r (State.lateFault s k code pc addr) := by
  dsimp only [State.lateFault]
  with_reducible repeat' first
    | assumption | intro _ | apply State.progFault_kept | split

theorem Issue.fault_kept {r : State} (i : Issue) (s : State) (code : Nat) (h0 : Kept r s) :
    Kept r (Issue.fault i s code) := by
  dsimp only [Issue.fault]
  with_reducible repeat' first
    | assumption | intro _ | apply State.progFault_kept

theorem Issue.faultAt_kept {r : State} (i : Issue) (s : State) (code : Nat) (addr : Nat) (h0 : Kept r s) :
    Kept r (Issue.faultAt i s code addr) := by
  dsimp only [Issue.faultAt]
  with_reducible repeat' first
    | assumption | intro _ | apply State.progFault_kept

theorem Issue.counted_kept {r : State} (i : Issue) (s : State) (h0 : Kept r s) :
    Kept r (Issue.counted i s) := by
  dsimp only [Issue.counted]
  with_reducible repeat' first
    | assumption | intro _ | apply State.progress_kept | split

theorem Issue.jumped_kept {r : State} (i : Issue) (s : State) (c : CoreSt) (h0 : Kept r s) :
    Kept r (Issue.jumped i s c) := by
  dsimp only [Issue.jumped]
  with_reducible repeat' first
    | assumption | intro _ | apply Issue.counted_kept | apply State.stallOff_kept | apply State.setCore_kept

theorem Issue.done_kept {r : State} (i : Issue) (s : State) (c : CoreSt) (h0 : Kept r s) :
    Kept r (Issue.done i s c) := by
  dsimp only [Issue.done]
  with_reducible repeat' first
    | assumption | intro _ | apply Issue.jumped_kept

theorem Issue.stall_kept {r : State} (i : Issue) (s : State) (cause : Nat) (h0 : Kept r s) :
    Kept r (Issue.stall i s cause) := by
  dsimp only [Issue.stall]
  with_reducible repeat' first
    | assumption | intro _ | apply State.stallOn_kept

theorem Issue.hazard_kept {r : State} (i : Issue) (s : State) (h0 : Kept r s) :
    Kept r (Issue.hazard i s) := by
  dsimp only [Issue.hazard]
  with_reducible repeat' first
    | assumption | intro _ | apply Issue.stall_kept

theorem State.sramRead_kept {r : State} (s : State) (cluster : Nat) (place : Nat) (memory : Nat) (lo : Nat) (n : Nat) (ctx : Nat) (h0 : Kept r s) :
    Kept r (State.sramRead s cluster place memory lo n ctx).1 := by
  dsimp only [State.sramRead]
  with_reducible repeat' first
    | assumption | intro _ | apply foldl_kept | apply foldl_keptP | apply State.raise_kept | apply State.startL0_kept
    | apply State.raiseLimited_kept | split | refine kept_fst (by assumption) ?_ | refine kept_fstEq (by assumption) ?_ | apply kept_mk rfl

theorem State.issueReads_kept {r : State} (s : State) (i : Issue) (h0 : Kept r s) :
    Kept r (State.issueReads s i).1 := by
  dsimp only [State.issueReads]
  with_reducible repeat' first
    | assumption | intro _ | apply foldl_kept | apply foldl_keptP | apply State.sramRead_kept | split | refine kept_fst (by assumption) ?_
    | refine kept_fstEq (by assumption) ?_

theorem State.issueRow_kept {r : State} (s : State) (k : CoreRef) (cls : Nat) (op : Nat) (used : Nat → List (Nat × Nat)) (f : State → Issue → State) (h0 : Kept r s) (h1 : ∀ x0 x1, Kept r (x0) → Kept r (f x0 x1)) :
    Kept r (State.issueRow s k cls op used f) := by
  dsimp only [State.issueRow]
  with_reducible repeat' first
    | assumption | intro _ | apply h1 | apply Issue.fault_kept | apply State.issueReads_kept | split | refine kept_fst (by assumption) ?_
    | refine kept_fstEq (by assumption) ?_

theorem Issue.reading_kept {r : State} (i : Issue) (s : State) (off : Nat) (n : Nat) (f : State → State) (h0 : Kept r s) (h1 : ∀ x0, Kept r (x0) → Kept r (f x0)) :
    Kept r (Issue.reading i s off n f) := by
  dsimp only [Issue.reading]
  with_reducible repeat' first
    | assumption | intro _ | apply h1 | apply Issue.hazard_kept | apply State.sramRead_kept | split | refine kept_fst (by assumption) ?_
    | refine kept_fstEq (by assumption) ?_

theorem Issue.writing_kept {r : State} (i : Issue) (s : State) (off : Nat) (n : Nat) (f : State → State) (h0 : Kept r s) (h1 : ∀ x0, Kept r (x0) → Kept r (f x0)) :
    Kept r (Issue.writing i s off n f) := by
  dsimp only [Issue.writing]
  with_reducible repeat' first
    | assumption | intro _ | apply h1 | apply Issue.hazard_kept | split

theorem Issue.regs_kept {r : State} (i : Issue) (s : State) (rs : List Nat) (f : State → State) (h0 : Kept r s) (h1 : ∀ x0, Kept r (x0) → Kept r (f x0)) :
    Kept r (Issue.regs i s rs f) := by
  dsimp only [Issue.regs]
  with_reducible repeat' first
    | assumption | intro _ | apply h1 | apply Issue.hazard_kept | split

/-! ### Machine/Transport.lean -/

theorem State.setPort_kept {r : State} (s : State) (p : Nat) (x : PortSt) (h0 : Kept r s) :
    Kept r (State.setPort s p x) := by
  dsimp only [State.setPort]
  with_reducible repeat' first
    | assumption | intro _ | apply kept_mk rfl

theorem State.sent_kept {r : State} (s : State) (p : Nat) (x : PortSt) (cls : Nat) (n : Nat) (o : GuyOut) (h0 : Kept r s) :
    Kept r (State.sent s p x cls n o) := by
  dsimp only [State.sent]
  with_reducible repeat' first
    | assumption | intro _ | apply State.setPort_kept | split | apply kept_mk rfl

theorem State.ptpLeft_kept {r : State} (s : State) (p : Nat) (m : PtpMessage) (h0 : Kept r s) :
    Kept r (State.ptpLeft s p m) := by
  dsimp only [State.ptpLeft]
  with_reducible repeat' first
    | assumption | intro _ | apply State.setPort_kept | split | apply kept_mk rfl

theorem State.sendUnit_kept {r : State} (s : State) (p : Nat) (x : PortSt) (c : Nat) (h0 : Kept r s) :
    Kept r (State.sendUnit s p x c) := by
  dsimp only [State.sendUnit]
  with_reducible repeat' first
    | assumption | intro _ | apply State.sent_kept | apply State.ptpLeft_kept | split | apply kept_mk rfl

theorem State.slotStalls_kept {r : State} (s : State) (p : Nat) (x : PortSt) (waits : List Nat) (h0 : Kept r s) :
    Kept r (State.slotStalls s p x waits) := by
  dsimp only [State.slotStalls]
  with_reducible repeat' first
    | assumption | intro _ | apply foldl_kept | apply foldl_keptP | apply State.stallOn_kept | apply State.stallOff_kept | split

theorem State.pumpIdle_kept {r : State} (s : State) (p : Nat) (x : PortSt) (h0 : Kept r s) :
    Kept r (State.pumpIdle s p x) := by
  dsimp only [State.pumpIdle]
  with_reducible repeat' first
    | assumption | intro _ | apply State.sent_kept | apply State.setPort_kept | split

theorem State.pump_kept {r : State} (s : State) (p : Nat) (h0 : Kept r s) :
    Kept r (State.pump s p) := by
  dsimp only [State.pump]
  with_reducible repeat' first
    | assumption | intro _ | apply State.sent_kept | apply State.slotStalls_kept | apply State.sendUnit_kept | apply State.pumpIdle_kept | split

theorem State.pumpAll_kept {r : State} (s : State) (h0 : Kept r s) :
    Kept r (State.pumpAll s) := by
  dsimp only [State.pumpAll]
  with_reducible repeat' first
    | assumption | intro _ | apply foldl_kept | apply foldl_keptP | apply State.pump_kept

theorem State.portDown_kept {r : State} (s : State) (p : Nat) (cause : Nat) (next : PortState) (h0 : Kept r s) :
    Kept r (State.portDown s p cause next) := by
  dsimp only [State.portDown]
  with_reducible repeat' first
    | assumption | intro _ | apply State.raise_kept | apply State.setPort_kept

theorem State.macChecked_kept {r : State} (s : State) (h0 : Kept r s) :
    Kept r (State.macChecked s) := by
  dsimp only [State.macChecked]
  with_reducible repeat' first
    | assumption | intro _ | apply foldl_kept | apply foldl_keptP | apply State.portDown_kept | apply State.setPort_kept | split

theorem State.enqueue_kept {r : State} (s : State) (p : Nat) (cls : Nat) (q : Queued) (h0 : Kept r s) :
    Kept r (State.enqueue s p cls q) := by
  dsimp only [State.enqueue]
  with_reducible repeat' first
    | assumption | intro _ | apply State.setPort_kept

theorem State.assign_kept {r : State} (s : State) (b : TxBlock) (p : Nat) (h0 : Kept r s) :
    Kept r (State.assign s b p) := by
  dsimp only [State.assign]
  with_reducible repeat' first
    | assumption | intro _ | apply State.free_kept | apply State.enqueue_kept | split | refine kept_snd (by assumption) ?_ | apply kept_mk rfl

theorem State.noRoute_kept {r : State} (s : State) (unit : Nat) (dest : Nat) (bytes : List Byte) (r0 : Route) (h0 : Kept r s) :
    Kept r (State.noRoute s unit dest bytes r0) := by
  dsimp only [State.noRoute]
  with_reducible repeat' first
    | assumption | intro _ | apply State.raise_kept | split | apply kept_mk rfl

theorem State.misroute_kept {r : State} (s : State) (p : Nat) (b : List Byte) (cause : Nat) (h0 : Kept r s) :
    Kept r (State.misroute s p b cause) := by
  dsimp only [State.misroute]
  with_reducible repeat' first
    | assumption | intro _ | apply State.raise_kept | apply kept_mk rfl

theorem State.requestLost_kept {r : State} (s : State) (b : TxBlock) (h0 : Kept r s) :
    Kept r (State.requestLost s b) := by
  dsimp only [State.requestLost]
  with_reducible repeat' first
    | assumption | intro _ | apply State.lateFault_kept | split | apply kept_mk rfl

theorem State.senderStalls_kept {r : State} (s : State) (h0 : Kept r s) :
    Kept r (State.senderStalls s) := by
  dsimp only [State.senderStalls]
  with_reducible repeat' first
    | assumption | intro _ | apply foldl_kept | apply foldl_keptP | apply State.stallOff_kept | apply State.stallOn_kept | split

theorem State.release_kept {r : State} (s : State) (h0 : Kept r s) :
    Kept r (State.release s) := by
  dsimp only [State.release]
  with_reducible repeat' first
    | assumption | intro _ | apply foldl_kept | apply foldl_keptP | apply State.assign_kept | apply State.misroute_kept
    | apply State.requestLost_kept | apply State.noRoute_kept | apply State.pumpAll_kept | apply State.senderStalls_kept | split
    | apply kept_mk rfl

theorem State.sendBlock_kept {r : State} (s : State) (unit : Nat) (dest : Nat) (cls : Nat) (relay : Bool) (peg : Bool) (bytes : List Byte) (h0 : Kept r s) :
    Kept r (State.sendBlock s unit dest cls relay peg bytes).1 := by
  dsimp only [State.sendBlock]
  with_reducible repeat' first
    | assumption | intro _ | apply State.release_kept | apply State.noRoute_kept | split | refine kept_fst (by assumption) ?_
    | refine kept_fstEq (by assumption) ?_ | apply kept_mk rfl

theorem State.sendOn_kept {r : State} (s : State) (p : Nat) (cls : Nat) (bytes : List Byte) (h0 : Kept r s) :
    Kept r (State.sendOn s p cls bytes) := by
  dsimp only [State.sendOn]
  with_reducible repeat' first
    | assumption | intro _ | apply State.pump_kept | apply State.enqueue_kept | apply kept_mk rfl

theorem State.blocksAcked_kept {r : State} (s : State) (ids : List Nat) (h0 : Kept r s) :
    Kept r (State.blocksAcked s ids) := by
  dsimp only [State.blocksAcked]
  with_reducible repeat' first
    | assumption | intro _ | apply kept_mk rfl

/-! ### Machine/Access.lean -/

theorem State.addRemote_kept {r : State} (s : State) (r0 : Remote) (h0 : Kept r s) :
    Kept r (State.addRemote s r0) := by
  dsimp only [State.addRemote]
  with_reducible repeat' first
    | assumption | intro _ | apply kept_mk rfl

theorem State.dropRemotes_kept {r : State} (s : State) (o : Owner) (h0 : Kept r s) :
    Kept r (State.dropRemotes s o) := by
  dsimp only [State.dropRemotes]
  with_reducible repeat' first
    | assumption | intro _ | apply kept_mk rfl

theorem State.ownReject_kept {r : State} (s : State) (ctx : Nat) (off : Nat) (code : Nat) (h0 : Kept r s) :
    Kept r (State.ownReject s ctx off code) := by
  dsimp only [State.ownReject]
  with_reducible repeat' first
    | assumption | intro _ | apply State.raise_kept

theorem State.requestPiece_kept {r : State} (s : State) (o : Owner) (pc : Nat) (ctx : Nat) (i : Nat) (va : Nat) (n : Nat) (noalloc : Bool) (deadline : Nat) (h0 : Kept r s) :
    Kept r (State.requestPiece s o pc ctx i va n noalloc deadline).1 := by
  dsimp only [State.requestPiece]
  with_reducible repeat' first
    | assumption | intro _ | apply State.toHost_kept | apply State.addRemote_kept | apply State.readVa_kept | apply State.ownReject_kept
    | apply State.sendBlock_kept | split | refine kept_fst (by assumption) ?_ | refine kept_fstEq (by assumption) ?_

theorem State.readPiece_kept {r : State} (s : State) (o : Owner) (pc : Nat) (ctx : Nat) (i : Nat) (va : Nat) (n : Nat) (who : Accessor) (noalloc : Bool) (deadline : Nat) (h0 : Kept r s) :
    Kept r (State.readPiece s o pc ctx i va n who noalloc deadline).1 := by
  dsimp only [State.readPiece]
  with_reducible repeat' first
    | assumption | intro _ | apply State.readVa_kept | apply State.requestPiece_kept | split | refine kept_fst (by assumption) ?_
    | refine kept_fstEq (by assumption) ?_

theorem State.sendPiece_kept {r : State} (s : State) (o : Owner) (pc : Nat) (ctx : Nat) (i : Nat) (va : Nat) (bs : List Byte) (deadline : Nat) (h0 : Kept r s) :
    Kept r (State.sendPiece s o pc ctx i va bs deadline).1 := by
  dsimp only [State.sendPiece]
  with_reducible repeat' first
    | assumption | intro _ | apply State.toHost_kept | apply State.addRemote_kept | apply State.writeVa_kept | apply State.ownReject_kept
    | apply State.sendBlock_kept | split | refine kept_fst (by assumption) ?_ | refine kept_fstEq (by assumption) ?_ | apply kept_mk rfl

theorem State.writePiece_kept {r : State} (s : State) (o : Owner) (pc : Nat) (ctx : Nat) (i : Nat) (va : Nat) (bs : List Byte) (who : Accessor) (deadline : Nat) (whole : optParam Bool false) (h0 : Kept r s) :
    Kept r (State.writePiece s o pc ctx i va bs who deadline whole).1 := by
  dsimp only [State.writePiece]
  with_reducible repeat' first
    | assumption | intro _ | apply State.writeVa_kept | apply State.sendPiece_kept | split | refine kept_fst (by assumption) ?_
    | refine kept_fstEq (by assumption) ?_

theorem State.readPieces_kept {r : State} (s : State) (o : Owner) (pc : Nat) (ctx : Nat) (who : Accessor) (noalloc : Bool) (deadline : Nat) (a7 : List Piece) (h0 : Kept r s) :
    Kept r (State.readPieces s o pc ctx who noalloc deadline a7).1 := by
  induction a7 generalizing s o pc ctx who noalloc deadline with
  | nil =>
    dsimp only [State.readPieces]
    with_reducible repeat' first
      | assumption | intro _ | apply State.readPiece_kept | split | refine kept_fst (by assumption) ?_ | refine kept_fstEq (by assumption) ?_
  | cons x l ih =>
    dsimp only [State.readPieces]
    with_reducible repeat' first
      | assumption | apply ih | intro _ | apply State.readPiece_kept | split | refine kept_fst (by assumption) ?_
      | refine kept_fstEq (by assumption) ?_

theorem State.checkWrites_kept {r : State} (s : State) (ctx : Nat) (who : Accessor) (deadline : Nat) (a4 : List Piece) (h0 : Kept r s) :
    Kept r (State.checkWrites s ctx who deadline a4).1 := by
  induction a4 generalizing s ctx who deadline with
  | nil =>
    dsimp only [State.checkWrites]
    with_reducible repeat' first
      | assumption | intro _ | apply State.parts_kept | split | refine kept_fst (by assumption) ?_ | refine kept_fstEq (by assumption) ?_
  | cons x l ih =>
    dsimp only [State.checkWrites]
    with_reducible repeat' first
      | assumption | apply ih | intro _ | apply State.parts_kept | split | refine kept_fst (by assumption) ?_
      | refine kept_fstEq (by assumption) ?_

theorem State.writeEach_kept {r : State} (s : State) (o : Owner) (pc : Nat) (ctx : Nat) (who : Accessor) (deadline : Nat) (whole : Bool) (a7 : List Piece) (a8 : List Byte) (h0 : Kept r s) :
    Kept r (State.writeEach s o pc ctx who deadline whole a7 a8).1 := by
  induction a7 generalizing s o pc ctx who deadline whole a8 with
  | nil =>
    dsimp only [State.writeEach]
    with_reducible repeat' first
      | assumption | intro _ | apply State.writePiece_kept | split | refine kept_fst (by assumption) ?_ | refine kept_fstEq (by assumption) ?_
  | cons x l ih =>
    dsimp only [State.writeEach]
    with_reducible repeat' first
      | assumption | apply ih | intro _ | apply State.writePiece_kept | split | refine kept_fst (by assumption) ?_
      | refine kept_fstEq (by assumption) ?_

theorem State.writePieces_kept {r : State} (s : State) (o : Owner) (pc : Nat) (ctx : Nat) (who : Accessor) (deadline : Nat) (ps : List Piece) (bs : List Byte) (h0 : Kept r s) :
    Kept r (State.writePieces s o pc ctx who deadline ps bs).1 := by
  dsimp only [State.writePieces]
  with_reducible repeat' first
    | assumption | intro _ | apply State.checkWrites_kept | apply State.writeEach_kept | split | refine kept_fst (by assumption) ?_
    | refine kept_fstEq (by assumption) ?_

end Sys2Proof.Machine
end

