-- ==== Sys2Proof/Laws/KeptPrograms.lean ====
section
/-! SUPPORT. The queue and the anti-rollback fuses are kept by core instructions, transfers, copies and streams. -/

namespace Sys2Proof.Machine

/-! ### Machine/StatProgram.lean -/

theorem State.statMerge_kept {r : State} (s : State) (cluster : Nat) (ctx : Nat) (step : W32) (t : Slot) (h0 : Kept r s) :
    Kept r (State.statMerge s cluster ctx step t).1 := by
  dsimp only [State.statMerge]
  with_reducible repeat' first
    | assumption | intro _ | apply State.reachVa_kept | apply State.atomicParts_kept | apply State.raise_kept | split
    | refine kept_fst (by assumption) ?_ | refine kept_fstEq (by assumption) ?_ | apply kept_mk rfl

theorem Issue.outcome_kept {r : State} (i : Issue) (s : State) {α : Type} (g : Got α) (addr : Nat) (f : α → State → State) (h0 : Kept r s) (h1 : ∀ x0 x1, Kept r (x1) → Kept r (f x0 x1)) :
    Kept r (Issue.outcome i s g addr f) := by
  dsimp only [Issue.outcome]
  with_reducible repeat' first
    | assumption | intro _ | apply h1 | apply Issue.stall_kept | apply Issue.faultAt_kept | apply State.uncorrectable_kept | split

theorem execSbind_kept {r : State} (k : CoreRef) (s : State) (h0 : Kept r s) :
    KeptE r (execSbind k s) := by
  dsimp only [execSbind]
  with_reducible repeat' first
    | assumption | apply keptE_next | intro _ | apply State.issueRow_kept | apply Issue.regs_kept | apply Issue.done_kept

theorem execSflush_kept {r : State} (k : CoreRef) (s : State) (h0 : Kept r s) :
    KeptE r (execSflush k s) := by
  dsimp only [execSflush]
  with_reducible repeat' first
    | assumption | apply keptE_next | intro _ | apply State.issueRow_kept | apply Issue.fault_kept | apply State.statMerge_kept
    | apply Issue.outcome_kept | apply Issue.done_kept | split | refine kept_fst (by assumption) ?_ | refine kept_fstEq (by assumption) ?_

theorem execSvec_kept {r : State} (k : CoreRef) (s : State) (h0 : Kept r s) :
    KeptE r (execSvec k s) := by
  dsimp only [execSvec]
  with_reducible repeat' first
    | assumption | apply keptE_next | intro _ | apply State.issueRow_kept | apply Issue.fault_kept | apply Issue.done_kept | split

theorem State.flushSlots_kept {r : State} (s : State) (i : Issue) (a2 : List (Nat × Slot)) (h0 : Kept r s) :
    Kept r (State.flushSlots s i a2).1 := by
  induction a2 generalizing s i with
  | nil =>
    dsimp only [State.flushSlots]
    with_reducible repeat' first
      | assumption | intro _ | apply State.statMerge_kept | apply State.setCore_kept | split | refine kept_fst (by assumption) ?_
      | refine kept_fstEq (by assumption) ?_
  | cons x l ih =>
    dsimp only [State.flushSlots]
    with_reducible repeat' first
      | assumption | apply ih | intro _ | apply State.statMerge_kept | apply State.setCore_kept | split | refine kept_fst (by assumption) ?_
      | refine kept_fstEq (by assumption) ?_

/-! ### Machine/Statistics.lean -/

theorem State.cmdWait_kept {r : State} (s : State) (touched : State) (q : CmdRef) (cause : Nat) (h0 : Kept r s) (_h1 : Kept r touched) :
    Kept r (State.cmdWait s touched q cause) := by
  dsimp only [State.cmdWait]
  with_reducible repeat' first
    | assumption | intro _ | apply State.stallOn_kept | apply kept_mk rfl

theorem State.cmdOutcome_kept {r : State} (s : State) (q : CmdRef) (bad : Nat) {α : Type} (r0 : State × Got α) (f : State → α → State) (h0 : Kept r s) (h1 : Kept r r0.1) (h2 : ∀ x0 x1, Kept r (x0) → Kept r (f x0 x1)) :
    Kept r (State.cmdOutcome s q bad r0 f) := by
  dsimp only [State.cmdOutcome]
  with_reducible repeat' first
    | assumption | intro _ | apply h2 | apply State.cmdWait_kept | apply State.complete_kept | apply State.uncorrectable_kept | split
    | refine kept_fst (by assumption) ?_ | refine kept_fstEq (by assumption) ?_

theorem State.closed_kept {r : State} (s : State) (q : CmdRef) (va : Nat) (t : Nat) (tid : Nat) (al : Nat) (held : Bool) (h0 : Kept r s) :
    Kept r (State.closed s q va t tid al held) := by
  dsimp only [State.closed]
  with_reducible repeat' first
    | assumption | intro _ | apply State.raise_kept | split | apply kept_mk rfl

theorem State.readRing_kept {r : State} (s : State) (ctx : Nat) (va : Nat) (c : List Byte) (h0 : Kept r s) :
    Kept r (State.readRing s ctx va c).1 := by
  dsimp only [State.readRing]
  with_reducible repeat' first
    | assumption | intro _ | apply State.readVa_kept | split | refine kept_fst (by assumption) ?_ | refine kept_fstEq (by assumption) ?_

theorem State.closeWrites_kept {r : State} (s : State) (q : CmdRef) (va : Nat) (t : Nat) (r0 : StatRecord) (c : List Byte) (h0 : Kept r s) :
    Kept r (State.closeWrites s q va t r0 c).1 := by
  dsimp only [State.closeWrites]
  with_reducible repeat' first
    | assumption | intro _ | apply State.writeVa_kept | apply State.readRing_kept | apply State.closed_kept | split
    | refine kept_fst (by assumption) ?_ | refine kept_fstEq (by assumption) ?_

theorem State.closeBlock_kept {r : State} (s : State) (q : CmdRef) (va : Nat) (t : Nat) (h0 : Kept r s) :
    Kept r (State.closeBlock s q va t).1 := by
  dsimp only [State.closeBlock]
  with_reducible repeat' first
    | assumption | intro _ | apply State.parts_kept | apply State.readVa_kept | apply State.closeWrites_kept | split
    | refine kept_fst (by assumption) ?_ | refine kept_fstEq (by assumption) ?_

theorem State.closeItem_kept {r : State} (s : State) (q : CmdRef) (va : Nat) (t : Nat) (h0 : Kept r s) :
    Kept r (State.closeItem s q va t).1 := by
  dsimp only [State.closeItem]
  with_reducible repeat' first
    | assumption | intro _ | apply State.closeBlock_kept | split | refine kept_fst (by assumption) ?_ | refine kept_fstEq (by assumption) ?_
    | apply kept_mk rfl

theorem runItems_kept {r : State} (f : State → Nat → State × ItemEnd) (s : State) (i : Nat) (done : Nat) (bad : Option (Nat × Nat)) (a5 : List Nat) (h0 : ∀ x0 x1, Kept r (x0) → Kept r (f x0 x1).1) (h1 : Kept r s) :
    Kept r (runItems f s i done bad a5).1 := by
  induction a5 generalizing s i done bad with
  | nil =>
    dsimp only [runItems]
    with_reducible repeat' first
      | assumption | intro _ | apply h0 | split | refine kept_fst (by assumption) ?_ | refine kept_fstEq (by assumption) ?_
  | cons x l ih =>
    dsimp only [runItems]
    with_reducible repeat' first
      | assumption | apply ih | intro _ | apply h0 | split | refine kept_fst (by assumption) ?_ | refine kept_fstEq (by assumption) ?_

theorem State.listEnd_kept {r : State} (s0 : State) (q : CmdRef) (t : Taken) (r0 : State × ItemEnd × Nat × Option (Nat × Nat)) (h0 : Kept r s0) (h1 : Kept r r0.1) :
    Kept r (State.listEnd s0 q t r0) := by
  dsimp only [State.listEnd]
  with_reducible repeat' first
    | assumption | intro _ | apply State.cmdWait_kept | apply State.uncorrectable_kept | apply State.complete_kept
    | apply State.completionSignal_kept | split | refine kept_fst (by assumption) ?_ | refine kept_fstEq (by assumption) ?_

theorem State.listCommand_kept {r : State} (s : State) (q : CmdRef) (t : Taken) (each : Nat) (f : State → Nat → State × ItemEnd) (items : List Byte → List Nat) (h0 : Kept r s) (h1 : ∀ x0 x1, Kept r (x0) → Kept r (f x0 x1).1) :
    Kept r (State.listCommand s q t each f items) := by
  dsimp only [State.listCommand]
  with_reducible repeat' first
    | assumption | intro _ | apply h1 | apply State.cmdOutcome_kept | apply State.readVa_kept | apply State.listEnd_kept | apply runItems_kept
    | refine kept_fst (by assumption) ?_ | refine kept_fstEq (by assumption) ?_

theorem execStatInit_kept {r : State} (q : CmdRef) (s : State) (h0 : Kept r s) :
    KeptE r (execStatInit q s) := by
  dsimp only [execStatInit]
  with_reducible repeat' first
    | assumption | apply keptE_next | intro _ | apply State.perform_kept | apply State.cmdOutcome_kept | apply State.writeVa_kept
    | apply State.complete_kept | refine kept_fst (by assumption) ?_ | refine kept_fstEq (by assumption) ?_

theorem execStatClose_kept {r : State} (q : CmdRef) (s : State) (h0 : Kept r s) :
    KeptE r (execStatClose q s) := by
  dsimp only [execStatClose]
  with_reducible repeat' first
    | assumption | apply keptE_next | intro _ | apply State.perform_kept | apply State.listCommand_kept | apply State.closeItem_kept
    | refine kept_fst (by assumption) ?_ | refine kept_fstEq (by assumption) ?_

theorem execGscaleInit_kept {r : State} (q : CmdRef) (s : State) (h0 : Kept r s) :
    KeptE r (execGscaleInit q s) := by
  dsimp only [execGscaleInit]
  with_reducible repeat' first
    | assumption | apply keptE_next | intro _ | apply State.perform_kept | apply State.cmdOutcome_kept | apply State.writeVa_kept
    | apply State.complete_kept | refine kept_fst (by assumption) ?_ | refine kept_fstEq (by assumption) ?_

theorem State.advanceEntry_kept {r : State} (s : State) (q : CmdRef) (step : Nat) (pair : Nat) (h0 : Kept r s) :
    Kept r (State.advanceEntry s q step pair).1 := by
  dsimp only [State.advanceEntry]
  with_reducible repeat' first
    | assumption | intro _ | apply State.readVa_kept | apply State.writeVa_kept | apply State.raise_kept | split
    | refine kept_fst (by assumption) ?_ | refine kept_fstEq (by assumption) ?_ | apply kept_mk rfl

theorem execGscaleAdvance_kept {r : State} (q : CmdRef) (s : State) (h0 : Kept r s) :
    KeptE r (execGscaleAdvance q s) := by
  dsimp only [execGscaleAdvance]
  with_reducible repeat' first
    | assumption | apply keptE_next | intro _ | apply State.perform_kept | apply State.listCommand_kept | apply State.advanceEntry_kept
    | refine kept_fst (by assumption) ?_ | refine kept_fstEq (by assumption) ?_

/-! ### Machine/Transfer.lean -/

theorem State.elemPieces_kept {r : State} (s : State) (ctx : Nat) (d : Desc) (who : Accessor) (lo : Nat) (hi : Nat) (index : Nat) (a7 : List Nat) (h0 : Kept r s) :
    Kept r (State.elemPieces s ctx d who lo hi index a7).1 := by
  induction a7 generalizing s ctx d who lo hi index with
  | nil =>
    dsimp only [State.elemPieces]
    with_reducible repeat' first
      | assumption | intro _ | apply State.elemVa_kept | split | refine kept_fst (by assumption) ?_ | refine kept_fstEq (by assumption) ?_
  | cons x l ih =>
    dsimp only [State.elemPieces]
    with_reducible repeat' first
      | assumption | apply ih | intro _ | apply State.elemVa_kept | split | refine kept_fst (by assumption) ?_
      | refine kept_fstEq (by assumption) ?_

theorem State.dataPieces_kept {r : State} (s : State) (ctx : Nat) (d : Desc) (who : Accessor) (lo : Nat) (hi : Nat) (index : Nat) (h0 : Kept r s) :
    Kept r (State.dataPieces s ctx d who lo hi index).1 := by
  dsimp only [State.dataPieces]
  with_reducible repeat' first
    | assumption | intro _ | apply State.elemPieces_kept | refine kept_fst (by assumption) ?_ | refine kept_fstEq (by assumption) ?_

theorem State.askPiece_kept {r : State} (s : State) (o : Owner) (pc : Nat) (ctx : Nat) (who : Accessor) (noalloc : Bool) (write : Bool) (deadline : Nat) (p : Piece) (h0 : Kept r s) :
    Kept r (State.askPiece s o pc ctx who noalloc write deadline p).1 := by
  dsimp only [State.askPiece]
  with_reducible repeat' first
    | assumption | intro _ | apply State.parts_kept | apply State.readPiece_kept | split | refine kept_fst (by assumption) ?_
    | refine kept_fstEq (by assumption) ?_

theorem State.askPieces_kept {r : State} (s : State) (o : Owner) (pc : Nat) (ctx : Nat) (who : Accessor) (noalloc : Bool) (write : Bool) (deadline : Nat) (a8 : List Piece) (h0 : Kept r s) :
    Kept r (State.askPieces s o pc ctx who noalloc write deadline a8).1 := by
  induction a8 generalizing s o pc ctx who noalloc write deadline with
  | nil =>
    dsimp only [State.askPieces]
    with_reducible repeat' first
      | assumption | intro _ | apply State.askPiece_kept | split | refine kept_fst (by assumption) ?_ | refine kept_fstEq (by assumption) ?_
  | cons x l ih =>
    dsimp only [State.askPieces]
    with_reducible repeat' first
      | assumption | apply ih | intro _ | apply State.askPiece_kept | split | refine kept_fst (by assumption) ?_
      | refine kept_fstEq (by assumption) ?_

theorem State.gatherPieces_kept {r : State} (s : State) (o : Owner) (pc : Nat) (ctx : Nat) (who : Accessor) (noalloc : Bool) (deadline : Nat) (ps : List Piece) (h0 : Kept r s) :
    Kept r (State.gatherPieces s o pc ctx who noalloc deadline ps).1 := by
  dsimp only [State.gatherPieces]
  with_reducible repeat' first
    | assumption | intro _ | apply State.askPieces_kept | apply State.readPieces_kept | split | refine kept_fst (by assumption) ?_
    | refine kept_fstEq (by assumption) ?_

theorem State.scatterPieces_kept {r : State} (s : State) (o : Owner) (pc : Nat) (ctx : Nat) (who : Accessor) (deadline : Nat) (whole : Bool) (ps : List Piece) (bs : List Byte) (h0 : Kept r s) :
    Kept r (State.scatterPieces s o pc ctx who deadline whole ps bs).1 := by
  dsimp only [State.scatterPieces]
  with_reducible repeat' first
    | assumption | intro _ | apply State.askPieces_kept | apply State.writeEach_kept | split | refine kept_fst (by assumption) ?_
    | refine kept_fstEq (by assumption) ?_

theorem State.late_kept {r : State} (s : State) (ctx : Nat) (src : Nat) (who : Nat) (deadline : Nat) (landed : Nat) (cause : Nat) (h0 : Kept r s) :
    Kept r (State.late s ctx src who deadline landed cause) := by
  dsimp only [State.late]
  with_reducible repeat' first
    | assumption | intro _ | apply State.raise_kept | apply kept_mk rfl

theorem State.updXfer_kept {r : State} (s : State) (k : CoreRef) (tag : Nat) (f : Xfer → Xfer) (h0 : Kept r s) :
    Kept r (State.updXfer s k tag f) := by
  dsimp only [State.updXfer]
  with_reducible repeat' first
    | assumption | intro _ | apply State.setCore_kept | split

theorem State.updDay_kept {r : State} (s : State) (k : CoreRef) (dtag : Nat) (f : Day → Day) (h0 : Kept r s) :
    Kept r (State.updDay s k dtag f) := by
  dsimp only [State.updDay]
  with_reducible repeat' first
    | assumption | intro _ | apply State.setCore_kept | split

theorem State.xferLate_kept {r : State} (s : State) (k : CoreRef) (tag : Nat) (h0 : Kept r s) :
    Kept r (State.xferLate s k tag) := by
  dsimp only [State.xferLate]
  with_reducible repeat' first
    | assumption | intro _ | apply State.late_kept | apply State.updXfer_kept | split

theorem State.xferPieces_kept {r : State} (s : State) (ctx : Nat) (d : Desc) (h0 : Kept r s) :
    Kept r (State.xferPieces s ctx d).1 := by
  dsimp only [State.xferPieces]
  with_reducible repeat' first
    | assumption | intro _ | apply State.dataPieces_kept | refine kept_fst (by assumption) ?_ | refine kept_fstEq (by assumption) ?_

theorem execXfer_kept {r : State} (k : CoreRef) (s : State) (h0 : Kept r s) :
    KeptE r (execXfer k s) := by
  dsimp only [execXfer]
  with_reducible repeat' first
    | assumption | apply keptE_next | intro _ | apply State.issueRow_kept | apply Issue.fault_kept | apply Issue.faultAt_kept
    | apply Issue.reading_kept | apply Issue.hazard_kept | apply State.xferLate_kept | apply Issue.done_kept | apply State.xferPieces_kept
    | apply State.askPieces_kept | apply State.uncorrectable_kept | split | refine kept_fst (by assumption) ?_
    | refine kept_fstEq (by assumption) ?_

theorem State.lateOutcome_kept {r : State} (s : State) (k : CoreRef) (pc : Nat) (reader : Nat) {α : Type} (r0 : Got α × Nat) (drop : State → State) (held : State → Nat → State) (f : State → α → State) (h0 : Kept r s) (h1 : ∀ x0, Kept r (x0) → Kept r (drop x0)) (h2 : ∀ x0 x1, Kept r (x0) → Kept r (held x0 x1)) (h3 : ∀ x0 x1, Kept r (x0) → Kept r (f x0 x1)) :
    Kept r (State.lateOutcome s k pc reader r0 drop held f) := by
  dsimp only [State.lateOutcome]
  with_reducible repeat' first
    | assumption | intro _ | apply h1 | apply h2 | apply h3 | apply State.lateFault_kept | apply State.uncorrectable_kept | split

theorem State.dropXfer_kept {r : State} (s : State) (k : CoreRef) (tag : Fin 8) (h0 : Kept r s) :
    Kept r (State.dropXfer s k tag) := by
  dsimp only [State.dropXfer]
  with_reducible repeat' first
    | assumption | intro _ | apply State.dropRemotes_kept | apply State.setCore_kept

theorem State.dropDay_kept {r : State} (s : State) (k : CoreRef) (dtag : Fin 16) (h0 : Kept r s) :
    Kept r (State.dropDay s k dtag) := by
  dsimp only [State.dropDay]
  with_reducible repeat' first
    | assumption | intro _ | apply State.dropRemotes_kept | apply State.setCore_kept

theorem State.sourceRead_kept {r : State} (s : State) (k : CoreRef) (sent : Bool) (off : Nat) (n : Nat) (ctx : Nat) (h0 : Kept r s) :
    Kept r (State.sourceRead s k sent off n ctx).1 := by
  dsimp only [State.sourceRead]
  with_reducible repeat' first
    | assumption | intro _ | apply State.sramRead_kept | split | refine kept_fst (by assumption) ?_ | refine kept_fstEq (by assumption) ?_

theorem State.xferMove_kept {r : State} (s : State) (k : CoreRef) (tag : Fin 8) (x : Xfer) (ps : List Piece) (h0 : Kept r s) :
    Kept r (State.xferMove s k tag x ps) := by
  dsimp only [State.xferMove]
  with_reducible repeat' first
    | assumption | intro _ | apply State.updXfer_kept | apply State.sourceRead_kept | apply State.scatterPieces_kept
    | apply State.lateOutcome_kept | apply State.dropXfer_kept | apply State.gatherPieces_kept | apply State.setCore_kept | split
    | refine kept_fst (by assumption) ?_ | refine kept_fstEq (by assumption) ?_

theorem execTransferComplete_kept {r : State} (k : CoreRef) (tag : Fin 8) (s : State) (h0 : Kept r s) :
    KeptE r (execTransferComplete k tag s) := by
  dsimp only [execTransferComplete]
  with_reducible repeat' first
    | assumption | apply keptE_next | intro _ | apply State.xferLate_kept | apply State.xferPieces_kept | apply State.lateOutcome_kept
    | apply State.dropXfer_kept | apply State.updXfer_kept | apply State.xferMove_kept | split | refine kept_fst (by assumption) ?_
    | refine kept_fstEq (by assumption) ?_

theorem execXwait_kept {r : State} (k : CoreRef) (s : State) (h0 : Kept r s) :
    KeptE r (execXwait k s) := by
  dsimp only [execXwait]
  with_reducible repeat' first
    | assumption | apply keptE_next | intro _ | apply State.issueRow_kept | apply Issue.fault_kept | apply Issue.hazard_kept
    | apply Issue.done_kept | split

theorem State.bufferRead_kept {r : State} (s : State) (cluster : Nat) (ctx : Nat) (a3 : List Nat) (h0 : Kept r s) :
    Kept r (State.bufferRead s cluster ctx a3).1 := by
  induction a3 generalizing s cluster ctx with
  | nil =>
    dsimp only [State.bufferRead]
    with_reducible repeat' first
      | assumption | intro _ | apply State.sramRead_kept | split | refine kept_fst (by assumption) ?_ | refine kept_fstEq (by assumption) ?_
  | cons x l ih =>
    dsimp only [State.bufferRead]
    with_reducible repeat' first
      | assumption | apply ih | intro _ | apply State.sramRead_kept | split | refine kept_fst (by assumption) ?_
      | refine kept_fstEq (by assumption) ?_

theorem execCbld_kept {r : State} (k : CoreRef) (s : State) (h0 : Kept r s) :
    KeptE r (execCbld k s) := by
  dsimp only [execCbld]
  with_reducible repeat' first
    | assumption | apply keptE_next | intro _ | apply State.issueRow_kept | apply Issue.regs_kept | apply Issue.faultAt_kept
    | apply Issue.writing_kept | apply State.bufferRead_kept | apply Issue.done_kept | split | refine kept_fst (by assumption) ?_
    | refine kept_fstEq (by assumption) ?_

theorem execCbst_kept {r : State} (k : CoreRef) (s : State) (h0 : Kept r s) :
    KeptE r (execCbst k s) := by
  dsimp only [execCbst]
  with_reducible repeat' first
    | assumption | apply keptE_next | intro _ | apply State.issueRow_kept | apply Issue.regs_kept | apply Issue.faultAt_kept
    | apply Issue.reading_kept | apply Issue.done_kept | apply State.setCluster_kept | split

theorem execCredit_kept {r : State} (k : CoreRef) (s : State) (h0 : Kept r s) :
    KeptE r (execCredit k s) := by
  dsimp only [execCredit]
  with_reducible repeat' first
    | assumption | apply keptE_next | intro _ | apply State.issueRow_kept | apply Issue.regs_kept | apply Issue.fault_kept
    | apply State.publish_kept | apply Issue.done_kept | apply State.setCluster_kept | split

theorem execSwait_kept {r : State} (k : CoreRef) (s : State) (h0 : Kept r s) :
    KeptE r (execSwait k s) := by
  dsimp only [execSwait]
  with_reducible repeat' first
    | assumption | apply keptE_next | intro _ | apply State.issueRow_kept | apply Issue.regs_kept | apply Issue.done_kept
    | apply Issue.stall_kept | split

theorem daypack_kept {r : State} (op : Nat) (put : Bool) (k : CoreRef) (s : State) (h0 : Kept r s) :
    Kept r (daypack op put k s) := by
  dsimp only [daypack]
  with_reducible repeat' first
    | assumption | intro _ | apply State.issueRow_kept | apply Issue.regs_kept | apply Issue.fault_kept | apply Issue.faultAt_kept
    | apply Issue.hazard_kept | apply Issue.done_kept | apply State.askPiece_kept | apply State.uncorrectable_kept | split
    | refine kept_fst (by assumption) ?_ | refine kept_fstEq (by assumption) ?_

theorem execDpGet_kept {r : State} (k : CoreRef) (s : State) (h0 : Kept r s) :
    KeptE r (execDpGet k s) := by
  dsimp only [execDpGet]
  with_reducible repeat' first
    | assumption | apply keptE_next | intro _ | apply daypack_kept

theorem execDpPut_kept {r : State} (k : CoreRef) (s : State) (h0 : Kept r s) :
    KeptE r (execDpPut k s) := by
  dsimp only [execDpPut]
  with_reducible repeat' first
    | assumption | apply keptE_next | intro _ | apply daypack_kept

theorem execDpWait_kept {r : State} (k : CoreRef) (s : State) (h0 : Kept r s) :
    KeptE r (execDpWait k s) := by
  dsimp only [execDpWait]
  with_reducible repeat' first
    | assumption | apply keptE_next | intro _ | apply State.issueRow_kept | apply Issue.hazard_kept | apply Issue.done_kept | split

theorem State.applyAtom_kept {r : State} (s : State) (ctx : Nat) (aop : Nat) (n : Nat) (pa : Nat) (x : W64) (y : W64) (line : List Byte) (h0 : Kept r s) :
    Kept r (State.applyAtom s ctx aop n pa x y line).1 := by
  dsimp only [State.applyAtom]
  with_reducible repeat' first
    | assumption | intro _ | split | refine kept_fst (by assumption) ?_ | refine kept_fstEq (by assumption) ?_ | apply kept_mk rfl

theorem State.tryAtom_kept {r : State} (s : State) (ctx : Nat) (aop : Nat) (n : Nat) (va : Nat) (x : W64) (y : W64) (line : List Byte) (h0 : Kept r s) :
    Kept r (State.tryAtom s ctx aop n va x y line).1 := by
  dsimp only [State.tryAtom]
  with_reducible repeat' first
    | assumption | intro _ | apply State.reachVa_kept | apply State.applyAtom_kept | split | refine kept_fst (by assumption) ?_
    | refine kept_fstEq (by assumption) ?_

theorem daypackAtom_kept {r : State} (aop : Nat) (k : CoreRef) (s : State) (h0 : Kept r s) :
    Kept r (daypackAtom aop k s) := by
  dsimp only [daypackAtom]
  with_reducible repeat' first
    | assumption | intro _ | apply State.issueRow_kept | apply Issue.fault_kept | apply Issue.regs_kept | apply Issue.faultAt_kept
    | apply Issue.reading_kept | apply Issue.done_kept | apply State.tryAtom_kept | apply State.uncorrectable_kept | split
    | refine kept_fst (by assumption) ?_ | refine kept_fstEq (by assumption) ?_

theorem execDpAtomAddFp32_kept {r : State} (k : CoreRef) (s : State) (h0 : Kept r s) :
    KeptE r (execDpAtomAddFp32 k s) := by
  dsimp only [execDpAtomAddFp32]
  with_reducible repeat' first
    | assumption | apply keptE_next | intro _ | apply daypackAtom_kept

theorem execDpAtomAddBf16_kept {r : State} (k : CoreRef) (s : State) (h0 : Kept r s) :
    KeptE r (execDpAtomAddBf16 k s) := by
  dsimp only [execDpAtomAddBf16]
  with_reducible repeat' first
    | assumption | apply keptE_next | intro _ | apply daypackAtom_kept

theorem execDpAtomAddInt32_kept {r : State} (k : CoreRef) (s : State) (h0 : Kept r s) :
    KeptE r (execDpAtomAddInt32 k s) := by
  dsimp only [execDpAtomAddInt32]
  with_reducible repeat' first
    | assumption | apply keptE_next | intro _ | apply daypackAtom_kept

theorem execDpAtomAddInt64_kept {r : State} (k : CoreRef) (s : State) (h0 : Kept r s) :
    KeptE r (execDpAtomAddInt64 k s) := by
  dsimp only [execDpAtomAddInt64]
  with_reducible repeat' first
    | assumption | apply keptE_next | intro _ | apply daypackAtom_kept

theorem execDpAtomMinFp32_kept {r : State} (k : CoreRef) (s : State) (h0 : Kept r s) :
    KeptE r (execDpAtomMinFp32 k s) := by
  dsimp only [execDpAtomMinFp32]
  with_reducible repeat' first
    | assumption | apply keptE_next | intro _ | apply daypackAtom_kept

theorem execDpAtomMinBf16_kept {r : State} (k : CoreRef) (s : State) (h0 : Kept r s) :
    KeptE r (execDpAtomMinBf16 k s) := by
  dsimp only [execDpAtomMinBf16]
  with_reducible repeat' first
    | assumption | apply keptE_next | intro _ | apply daypackAtom_kept

theorem execDpAtomMaxFp32_kept {r : State} (k : CoreRef) (s : State) (h0 : Kept r s) :
    KeptE r (execDpAtomMaxFp32 k s) := by
  dsimp only [execDpAtomMaxFp32]
  with_reducible repeat' first
    | assumption | apply keptE_next | intro _ | apply daypackAtom_kept

theorem execDpAtomMaxBf16_kept {r : State} (k : CoreRef) (s : State) (h0 : Kept r s) :
    KeptE r (execDpAtomMaxBf16 k s) := by
  dsimp only [execDpAtomMaxBf16]
  with_reducible repeat' first
    | assumption | apply keptE_next | intro _ | apply daypackAtom_kept

theorem execDpAtomAnd_kept {r : State} (k : CoreRef) (s : State) (h0 : Kept r s) :
    KeptE r (execDpAtomAnd k s) := by
  dsimp only [execDpAtomAnd]
  with_reducible repeat' first
    | assumption | apply keptE_next | intro _ | apply daypackAtom_kept

theorem execDpAtomOr_kept {r : State} (k : CoreRef) (s : State) (h0 : Kept r s) :
    KeptE r (execDpAtomOr k s) := by
  dsimp only [execDpAtomOr]
  with_reducible repeat' first
    | assumption | apply keptE_next | intro _ | apply daypackAtom_kept

theorem execDpAtomXor_kept {r : State} (k : CoreRef) (s : State) (h0 : Kept r s) :
    KeptE r (execDpAtomXor k s) := by
  dsimp only [execDpAtomXor]
  with_reducible repeat' first
    | assumption | apply keptE_next | intro _ | apply daypackAtom_kept

theorem execDpAtomExchange_kept {r : State} (k : CoreRef) (s : State) (h0 : Kept r s) :
    KeptE r (execDpAtomExchange k s) := by
  dsimp only [execDpAtomExchange]
  with_reducible repeat' first
    | assumption | apply keptE_next | intro _ | apply daypackAtom_kept

theorem execDpAtomCompareExchange_kept {r : State} (k : CoreRef) (s : State) (h0 : Kept r s) :
    KeptE r (execDpAtomCompareExchange k s) := by
  dsimp only [execDpAtomCompareExchange]
  with_reducible repeat' first
    | assumption | apply keptE_next | intro _ | apply daypackAtom_kept

theorem execDpAtomLineAdd_kept {r : State} (k : CoreRef) (s : State) (h0 : Kept r s) :
    KeptE r (execDpAtomLineAdd k s) := by
  dsimp only [execDpAtomLineAdd]
  with_reducible repeat' first
    | assumption | apply keptE_next | intro _ | apply daypackAtom_kept

theorem execDaypackComplete_kept {r : State} (k : CoreRef) (dtag : Fin 16) (s : State) (h0 : Kept r s) :
    KeptE r (execDaypackComplete k dtag s) := by
  dsimp only [execDaypackComplete]
  with_reducible repeat' first
    | assumption | apply keptE_next | intro _ | apply State.updDay_kept | apply State.dropDay_kept | apply State.setCore_kept
    | apply State.tryAtom_kept | apply State.lateOutcome_kept | apply State.gatherPieces_kept | apply State.sourceRead_kept
    | apply State.scatterPieces_kept | split | refine kept_fst (by assumption) ?_ | refine kept_fstEq (by assumption) ?_

/-! ### Machine/Pack.lean -/

theorem State.packGather_kept {r : State} (s : State) (u : PackUser) (run : PackRun) (va : Nat) (index : Nat) (deadline : Nat) (h0 : Kept r s) :
    Kept r (State.packGather s u run va index deadline).1 := by
  dsimp only [State.packGather]
  with_reducible repeat' first
    | assumption | intro _ | apply State.partsWhen_kept | apply State.raiseLimited_kept | apply State.startL0_kept | apply State.raise_kept
    | split | refine kept_fst (by assumption) ?_ | refine kept_fstEq (by assumption) ?_ | apply kept_mk rfl

theorem State.packTable_kept {r : State} (s : State) (u : PackUser) (run : PackRun) (d : Desc) (deadline : Nat) (h0 : Kept r s) :
    Kept r (State.packTable s u run d deadline).1 := by
  dsimp only [State.packTable]
  with_reducible repeat' first
    | assumption | intro _ | apply State.readVa_kept | apply State.raise_kept | split | refine kept_fst (by assumption) ?_
    | refine kept_fstEq (by assumption) ?_

theorem State.packing_kept {r : State} (s : State) (h0 : Kept r s) :
    Kept r (State.packing s).1 := by
  dsimp only [State.packing]
  with_reducible repeat' first
    | assumption | intro _ | apply State.free_kept | split | refine kept_fst (by assumption) ?_ | refine kept_fstEq (by assumption) ?_
    | refine kept_snd (by assumption) ?_

theorem State.packScatter_kept {r : State} (s : State) (u : PackUser) (run : PackRun) (va : Nat) (deadline : Nat) (x : List Byte) (h0 : Kept r s) :
    Kept r (State.packScatter s u run va deadline x).1 := by
  dsimp only [State.packScatter]
  with_reducible repeat' first
    | assumption | intro _ | apply State.packing_kept | apply State.partsWhen_kept | apply State.settleWc_kept | split
    | refine kept_fst (by assumption) ?_ | refine kept_fstEq (by assumption) ?_ | apply kept_mk rfl

theorem State.packMerge_kept {r : State} (s : State) (u : PackUser) (run : PackRun) (d : Desc) (deadline : Nat) (h0 : Kept r s) :
    Kept r (State.packMerge s u run d deadline).1 := by
  dsimp only [State.packMerge]
  with_reducible repeat' first
    | assumption | intro _ | apply foldl_kept | apply foldl_keptP | apply State.reachVa_kept | apply State.settleWc_kept | split
    | refine kept_fst (by assumption) ?_ | refine kept_fstEq (by assumption) ?_ | apply kept_mk rfl

/-! ### Machine/Streams.lean -/

theorem State.sideReady_kept {r : State} (s : State) (m : Mover) (d : Desc) (ring : Option RingSide) (lo : Nat) (hi : Nat) (h0 : Kept r s) :
    Kept r (State.sideReady s m d ring lo hi).1 := by
  dsimp only [State.sideReady]
  with_reducible repeat' first
    | assumption | intro _ | apply State.askPieces_kept | split | refine kept_fst (by assumption) ?_ | refine kept_fstEq (by assumption) ?_

theorem State.sideWrite_kept {r : State} (s : State) (m : Mover) (d : Desc) (ring : Option RingSide) (lo : Nat) (hi : Nat) (bs : List Byte) (h0 : Kept r s) :
    Kept r (State.sideWrite s m d ring lo hi bs).1 := by
  dsimp only [State.sideWrite]
  with_reducible repeat' first
    | assumption | intro _ | apply foldl_kept | apply foldl_keptP | apply State.setCluster_kept | apply State.scatterPieces_kept | split
    | refine kept_fst (by assumption) ?_ | refine kept_fstEq (by assumption) ?_

theorem State.sideRead_kept {r : State} (s : State) (m : Mover) (d : Desc) (ring : Option RingSide) (lo : Nat) (hi : Nat) (h0 : Kept r s) :
    Kept r (State.sideRead s m d ring lo hi).1 := by
  dsimp only [State.sideRead]
  with_reducible repeat' first
    | assumption | intro _ | apply State.bufferRead_kept | apply State.gatherPieces_kept | split | refine kept_fst (by assumption) ?_
    | refine kept_fstEq (by assumption) ?_

theorem State.groupRead_kept {r : State} (s : State) (m : Mover) (d : Desc) (run : PackRun) (lo : Nat) (hi : Nat) (h0 : Kept r s) :
    Kept r (State.groupRead s m d run lo hi).1 := by
  dsimp only [State.groupRead]
  with_reducible repeat' first
    | assumption | intro _ | apply State.elemVa_kept | apply State.packGather_kept | apply State.dataPieces_kept | apply State.gatherPieces_kept
    | split | refine kept_fst (by assumption) ?_ | refine kept_fstEq (by assumption) ?_

theorem State.groupWrite_kept {r : State} (s : State) (m : Mover) (d : Desc) (run : PackRun) (lo : Nat) (hi : Nat) (bs : List Byte) (h0 : Kept r s) :
    Kept r (State.groupWrite s m d run lo hi bs).1 := by
  dsimp only [State.groupWrite]
  with_reducible repeat' first
    | assumption | intro _ | apply State.packTable_kept | apply State.elemVa_kept | apply State.packScatter_kept | apply State.dataPieces_kept
    | apply State.scatterPieces_kept | split | refine kept_fst (by assumption) ?_ | refine kept_fstEq (by assumption) ?_

theorem State.moveGroup_kept {r : State} (s : State) (m : Mover) (d : Desc) (ring : Option RingSide) (run : PackRun) (lo : Nat) (hi : Nat) (h0 : Kept r s) :
    Kept r (State.moveGroup s m d ring run lo hi).1 := by
  dsimp only [State.moveGroup]
  with_reducible repeat' first
    | assumption | intro _ | apply State.sideRead_kept | apply State.groupWrite_kept | apply State.sideReady_kept | apply State.groupRead_kept
    | apply State.sideWrite_kept | split | refine kept_fst (by assumption) ?_ | refine kept_fstEq (by assumption) ?_

theorem State.readTag_kept {r : State} (s : State) (m : Mover) (d : Desc) (reported : Bool) (h0 : Kept r s) :
    Kept r (State.readTag s m d reported).1 := by
  dsimp only [State.readTag]
  with_reducible repeat' first
    | assumption | intro _ | apply State.readPiece_kept | apply State.raise_kept | split | refine kept_fst (by assumption) ?_
    | refine kept_fstEq (by assumption) ?_ | apply kept_mk rfl

theorem State.setStream_kept {r : State} (s : State) (c : Nat) (sid : Nat) (x : Stream) (h0 : Kept r s) :
    Kept r (State.setStream s c sid x) := by
  dsimp only [State.setStream]
  with_reducible repeat' first
    | assumption | intro _ | apply State.setCluster_kept

theorem State.dropStream_kept {r : State} (s : State) (c : ClusterNo) (sid : Fin 64) (h0 : Kept r s) :
    Kept r (State.dropStream s c sid) := by
  dsimp only [State.dropStream]
  with_reducible repeat' first
    | assumption | intro _ | apply State.stallOff_kept | apply State.dropRemotes_kept | apply State.setCluster_kept

theorem State.streamBad_kept {r : State} (s : State) (c : ClusterNo) (sid : Fin 64) (x : Stream) {α : Type} (g : PackGot α) (addr : Nat) (h0 : Kept r s) :
    Kept r (State.streamBad s c sid x g addr) := by
  dsimp only [State.streamBad]
  with_reducible repeat' first
    | assumption | intro _ | apply State.stallOn_kept | apply State.lateFault_kept | apply State.dropStream_kept | apply State.uncorrectable_kept
    | split

theorem State.streamLate_kept {r : State} (s : State) (c : ClusterNo) (sid : Fin 64) (h0 : Kept r s) :
    Kept r (State.streamLate s c sid) := by
  dsimp only [State.streamLate]
  with_reducible repeat' first
    | assumption | intro _ | apply State.late_kept | apply State.setStream_kept | split

theorem State.streamTag_kept {r : State} (s : State) (c : ClusterNo) (sid : Fin 64) (h0 : Kept r s) :
    Kept r (State.streamTag s c sid) := by
  dsimp only [State.streamTag]
  with_reducible repeat' first
    | assumption | intro _ | apply State.readTag_kept | apply State.setStream_kept | apply State.stallOff_kept | apply State.stallOn_kept
    | apply State.streamBad_kept | split | refine kept_fst (by assumption) ?_ | refine kept_fstEq (by assumption) ?_

theorem execStream_kept {r : State} (k : CoreRef) (s : State) (h0 : Kept r s) :
    KeptE r (execStream k s) := by
  dsimp only [execStream]
  with_reducible repeat' first
    | assumption | apply keptE_next | intro _ | apply State.issueRow_kept | apply Issue.faultAt_kept | apply Issue.fault_kept
    | apply Issue.reading_kept | apply State.publish_kept | apply Issue.done_kept | apply State.setStream_kept | apply State.streamLate_kept
    | apply State.streamTag_kept | apply State.setCluster_kept | split

theorem execStreamRequestIssue_kept {r : State} (c : ClusterNo) (sid : Fin 64) (s : State) (h0 : Kept r s) :
    KeptE r (execStreamRequestIssue c sid s) := by
  dsimp only [execStreamRequestIssue]
  with_reducible repeat' first
    | assumption | apply keptE_next | intro _ | apply State.stallOff_kept | apply State.setStream_kept | apply State.dataPieces_kept
    | apply State.askPieces_kept | apply State.streamBad_kept | apply State.stallOn_kept | apply State.setCluster_kept | split
    | refine kept_fst (by assumption) ?_ | refine kept_fstEq (by assumption) ?_

theorem State.endStream_kept {r : State} (s : State) (c : ClusterNo) (sid : Fin 64) (y : Stream) (h0 : Kept r s) :
    Kept r (State.endStream s c sid y) := by
  dsimp only [State.endStream]
  with_reducible repeat' first
    | assumption | intro _ | apply State.packMerge_kept | apply State.dropStream_kept | apply State.streamLate_kept | apply State.setStream_kept
    | apply State.completionSignal_kept | apply State.streamBad_kept | split | refine kept_fst (by assumption) ?_
    | refine kept_fstEq (by assumption) ?_

theorem execStreamUnitLanded_kept {r : State} (c : ClusterNo) (sid : Fin 64) (unit : Nat) (s : State) (h0 : Kept r s) :
    KeptE r (execStreamUnitLanded c sid unit s) := by
  dsimp only [execStreamUnitLanded]
  with_reducible repeat' first
    | assumption | apply keptE_next | intro _ | apply State.endStream_kept | apply State.moveGroup_kept | apply State.progress_kept
    | apply State.stallOff_kept | apply State.setStream_kept | apply State.streamBad_kept | split | refine kept_fst (by assumption) ?_
    | refine kept_fstEq (by assumption) ?_

theorem State.setCopy_kept {r : State} (s : State) (x : Copy) (h0 : Kept r s) :
    Kept r (State.setCopy s x) := by
  dsimp only [State.setCopy]
  with_reducible repeat' first
    | assumption | intro _ | apply kept_mk rfl

theorem State.endCopy_kept {r : State} (s : State) (x : Copy) (status : Nat) (h0 : Kept r s) :
    Kept r (State.endCopy s x status) := by
  dsimp only [State.endCopy]
  with_reducible repeat' first
    | assumption | intro _ | apply State.complete_kept | apply State.dropRemotes_kept | apply State.completionSignal_kept | split
    | apply kept_mk rfl

theorem State.copyBad_kept {r : State} (s : State) (x : Copy) {α : Type} (g : PackGot α) (h0 : Kept r s) :
    Kept r (State.copyBad s x g) := by
  dsimp only [State.copyBad]
  with_reducible repeat' first
    | assumption | intro _ | apply State.stallOn_kept | apply State.endCopy_kept | apply State.uncorrectable_kept | split

theorem State.copyLate_kept {r : State} (s : State) (q : CmdRef) (h0 : Kept r s) :
    Kept r (State.copyLate s q) := by
  dsimp only [State.copyLate]
  with_reducible repeat' first
    | assumption | intro _ | apply State.late_kept | apply State.setCopy_kept | split

theorem State.copyTag_kept {r : State} (s : State) (q : CmdRef) (h0 : Kept r s) :
    Kept r (State.copyTag s q) := by
  dsimp only [State.copyTag]
  with_reducible repeat' first
    | assumption | intro _ | apply State.readTag_kept | apply State.setCopy_kept | apply State.stallOff_kept | apply State.stallOn_kept
    | apply State.copyBad_kept | split | refine kept_fst (by assumption) ?_ | refine kept_fstEq (by assumption) ?_

theorem execCopy_kept {r : State} (q : CmdRef) (s : State) (h0 : Kept r s) :
    KeptE r (execCopy q s) := by
  dsimp only [execCopy]
  with_reducible repeat' first
    | assumption | apply keptE_next | intro _ | apply State.perform_kept | apply State.complete_kept | apply State.startTaken_kept
    | apply State.copyLate_kept | apply State.copyTag_kept | split | apply kept_mk rfl

theorem State.copyGroups_kept {r : State} (s : State) (x : Copy) (a2 : Nat) (h0 : Kept r s) :
    Kept r (State.copyGroups s x a2).1 := by
  induction a2 generalizing s x with
  | zero =>
    dsimp only [State.copyGroups]
    with_reducible repeat' first
      | assumption | intro _ | apply State.moveGroup_kept | apply State.progress_kept | split | refine kept_fst (by assumption) ?_
      | refine kept_fstEq (by assumption) ?_
  | succ n ih =>
    dsimp only [State.copyGroups]
    with_reducible repeat' first
      | assumption | apply ih | intro _ | apply State.moveGroup_kept | apply State.progress_kept | split | refine kept_fst (by assumption) ?_
      | refine kept_fstEq (by assumption) ?_

theorem execCopyComplete_kept {r : State} (q : CmdRef) (s : State) (h0 : Kept r s) :
    KeptE r (execCopyComplete q s) := by
  dsimp only [execCopyComplete]
  with_reducible repeat' first
    | assumption | apply keptE_next | intro _ | apply State.copyLate_kept | apply State.copyGroups_kept | apply State.packMerge_kept
    | apply State.endCopy_kept | apply State.copyBad_kept | apply State.setCopy_kept | split | refine kept_fst (by assumption) ?_
    | refine kept_fstEq (by assumption) ?_

theorem execStreamTagReread_kept {r : State} (r0 : StreamRef) (s : State) (h0 : Kept r s) :
    KeptE r (execStreamTagReread r0 s) := by
  dsimp only [execStreamTagReread]
  with_reducible repeat' first
    | assumption | apply keptE_next | intro _ | apply State.streamTag_kept | apply State.copyTag_kept | split

theorem execStreamDeadlineExpiry_kept {r : State} (r0 : StreamRef) (s : State) (h0 : Kept r s) :
    KeptE r (execStreamDeadlineExpiry r0 s) := by
  dsimp only [execStreamDeadlineExpiry]
  with_reducible repeat' first
    | assumption | apply keptE_next | intro _ | apply State.streamLate_kept | apply State.copyLate_kept | apply State.xferLate_kept | split

theorem execStallReportTimeout_kept {r : State} (c : Ctx) (unit : StallUnit) (s : State) (h0 : Kept r s) :
    KeptE r (execStallReportTimeout c unit s) := by
  dsimp only [execStallReportTimeout]
  with_reducible repeat' first
    | assumption | apply keptE_next | intro _ | apply State.raise_kept | split | apply kept_mk rfl

/-! ### Machine/Scan.lean -/

theorem scanIssue_kept {r : State} (sop : Nat) (k : CoreRef) (s : State) (h0 : Kept r s) :
    Kept r (scanIssue sop k s) := by
  dsimp only [scanIssue]
  with_reducible repeat' first
    | assumption | intro _ | apply State.issueRow_kept | apply Issue.fault_kept | apply State.setCore_kept | apply State.setCluster_kept | split

theorem execScanAffine_kept {r : State} (k : CoreRef) (s : State) (h0 : Kept r s) :
    KeptE r (execScanAffine k s) := by
  dsimp only [execScanAffine]
  with_reducible repeat' first
    | assumption | apply keptE_next | intro _ | apply scanIssue_kept

theorem execScanAddF32_kept {r : State} (k : CoreRef) (s : State) (h0 : Kept r s) :
    KeptE r (execScanAddF32 k s) := by
  dsimp only [execScanAddF32]
  with_reducible repeat' first
    | assumption | apply keptE_next | intro _ | apply scanIssue_kept

theorem execScanAddI32_kept {r : State} (k : CoreRef) (s : State) (h0 : Kept r s) :
    KeptE r (execScanAddI32 k s) := by
  dsimp only [execScanAddI32]
  with_reducible repeat' first
    | assumption | apply keptE_next | intro _ | apply scanIssue_kept

theorem execScanMaxF32_kept {r : State} (k : CoreRef) (s : State) (h0 : Kept r s) :
    KeptE r (execScanMaxF32 k s) := by
  dsimp only [execScanMaxF32]
  with_reducible repeat' first
    | assumption | apply keptE_next | intro _ | apply scanIssue_kept

theorem execScanBarrier_kept {r : State} (k : CoreRef) (s : State) (h0 : Kept r s) :
    KeptE r (execScanBarrier k s) := by
  dsimp only [execScanBarrier]
  with_reducible repeat' first
    | assumption | apply keptE_next | intro _ | apply scanIssue_kept

theorem execScanChain_kept {r : State} (c : ClusterNo) (s : State) (h0 : Kept r s) :
    KeptE r (execScanChain c s) := by
  dsimp only [execScanChain]
  with_reducible repeat' first
    | assumption | apply keptE_next | intro _ | apply foldl_kept | apply foldl_keptP | apply State.progFault_kept | apply State.setCluster_kept
    | apply State.engineProgress_kept | split

/-! ### Machine/Branch.lean -/

theorem execBr_kept {r : State} (k : CoreRef) (s : State) (h0 : Kept r s) :
    KeptE r (execBr k s) := by
  dsimp only [execBr]
  with_reducible repeat' first
    | assumption | apply keptE_next | intro _ | apply State.issueRow_kept | apply Issue.fault_kept | apply Issue.jumped_kept | split

theorem execBrc_kept {r : State} (k : CoreRef) (s : State) (h0 : Kept r s) :
    KeptE r (execBrc k s) := by
  dsimp only [execBrc]
  with_reducible repeat' first
    | assumption | apply keptE_next | intro _ | apply State.issueRow_kept | apply Issue.regs_kept | apply Issue.fault_kept
    | apply Issue.jumped_kept | apply Issue.done_kept | split

theorem execLoop_kept {r : State} (k : CoreRef) (s : State) (h0 : Kept r s) :
    KeptE r (execLoop k s) := by
  dsimp only [execLoop]
  with_reducible repeat' first
    | assumption | apply keptE_next | intro _ | apply State.issueRow_kept | apply Issue.regs_kept | apply Issue.fault_kept
    | apply Issue.jumped_kept | split

theorem execEndProgram_kept {r : State} (k : CoreRef) (s : State) (h0 : Kept r s) :
    KeptE r (execEndProgram k s) := by
  dsimp only [execEndProgram]
  with_reducible repeat' first
    | assumption | apply keptE_next | intro _ | apply State.issueRow_kept | apply Issue.hazard_kept | apply State.flushSlots_kept
    | apply Issue.outcome_kept | apply State.publish_kept | apply Issue.jumped_kept | apply State.progFault_kept | split
    | refine kept_fst (by assumption) ?_ | refine kept_fstEq (by assumption) ?_

theorem execBranchNop_kept {r : State} (k : CoreRef) (s : State) (h0 : Kept r s) :
    KeptE r (execBranchNop k s) := by
  dsimp only [execBranchNop]
  with_reducible repeat' first
    | assumption | apply keptE_next | intro _ | apply State.issueRow_kept | apply Issue.done_kept

/-! ### Machine/ConvertRun.lean -/

theorem execCvt_kept {r : State} (k : CoreRef) (s : State) (h0 : Kept r s) :
    KeptE r (execCvt k s) := by
  dsimp only [execCvt]
  with_reducible repeat' first
    | assumption | apply keptE_next | intro _ | apply State.issueRow_kept | apply Issue.fault_kept | apply Issue.regs_kept
    | apply Issue.faultAt_kept | apply Issue.reading_kept | apply Issue.writing_kept | apply Issue.done_kept | split

/-! ### Machine/Epilogue.lean -/

theorem execAccRead_kept {r : State} (k : CoreRef) (s : State) (h0 : Kept r s) :
    KeptE r (execAccRead k s) := by
  dsimp only [execAccRead]
  with_reducible repeat' first
    | assumption | apply keptE_next | intro _ | apply State.issueRow_kept | apply Issue.fault_kept | apply Issue.faultAt_kept
    | apply Issue.writing_kept | apply Issue.done_kept | split

theorem execAccWrite_kept {r : State} (k : CoreRef) (s : State) (h0 : Kept r s) :
    KeptE r (execAccWrite k s) := by
  dsimp only [execAccWrite]
  with_reducible repeat' first
    | assumption | apply keptE_next | intro _ | apply foldl_kept | apply foldl_keptP | apply State.issueRow_kept | apply Issue.fault_kept
    | apply Issue.faultAt_kept | apply Issue.reading_kept | apply Issue.done_kept | split

theorem execAccZero_kept {r : State} (k : CoreRef) (s : State) (h0 : Kept r s) :
    KeptE r (execAccZero k s) := by
  dsimp only [execAccZero]
  with_reducible repeat' first
    | assumption | apply keptE_next | intro _ | apply State.issueRow_kept | apply Issue.fault_kept | apply Issue.done_kept | split

theorem RowOut.refused_kept {r : State} (w : RowOut) (s : State) (ctx : Nat) (h0 : Kept r s) :
    Kept r (RowOut.refused w s ctx) := by
  dsimp only [RowOut.refused]
  with_reducible repeat' first
    | assumption | intro _ | apply State.ownReject_kept | split

theorem State.checkRows_kept {r : State} (s : State) (ctx : Nat) (a2 : List RowOut) (h0 : Kept r s) :
    Kept r (State.checkRows s ctx a2).1 := by
  induction a2 generalizing s ctx with
  | nil =>
    dsimp only [State.checkRows]
    with_reducible repeat' first
      | assumption | intro _ | apply State.parts_kept | apply RowOut.refused_kept | split | refine kept_fst (by assumption) ?_
      | refine kept_fstEq (by assumption) ?_
  | cons x l ih =>
    dsimp only [State.checkRows]
    with_reducible repeat' first
      | assumption | apply ih | intro _ | apply State.parts_kept | apply RowOut.refused_kept | split | refine kept_fst (by assumption) ?_
      | refine kept_fstEq (by assumption) ?_

theorem State.setRows_kept {r : State} (s : State) (k : CoreRef) (l : List RowOut) (h0 : Kept r s) :
    Kept r (State.setRows s k l) := by
  dsimp only [State.setRows]
  with_reducible repeat' first
    | assumption | intro _ | apply State.setCore_kept

theorem State.dropRows_kept {r : State} (s : State) (k : CoreRef) (h0 : Kept r s) :
    Kept r (State.dropRows s k) := by
  dsimp only [State.dropRows]
  with_reducible repeat' first
    | assumption | intro _ | apply kept_mk rfl

theorem State.sendRows_kept {r : State} (s : State) (i : Issue) (a2 : List RowOut) (h0 : Kept r s) :
    Kept r (State.sendRows s i a2) := by
  induction a2 generalizing s i with
  | nil =>
    dsimp only [State.sendRows]
    with_reducible repeat' first
      | assumption | intro _ | apply Issue.done_kept | apply State.setRows_kept | apply Issue.stall_kept | apply State.writePiece_kept
      | apply State.dropRows_kept | apply Issue.faultAt_kept | apply RowOut.refused_kept | apply State.uncorrectable_kept | split
      | refine kept_fst (by assumption) ?_ | refine kept_fstEq (by assumption) ?_
  | cons x l ih =>
    dsimp only [State.sendRows]
    with_reducible repeat' first
      | assumption | apply ih | intro _ | apply Issue.done_kept | apply State.setRows_kept | apply Issue.stall_kept | apply State.writePiece_kept
      | apply State.dropRows_kept | apply Issue.faultAt_kept | apply RowOut.refused_kept | apply State.uncorrectable_kept | split
      | refine kept_fst (by assumption) ?_ | refine kept_fstEq (by assumption) ?_

theorem epiOutput_kept {r : State} (s : State) (i : Issue) (o : EpiOps) (st : StatRef) (h0 : Kept r s) :
    Kept r (epiOutput s i o st) := by
  dsimp only [epiOutput]
  with_reducible repeat' first
    | assumption | intro _ | apply Issue.faultAt_kept | apply State.ownReject_kept | apply State.checkRows_kept | apply State.sendRows_kept
    | apply State.setCore_kept | apply Issue.stall_kept | apply State.uncorrectable_kept | apply Issue.done_kept | split
    | refine kept_fst (by assumption) ?_ | refine kept_fstEq (by assumption) ?_

theorem epiChecked_kept {r : State} (s : State) (i : Issue) (m : Nat) (n : Nat) (int : Bool) (fmt : Fmt) (rm : RM) (st : StatRef) (h0 : Kept r s) :
    Kept r (epiChecked s i m n int fmt rm st) := by
  dsimp only [epiChecked]
  with_reducible repeat' first
    | assumption | intro _ | apply Issue.regs_kept | apply Issue.fault_kept | apply Issue.faultAt_kept | apply Issue.reading_kept
    | apply Issue.writing_kept | apply epiOutput_kept | split

theorem execEpi_kept {r : State} (k : CoreRef) (s : State) (h0 : Kept r s) :
    KeptE r (execEpi k s) := by
  dsimp only [execEpi]
  with_reducible repeat' first
    | assumption | apply keptE_next | intro _ | apply State.issueRow_kept | apply State.sendRows_kept | apply Issue.fault_kept
    | apply Issue.faultAt_kept | apply epiChecked_kept | split

/-! ### Machine/Matrix.lean -/

theorem execMma_kept {r : State} (k : CoreRef) (s : State) (h0 : Kept r s) :
    KeptE r (execMma k s) := by
  dsimp only [execMma]
  with_reducible repeat' first
    | assumption | apply keptE_next | intro _ | apply State.issueRow_kept | apply Issue.fault_kept | apply Issue.regs_kept
    | apply Issue.faultAt_kept | apply Issue.reading_kept | apply Issue.done_kept | split

/-! ### Machine/PackTable.lean -/

theorem execPackTableInit_kept {r : State} (q : CmdRef) (s : State) (h0 : Kept r s) :
    KeptE r (execPackTableInit q s) := by
  dsimp only [execPackTableInit]
  with_reducible repeat' first
    | assumption | apply keptE_next | intro _ | apply State.perform_kept | apply State.cmdOutcome_kept | apply State.writeVa_kept
    | apply State.complete_kept | refine kept_fst (by assumption) ?_ | refine kept_fstEq (by assumption) ?_

theorem State.writeAdvanced_kept {r : State} (s : State) (ctx : Nat) (va : Nat) (bs : List Byte) (h0 : Kept r s) :
    Kept r (State.writeAdvanced s ctx va bs).1 := by
  dsimp only [State.writeAdvanced]
  with_reducible repeat' first
    | assumption | intro _ | apply State.parts_kept | apply State.writeVa_kept | split | refine kept_fst (by assumption) ?_
    | refine kept_fstEq (by assumption) ?_

theorem State.advanceRecord_kept {r : State} (s : State) (q : CmdRef) (step : Nat) (va : Nat) (h0 : Kept r s) :
    Kept r (State.advanceRecord s q step va).1 := by
  dsimp only [State.advanceRecord]
  with_reducible repeat' first
    | assumption | intro _ | apply State.readVa_kept | apply State.writeAdvanced_kept | split | refine kept_fst (by assumption) ?_
    | refine kept_fstEq (by assumption) ?_

theorem execPackTableAdvance_kept {r : State} (q : CmdRef) (s : State) (h0 : Kept r s) :
    KeptE r (execPackTableAdvance q s) := by
  dsimp only [execPackTableAdvance]
  with_reducible repeat' first
    | assumption | apply keptE_next | intro _ | apply State.perform_kept | apply State.cmdOutcome_kept | apply State.readVa_kept
    | apply State.listEnd_kept | apply runItems_kept | apply State.advanceRecord_kept | refine kept_fst (by assumption) ?_
    | refine kept_fstEq (by assumption) ?_

/-! ### Machine/PegProgram.lean -/

theorem pegOperate_kept {r : State} (op : Nat) (set : Bool) (k : CoreRef) (s : State) (h0 : Kept r s) :
    Kept r (pegOperate op set k s) := by
  dsimp only [pegOperate]
  with_reducible repeat' first
    | assumption | intro _ | apply State.issueRow_kept | apply Issue.regs_kept | apply Issue.fault_kept | apply Issue.hazard_kept
    | apply State.publish_kept | apply Issue.done_kept | apply State.pegTake_kept | apply State.pegAdd_kept | apply State.sendBlock_kept | split
    | refine kept_fst (by assumption) ?_ | refine kept_fstEq (by assumption) ?_

theorem execPsig_kept {r : State} (k : CoreRef) (s : State) (h0 : Kept r s) :
    KeptE r (execPsig k s) := by
  dsimp only [execPsig]
  with_reducible repeat' first
    | assumption | apply keptE_next | intro _ | apply pegOperate_kept

theorem execPset_kept {r : State} (k : CoreRef) (s : State) (h0 : Kept r s) :
    KeptE r (execPset k s) := by
  dsimp only [execPset]
  with_reducible repeat' first
    | assumption | apply keptE_next | intro _ | apply pegOperate_kept

theorem pegWait_kept {r : State} (op : Nat) (eq : Bool) (k : CoreRef) (s : State) (h0 : Kept r s) :
    Kept r (pegWait op eq k s) := by
  dsimp only [pegWait]
  with_reducible repeat' first
    | assumption | intro _ | apply State.issueRow_kept | apply Issue.regs_kept | apply Issue.fault_kept | apply State.startWait_kept
    | apply Issue.done_kept | apply Issue.stall_kept | apply State.setCore_kept | split | refine kept_fst (by assumption) ?_
    | refine kept_fstEq (by assumption) ?_

theorem execPwge_kept {r : State} (k : CoreRef) (s : State) (h0 : Kept r s) :
    KeptE r (execPwge k s) := by
  dsimp only [execPwge]
  with_reducible repeat' first
    | assumption | apply keptE_next | intro _ | apply pegWait_kept

theorem execPweq_kept {r : State} (k : CoreRef) (s : State) (h0 : Kept r s) :
    KeptE r (execPweq k s) := by
  dsimp only [execPweq]
  with_reducible repeat' first
    | assumption | apply keptE_next | intro _ | apply pegWait_kept

/-! ### Machine/Scalar.lean -/

theorem scalarOp_kept {r : State} (op : Nat) (f : W64 → W64 → W64) (k : CoreRef) (s : State) (h0 : Kept r s) :
    Kept r (scalarOp op f k s) := by
  dsimp only [scalarOp]
  with_reducible repeat' first
    | assumption | intro _ | apply State.issueRow_kept | apply Issue.regs_kept | apply Issue.done_kept | split

theorem execAdd_kept {r : State} (k : CoreRef) (s : State) (h0 : Kept r s) :
    KeptE r (execAdd k s) := by
  dsimp only [execAdd]
  with_reducible repeat' first
    | assumption | apply keptE_next | intro _ | apply scalarOp_kept

theorem execSub_kept {r : State} (k : CoreRef) (s : State) (h0 : Kept r s) :
    KeptE r (execSub k s) := by
  dsimp only [execSub]
  with_reducible repeat' first
    | assumption | apply keptE_next | intro _ | apply scalarOp_kept

theorem execMul_kept {r : State} (k : CoreRef) (s : State) (h0 : Kept r s) :
    KeptE r (execMul k s) := by
  dsimp only [execMul]
  with_reducible repeat' first
    | assumption | apply keptE_next | intro _ | apply scalarOp_kept

theorem execAnd64_kept {r : State} (k : CoreRef) (s : State) (h0 : Kept r s) :
    KeptE r (execAnd64 k s) := by
  dsimp only [execAnd64]
  with_reducible repeat' first
    | assumption | apply keptE_next | intro _ | apply scalarOp_kept

theorem execOr64_kept {r : State} (k : CoreRef) (s : State) (h0 : Kept r s) :
    KeptE r (execOr64 k s) := by
  dsimp only [execOr64]
  with_reducible repeat' first
    | assumption | apply keptE_next | intro _ | apply scalarOp_kept

theorem execXor64_kept {r : State} (k : CoreRef) (s : State) (h0 : Kept r s) :
    KeptE r (execXor64 k s) := by
  dsimp only [execXor64]
  with_reducible repeat' first
    | assumption | apply keptE_next | intro _ | apply scalarOp_kept

theorem execShl_kept {r : State} (k : CoreRef) (s : State) (h0 : Kept r s) :
    KeptE r (execShl k s) := by
  dsimp only [execShl]
  with_reducible repeat' first
    | assumption | apply keptE_next | intro _ | apply scalarOp_kept

theorem execShr_kept {r : State} (k : CoreRef) (s : State) (h0 : Kept r s) :
    KeptE r (execShr k s) := by
  dsimp only [execShr]
  with_reducible repeat' first
    | assumption | apply keptE_next | intro _ | apply scalarOp_kept

theorem execSar_kept {r : State} (k : CoreRef) (s : State) (h0 : Kept r s) :
    KeptE r (execSar k s) := by
  dsimp only [execSar]
  with_reducible repeat' first
    | assumption | apply keptE_next | intro _ | apply scalarOp_kept

theorem execMin_kept {r : State} (k : CoreRef) (s : State) (h0 : Kept r s) :
    KeptE r (execMin k s) := by
  dsimp only [execMin]
  with_reducible repeat' first
    | assumption | apply keptE_next | intro _ | apply scalarOp_kept

theorem execMax_kept {r : State} (k : CoreRef) (s : State) (h0 : Kept r s) :
    KeptE r (execMax k s) := by
  dsimp only [execMax]
  with_reducible repeat' first
    | assumption | apply keptE_next | intro _ | apply scalarOp_kept

theorem execLi_kept {r : State} (k : CoreRef) (s : State) (h0 : Kept r s) :
    KeptE r (execLi k s) := by
  dsimp only [execLi]
  with_reducible repeat' first
    | assumption | apply keptE_next | intro _ | apply State.issueRow_kept | apply Issue.regs_kept | apply Issue.done_kept

theorem execSld_kept {r : State} (k : CoreRef) (s : State) (h0 : Kept r s) :
    KeptE r (execSld k s) := by
  dsimp only [execSld]
  with_reducible repeat' first
    | assumption | apply keptE_next | intro _ | apply State.issueRow_kept | apply Issue.regs_kept | apply Issue.faultAt_kept
    | apply Issue.reading_kept | apply Issue.done_kept | split

theorem execSst_kept {r : State} (k : CoreRef) (s : State) (h0 : Kept r s) :
    KeptE r (execSst k s) := by
  dsimp only [execSst]
  with_reducible repeat' first
    | assumption | apply keptE_next | intro _ | apply State.issueRow_kept | apply Issue.regs_kept | apply Issue.faultAt_kept
    | apply Issue.writing_kept | apply Issue.done_kept | split

theorem execSpr_kept {r : State} (k : CoreRef) (s : State) (h0 : Kept r s) :
    KeptE r (execSpr k s) := by
  dsimp only [execSpr]
  with_reducible repeat' first
    | assumption | apply keptE_next | intro _ | apply State.issueRow_kept | apply Issue.regs_kept | apply Issue.done_kept
    | apply Issue.fault_kept | split

/-! ### Machine/Vector.lean -/

theorem vectorOp_kept {r : State} (op : Nat) (more : List (Nat × Nat)) (f : Nat → W32 → W32 → W32) (k : CoreRef) (s : State) (h0 : Kept r s) :
    Kept r (vectorOp op more f k s) := by
  dsimp only [vectorOp]
  with_reducible repeat' first
    | assumption | intro _ | apply State.issueRow_kept | apply Issue.regs_kept | apply Issue.done_kept | split

theorem vectorOp3_kept {r : State} (op : Nat) (f : W32 → W32 → W32 → W32) (k : CoreRef) (s : State) (h0 : Kept r s) :
    Kept r (vectorOp3 op f k s) := by
  dsimp only [vectorOp3]
  with_reducible repeat' first
    | assumption | intro _ | apply State.issueRow_kept | apply Issue.regs_kept | apply Issue.done_kept | split

theorem vectorOp1_kept {r : State} (op : Nat) (f : W512 → W512) (k : CoreRef) (s : State) (h0 : Kept r s) :
    Kept r (vectorOp1 op f k s) := by
  dsimp only [vectorOp1]
  with_reducible repeat' first
    | assumption | intro _ | apply State.issueRow_kept | apply Issue.done_kept

theorem execVadd_kept {r : State} (k : CoreRef) (s : State) (h0 : Kept r s) :
    KeptE r (execVadd k s) := by
  dsimp only [execVadd]
  with_reducible repeat' first
    | assumption | apply keptE_next | intro _ | apply vectorOp_kept

theorem execVsub_kept {r : State} (k : CoreRef) (s : State) (h0 : Kept r s) :
    KeptE r (execVsub k s) := by
  dsimp only [execVsub]
  with_reducible repeat' first
    | assumption | apply keptE_next | intro _ | apply vectorOp_kept

theorem execVmul_kept {r : State} (k : CoreRef) (s : State) (h0 : Kept r s) :
    KeptE r (execVmul k s) := by
  dsimp only [execVmul]
  with_reducible repeat' first
    | assumption | apply keptE_next | intro _ | apply vectorOp_kept

theorem execVfma_kept {r : State} (k : CoreRef) (s : State) (h0 : Kept r s) :
    KeptE r (execVfma k s) := by
  dsimp only [execVfma]
  with_reducible repeat' first
    | assumption | apply keptE_next | intro _ | apply vectorOp3_kept

theorem execVmin_kept {r : State} (k : CoreRef) (s : State) (h0 : Kept r s) :
    KeptE r (execVmin k s) := by
  dsimp only [execVmin]
  with_reducible repeat' first
    | assumption | apply keptE_next | intro _ | apply vectorOp_kept

theorem execVmax_kept {r : State} (k : CoreRef) (s : State) (h0 : Kept r s) :
    KeptE r (execVmax k s) := by
  dsimp only [execVmax]
  with_reducible repeat' first
    | assumption | apply keptE_next | intro _ | apply vectorOp_kept

theorem execVdiv_kept {r : State} (k : CoreRef) (s : State) (h0 : Kept r s) :
    KeptE r (execVdiv k s) := by
  dsimp only [execVdiv]
  with_reducible repeat' first
    | assumption | apply keptE_next | intro _ | apply vectorOp_kept

theorem execVsqrt_kept {r : State} (k : CoreRef) (s : State) (h0 : Kept r s) :
    KeptE r (execVsqrt k s) := by
  dsimp only [execVsqrt]
  with_reducible repeat' first
    | assumption | apply keptE_next | intro _ | apply vectorOp1_kept

theorem execVcmp_kept {r : State} (k : CoreRef) (s : State) (h0 : Kept r s) :
    KeptE r (execVcmp k s) := by
  dsimp only [execVcmp]
  with_reducible repeat' first
    | assumption | apply keptE_next | intro _ | apply State.issueRow_kept | apply Issue.fault_kept | apply Issue.regs_kept
    | apply Issue.done_kept | split

theorem execVsel_kept {r : State} (k : CoreRef) (s : State) (h0 : Kept r s) :
    KeptE r (execVsel k s) := by
  dsimp only [execVsel]
  with_reducible repeat' first
    | assumption | apply keptE_next | intro _ | apply vectorOp3_kept | split

theorem execVradd_kept {r : State} (k : CoreRef) (s : State) (h0 : Kept r s) :
    KeptE r (execVradd k s) := by
  dsimp only [execVradd]
  with_reducible repeat' first
    | assumption | apply keptE_next | intro _ | apply vectorOp1_kept

theorem execVrmax_kept {r : State} (k : CoreRef) (s : State) (h0 : Kept r s) :
    KeptE r (execVrmax k s) := by
  dsimp only [execVrmax]
  with_reducible repeat' first
    | assumption | apply keptE_next | intro _ | apply vectorOp1_kept

theorem execVrmin_kept {r : State} (k : CoreRef) (s : State) (h0 : Kept r s) :
    KeptE r (execVrmin k s) := by
  dsimp only [execVrmin]
  with_reducible repeat' first
    | assumption | apply keptE_next | intro _ | apply vectorOp1_kept

theorem execViadd_kept {r : State} (k : CoreRef) (s : State) (h0 : Kept r s) :
    KeptE r (execViadd k s) := by
  dsimp only [execViadd]
  with_reducible repeat' first
    | assumption | apply keptE_next | intro _ | apply vectorOp_kept

theorem execVisub_kept {r : State} (k : CoreRef) (s : State) (h0 : Kept r s) :
    KeptE r (execVisub k s) := by
  dsimp only [execVisub]
  with_reducible repeat' first
    | assumption | apply keptE_next | intro _ | apply vectorOp_kept

theorem execVimul_kept {r : State} (k : CoreRef) (s : State) (h0 : Kept r s) :
    KeptE r (execVimul k s) := by
  dsimp only [execVimul]
  with_reducible repeat' first
    | assumption | apply keptE_next | intro _ | apply vectorOp_kept

theorem execVand_kept {r : State} (k : CoreRef) (s : State) (h0 : Kept r s) :
    KeptE r (execVand k s) := by
  dsimp only [execVand]
  with_reducible repeat' first
    | assumption | apply keptE_next | intro _ | apply vectorOp_kept

theorem execVor_kept {r : State} (k : CoreRef) (s : State) (h0 : Kept r s) :
    KeptE r (execVor k s) := by
  dsimp only [execVor]
  with_reducible repeat' first
    | assumption | apply keptE_next | intro _ | apply vectorOp_kept

theorem execVxor_kept {r : State} (k : CoreRef) (s : State) (h0 : Kept r s) :
    KeptE r (execVxor k s) := by
  dsimp only [execVxor]
  with_reducible repeat' first
    | assumption | apply keptE_next | intro _ | apply vectorOp_kept

theorem execVshl_kept {r : State} (k : CoreRef) (s : State) (h0 : Kept r s) :
    KeptE r (execVshl k s) := by
  dsimp only [execVshl]
  with_reducible repeat' first
    | assumption | apply keptE_next | intro _ | apply vectorOp_kept

theorem execVshr_kept {r : State} (k : CoreRef) (s : State) (h0 : Kept r s) :
    KeptE r (execVshr k s) := by
  dsimp only [execVshr]
  with_reducible repeat' first
    | assumption | apply keptE_next | intro _ | apply vectorOp_kept

theorem execVsar_kept {r : State} (k : CoreRef) (s : State) (h0 : Kept r s) :
    KeptE r (execVsar k s) := by
  dsimp only [execVsar]
  with_reducible repeat' first
    | assumption | apply keptE_next | intro _ | apply vectorOp_kept

theorem execVimin_kept {r : State} (k : CoreRef) (s : State) (h0 : Kept r s) :
    KeptE r (execVimin k s) := by
  dsimp only [execVimin]
  with_reducible repeat' first
    | assumption | apply keptE_next | intro _ | apply vectorOp_kept | split

theorem execVimax_kept {r : State} (k : CoreRef) (s : State) (h0 : Kept r s) :
    KeptE r (execVimax k s) := by
  dsimp only [execVimax]
  with_reducible repeat' first
    | assumption | apply keptE_next | intro _ | apply vectorOp_kept | split

theorem execVexp2_kept {r : State} (k : CoreRef) (s : State) (h0 : Kept r s) :
    KeptE r (execVexp2 k s) := by
  dsimp only [execVexp2]
  with_reducible repeat' first
    | assumption | apply keptE_next | intro _ | apply vectorOp1_kept

theorem execVexp_kept {r : State} (k : CoreRef) (s : State) (h0 : Kept r s) :
    KeptE r (execVexp k s) := by
  dsimp only [execVexp]
  with_reducible repeat' first
    | assumption | apply keptE_next | intro _ | apply vectorOp1_kept

theorem execVlog2_kept {r : State} (k : CoreRef) (s : State) (h0 : Kept r s) :
    KeptE r (execVlog2 k s) := by
  dsimp only [execVlog2]
  with_reducible repeat' first
    | assumption | apply keptE_next | intro _ | apply vectorOp1_kept

theorem execVlog_kept {r : State} (k : CoreRef) (s : State) (h0 : Kept r s) :
    KeptE r (execVlog k s) := by
  dsimp only [execVlog]
  with_reducible repeat' first
    | assumption | apply keptE_next | intro _ | apply vectorOp1_kept

theorem execVrcp_kept {r : State} (k : CoreRef) (s : State) (h0 : Kept r s) :
    KeptE r (execVrcp k s) := by
  dsimp only [execVrcp]
  with_reducible repeat' first
    | assumption | apply keptE_next | intro _ | apply vectorOp1_kept

theorem execVrsqrt_kept {r : State} (k : CoreRef) (s : State) (h0 : Kept r s) :
    KeptE r (execVrsqrt k s) := by
  dsimp only [execVrsqrt]
  with_reducible repeat' first
    | assumption | apply keptE_next | intro _ | apply vectorOp1_kept

theorem execVsin_kept {r : State} (k : CoreRef) (s : State) (h0 : Kept r s) :
    KeptE r (execVsin k s) := by
  dsimp only [execVsin]
  with_reducible repeat' first
    | assumption | apply keptE_next | intro _ | apply vectorOp1_kept

theorem execVcos_kept {r : State} (k : CoreRef) (s : State) (h0 : Kept r s) :
    KeptE r (execVcos k s) := by
  dsimp only [execVcos]
  with_reducible repeat' first
    | assumption | apply keptE_next | intro _ | apply vectorOp1_kept

theorem execVtanh_kept {r : State} (k : CoreRef) (s : State) (h0 : Kept r s) :
    KeptE r (execVtanh k s) := by
  dsimp only [execVtanh]
  with_reducible repeat' first
    | assumption | apply keptE_next | intro _ | apply vectorOp1_kept

theorem execVsigmoid_kept {r : State} (k : CoreRef) (s : State) (h0 : Kept r s) :
    KeptE r (execVsigmoid k s) := by
  dsimp only [execVsigmoid]
  with_reducible repeat' first
    | assumption | apply keptE_next | intro _ | apply vectorOp1_kept

theorem execVerf_kept {r : State} (k : CoreRef) (s : State) (h0 : Kept r s) :
    KeptE r (execVerf k s) := by
  dsimp only [execVerf]
  with_reducible repeat' first
    | assumption | apply keptE_next | intro _ | apply vectorOp1_kept

theorem execVld_kept {r : State} (k : CoreRef) (s : State) (h0 : Kept r s) :
    KeptE r (execVld k s) := by
  dsimp only [execVld]
  with_reducible repeat' first
    | assumption | apply keptE_next | intro _ | apply State.issueRow_kept | apply Issue.regs_kept | apply Issue.faultAt_kept
    | apply Issue.reading_kept | apply Issue.done_kept | split

theorem execVst_kept {r : State} (k : CoreRef) (s : State) (h0 : Kept r s) :
    KeptE r (execVst k s) := by
  dsimp only [execVst]
  with_reducible repeat' first
    | assumption | apply keptE_next | intro _ | apply State.issueRow_kept | apply Issue.regs_kept | apply Issue.faultAt_kept
    | apply Issue.writing_kept | apply Issue.done_kept | split

theorem execVmovx_kept {r : State} (k : CoreRef) (s : State) (h0 : Kept r s) :
    KeptE r (execVmovx k s) := by
  dsimp only [execVmovx]
  with_reducible repeat' first
    | assumption | apply keptE_next | intro _ | apply State.issueRow_kept | apply Issue.regs_kept | apply Issue.done_kept

theorem execVextr_kept {r : State} (k : CoreRef) (s : State) (h0 : Kept r s) :
    KeptE r (execVextr k s) := by
  dsimp only [execVextr]
  with_reducible repeat' first
    | assumption | apply keptE_next | intro _ | apply State.issueRow_kept | apply Issue.regs_kept | apply Issue.done_kept

end Sys2Proof.Machine
end

