-- ==== Sys2Proof/Laws/KeptUnits.lean ====
section
/-! SUPPORT. The queue and the anti-rollback fuses are kept by the conservators, launches, guylines, the Curator and the collectives. -/

namespace Sys2Proof.Machine

/-! ### Machine/Conservator.lean -/

theorem State.andThen_kept {r : State} {α : Type} {β : Type} (r0 : State × Got α) (f : State → α → State × Got β) (h0 : Kept r r0.1) (h1 : ∀ x0 x1, Kept r (x0) → Kept r (f x0 x1).1) :
    Kept r (State.andThen r0 f).1 := by
  dsimp only [State.andThen]
  with_reducible repeat' first
    | assumption | intro _ | apply h1 | split | refine kept_fst (by assumption) ?_ | refine kept_fstEq (by assumption) ?_

theorem State.allWritable_kept {r : State} (s : State) (ctx : Nat) (a2 : List (Nat × Nat × Accessor)) (h0 : Kept r s) :
    Kept r (State.allWritable s ctx a2).1 := by
  induction a2 generalizing s ctx with
  | nil =>
    dsimp only [State.allWritable]
    with_reducible repeat' first
      | assumption | intro _ | apply State.andThen_kept | apply State.parts_kept | split | refine kept_fst (by assumption) ?_
      | refine kept_fstEq (by assumption) ?_
  | cons x l ih =>
    dsimp only [State.allWritable]
    with_reducible repeat' first
      | assumption | apply ih | intro _ | apply State.andThen_kept | apply State.parts_kept | split | refine kept_fst (by assumption) ?_
      | refine kept_fstEq (by assumption) ?_

theorem State.writeAll_kept {r : State} (s : State) (ctx : Nat) (who : Accessor) (a3 : List (Nat × List Byte)) (h0 : Kept r s) :
    Kept r (State.writeAll s ctx who a3).1 := by
  induction a3 generalizing s ctx who with
  | nil =>
    dsimp only [State.writeAll]
    with_reducible repeat' first
      | assumption | intro _ | apply State.andThen_kept | apply State.writeVa_kept | split | refine kept_fst (by assumption) ?_
      | refine kept_fstEq (by assumption) ?_
  | cons x l ih =>
    dsimp only [State.writeAll]
    with_reducible repeat' first
      | assumption | apply ih | intro _ | apply State.andThen_kept | apply State.writeVa_kept | split | refine kept_fst (by assumption) ?_
      | refine kept_fstEq (by assumption) ?_

theorem State.setConsCmd_kept {r : State} (s : State) (x : ConsCmd) (h0 : Kept r s) :
    Kept r (State.setConsCmd s x) := by
  dsimp only [State.setConsCmd]
  with_reducible repeat' first
    | assumption | intro _ | apply kept_mk rfl

theorem State.endCons_kept {r : State} (s : State) (q : CmdRef) (status : Nat) (r0 : Nat) (r1 : Nat) (h0 : Kept r s) :
    Kept r (State.endCons s q status r0 r1) := by
  dsimp only [State.endCons]
  with_reducible repeat' first
    | assumption | intro _ | apply State.complete_kept | apply State.dropRemotes_kept | apply kept_mk rfl

theorem State.refuseCons_kept {r : State} (s : State) (q : CmdRef) (status : Nat) (h0 : Kept r s) :
    Kept r (State.refuseCons s q status) := by
  dsimp only [State.refuseCons]
  with_reducible repeat' first
    | assumption | intro _ | apply State.endCons_kept

theorem State.consOutcome_kept {r : State} (s : State) (q : CmdRef) {α : Type} (r0 : State × Got α) (f : State → α → State) (h0 : Kept r s) (h1 : Kept r r0.1) (h2 : ∀ x0 x1, Kept r (x0) → Kept r (f x0 x1)) :
    Kept r (State.consOutcome s q r0 f) := by
  dsimp only [State.consOutcome]
  with_reducible repeat' first
    | assumption | intro _ | apply h2 | apply State.cmdWait_kept | apply State.refuseCons_kept | apply State.uncorrectable_kept | split
    | refine kept_fst (by assumption) ?_ | refine kept_fstEq (by assumption) ?_

theorem State.reportRecords_kept {r : State} (s : State) (ctx : Nat) (base : Nat) (step : Nat) (l : List (Nat × Nat × Nat)) (h0 : Kept r s) :
    Kept r (State.reportRecords s ctx base step l) := by
  dsimp only [State.reportRecords]
  with_reducible repeat' first
    | assumption | intro _ | apply State.raise_kept | split | apply kept_mk rfl

theorem State.countRecords_kept {r : State} (s : State) (ctx : Nat) (vas : List Nat) (h0 : Kept r s) :
    Kept r (State.countRecords s ctx vas) := by
  dsimp only [State.countRecords]
  with_reducible repeat' first
    | assumption | intro _ | apply foldl_kept | apply foldl_keptP | apply kept_mk rfl

theorem State.updInputs_kept {r : State} (s : State) (ctx : Nat) (d : Shard) (t : Taken) (h0 : Kept r s) :
    Kept r (State.updInputs s ctx d t).1 := by
  dsimp only [State.updInputs]
  with_reducible repeat' first
    | assumption | intro _ | apply State.andThen_kept | apply State.readVa_kept | split | refine kept_fst (by assumption) ?_
    | refine kept_fstEq (by assumption) ?_

theorem State.applyRun_kept {r : State} (s : State) (x : ConsCmd) (t : Taken) (d : Shard) (i : UpdInputs) (k : Int) (c : W32) (h0 : Kept r s) :
    Kept r (State.applyRun s x t d i k c) := by
  dsimp only [State.applyRun]
  with_reducible repeat' first
    | assumption | intro _ | apply foldl_kept | apply foldl_keptP | apply State.consOutcome_kept | apply State.andThen_kept
    | apply State.allWritable_kept | apply State.writeAll_kept | apply State.countRecords_kept | apply State.reportRecords_kept
    | apply State.raise_kept | apply State.writeVa_kept | apply State.endCons_kept | apply State.setConsCmd_kept | split
    | refine kept_fst (by assumption) ?_ | refine kept_fstEq (by assumption) ?_ | apply kept_mk rfl

theorem State.applyStart_kept {r : State} (s : State) (x : ConsCmd) (t : Taken) (d : Shard) (h0 : Kept r s) :
    Kept r (State.applyStart s x t d) := by
  dsimp only [State.applyStart]
  with_reducible repeat' first
    | assumption | intro _ | apply State.consOutcome_kept | apply State.updInputs_kept | apply State.refuseCons_kept | apply State.applyRun_kept
    | split | refine kept_fst (by assumption) ?_ | refine kept_fstEq (by assumption) ?_

theorem State.normRun_kept {r : State} (s : State) (x : ConsCmd) (t : Taken) (d : Shard) (h0 : Kept r s) :
    Kept r (State.normRun s x t d) := by
  dsimp only [State.normRun]
  with_reducible repeat' first
    | assumption | intro _ | apply State.consOutcome_kept | apply State.andThen_kept | apply State.readVa_kept | apply State.parts_kept
    | apply State.refuseCons_kept | apply State.setConsCmd_kept | split | refine kept_fst (by assumption) ?_
    | refine kept_fstEq (by assumption) ?_

theorem State.shardRun_kept {r : State} (s : State) (x : ConsCmd) (d : Shard) (tag : Nat) (recs : List (List Byte)) (sc : W32 × W32) (header : List Byte) (h0 : Kept r s) :
    Kept r (State.shardRun s x d tag recs sc header) := by
  dsimp only [State.shardRun]
  with_reducible repeat' first
    | assumption | intro _ | apply State.consOutcome_kept | apply State.andThen_kept | apply State.allWritable_kept | apply State.writeAll_kept
    | apply State.countRecords_kept | apply State.setConsCmd_kept | refine kept_fst (by assumption) ?_ | refine kept_fstEq (by assumption) ?_

theorem State.initRun_kept {r : State} (s : State) (x : ConsCmd) (t : Taken) (d : Shard) (h0 : Kept r s) :
    Kept r (State.initRun s x t d) := by
  dsimp only [State.initRun]
  with_reducible repeat' first
    | assumption | intro _ | apply foldl_kept | apply foldl_keptP | apply State.consOutcome_kept | apply State.andThen_kept
    | apply State.readPieces_kept | apply State.readVa_kept | apply State.shardRun_kept | refine kept_fst (by assumption) ?_
    | refine kept_fstEq (by assumption) ?_

theorem State.importRun_kept {r : State} (s : State) (x : ConsCmd) (t : Taken) (d : Shard) (h0 : Kept r s) :
    Kept r (State.importRun s x t d) := by
  dsimp only [State.importRun]
  with_reducible repeat' first
    | assumption | intro _ | apply State.consOutcome_kept | apply State.readPieces_kept | apply State.endCons_kept
    | apply State.reportRecords_kept | apply State.shardRun_kept | split | refine kept_fst (by assumption) ?_
    | refine kept_fstEq (by assumption) ?_

theorem State.readShard_kept {r : State} (s : State) (ctx : Nat) (d : Shard) (h0 : Kept r s) :
    Kept r (State.readShard s ctx d).1 := by
  dsimp only [State.readShard]
  with_reducible repeat' first
    | assumption | intro _ | apply State.andThen_kept | apply State.readVa_kept | refine kept_fst (by assumption) ?_
    | refine kept_fstEq (by assumption) ?_

theorem State.exportFailed_kept {r : State} (s : State) (x : ConsCmd) (dest : Nat) (n : Nat) (status : Nat) (h0 : Kept r s) :
    Kept r (State.exportFailed s x dest n status) := by
  dsimp only [State.exportFailed]
  with_reducible repeat' first
    | assumption | intro _ | apply foldl_kept | apply foldl_keptP | apply State.endCons_kept | apply State.undefineVa_kept | split

theorem State.exportRun_kept {r : State} (s : State) (x : ConsCmd) (t : Taken) (d : Shard) (h0 : Kept r s) :
    Kept r (State.exportRun s x t d) := by
  dsimp only [State.exportRun]
  with_reducible repeat' first
    | assumption | intro _ | apply State.consOutcome_kept | apply State.readShard_kept | apply State.exportFailed_kept
    | apply State.reportRecords_kept | apply State.writePieces_kept | apply State.setConsCmd_kept | apply State.stallOn_kept
    | apply State.uncorrectable_kept | split | refine kept_fst (by assumption) ?_ | refine kept_fstEq (by assumption) ?_

theorem State.sweepRun_kept {r : State} (s : State) (x : ConsCmd) (t : Taken) (d : Shard) (h0 : Kept r s) :
    Kept r (State.sweepRun s x t d) := by
  dsimp only [State.sweepRun]
  with_reducible repeat' first
    | assumption | intro _ | apply State.consOutcome_kept | apply State.andThen_kept | apply State.readShard_kept | apply State.readVa_kept
    | apply State.parts_kept | apply State.reportRecords_kept | apply State.free_kept | apply State.raise_kept | apply State.setConsCmd_kept
    | split | refine kept_fst (by assumption) ?_ | refine kept_fstEq (by assumption) ?_ | refine kept_snd (by assumption) ?_

theorem State.consProgress_kept {r : State} (s : State) (x : ConsCmd) (h0 : Kept r s) :
    Kept r (State.consProgress s x) := by
  dsimp only [State.consProgress]
  with_reducible repeat' first
    | assumption | intro _ | apply State.progress_kept | split

theorem State.consRead_kept {r : State} (s : State) (x : ConsCmd) (opcode : Nat) (h0 : Kept r s) :
    Kept r (State.consRead s x opcode) := by
  dsimp only [State.consRead]
  with_reducible repeat' first
    | assumption | intro _ | apply State.consProgress_kept | split

theorem State.consTry_kept {r : State} (s : State) (q : CmdRef) (h0 : Kept r s) :
    Kept r (State.consTry s q) := by
  dsimp only [State.consTry]
  with_reducible repeat' first
    | assumption | intro _ | apply State.consOutcome_kept | apply State.readVa_kept | apply State.refuseCons_kept | apply State.walksMet_kept
    | apply State.stallOff_kept | apply State.consRead_kept | apply State.applyStart_kept | apply State.normRun_kept | apply State.initRun_kept
    | apply State.exportRun_kept | apply State.importRun_kept | apply State.sweepRun_kept | split | refine kept_fst (by assumption) ?_
    | refine kept_fstEq (by assumption) ?_

theorem State.consStart_kept {r : State} (s : State) (q : CmdRef) (opcode : Nat) (h0 : Kept r s) :
    Kept r (State.consStart s q opcode) := by
  dsimp only [State.consStart]
  with_reducible repeat' first
    | assumption | intro _ | apply State.perform_kept | apply State.consOutcome_kept | apply State.readVa_kept | apply State.refuseCons_kept
    | apply State.walksMet_kept | apply State.startTaken_kept | apply State.consTry_kept | split | refine kept_fst (by assumption) ?_
    | refine kept_fstEq (by assumption) ?_ | apply kept_mk rfl

theorem State.consFinish.consSignal_kept {r : State} (s : State) (q : CmdRef) (unit : Nat) (t : Taken) (p : Nat) (f : Nat) (a : Nat) (h0 : Kept r s) :
    Kept r (State.consFinish.consSignal s q unit t p f a) := by
  dsimp only [State.consFinish.consSignal]
  with_reducible repeat' first
    | assumption | intro _ | apply State.completionSignal_kept | split

theorem State.consFinish_kept {r : State} (s : State) (q : CmdRef) (h0 : Kept r s) :
    Kept r (State.consFinish s q) := by
  dsimp only [State.consFinish]
  with_reducible repeat' first
    | assumption | intro _ | apply foldl_kept | apply foldl_keptP | apply State.consOutcome_kept | apply State.writeAll_kept
    | apply State.endCons_kept | apply State.consProgress_kept | apply State.raise_kept | apply State.consFinish.consSignal_kept | split
    | refine kept_fst (by assumption) ?_ | refine kept_fstEq (by assumption) ?_ | apply kept_mk rfl

theorem State.consEnd_kept {r : State} (s : State) (q : CmdRef) (ops : Nat → Bool) (h0 : Kept r s) :
    Kept r (State.consEnd s q ops) := by
  dsimp only [State.consEnd]
  with_reducible repeat' first
    | assumption | intro _ | apply State.consFinish_kept | apply State.consTry_kept | split

theorem execUpdApply_kept {r : State} (q : CmdRef) (s : State) (h0 : Kept r s) :
    KeptE r (execUpdApply q s) := by
  dsimp only [execUpdApply]
  with_reducible repeat' first
    | assumption | apply keptE_next | intro _ | apply State.consStart_kept

theorem execUpdNorm_kept {r : State} (q : CmdRef) (s : State) (h0 : Kept r s) :
    KeptE r (execUpdNorm q s) := by
  dsimp only [execUpdNorm]
  with_reducible repeat' first
    | assumption | apply keptE_next | intro _ | apply State.consStart_kept

theorem execRecInit_kept {r : State} (q : CmdRef) (s : State) (h0 : Kept r s) :
    KeptE r (execRecInit q s) := by
  dsimp only [execRecInit]
  with_reducible repeat' first
    | assumption | apply keptE_next | intro _ | apply State.consStart_kept

theorem execRecExport_kept {r : State} (q : CmdRef) (s : State) (h0 : Kept r s) :
    KeptE r (execRecExport q s) := by
  dsimp only [execRecExport]
  with_reducible repeat' first
    | assumption | apply keptE_next | intro _ | apply State.consStart_kept

theorem execRecImport_kept {r : State} (q : CmdRef) (s : State) (h0 : Kept r s) :
    KeptE r (execRecImport q s) := by
  dsimp only [execRecImport]
  with_reducible repeat' first
    | assumption | apply keptE_next | intro _ | apply State.consStart_kept

theorem execConsSweep_kept {r : State} (q : CmdRef) (s : State) (h0 : Kept r s) :
    KeptE r (execConsSweep q s) := by
  dsimp only [execConsSweep]
  with_reducible repeat' first
    | assumption | apply keptE_next | intro _ | apply State.consStart_kept

theorem execConsCommandStart_kept {r : State} (q : CmdRef) (s : State) (h0 : Kept r s) :
    KeptE r (execConsCommandStart q s) := by
  dsimp only [execConsCommandStart]
  with_reducible repeat' first
    | assumption | apply keptE_next | intro _ | apply State.consTry_kept | split

theorem execUpdateCommit_kept {r : State} (q : CmdRef) (s : State) (h0 : Kept r s) :
    KeptE r (execUpdateCommit q s) := by
  dsimp only [execUpdateCommit]
  with_reducible repeat' first
    | assumption | apply keptE_next | intro _ | apply State.consEnd_kept

theorem execConservatorCommandComplete_kept {r : State} (q : CmdRef) (s : State) (h0 : Kept r s) :
    KeptE r (execConservatorCommandComplete q s) := by
  dsimp only [execConservatorCommandComplete]
  with_reducible repeat' first
    | assumption | apply keptE_next | intro _ | apply State.consEnd_kept

theorem State.dropCons_kept {r : State} (s : State) (ctx : Nat) (h0 : Kept r s) :
    Kept r (State.dropCons s ctx) := by
  dsimp only [State.dropCons]
  with_reducible repeat' first
    | assumption | intro _ | apply kept_mk rfl

/-! ### Machine/Delivery.lean -/

theorem State.sendE2eAck_kept {r : State} (s : State) (p : Nat) (node : Nat) (cls : Nat) (h0 : Kept r s) :
    Kept r (State.sendE2eAck s p node cls) := by
  dsimp only [State.sendE2eAck]
  with_reducible repeat' first
    | assumption | intro _ | apply State.sendBlock_kept | split | refine kept_fst (by assumption) ?_ | refine kept_fstEq (by assumption) ?_
    | apply kept_mk rfl

theorem State.countDelivered_kept {r : State} (s : State) (p : Nat) (b : List Byte) (h0 : Kept r s) :
    Kept r (State.countDelivered s p b) := by
  dsimp only [State.countDelivered]
  with_reducible repeat' first
    | assumption | intro _ | apply State.sendE2eAck_kept | split | apply kept_mk rfl

theorem State.delivered_kept {r : State} (s : State) (p : Nat) (b : InBlock) (h0 : Kept r s) :
    Kept r (State.delivered s p b) := by
  dsimp only [State.delivered]
  with_reducible repeat' first
    | assumption | intro _ | apply State.setPort_kept | apply State.pump_kept | apply State.countDelivered_kept

theorem State.deliver_kept {r : State} (s : State) (p : Nat) (ty : Nat) (f : State → List Byte → State) (h0 : Kept r s) (h1 : ∀ x0 x1, Kept r (x0) → Kept r (f x0 x1)) :
    Kept r (State.deliver s p ty f) := by
  dsimp only [State.deliver]
  with_reducible repeat' first
    | assumption | intro _ | apply h1 | apply State.delivered_kept | split

theorem State.badBlock_kept {r : State} (s : State) (p : Nat) (src : Nat) (cause : Nat) (h0 : Kept r s) :
    Kept r (State.badBlock s p src cause) := by
  dsimp only [State.badBlock]
  with_reducible repeat' first
    | assumption | intro _ | apply State.raiseLimited_kept | apply kept_mk rfl

/-! ### Machine/Repair.lean -/

theorem State.showOut_kept {r : State} (s : State) (c : Nat) (h0 : Kept r s) :
    Kept r (State.showOut s c) := by
  dsimp only [State.showOut]
  with_reducible repeat' first
    | assumption | intro _ | apply State.setCluster_kept | split

theorem State.setRepair_kept {r : State} (s : State) (f : RepairSt → RepairSt) (h0 : Kept r s) :
    Kept r (State.setRepair s f) := by
  dsimp only [State.setRepair]
  with_reducible repeat' first
    | assumption | intro _ | apply kept_mk rfl

theorem State.setRotate_kept {r : State} (s : State) (f : RotateSt → RotateSt) (h0 : Kept r s) :
    Kept r (State.setRotate s f) := by
  dsimp only [State.setRotate]
  with_reducible repeat' first
    | assumption | intro _ | apply kept_mk rfl

theorem State.outOfService_kept {r : State} (s : State) (c : Nat) (h0 : Kept r s) :
    Kept r (State.outOfService s c) := by
  dsimp only [State.outOfService]
  with_reducible repeat' first
    | assumption | intro _ | apply State.setRepair_kept | apply State.showOut_kept | apply State.raise_kept | split

theorem State.mapMet_kept {r : State} (s : State) (c : Nat) (h0 : Kept r s) :
    Kept r (State.mapMet s c) := by
  dsimp only [State.mapMet]
  with_reducible repeat' first
    | assumption | intro _ | apply State.setRepair_kept | apply State.outOfService_kept | apply State.raise_kept | split

theorem State.asideAfterFence_kept {r : State} (s : State) (c : Nat) (p : Nat) (h0 : Kept r s) :
    Kept r (State.asideAfterFence s c p) := by
  dsimp only [State.asideAfterFence]
  with_reducible repeat' first
    | assumption | intro _ | apply State.setRepair_kept | apply State.raise_kept | split

theorem State.fence_kept {r : State} (s : State) (c : Nat) (p : Nat) (engine : Nat) (signature : W64) (how : Nat) (h0 : Kept r s) :
    Kept r (State.fence s c p engine signature how) := by
  dsimp only [State.fence]
  with_reducible repeat' first
    | assumption | intro _ | apply State.setRepair_kept | apply State.asideAfterFence_kept | apply State.raise_kept | apply State.showOut_kept
    | split

theorem State.repairCore_kept {r : State} (s : State) (c : Nat) (l : Nat) (h0 : Kept r s) :
    Kept r (State.repairCore s c l) := by
  dsimp only [State.repairCore]
  with_reducible repeat' first
    | assumption | intro _ | apply State.setRepair_kept | apply State.raise_kept | split

theorem State.rotateSwap_kept {r : State} (s : State) (c : Nat) (h0 : Kept r s) :
    Kept r (State.rotateSwap s c) := by
  dsimp only [State.rotateSwap]
  with_reducible repeat' first
    | assumption | intro _ | apply State.setRotate_kept | apply State.setRepair_kept | apply State.raise_kept | split

theorem State.tested_kept {r : State} (s : State) (c : Nat) (p : Nat) (h0 : Kept r s) :
    Kept r (State.tested s c p) := by
  dsimp only [State.tested]
  with_reducible repeat' first
    | assumption | intro _ | apply State.setRepair_kept

theorem State.boundary_kept {r : State} (s : State) (c : Nat) (h0 : Kept r s) :
    Kept r (State.boundary s c) := by
  dsimp only [State.boundary]
  with_reducible repeat' first
    | assumption | intro _ | apply foldl_kept | apply foldl_keptP | apply State.mapMet_kept | apply State.rotateSwap_kept
    | apply State.repairCore_kept

/-! ### Machine/Launch.lean -/

theorem State.beginWake_kept {r : State} (s : State) (h0 : Kept r s) :
    Kept r (State.beginWake s) := by
  dsimp only [State.beginWake]
  with_reducible repeat' first
    | assumption | intro _ | split | apply kept_mk rfl

theorem State.endLaunch_kept {r : State} (s : State) (q : CmdRef) (status : Nat) (r0 : Nat) (r1 : W64) (h0 : Kept r s) :
    Kept r (State.endLaunch s q status r0 r1) := by
  dsimp only [State.endLaunch]
  with_reducible repeat' first
    | assumption | intro _ | apply State.complete_kept | split | apply kept_mk rfl

theorem State.launchEnded_kept {r : State} (s : State) (q : CmdRef) (status : Nat) (started : Nat) (h0 : Kept r s) :
    Kept r (State.launchEnded s q status started) := by
  dsimp only [State.launchEnded]
  with_reducible repeat' first
    | assumption | intro _ | apply State.raise_kept

theorem State.badImage_kept {r : State} (s : State) (q : CmdRef) (va : Nat) (cause : Nat) (h0 : Kept r s) :
    Kept r (State.badImage s q va cause) := by
  dsimp only [State.badImage]
  with_reducible repeat' first
    | assumption | intro _ | apply State.endLaunch_kept | apply State.raise_kept

theorem State.withImage_kept {r : State} (s : State) (q : CmdRef) (va : Nat) (f : State → List W128 → State) (h0 : Kept r s) (h1 : ∀ x0 x1, Kept r (x0) → Kept r (f x0 x1)) :
    Kept r (State.withImage s q va f) := by
  dsimp only [State.withImage]
  with_reducible repeat' first
    | assumption | intro _ | apply h1 | apply State.badImage_kept | apply State.stallOn_kept | apply State.uncorrectable_kept
    | apply State.readVa_kept | split | refine kept_fst (by assumption) ?_ | refine kept_fstEq (by assumption) ?_ | apply kept_mk rfl

theorem State.launchPegs_kept {r : State} (s : State) (ctx : Nat) (ring : Nat) (a3 : Nat) (h0 : Kept r s) :
    Kept r (State.launchPegs s ctx ring a3) := by
  induction a3 generalizing s ctx ring with
  | zero =>
    dsimp only [State.launchPegs]
    with_reducible repeat' first
      | assumption | intro _ | apply State.endLaunch_kept | apply State.startWait_kept | apply State.stallOff_kept | apply State.setLaunch_kept
      | apply State.stallOn_kept | split | refine kept_fst (by assumption) ?_ | refine kept_fstEq (by assumption) ?_
  | succ n ih =>
    dsimp only [State.launchPegs]
    with_reducible repeat' first
      | assumption | apply ih | intro _ | apply State.endLaunch_kept | apply State.startWait_kept | apply State.stallOff_kept
      | apply State.setLaunch_kept | apply State.stallOn_kept | split | refine kept_fst (by assumption) ?_ | refine kept_fstEq (by assumption) ?_

theorem execProgLaunch_kept {r : State} (q : CmdRef) (s : State) (h0 : Kept r s) :
    KeptE r (execProgLaunch q s) := by
  dsimp only [execProgLaunch]
  with_reducible repeat' first
    | assumption | apply keptE_next | intro _ | apply foldl_kept | apply foldl_keptP | apply State.perform_kept | apply State.mapMet_kept
    | apply State.endLaunch_kept | apply State.withImage_kept | apply State.stallOff_kept | apply State.startTaken_kept
    | apply State.launchPegs_kept | split | apply kept_mk rfl

theorem execProgAbort_kept {r : State} (q : CmdRef) (s : State) (h0 : Kept r s) :
    KeptE r (execProgAbort q s) := by
  dsimp only [execProgAbort]
  with_reducible repeat' first
    | assumption | apply keptE_next | intro _ | apply foldl_kept | apply foldl_keptP | apply State.perform_kept | apply State.complete_kept
    | apply State.stopLaunch_kept

theorem execClusterGrant_kept {r : State} (q : CmdRef) (s : State) (h0 : Kept r s) :
    KeptE r (execClusterGrant q s) := by
  dsimp only [execClusterGrant]
  with_reducible repeat' first
    | assumption | apply keptE_next | intro _ | apply foldl_kept | apply foldl_keptP | apply State.perform_kept | apply State.complete_kept
    | apply State.setCluster_kept | split

theorem State.giveBack_kept {r : State} (s : State) (c : Nat) (h0 : Kept r s) :
    Kept r (State.giveBack s c) := by
  dsimp only [State.giveBack]
  with_reducible repeat' first
    | assumption | intro _ | apply State.setCluster_kept

theorem execClusterRelease_kept {r : State} (q : CmdRef) (s : State) (h0 : Kept r s) :
    KeptE r (execClusterRelease q s) := by
  dsimp only [execClusterRelease]
  with_reducible repeat' first
    | assumption | apply keptE_next | intro _ | apply foldl_kept | apply foldl_keptP | apply State.perform_kept | apply State.complete_kept
    | apply State.setCluster_kept | apply State.giveBack_kept | split

theorem State.startCluster_kept {r : State} (s : State) (q : CmdRef) (image : List W128) (c : Nat) (h0 : Kept r s) :
    Kept r (State.startCluster s q image c) := by
  dsimp only [State.startCluster]
  with_reducible repeat' first
    | assumption | intro _ | apply State.boundary_kept | apply State.setCluster_kept

theorem execLaunchStart_kept {r : State} (q : CmdRef) (s : State) (h0 : Kept r s) :
    KeptE r (execLaunchStart q s) := by
  dsimp only [execLaunchStart]
  with_reducible repeat' first
    | assumption | apply keptE_next | intro _ | apply foldl_kept | apply foldl_keptP | apply State.launchPegs_kept | apply State.mapMet_kept
    | apply State.endLaunch_kept | apply State.beginWake_kept | apply State.startCluster_kept | apply State.setLaunch_kept
    | apply State.raise_kept | split

theorem execClusterProgramEnd_kept {r : State} (c : ClusterNo) (s : State) (h0 : Kept r s) :
    KeptE r (execClusterProgramEnd c s) := by
  dsimp only [execClusterProgramEnd]
  with_reducible repeat' first
    | assumption | apply keptE_next | intro _ | apply State.setCluster_kept | split

theorem State.idleCluster_kept {r : State} (s : State) (c : Nat) (h0 : Kept r s) :
    Kept r (State.idleCluster s c) := by
  dsimp only [State.idleCluster]
  with_reducible repeat' first
    | assumption | intro _ | apply State.setCluster_kept | apply State.showOut_kept | apply State.giveBack_kept | split | apply kept_mk rfl

theorem execClusterDrained_kept {r : State} (c : ClusterNo) (s : State) (h0 : Kept r s) :
    KeptE r (execClusterDrained c s) := by
  dsimp only [execClusterDrained]
  with_reducible repeat' first
    | assumption | apply keptE_next | intro _ | apply State.idleCluster_kept | split

theorem execLaunchComplete_kept {r : State} (q : CmdRef) (s : State) (h0 : Kept r s) :
    KeptE r (execLaunchComplete q s) := by
  dsimp only [execLaunchComplete]
  with_reducible repeat' first
    | assumption | apply keptE_next | intro _ | apply State.launchEnded_kept | apply State.endLaunch_kept | apply State.completionSignal_kept
    | split

theorem execClusterGateTimeout_kept {r : State} (c : ClusterNo) (s : State) (h0 : Kept r s) :
    KeptE r (execClusterGateTimeout c s) := by
  dsimp only [execClusterGateTimeout]
  with_reducible repeat' first
    | assumption | apply keptE_next | intro _ | apply State.setCluster_kept | split

/-! ### Machine/Guyline.lean -/

theorem State.movedOn_kept {r : State} (s : State) (p : Nat) (cls : Nat) (n : Nat) (h0 : Kept r s) :
    Kept r (State.movedOn s p cls n) := by
  dsimp only [State.movedOn]
  with_reducible repeat' first
    | assumption | intro _ | apply State.setPort_kept

theorem State.toInbox_kept {r : State} (s : State) (p : Nat) (cls : Nat) (b : List Byte) (h0 : Kept r s) :
    Kept r (State.toInbox s p cls b) := by
  dsimp only [State.toInbox]
  with_reducible repeat' first
    | assumption | intro _ | apply State.setPort_kept

theorem State.e2eBlock_kept {r : State} (s : State) (p : Nat) (cls : Nat) (n : Nat) (b : List Byte) (h0 : Kept r s) :
    Kept r (State.e2eBlock s p cls n b) := by
  dsimp only [State.e2eBlock]
  with_reducible repeat' first
    | assumption | intro _ | apply State.sendBlock_kept | apply State.movedOn_kept | apply State.toInbox_kept | apply State.free_kept
    | apply State.setPort_kept | apply State.stallOn_kept | split | refine kept_fst (by assumption) ?_ | refine kept_fstEq (by assumption) ?_
    | refine kept_snd (by assumption) ?_ | apply kept_mk rfl

theorem State.gotBlock_kept {r : State} (s : State) (p : Nat) (cls : Nat) (whole : List Byte) (h0 : Kept r s) :
    Kept r (State.gotBlock s p cls whole) := by
  dsimp only [State.gotBlock]
  with_reducible repeat' first
    | assumption | intro _ | apply State.badBlock_kept | apply State.movedOn_kept | apply State.setPort_kept | apply State.misroute_kept
    | apply State.sendBlock_kept | apply State.e2eBlock_kept | apply State.toInbox_kept | split | refine kept_fst (by assumption) ?_
    | refine kept_fstEq (by assumption) ?_ | apply kept_mk rfl

theorem State.linkAck_kept {r : State} (s : State) (p : Nat) (seq : Nat) (h0 : Kept r s) :
    Kept r (State.linkAck s p seq) := by
  dsimp only [State.linkAck]
  with_reducible repeat' first
    | assumption | intro _ | apply State.blocksAcked_kept | apply State.setPort_kept | split

theorem State.flitHeader_kept {r : State} (s : State) (p : Nat) (f : List Byte) (h0 : Kept r s) :
    Kept r (State.flitHeader s p f) := by
  dsimp only [State.flitHeader]
  with_reducible repeat' first
    | assumption | intro _ | apply State.linkAck_kept | apply State.setPort_kept | split

theorem State.owesNak_kept {r : State} (s : State) (p : Nat) (h0 : Kept r s) :
    Kept r (State.owesNak s p) := by
  dsimp only [State.owesNak]
  with_reducible repeat' first
    | assumption | intro _ | apply State.setPort_kept

theorem State.flitRow_kept {r : State} (s : State) (p : Nat) (f : List Byte) (type : Nat) (g : State → State) (h0 : Kept r s) (h1 : ∀ x0, Kept r (x0) → Kept r (g x0)) :
    Kept r (State.flitRow s p f type g) := by
  dsimp only [State.flitRow]
  with_reducible repeat' first
    | assumption | intro _ | apply h1 | apply State.pump_kept | apply State.owesNak_kept | apply State.setPort_kept | apply State.release_kept
    | apply State.flitHeader_kept | split

theorem State.flitData_kept {r : State} (s : State) (p : Nat) (f : List Byte) (h0 : Kept r s) :
    Kept r (State.flitData s p f) := by
  dsimp only [State.flitData]
  with_reducible repeat' first
    | assumption | intro _ | apply foldl_kept | apply foldl_keptP | apply State.owesNak_kept | apply State.gotBlock_kept
    | apply State.setPort_kept | split

theorem execFlitReceived_kept {r : State} (p : Port) (flit : List Byte) (s : State) (h0 : Kept r s) :
    KeptE r (execFlitReceived p flit s) := by
  dsimp only [execFlitReceived]
  with_reducible repeat' first
    | assumption | apply keptE_next | intro _ | apply State.flitRow_kept | apply State.flitData_kept

theorem State.replay_kept {r : State} (s : State) (p : Nat) (h0 : Kept r s) :
    Kept r (State.replay s p) := by
  dsimp only [State.replay]
  with_reducible repeat' first
    | assumption | intro _ | apply State.setPort_kept | apply State.portDown_kept | split

theorem execNakFlitReceived_kept {r : State} (p : Port) (flit : List Byte) (s : State) (h0 : Kept r s) :
    KeptE r (execNakFlitReceived p flit s) := by
  dsimp only [execNakFlitReceived]
  with_reducible repeat' first
    | assumption | apply keptE_next | intro _ | apply State.flitRow_kept | apply State.replay_kept | split

theorem execIdleFlitReceived_kept {r : State} (p : Port) (flit : List Byte) (s : State) (h0 : Kept r s) :
    KeptE r (execIdleFlitReceived p flit s) := by
  dsimp only [execIdleFlitReceived]
  with_reducible repeat' first
    | assumption | apply keptE_next | intro _ | apply State.flitRow_kept

theorem execLpiFlitReceived_kept {r : State} (p : Port) (flit : List Byte) (s : State) (h0 : Kept r s) :
    KeptE r (execLpiFlitReceived p flit s) := by
  dsimp only [execLpiFlitReceived]
  with_reducible repeat' first
    | assumption | apply keptE_next | intro _ | apply State.flitRow_kept | apply State.setPort_kept | split

theorem execReplayTimeout_kept {r : State} (p : Port) (s : State) (h0 : Kept r s) :
    KeptE r (execReplayTimeout p s) := by
  dsimp only [execReplayTimeout]
  with_reducible repeat' first
    | assumption | apply keptE_next | intro _ | apply State.pump_kept | apply State.replay_kept | split

theorem execFrameReceived_kept {r : State} (p : Port) (frame : List Byte) (s : State) (h0 : Kept r s) :
    KeptE r (execFrameReceived p frame s) := by
  dsimp only [execFrameReceived]
  with_reducible repeat' first
    | assumption | apply keptE_next | intro _ | apply foldl_kept | apply foldl_keptP | apply State.setPort_kept | apply State.pump_kept
    | apply State.gotBlock_kept | split

theorem State.peerReject_kept {r : State} (s : State) (p : Nat) (b : List Byte) (code : Nat) (h0 : Kept r s) :
    Kept r (State.peerReject s p b code) := by
  dsimp only [State.peerReject]
  with_reducible repeat' first
    | assumption | intro _ | apply State.raise_kept

theorem State.peerAnswer_kept {r : State} (s : State) (p : Nat) (b : List Byte) (ty : Nat) (code : Nat) (data : List Byte) (h0 : Kept r s) :
    Kept r (State.peerAnswer s p b ty code data) := by
  dsimp only [State.peerAnswer]
  with_reducible repeat' first
    | assumption | intro _ | apply State.sendBlock_kept | refine kept_fst (by assumption) ?_ | refine kept_fstEq (by assumption) ?_

theorem State.peerRequest_kept {r : State} (s : State) (p : Nat) (ty : Nat) (answer : Nat) (n : Nat) (write : Bool) (f : State →   List Byte → Nat → State × Got (List Byte)) (h0 : Kept r s) (h1 : ∀ x0 x1 x2, Kept r (x0) → Kept r (f x0 x1 x2).1) :
    Kept r (State.peerRequest s p ty answer n write f) := by
  dsimp only [State.peerRequest]
  with_reducible repeat' first
    | assumption | intro _ | apply h1 | apply State.delivered_kept | apply State.peerAnswer_kept | apply State.peerReject_kept
    | apply State.beginWake_kept | apply State.uncorrectable_kept | split | refine kept_fst (by assumption) ?_
    | refine kept_fstEq (by assumption) ?_ | apply kept_mk rfl

theorem execWriteBlockReceived_kept {r : State} (p : Port) (s : State) (h0 : Kept r s) :
    KeptE r (execWriteBlockReceived p s) := by
  dsimp only [execWriteBlockReceived]
  with_reducible repeat' first
    | assumption | apply keptE_next | intro _ | apply State.peerRequest_kept | apply State.writeVa_kept | split
    | refine kept_fst (by assumption) ?_ | refine kept_fstEq (by assumption) ?_

theorem execReadReqReceived_kept {r : State} (p : Port) (s : State) (h0 : Kept r s) :
    KeptE r (execReadReqReceived p s) := by
  dsimp only [execReadReqReceived]
  with_reducible repeat' first
    | assumption | apply keptE_next | intro _ | apply State.peerRequest_kept | apply State.readVa_kept | refine kept_fst (by assumption) ?_
    | refine kept_fstEq (by assumption) ?_

theorem execWriteAckReceived_kept {r : State} (p : Port) (s : State) (h0 : Kept r s) :
    KeptE r (execWriteAckReceived p s) := by
  dsimp only [execWriteAckReceived]
  with_reducible repeat' first
    | assumption | apply keptE_next | intro _ | apply State.deliver_kept | apply State.badBlock_kept | apply State.lateFault_kept
    | apply State.release_kept | split | apply kept_mk rfl

theorem execReadRespReceived_kept {r : State} (p : Port) (s : State) (h0 : Kept r s) :
    KeptE r (execReadRespReceived p s) := by
  dsimp only [execReadRespReceived]
  with_reducible repeat' first
    | assumption | apply keptE_next | intro _ | apply State.deliver_kept | apply State.badBlock_kept | split | apply kept_mk rfl

theorem State.resend_kept {r : State} (s : State) (dest : Nat) (cls : Nat) (syn : Bool) (h0 : Kept r s) :
    Kept r (State.resend s dest cls syn) := by
  dsimp only [State.resend]
  with_reducible repeat' first
    | assumption | intro _ | apply foldl_kept | apply foldl_keptP | apply State.setPort_kept | apply State.raiseLimited_kept
    | apply State.pumpAll_kept | split | apply kept_mk rfl

theorem execE2eAckTimer_kept {r : State} (src : BitVec 16) (tc : Fin 8) (s : State) (h0 : Kept r s) :
    KeptE r (execE2eAckTimer src tc s) := by
  dsimp only [execE2eAckTimer]
  with_reducible repeat' first
    | assumption | apply keptE_next | intro _ | apply State.sendE2eAck_kept | split

theorem execE2eAckReceived_kept {r : State} (p : Port) (s : State) (h0 : Kept r s) :
    KeptE r (execE2eAckReceived p s) := by
  dsimp only [execE2eAckReceived]
  with_reducible repeat' first
    | assumption | apply keptE_next | intro _ | apply State.deliver_kept | apply State.release_kept | apply State.blocksAcked_kept | split
    | apply kept_mk rfl

theorem execE2eNakReceived_kept {r : State} (p : Port) (s : State) (h0 : Kept r s) :
    KeptE r (execE2eNakReceived p s) := by
  dsimp only [execE2eNakReceived]
  with_reducible repeat' first
    | assumption | apply keptE_next | intro _ | apply State.deliver_kept | apply State.resend_kept

theorem execE2eResendTimeout_kept {r : State} (dest : BitVec 16) (tc : Fin 8) (s : State) (h0 : Kept r s) :
    KeptE r (execE2eResendTimeout dest tc s) := by
  dsimp only [execE2eResendTimeout]
  with_reducible repeat' first
    | assumption | apply keptE_next | intro _ | apply State.resend_kept | split

theorem State.takeHeld_kept {r : State} (s : State) (h0 : Kept r s) :
    Kept r (State.takeHeld s) := by
  dsimp only [State.takeHeld]
  with_reducible repeat' first
    | assumption | intro _ | apply foldl_kept | apply foldl_keptP | apply State.setPort_kept | apply State.e2eBlock_kept
    | apply State.stallOff_kept

theorem execConnectionIdleExpiry_kept {r : State} (sender : Bool) (node : BitVec 16) (tc : Fin 8) (s : State) (h0 : Kept r s) :
    KeptE r (execConnectionIdleExpiry sender node tc s) := by
  dsimp only [execConnectionIdleExpiry]
  with_reducible repeat' first
    | assumption | apply keptE_next | intro _ | apply State.release_kept | apply State.takeHeld_kept | split | apply kept_mk rfl

theorem execSignalDetected_kept {r : State} (p : Port) (s : State) (h0 : Kept r s) :
    KeptE r (execSignalDetected p s) := by
  dsimp only [execSignalDetected]
  with_reducible repeat' first
    | assumption | apply keptE_next | intro _ | apply State.setPort_kept | split

theorem execTrainingAttemptEnd_kept {r : State} (p : Port) (x : TrainEnd) (s : State) (h0 : Kept r s) :
    KeptE r (execTrainingAttemptEnd p x s) := by
  dsimp only [execTrainingAttemptEnd]
  with_reducible repeat' first
    | assumption | apply keptE_next | intro _ | apply State.setPort_kept | apply State.raise_kept | apply State.blocksAcked_kept
    | apply State.pump_kept | apply State.release_kept | split

theorem execLinkLoss_kept {r : State} (p : Port) (s : State) (h0 : Kept r s) :
    KeptE r (execLinkLoss p s) := by
  dsimp only [execLinkLoss]
  with_reducible repeat' first
    | assumption | apply keptE_next | intro _ | apply State.portDown_kept | split

theorem execGlRouteWrite_kept {r : State} (q : CmdRef) (s : State) (h0 : Kept r s) :
    KeptE r (execGlRouteWrite q s) := by
  dsimp only [execGlRouteWrite]
  with_reducible repeat' first
    | assumption | apply keptE_next | intro _ | apply foldl_kept | apply foldl_keptP | apply State.perform_kept | apply State.cmdOutcome_kept
    | apply State.readVa_kept | apply State.complete_kept | apply State.release_kept | split | refine kept_fst (by assumption) ?_
    | refine kept_fstEq (by assumption) ?_ | apply kept_mk rfl

theorem portCtrl_kept {r : State} (action : Nat) (q : CmdRef) (s : State) (h0 : Kept r s) :
    Kept r (portCtrl action q s) := by
  dsimp only [portCtrl]
  with_reducible repeat' first
    | assumption | intro _ | apply State.perform_kept | apply State.complete_kept | apply State.portDown_kept | apply State.setPort_kept | split

theorem execGlPortRetrain_kept {r : State} (q : CmdRef) (s : State) (h0 : Kept r s) :
    KeptE r (execGlPortRetrain q s) := by
  dsimp only [execGlPortRetrain]
  with_reducible repeat' first
    | assumption | apply keptE_next | intro _ | apply portCtrl_kept

theorem execGlPortDisable_kept {r : State} (q : CmdRef) (s : State) (h0 : Kept r s) :
    KeptE r (execGlPortDisable q s) := by
  dsimp only [execGlPortDisable]
  with_reducible repeat' first
    | assumption | apply keptE_next | intro _ | apply portCtrl_kept

theorem execGlPortEnable_kept {r : State} (q : CmdRef) (s : State) (h0 : Kept r s) :
    KeptE r (execGlPortEnable q s) := by
  dsimp only [execGlPortEnable]
  with_reducible repeat' first
    | assumption | apply keptE_next | intro _ | apply portCtrl_kept

/-! ### Machine/Registers.lean -/

theorem State.write64_kept {r : State} (s : State) (off : Nat) (v : RegValue) (h0 : Kept r s) :
    Kept r (State.write64 s off v).1 := by
  dsimp only [State.write64]
  with_reducible repeat' first
    | assumption | intro _ | split | refine kept_fst (by assumption) ?_ | refine kept_fstEq (by assumption) ?_ | apply kept_mk rfl

theorem State.rwp_kept {r : State} (s : State) (off : Nat) (v : RegValue) (h0 : Kept r s) :
    Kept r (State.rwp s off v).1 := by
  dsimp only [State.rwp]
  with_reducible repeat' first
    | assumption | intro _ | split | refine kept_fst (by assumption) ?_ | refine kept_fstEq (by assumption) ?_ | apply kept_mk rfl

theorem State.msixWrite_kept {r : State} (s : State) (off : Nat) (v : W32) (h0 : Kept r s) :
    Kept r (State.msixWrite s off v) := by
  dsimp only [State.msixWrite]
  with_reducible repeat' first
    | assumption | intro _ | apply State.toHost_kept | split | apply kept_mk rfl

theorem State.msixUnmask_kept {r : State} (s : State) (n : Nat) (h0 : Kept r s) :
    Kept r (State.msixUnmask s n) := by
  dsimp only [State.msixUnmask]
  with_reducible repeat' first
    | assumption | intro _ | apply State.toHost_kept | split | apply kept_mk rfl

theorem State.plainWrite_kept {r : State} (s : State) (off : Nat) (v : RegValue) (h0 : Kept r s) :
    Kept r (State.plainWrite s off v) := by
  dsimp only [State.plainWrite]
  with_reducible repeat' first
    | assumption | intro _ | apply State.rwp_kept | apply State.setReg_kept | apply State.write64_kept | apply State.macChecked_kept | split
    | refine kept_fst (by assumption) ?_ | refine kept_fstEq (by assumption) ?_

theorem execRegisterWrite_kept {r : State} (w : RegWrite) (s : State) (h0 : Kept r s) :
    KeptE r (execRegisterWrite w s) := by
  dsimp only [execRegisterWrite]
  with_reducible repeat' first
    | assumption | apply keptE_next | intro _ | apply State.msixWrite_kept | apply State.plainWrite_kept | split

theorem execMsixVectorUnmask_kept {r : State} (v : Fin 2048) (s : State) (h0 : Kept r s) :
    KeptE r (execMsixVectorUnmask v s) := by
  dsimp only [execMsixVectorUnmask]
  with_reducible repeat' first
    | assumption | apply keptE_next | intro _ | apply State.msixUnmask_kept | split

/-! ### Machine/Curator.lean -/

theorem State.toPoint_kept {r : State} (s : State) (p : Nat) (h0 : Kept r s) :
    Kept r (State.toPoint s p) := by
  dsimp only [State.toPoint]
  with_reducible repeat' first
    | assumption | intro _ | split | apply kept_mk rfl

theorem State.atLeast_kept {r : State} (s : State) (p : Nat) (h0 : Kept r s) :
    Kept r (State.atLeast s p) := by
  dsimp only [State.atLeast]
  with_reducible repeat' first
    | assumption | intro _ | apply State.toPoint_kept | split | apply kept_mk rfl

theorem State.setSensor_kept {r : State} (s : State) (i : Nat) (x : Sensor) (h0 : Kept r s) :
    Kept r (State.setSensor s i x) := by
  dsimp only [State.setSensor]
  with_reducible repeat' first
    | assumption | intro _ | apply kept_mk rfl

theorem State.failSensor_kept {r : State} (s : State) (i : Nat) (r0 : Int) (how : Nat) (h0 : Kept r s) :
    Kept r (State.failSensor s i r0 how) := by
  dsimp only [State.failSensor]
  with_reducible repeat' first
    | assumption | intro _ | apply State.setSensor_kept | apply State.raise_kept

theorem State.departure_kept {r : State} (s : State) (b : Nat) (h0 : Kept r s) :
    Kept r (State.departure s b) := by
  dsimp only [State.departure]
  with_reducible repeat' first
    | assumption | intro _ | apply State.raise_kept | split | apply kept_mk rfl

theorem State.causeOn_kept {r : State} (s : State) (b : Nat) (reading : Int) (sensor : Nat) (h0 : Kept r s) :
    Kept r (State.causeOn s b reading sensor) := by
  dsimp only [State.causeOn]
  with_reducible repeat' first
    | assumption | intro _ | split | apply kept_mk rfl

theorem State.causeOff_kept {r : State} (s : State) (b : Nat) (h0 : Kept r s) :
    Kept r (State.causeOff s b) := by
  dsimp only [State.causeOff]
  with_reducible repeat' first
    | assumption | intro _ | apply State.raise_kept | split | apply kept_mk rfl

theorem State.causeClear_kept {r : State} (s : State) (b : Nat) (ns : Nat) (h0 : Kept r s) :
    Kept r (State.causeClear s b ns) := by
  dsimp only [State.causeClear]
  with_reducible repeat' first
    | assumption | intro _ | apply State.causeOff_kept | split | apply kept_mk rfl

theorem State.causeHold_kept {r : State} (s : State) (b : Nat) (h0 : Kept r s) :
    Kept r (State.causeHold s b) := by
  dsimp only [State.causeHold]
  with_reducible repeat' first
    | assumption | intro _ | apply kept_mk rfl

theorem State.lostCause_kept {r : State} (s : State) (h0 : Kept r s) :
    Kept r (State.lostCause s) := by
  dsimp only [State.lostCause]
  with_reducible repeat' first
    | assumption | intro _ | apply State.departure_kept | apply State.atLeast_kept | apply State.causeOn_kept | apply State.causeOff_kept | split

theorem State.trip_kept {r : State} (s : State) (i : Nat) (r0 : Int) (how : Nat) (h0 : Kept r s) :
    Kept r (State.trip s i r0 how) := by
  dsimp only [State.trip]
  with_reducible repeat' first
    | assumption | intro _ | apply State.raiseWith_kept | apply kept_mk rfl

theorem execAnalogueComparatorTrip_kept {r : State} (i : Fin 256) (r0 : Int) (s : State) (h0 : Kept r s) :
    KeptE r (execAnalogueComparatorTrip i r0 s) := by
  dsimp only [execAnalogueComparatorTrip]
  with_reducible repeat' first
    | assumption | apply keptE_next | intro _ | apply State.trip_kept | split

theorem State.thermalOne_kept {r : State} (s : State) (i : Nat) (r0 : Int) (med : Option Int) (h0 : Kept r s) :
    Kept r (State.thermalOne s i r0 med) := by
  dsimp only [State.thermalOne]
  with_reducible repeat' first
    | assumption | intro _ | apply State.failSensor_kept | apply State.setSensor_kept | split

theorem State.stackSample_kept {r : State} (s : State) (n : Nat) (r0 : Int) (h0 : Kept r s) :
    Kept r (State.stackSample s n r0) := by
  dsimp only [State.stackSample]
  with_reducible repeat' first
    | assumption | intro _ | apply State.setSensor_kept | apply State.raise_kept | split | apply kept_mk rfl

theorem execThermalSample_kept {r : State} (readings : List Int) (s : State) (h0 : Kept r s) :
    KeptE r (execThermalSample readings s) := by
  unfold execThermalSample
  apply keptE_next
  split
  · exact h0
  · extract_lets a b c d j k e f g
    have hc : Kept r c := foldl_kept (fun s x h => by
      split
      · exact State.thermalOne_kept _ _ _ _ h
      · exact h) h0
    have hd : Kept r d := foldl_kept (fun s x h => by
      split
      · exact State.stackSample_kept _ _ _ h
      · exact h) hc
    clear_value j k d
    obtain _ | ⟨i, m⟩ := j <;> obtain _ | ⟨n, t⟩ := k <;> dsimp only [e, f, g] <;>
    repeat' first | with_reducible assumption | with_reducible apply State.causeOn_kept | with_reducible apply State.causeClear_kept | with_reducible apply State.causeHold_kept | with_reducible apply State.causeOff_kept | with_reducible apply State.departure_kept | with_reducible apply State.lostCause_kept | with_reducible apply State.trip_kept | split

theorem execVoltageSample_kept {r : State} (readings : List Int) (s : State) (h0 : Kept r s) :
    KeptE r (execVoltageSample readings s) := by
  dsimp only [execVoltageSample]
  with_reducible repeat' first
    | assumption | apply keptE_next | intro _ | apply foldl_kept | apply foldl_keptP | apply State.setSensor_kept | split

theorem State.currentOne_kept {r : State} (s : State) (i : Nat) (r0 : Option Int) (status : Nat) (h0 : Kept r s) :
    Kept r (State.currentOne s i r0 status) := by
  dsimp only [State.currentOne]
  with_reducible repeat' first
    | assumption | intro _ | apply State.setSensor_kept | apply State.raise_kept | split

theorem execCurrentSample_kept {r : State} (readings : List (Option Int)) (statusWords : List Nat) (s : State) (h0 : Kept r s) :
    KeptE r (execCurrentSample readings statusWords s) := by
  dsimp only [execCurrentSample]
  with_reducible repeat' first
    | assumption | apply keptE_next | intro _ | apply foldl_kept | apply foldl_keptP | apply State.currentOne_kept | apply State.causeOn_kept
    | apply State.causeClear_kept | apply State.causeHold_kept | apply State.lostCause_kept | split

theorem State.floorYield_kept {r : State} (s : State) (h0 : Kept r s) :
    Kept r (State.floorYield s) := by
  dsimp only [State.floorYield]
  with_reducible repeat' first
    | assumption | intro _ | apply State.raise_kept | split | apply kept_mk rfl

theorem execPowerLoopTick_kept {r : State} (s : State) (h0 : Kept r s) :
    KeptE r (execPowerLoopTick s) := by
  dsimp only [execPowerLoopTick]
  with_reducible repeat' first
    | assumption | apply keptE_next | intro _ | apply State.departure_kept | apply State.atLeast_kept | apply State.toPoint_kept
    | apply State.floorYield_kept | split | apply kept_mk rfl

theorem execVoltageSettled_kept {r : State} (s : State) (h0 : Kept r s) :
    KeptE r (execVoltageSettled s) := by
  dsimp only [execVoltageSettled]
  with_reducible repeat' first
    | assumption | apply keptE_next | intro _ | split | apply kept_mk rfl

theorem execFastThrottleAssert_kept {r : State} (s : State) (h0 : Kept r s) :
    KeptE r (execFastThrottleAssert s) := by
  dsimp only [execFastThrottleAssert]
  with_reducible repeat' first
    | assumption | apply keptE_next | intro _ | apply State.atLeast_kept | apply State.departure_kept | apply State.causeOn_kept
    | apply State.raise_kept | split | apply kept_mk rfl

theorem execFastThrottleRelease_kept {r : State} (s : State) (h0 : Kept r s) :
    KeptE r (execFastThrottleRelease s) := by
  dsimp only [execFastThrottleRelease]
  with_reducible repeat' first
    | assumption | apply keptE_next | intro _ | apply State.raise_kept | split | apply kept_mk rfl

theorem execThrottleHoldExpiry_kept {r : State} (s : State) (h0 : Kept r s) :
    KeptE r (execThrottleHoldExpiry s) := by
  dsimp only [execThrottleHoldExpiry]
  with_reducible repeat' first
    | assumption | apply keptE_next | intro _ | apply State.causeOff_kept | split | apply kept_mk rfl

theorem State.envelope_kept {r : State} (s : State) (off : Nat) (written : Nat) (inForce : Nat) (clipped : Bool) (h0 : Kept r s) :
    Kept r (State.envelope s off written inForce clipped) := by
  dsimp only [State.envelope]
  with_reducible repeat' first
    | assumption | intro _ | apply State.setReg_kept | apply State.raise_kept | split

theorem execCurClockLimitsWrite_kept {r : State} (v : RegValue) (s : State) (h0 : Kept r s) :
    KeptE r (execCurClockLimitsWrite v s) := by
  dsimp only [execCurClockLimitsWrite]
  with_reducible repeat' first
    | assumption | apply keptE_next | intro _ | apply State.rwp_kept | apply State.envelope_kept | split | refine kept_fst (by assumption) ?_
    | refine kept_fstEq (by assumption) ?_ | apply kept_mk rfl

theorem execCurPowerCapWrite_kept {r : State} (v : RegValue) (s : State) (h0 : Kept r s) :
    KeptE r (execCurPowerCapWrite v s) := by
  dsimp only [execCurPowerCapWrite]
  with_reducible repeat' first
    | assumption | apply keptE_next | intro _ | apply State.rwp_kept | apply State.envelope_kept | split | refine kept_fst (by assumption) ?_
    | refine kept_fstEq (by assumption) ?_

theorem execCurThrottlePointWrite_kept {r : State} (v : RegValue) (s : State) (h0 : Kept r s) :
    KeptE r (execCurThrottlePointWrite v s) := by
  dsimp only [execCurThrottlePointWrite]
  with_reducible repeat' first
    | assumption | apply keptE_next | intro _ | apply State.rwp_kept | apply State.envelope_kept | split | refine kept_fst (by assumption) ?_
    | refine kept_fstEq (by assumption) ?_

theorem execReqClippedClear_kept {r : State} (v : RegValue) (s : State) (h0 : Kept r s) :
    KeptE r (execReqClippedClear v s) := by
  dsimp only [execReqClippedClear]
  with_reducible repeat' first
    | assumption | apply keptE_next | intro _ | apply State.write64_kept | apply State.setReg_kept | split | refine kept_fst (by assumption) ?_
    | refine kept_fstEq (by assumption) ?_

theorem State.freeze_kept {r : State} (s : State) (h0 : Kept r s) :
    Kept r (State.freeze s) := by
  dsimp only [State.freeze]
  with_reducible repeat' first
    | assumption | intro _ | split | apply kept_mk rfl

theorem State.thaw_kept {r : State} (s : State) (h0 : Kept r s) :
    Kept r (State.thaw s) := by
  dsimp only [State.thaw]
  with_reducible repeat' first
    | assumption | intro _ | split | apply kept_mk rfl

theorem execIdleEntryTimeout_kept {r : State} (s : State) (h0 : Kept r s) :
    KeptE r (execIdleEntryTimeout s) := by
  dsimp only [execIdleEntryTimeout]
  with_reducible repeat' first
    | assumption | apply keptE_next | intro _ | apply State.raise_kept | split | apply kept_mk rfl

theorem State.stackStates_kept {r : State} (s : State) (a : StackState) (b : StackState) (h0 : Kept r s) :
    Kept r (State.stackStates s a b) := by
  dsimp only [State.stackStates]
  with_reducible repeat' first
    | assumption | intro _ | apply foldl_kept | apply foldl_keptP | split | apply kept_mk rfl

theorem State.leaveSelfRefresh_kept {r : State} (s : State) (h0 : Kept r s) :
    Kept r (State.leaveSelfRefresh s) := by
  dsimp only [State.leaveSelfRefresh]
  with_reducible repeat' first
    | assumption | intro _ | apply foldl_kept | apply foldl_keptP | split | apply kept_mk rfl

theorem State.mapPorts_kept {r : State} (s : State) (f : PortSt → PortSt) (h0 : Kept r s) :
    Kept r (State.mapPorts s f) := by
  dsimp only [State.mapPorts]
  with_reducible repeat' first
    | assumption | intro _ | apply kept_mk rfl

theorem State.enterRest_kept {r : State} (s : State) (h0 : Kept r s) :
    Kept r (State.enterRest s) := by
  dsimp only [State.enterRest]
  with_reducible repeat' first
    | assumption | intro _ | apply State.stackStates_kept | apply State.drainStacks_kept | apply State.mapPorts_kept | apply State.pumpAll_kept
    | apply State.freeze_kept | apply State.raise_kept | split | apply kept_mk rfl

theorem execWakeComplete_kept {r : State} (s : State) (h0 : Kept r s) :
    KeptE r (execWakeComplete s) := by
  dsimp only [execWakeComplete]
  with_reducible repeat' first
    | assumption | apply keptE_next | intro _ | apply State.mapPorts_kept | apply State.leaveSelfRefresh_kept | apply State.pumpAll_kept
    | apply State.raise_kept | apply State.thaw_kept | split | apply kept_mk rfl

theorem execCuratorWatchdogExpiry_kept {r : State} (s : State) (h0 : Kept r s) :
    KeptE r (execCuratorWatchdogExpiry s) := by
  dsimp only [execCuratorWatchdogExpiry]
  with_reducible repeat' first
    | assumption | apply keptE_next | intro _ | apply State.atLeast_kept | split | apply kept_mk rfl

theorem execCuratorRestartComplete_kept {r : State} (s : State) (h0 : Kept r s) :
    KeptE r (execCuratorRestartComplete s) := by
  dsimp only [execCuratorRestartComplete]
  with_reducible repeat' first
    | assumption | apply keptE_next | intro _ | apply State.raise_kept | split | apply kept_mk rfl

theorem execThermalSensorCheck_kept {r : State} (apart : List Int) (s : State) (h0 : Kept r s) :
    KeptE r (execThermalSensorCheck apart s) := by
  dsimp only [execThermalSensorCheck]
  with_reducible repeat' first
    | assumption | apply keptE_next | intro _ | apply foldl_kept | apply foldl_keptP | apply State.lostCause_kept | apply State.failSensor_kept
    | apply State.raise_kept | split

theorem execVoltageMonitorCheck_kept {r : State} (apart : List Int) (s : State) (h0 : Kept r s) :
    KeptE r (execVoltageMonitorCheck apart s) := by
  dsimp only [execVoltageMonitorCheck]
  with_reducible repeat' first
    | assumption | apply keptE_next | intro _ | apply foldl_kept | apply foldl_keptP | apply State.raise_kept | split | apply kept_mk rfl

theorem execPldmSensorRead_kept {r : State} (id : BitVec 16) (s : State) (h0 : Kept r s) :
    KeptE r (execPldmSensorRead id s) := by
  dsimp only [execPldmSensorRead]
  with_reducible repeat' first
    | assumption | apply keptE_next | intro _ | split | apply kept_mk rfl

theorem execPlatformEventMessageCollect_kept {r : State} (s : State) (h0 : Kept r s) :
    KeptE r (execPlatformEventMessageCollect s) := by
  dsimp only [execPlatformEventMessageCollect]
  with_reducible repeat' first
    | assumption | apply keptE_next | intro _ | split | apply kept_mk rfl

theorem execEndpointIdAssignment_kept {r : State} (eid : Byte) (s : State) (h0 : Kept r s) :
    KeptE r (execEndpointIdAssignment eid s) := by
  dsimp only [execEndpointIdAssignment]
  with_reducible repeat' first
    | assumption | apply keptE_next | intro _ | split | apply kept_mk rfl

theorem execCurPowerState_kept {r : State} (q : CmdRef) (s : State) (h0 : Kept r s) :
    KeptE r (execCurPowerState q s) := by
  dsimp only [execCurPowerState]
  with_reducible repeat' first
    | assumption | apply keptE_next | intro _ | apply State.perform_kept | apply State.complete_kept | apply State.enterRest_kept | split

theorem execCurSensorRead_kept {r : State} (q : CmdRef) (s : State) (h0 : Kept r s) :
    KeptE r (execCurSensorRead q s) := by
  dsimp only [execCurSensorRead]
  with_reducible repeat' first
    | assumption | apply keptE_next | intro _ | apply State.perform_kept | apply State.cmdOutcome_kept | apply State.writeVa_kept
    | apply State.complete_kept | split | refine kept_fst (by assumption) ?_ | refine kept_fstEq (by assumption) ?_

theorem State.tryPatch_kept {r : State} (s : State) (x : PatchFound) (h0 : Kept r s) :
    Kept r (State.tryPatch s x) := by
  dsimp only [State.tryPatch]
  with_reducible repeat' first
    | assumption | rfl | intro _ | apply State.raise_kept | split | apply kept_mk

theorem execCurPatchActivate_kept {r : State} (q : CmdRef) (x : PatchFound) (s : State) (h0 : Kept r s) :
    KeptE r (execCurPatchActivate q x s) := by
  dsimp only [execCurPatchActivate]
  with_reducible repeat' first
    | assumption | apply keptE_next | intro _ | apply State.perform_kept | apply State.tryPatch_kept | apply State.complete_kept | split

/-! ### Machine/Firmware.lean -/

theorem State.reportUnread_kept {r : State} (s : State) (base : Nat) (n : Nat) (h0 : Kept r s) :
    Kept r (State.reportUnread s base n) := by
  dsimp only [State.reportUnread]
  with_reducible repeat' first
    | assumption | intro _ | apply State.uncorrectable_kept | split

theorem State.refuseImage_kept {r : State} (s : State) (base : Nat) (cause : Nat) (i : ImageInfo) (h0 : Kept r s) :
    Kept r (State.refuseImage s base cause i) := by
  dsimp only [State.refuseImage]
  with_reducible repeat' first
    | assumption | rfl | intro _ | apply State.reportUnread_kept | apply State.raise_kept | split | apply kept_mk

theorem State.refuseConfig_kept {r : State} (s : State) (first : Nat) (h0 : Kept r s) :
    Kept r (State.refuseConfig s first) := by
  dsimp only [State.refuseConfig]
  with_reducible repeat' first
    | assumption | intro _ | apply foldl_kept | apply foldl_keptP | apply State.reportUnread_kept | apply State.raise_kept

theorem State.releaseStage_kept {r : State} (s : State) (h0 : Kept r s) :
    Kept r (State.releaseStage s) := by
  dsimp only [State.releaseStage]
  with_reducible repeat' first
    | assumption | rfl | intro _ | apply foldl_kept | apply foldl_keptP | split | apply kept_mk

theorem State.activateImage_kept {r : State} (s : State) (i : ImageInfo) (h0 : Kept r s) :
    Kept r (State.activateImage s i) := by
  dsimp only [State.activateImage]
  with_reducible repeat' first
    | assumption | rfl | intro _ | apply kept_mk

theorem State.portMode_kept {r : State} (s : State) (p : Nat) (mode : Nat) (h0 : Kept r s) :
    Kept r (State.portMode s p mode) := by
  dsimp only [State.portMode]
  with_reducible repeat' first
    | assumption | intro _ | apply State.portDown_kept | apply State.setPort_kept | split

theorem State.applyConfig_kept {r : State} (s : State) (fw : Bool) (h0 : Kept r s) :
    Kept r (State.applyConfig s fw) := by
  dsimp only [State.applyConfig]
  with_reducible repeat' first
    | assumption | rfl | intro _ | apply foldl_kept | apply foldl_keptP | apply State.portMode_kept | apply State.raise_kept | apply kept_mk

/-! ### Machine/Collective.lean -/

theorem State.setColl_kept {r : State} (s : State) (c : Coll) (h0 : Kept r s) :
    Kept r (State.setColl s c) := by
  dsimp only [State.setColl]
  with_reducible repeat' first
    | assumption | intro _ | apply kept_mk rfl

theorem collGot_kept {r : State} {α : Type} (s0 : State) (c : Coll) (r0 : State × Got α) (f : State → α → State × Coll × CollDo) (h0 : Kept r s0) (h1 : Kept r r0.1) (h2 : ∀ x0 x1, Kept r (x0) → Kept r (f x0 x1).1) :
    Kept r (collGot s0 c r0 f).1 := by
  dsimp only [collGot]
  with_reducible repeat' first
    | assumption | intro _ | apply h2 | split | refine kept_fst (by assumption) ?_ | refine kept_fstEq (by assumption) ?_ | apply kept_mk rfl

theorem State.collOwn_kept {r : State} (s : State) (c : Coll) (i : Nat) (h0 : Kept r s) :
    Kept r (State.collOwn s c i).1 := by
  dsimp only [State.collOwn]
  with_reducible repeat' first
    | assumption | intro _ | apply State.readVa_kept | split | refine kept_fst (by assumption) ?_ | refine kept_fstEq (by assumption) ?_

theorem State.collSource_kept {r : State} (s : State) (c : Coll) (stage : Nat) (i : Nat) (h0 : Kept r s) :
    Kept r (State.collSource s c stage i).1 := by
  dsimp only [State.collSource]
  with_reducible repeat' first
    | assumption | intro _ | apply State.readVa_kept | split | refine kept_fst (by assumption) ?_ | refine kept_fstEq (by assumption) ?_

theorem State.collProgress_kept {r : State} (s : State) (c : Coll) (h0 : Kept r s) :
    Kept r (State.collProgress s c) := by
  dsimp only [State.collProgress]
  with_reducible repeat' first
    | assumption | intro _ | apply State.progress_kept

theorem State.collWrite_kept {r : State} (s0 : State) (s : State) (c0 : Coll) (c : Coll) (va : Nat) (key : Nat) (h : HealthW) (bs : List Byte) (h0 : Kept r s0) (h1 : Kept r s) :
    Kept r (State.collWrite s0 s c0 c va key h bs).1 := by
  dsimp only [State.collWrite]
  with_reducible repeat' first
    | assumption | intro _ | apply collGot_kept | apply State.writeVa_kept | apply State.collProgress_kept | refine kept_fst (by assumption) ?_
    | refine kept_fstEq (by assumption) ?_ | apply kept_mk rfl

theorem State.collDeliver_kept {r : State} (s0 : State) (s : State) (c0 : Coll) (c : Coll) (from_ : Nat) (i : Nat) (w : ChunkWire) (h0 : Kept r s0) (h1 : Kept r s) :
    Kept r (State.collDeliver s0 s c0 c from_ i w).1 := by
  dsimp only [State.collDeliver]
  with_reducible repeat' first
    | assumption | intro _ | apply State.collWrite_kept | split | refine kept_fst (by assumption) ?_ | refine kept_fstEq (by assumption) ?_

theorem State.collFinish_kept {r : State} (s0 : State) (s : State) (c0 : Coll) (c : Coll) (i : Nat) (v : ChunkVal) (h0 : Kept r s0) (h1 : Kept r s) :
    Kept r (State.collFinish s0 s c0 c i v).1 := by
  dsimp only [State.collFinish]
  with_reducible repeat' first
    | assumption | intro _ | apply State.collDeliver_kept | apply State.collWrite_kept | split | refine kept_fst (by assumption) ?_
    | refine kept_fstEq (by assumption) ?_

theorem State.collCarry_kept {r : State} (s0 : State) (s : State) (c0 : Coll) (c : Coll) (i : Nat) (v : ChunkVal) (f : State →   ChunkVal → State × Coll × CollDo) (h0 : Kept r s0) (h1 : Kept r s) (h2 : ∀ x0 x1, Kept r (x0) → Kept r (f x0 x1).1) :
    Kept r (State.collCarry s0 s c0 c i v f).1 := by
  dsimp only [State.collCarry]
  with_reducible repeat' first
    | assumption | intro _ | apply h2 | apply collGot_kept | apply State.readVa_kept | apply State.writeVa_kept | split
    | refine kept_fst (by assumption) ?_ | refine kept_fstEq (by assumption) ?_

theorem State.collFold_kept {r : State} (order : List Nat) (weight : Nat → Nat) (i : Nat) (a3 : State) (a4 : Coll) (h0 : Kept r a3) :
    Kept r (State.collFold order weight i a3 a4).1 := by
  dsimp only [State.collFold]
  with_reducible repeat' first
    | assumption | intro _ | apply foldl_kept | apply foldl_keptP | apply collGot_kept | apply State.collOwn_kept | apply State.collCarry_kept
    | apply State.collFinish_kept | apply State.collProgress_kept | split | refine kept_fst (by assumption) ?_
    | refine kept_fstEq (by assumption) ?_

theorem State.collHop_kept {r : State} (f : Flow) (a1 : State) (a2 : Coll) (h0 : Kept r a1) :
    Kept r (State.collHop f a1 a2).1 := by
  dsimp only [State.collHop]
  with_reducible repeat' first
    | assumption | intro _ | apply State.collOwn_kept | apply collGot_kept | apply State.collFinish_kept | apply State.collProgress_kept | split
    | refine kept_fst (by assumption) ?_ | refine kept_fstEq (by assumption) ?_

theorem State.unitCopy_kept {r : State} (s0 : State) (c0 : Coll) (from_ : Nat) (target_ : Nat) (c : Coll) (h0 : Kept r s0) :
    Kept r (State.unitCopy s0 c0 from_ target_ c).1 := by
  dsimp only [State.unitCopy]
  with_reducible repeat' first
    | assumption | intro _ | apply collGot_kept | apply State.readVa_kept | apply State.writeVa_kept | refine kept_fst (by assumption) ?_
    | refine kept_fstEq (by assumption) ?_

theorem State.collPark_kept {r : State} (j : Nat) (m : Move) (a2 : State) (a3 : Coll) (h0 : Kept r a2) :
    Kept r (State.collPark j m a2 a3).1 := by
  dsimp only [State.collPark]
  with_reducible repeat' first
    | assumption | intro _ | apply State.unitCopy_kept | split | refine kept_fst (by assumption) ?_ | refine kept_fstEq (by assumption) ?_

theorem State.collLocal_kept {r : State} (j : Nat) (m : Move) (a2 : State) (a3 : Coll) (h0 : Kept r a2) :
    Kept r (State.collLocal j m a2 a3).1 := by
  dsimp only [State.collLocal]
  with_reducible repeat' first
    | assumption | intro _ | apply State.unitCopy_kept | split | refine kept_fst (by assumption) ?_ | refine kept_fstEq (by assumption) ?_

theorem State.collSend_kept {r : State} (s : State) (c : Coll) (peer : Nat) (cls : Nat) (stage : Nat) (stripe : Nat) (kind : Nat) (arg : Nat) (data : List Byte) (h0 : Kept r s) :
    Kept r (State.collSend s c peer cls stage stripe kind arg data).1 := by
  dsimp only [State.collSend]
  with_reducible repeat' first
    | assumption | intro _ | apply State.sendBlock_kept | refine kept_fst (by assumption) ?_ | refine kept_fstEq (by assumption) ?_

theorem State.sendChunk_kept {r : State} (s : State) (c : Coll) (f : Flow) (i : Nat) (w : ChunkWire) (h0 : Kept r s) :
    Kept r (State.sendChunk s c f i w).1 := by
  dsimp only [State.sendChunk]
  with_reducible repeat' first
    | assumption | intro _ | apply State.collSend_kept | split | refine kept_fst (by assumption) ?_ | refine kept_fstEq (by assumption) ?_

theorem State.collEnter_kept {r : State} (s : State) (c : Coll) (stage : Nat) (h0 : Kept r s) :
    Kept r (State.collEnter s c stage).1 := by
  dsimp only [State.collEnter]
  with_reducible repeat' first
    | assumption | intro _ | apply State.raise_kept | split | refine kept_fst (by assumption) ?_ | refine kept_fstEq (by assumption) ?_

theorem State.collNext_kept {r : State} (s : State) (c : Coll) (f : Flow) (i : Nat) (h0 : Kept r s) :
    Kept r (State.collNext s c f i).1 := by
  dsimp only [State.collNext]
  with_reducible repeat' first
    | assumption | intro _ | apply State.collSource_kept | apply State.readVa_kept | split | refine kept_fst (by assumption) ?_
    | refine kept_fstEq (by assumption) ?_

theorem State.collPush_kept {r : State} (k : Nat) (a1 : State) (a2 : Coll) (h0 : Kept r a1) :
    Kept r (State.collPush k a1 a2).1 := by
  dsimp only [State.collPush]
  with_reducible repeat' first
    | assumption | intro _ | apply State.collNext_kept | apply collGot_kept | apply State.collEnter_kept | apply State.sendChunk_kept
    | apply State.collProgress_kept | split | refine kept_fst (by assumption) ?_ | refine kept_fstEq (by assumption) ?_

theorem State.collTake_kept {r : State} (f : Flow) (a1 : State) (a2 : Coll) (h0 : Kept r a1) :
    Kept r (State.collTake f a1 a2).1 := by
  dsimp only [State.collTake]
  with_reducible repeat' first
    | assumption | intro _ | apply State.collWrite_kept | apply State.collDeliver_kept | split | refine kept_fst (by assumption) ?_
    | refine kept_fstEq (by assumption) ?_

theorem State.collSelf_kept {r : State} (i : Nat) (a1 : State) (a2 : Coll) (h0 : Kept r a1) :
    Kept r (State.collSelf i a1 a2).1 := by
  dsimp only [State.collSelf]
  with_reducible repeat' first
    | assumption | intro _ | apply collGot_kept | apply State.collSource_kept | apply State.collDeliver_kept | split
    | refine kept_fst (by assumption) ?_ | refine kept_fstEq (by assumption) ?_

theorem State.collHeaderOut_kept {r : State} (peer : Nat) (a1 : State) (a2 : Coll) (h0 : Kept r a1) :
    Kept r (State.collHeaderOut peer a1 a2).1 := by
  dsimp only [State.collHeaderOut]
  with_reducible repeat' first
    | assumption | intro _ | apply State.collSend_kept | split | refine kept_fst (by assumption) ?_ | refine kept_fstEq (by assumption) ?_

theorem State.collHeaderIn_kept {r : State} (rank : Nat) (a1 : State) (a2 : Coll) (h0 : Kept r a1) :
    Kept r (State.collHeaderIn rank a1 a2).1 := by
  dsimp only [State.collHeaderIn]
  with_reducible repeat' first
    | assumption | intro _ | apply collGot_kept | apply State.writeVa_kept | split | refine kept_fst (by assumption) ?_
    | refine kept_fstEq (by assumption) ?_

theorem State.sendSummary_kept {r : State} (s : State) (c : Coll) (stage : Nat) (h : HealthW) (a4 : List Nat) (h0 : Kept r s) :
    Kept r (State.sendSummary s c stage h a4).1 := by
  induction a4 generalizing s c stage h with
  | nil =>
    dsimp only [State.sendSummary]
    with_reducible repeat' first
      | assumption | intro _ | apply State.collSend_kept | split | refine kept_fst (by assumption) ?_ | refine kept_fstEq (by assumption) ?_
  | cons x l ih =>
    dsimp only [State.sendSummary]
    with_reducible repeat' first
      | assumption | apply ih | intro _ | apply State.collSend_kept | split | refine kept_fst (by assumption) ?_
      | refine kept_fstEq (by assumption) ?_

theorem State.collSum_kept {r : State} (a0 : State) (a1 : Coll) (h0 : Kept r a0) :
    Kept r (State.collSum a0 a1).1 := by
  dsimp only [State.collSum]
  with_reducible repeat' first
    | assumption | intro _ | apply foldl_kept | apply foldl_keptP | apply State.sendSummary_kept | split | refine kept_fst (by assumption) ?_
    | refine kept_fstEq (by assumption) ?_

theorem State.collHealth_kept {r : State} (a0 : State) (a1 : Coll) (h0 : Kept r a0) :
    Kept r (State.collHealth a0 a1).1 := by
  dsimp only [State.collHealth]
  with_reducible repeat' first
    | assumption | intro _ | apply collGot_kept | apply State.writeVa_kept | split | refine kept_fst (by assumption) ?_
    | refine kept_fstEq (by assumption) ?_

theorem tryActions_kept {r : State} (s : State) (c : Coll) (l : List CollTry) (hl : ∀ a ∈ l, ∀ s c, Kept r s → Kept r (a s c).1)
    (h0 : Kept r s) : Kept r (tryActions s c l).1 := by
  induction l generalizing s c with
  | nil => exact h0
  | cons a l ih =>
    have ha := hl a List.mem_cons_self s c h0
    dsimp only [tryActions]
    split
    · exact ih _ _ (fun b hb => hl b (List.mem_cons_of_mem _ hb)) (kept_fst ‹_› ha)
    · exact ha

theorem actions_kept {r : State} (c : Coll) : ∀ a ∈ c.actions, ∀ s c, Kept r s → Kept r (a s c).1 := by
  have folds : ∀ a ∈ c.folds, ∀ s c, Kept r s → Kept r (a s c).1 := by
    intro a ha s d h
    dsimp only [Coll.folds] at ha
    split at ha
    · cases ha
    · split at ha <;> obtain ⟨x, -, rfl⟩ := List.mem_map.mp ha <;> exact State.collFold_kept _ _ _ _ _ h
  intro a ha s d h
  simp only [Coll.actions, List.mem_append, List.mem_map, List.mem_flatMap, List.mem_cons, List.not_mem_nil, or_false] at ha
  rcases ha with ((((((⟨x, -, rfl⟩ | ha) | ⟨x, -, rfl⟩) | ⟨x, -, rfl⟩) | ⟨x, -, rfl | rfl⟩) | ⟨x, -, rfl⟩) | ha) | rfl | rfl
  · exact State.collTake_kept _ _ _ h
  · exact folds a ha s d h
  · exact State.collHop_kept _ _ _ h
  · exact State.collSelf_kept _ _ _ h
  · exact State.collPark_kept _ _ _ _ h
  · exact State.collLocal_kept _ _ _ _ h
  · exact State.collPush_kept _ _ _ h
  · split at ha
    · obtain ⟨x, -, hx⟩ := List.mem_flatMap.mp ha
      simp only [List.mem_cons, List.not_mem_nil, or_false] at hx
      rcases hx with rfl | rfl
      · exact State.collHeaderOut_kept _ _ _ h
      · exact State.collHeaderIn_kept _ _ _ h
    · cases ha
  · exact State.collSum_kept _ _ h
  · exact State.collHealth_kept _ _ h

theorem collLoop_kept {r : State} (s : State) (c : Coll) (n : Nat) (h0 : Kept r s) : Kept r (collLoop s c n).1 := by
  induction n generalizing s c with
  | zero => exact h0
  | succ n ih =>
    have ha := tryActions_kept s c c.actions (actions_kept c) h0
    dsimp only [collLoop]
    split
    · exact ih _ _ (kept_fst ‹_› ha)
    · exact ha

theorem State.collGrants_kept {r : State} (s : State) (c : Coll) (a2 : List Nat) (h0 : Kept r s) :
    Kept r (State.collGrants s c a2).1 := by
  induction a2 generalizing s c with
  | nil =>
    dsimp only [State.collGrants]
    with_reducible repeat' first
      | assumption | intro _ | apply State.collSend_kept | split | refine kept_fst (by assumption) ?_ | refine kept_fstEq (by assumption) ?_
  | cons x l ih =>
    dsimp only [State.collGrants]
    with_reducible repeat' first
      | assumption | apply ih | intro _ | apply State.collSend_kept | split | refine kept_fst (by assumption) ?_
      | refine kept_fstEq (by assumption) ?_

theorem State.collUndef_kept {r : State} (s : State) (c : Coll) (h0 : Kept r s) :
    Kept r (State.collUndef s c) := by
  dsimp only [State.collUndef]
  with_reducible repeat' first
    | assumption | intro _ | apply foldl_kept | apply foldl_keptP | apply State.undefineVa_kept | split

theorem State.dropColl_kept {r : State} (s : State) (c : Coll) (status : Nat) (h0 : Kept r s) :
    Kept r (State.dropColl s c status) := by
  dsimp only [State.dropColl]
  with_reducible repeat' first
    | assumption | intro _ | apply State.collUndef_kept | apply State.raise_kept | apply State.stallOff_kept | split | apply kept_mk rfl

theorem State.endColl_kept {r : State} (s : State) (c : Coll) (status : Nat) (rank : Nat) (h0 : Kept r s) :
    Kept r (State.endColl s c status rank) := by
  dsimp only [State.endColl]
  with_reducible repeat' first
    | assumption | intro _ | apply State.dropColl_kept | apply State.complete_kept

theorem State.deadlineColl_kept {r : State} (s : State) (c : Coll) (h0 : Kept r s) :
    Kept r (State.deadlineColl s c) := by
  dsimp only [State.deadlineColl]
  with_reducible repeat' first
    | assumption | intro _ | apply foldl_kept | apply foldl_keptP | apply State.endColl_kept | apply State.raise_kept

theorem State.collStall_kept {r : State} (s : State) (c : Coll) (h0 : Kept r s) :
    Kept r (State.collStall s c) := by
  dsimp only [State.collStall]
  with_reducible repeat' first
    | assumption | intro _ | apply foldl_kept | apply foldl_keptP | apply State.stallOff_kept | apply State.stallOn_kept | split

theorem collSettle_kept {r : State} (a0 : State × Coll × CollDo) (h0 : Kept r a0.1) :
    Kept r (collSettle a0) := by
  dsimp only [collSettle]
  with_reducible repeat' first
    | assumption | intro _ | apply State.endColl_kept | apply State.setColl_kept | apply State.uncorrectable_kept | apply State.collGrants_kept
    | apply State.collStall_kept | split | refine kept_fst (by assumption) ?_ | refine kept_fstEq (by assumption) ?_

theorem State.collWork_kept {r : State} (s : State) (c : Coll) (h0 : Kept r s) :
    Kept r (State.collWork s c) := by
  dsimp only [State.collWork]
  with_reducible repeat' first
    | assumption | intro _ | apply State.setColl_kept | apply State.deadlineColl_kept | apply collSettle_kept | apply collLoop_kept | split
    | refine kept_fst (by assumption) ?_ | refine kept_fstEq (by assumption) ?_

theorem State.openWindow_kept {r : State} (s : State) (c : Coll) (h0 : Kept r s) :
    Kept r (State.openWindow s c) := by
  dsimp only [State.openWindow]
  with_reducible repeat' first
    | assumption | intro _ | split | apply kept_mk rfl

theorem execCollectiveComplete_kept {r : State} (q : CmdRef) (s : State) (h0 : Kept r s) :
    KeptE r (execCollectiveComplete q s) := by
  dsimp only [execCollectiveComplete]
  with_reducible repeat' first
    | assumption | apply keptE_next | intro _ | apply foldl_kept | apply foldl_keptP | apply State.collWork_kept | apply State.raise_kept
    | apply State.endColl_kept | apply State.openWindow_kept | apply State.completionSignal_kept | split

theorem State.dropQueued_kept {r : State} (s : State) (q : CmdRef) (h0 : Kept r s) :
    Kept r (State.dropQueued s q) := by
  dsimp only [State.dropQueued]
  with_reducible repeat' first
    | assumption | intro _ | apply kept_mk rfl

theorem State.refuseColl_kept {r : State} (s : State) (q : CmdRef) (status : Nat) (h0 : Kept r s) :
    Kept r (State.refuseColl s q status) := by
  dsimp only [State.refuseColl]
  with_reducible repeat' first
    | assumption | intro _ | apply State.complete_kept | apply State.dropQueued_kept | split | apply kept_mk rfl

theorem State.collPegs_kept {r : State} (s : State) (ctx : Nat) (ring : Nat) (a3 : Nat) (h0 : Kept r s) :
    Kept r (State.collPegs s ctx ring a3) := by
  induction a3 generalizing s ctx ring with
  | zero =>
    dsimp only [State.collPegs]
    with_reducible repeat' first
      | assumption | intro _ | apply State.refuseColl_kept | apply State.startWait_kept | apply State.stallOn_kept | split
      | refine kept_fst (by assumption) ?_ | refine kept_fstEq (by assumption) ?_ | apply kept_mk rfl
  | succ n ih =>
    dsimp only [State.collPegs]
    with_reducible repeat' first
      | assumption | apply ih | intro _ | apply State.refuseColl_kept | apply State.startWait_kept | apply State.stallOn_kept | split
      | refine kept_fst (by assumption) ?_ | refine kept_fstEq (by assumption) ?_ | apply kept_mk rfl

theorem execCollStart_kept {r : State} (q : CmdRef) (s : State) (h0 : Kept r s) :
    KeptE r (execCollStart q s) := by
  dsimp only [execCollStart]
  with_reducible repeat' first
    | assumption | apply keptE_next | intro _ | apply State.perform_kept | apply State.startTaken_kept | apply State.collPegs_kept
    | apply kept_mk rfl

theorem State.collRead_kept {r : State} (s : State) (ctx : Nat) (va : Nat) (own : Nat) (h0 : Kept r s) :
    Kept r (State.collRead s ctx va own).1 := by
  dsimp only [State.collRead]
  with_reducible repeat' first
    | assumption | intro _ | apply State.readVa_kept | split | refine kept_fst (by assumption) ?_ | refine kept_fstEq (by assumption) ?_

theorem State.collTag_kept {r : State} (s : State) (c : Coll) (h0 : Kept r s) :
    Kept r (State.collTag s c) := by
  dsimp only [State.collTag]
  with_reducible repeat' first
    | assumption | intro _ | apply State.setColl_kept | apply State.readVa_kept | apply State.stallOff_kept | apply State.stallOn_kept
    | apply State.collWork_kept | apply State.endColl_kept | apply State.uncorrectable_kept | split | refine kept_fst (by assumption) ?_
    | refine kept_fstEq (by assumption) ?_

theorem State.beginColl_kept {r : State} (s : State) (q : CmdRef) (t : Taken) (g : CollG) (desc : List Byte) (ranks : List Nat) (plan : List Move) (h0 : Kept r s) :
    Kept r (State.beginColl s q t g desc ranks plan) := by
  dsimp only [State.beginColl]
  with_reducible repeat' first
    | assumption | intro _ | apply State.stallOff_kept | apply State.dropQueued_kept | apply State.raise_kept | apply State.deadlineColl_kept
    | apply State.collEnter_kept | apply State.collWork_kept | apply State.collTag_kept | apply State.setColl_kept | split
    | refine kept_fst (by assumption) ?_ | refine kept_fstEq (by assumption) ?_ | apply kept_mk rfl

theorem State.stray_kept {r : State} (s : State) (b : List Byte) (cause : Nat) (engine : optParam Nat 0) (h0 : Kept r s) :
    Kept r (State.stray s b cause engine) := by
  dsimp only [State.stray]
  with_reducible repeat' first
    | assumption | intro _ | apply State.raise_kept | split | apply kept_mk rfl

theorem State.putColl_kept {r : State} (s : State) (c : Coll) (window : Bool) (h0 : Kept r s) :
    Kept r (State.putColl s c window) := by
  dsimp only [State.putColl]
  with_reducible repeat' first
    | assumption | intro _ | apply State.setColl_kept | split | apply kept_mk rfl

theorem State.lateArrival_kept {r : State} (s : State) (c : Coll) (rank : Nat) (i : Nat) (w : ChunkWire) (h0 : Kept r s) :
    KeptO r (State.lateArrival s c rank i w) := by
  dsimp only [State.lateArrival]
  with_reducible repeat' first
    | assumption | apply keptO_some | exact keptO_none | intro _ | apply State.raise_kept | apply State.readVa_kept | apply State.writeVa_kept
    | apply State.uncorrectable_kept | split | refine kept_fst (by assumption) ?_ | refine kept_fstEq (by assumption) ?_
    | refine kept_some (by assumption) ?_

theorem State.takeChunk_kept {r : State} (s : State) (c : Coll) (window : Bool) (isLate : Bool) (k : Nat) (f : Flow) (rank : Nat) (i : Nat) (w : ChunkWire) (h0 : Kept r s) :
    KeptO r (State.takeChunk s c window isLate k f rank i w) := by
  dsimp only [State.takeChunk]
  with_reducible repeat' first
    | assumption | apply keptO_some | exact keptO_none | apply keptO_map | intro _ | apply State.putColl_kept | apply State.collGrants_kept
    | apply State.collWork_kept | apply State.lateArrival_kept | split | refine kept_fst (by assumption) ?_
    | refine kept_fstEq (by assumption) ?_ | refine kept_some (by assumption) ?_

theorem State.collChunk_kept {r : State} (s : State) (c : Coll) (window : Bool) (b : List Byte) (h0 : Kept r s) :
    KeptO r (State.collChunk s c window b) := by
  dsimp only [State.collChunk]
  with_reducible repeat' first
    | assumption | apply keptO_some | exact keptO_none | intro _ | apply State.stray_kept | apply State.collEnter_kept
    | apply State.takeChunk_kept | split | refine kept_fst (by assumption) ?_ | refine kept_fstEq (by assumption) ?_
    | refine kept_some (by assumption) ?_

theorem State.collData_kept {r : State} (s : State) (group : Nat) (b : List Byte) (h0 : Kept r s) :
    KeptO r (State.collData s group b) := by
  dsimp only [State.collData]
  with_reducible repeat' first
    | assumption | apply keptO_some | exact keptO_none | intro _ | apply State.stray_kept | apply State.collChunk_kept | split
    | refine kept_some (by assumption) ?_

theorem State.collHeld_kept {r : State} (s : State) (group : Nat) (b : List Byte) (h0 : Kept r s) :
    Kept r (State.collHeld s group b) := by
  dsimp only [State.collHeld]
  with_reducible repeat' first
    | assumption | intro _ | apply State.stray_kept | split | apply kept_mk rfl

theorem State.collReady_kept {r : State} (s : State) (group : Nat) (b : List Byte) (h0 : Kept r s) :
    Kept r (State.collReady s group b) := by
  dsimp only [State.collReady]
  with_reducible repeat' first
    | assumption | intro _ | apply State.collWork_kept | apply State.collHeld_kept | split

theorem State.collSummary_kept {r : State} (s : State) (group : Nat) (b : List Byte) (h0 : Kept r s) :
    Kept r (State.collSummary s group b) := by
  dsimp only [State.collSummary]
  with_reducible repeat' first
    | assumption | intro _ | apply State.stray_kept | apply State.collWork_kept | apply State.sendSummary_kept | apply State.endColl_kept
    | apply State.setColl_kept | apply State.collHeld_kept | split | refine kept_fst (by assumption) ?_ | refine kept_fstEq (by assumption) ?_

theorem State.collEarly_kept {r : State} (s : State) (q : CmdRef) (h0 : Kept r s) :
    Kept r (State.collEarly s q) := by
  dsimp only [State.collEarly]
  with_reducible repeat' first
    | assumption | intro _ | apply foldl_kept | apply foldl_keptP | apply State.collReady_kept | apply State.collSummary_kept | split
    | apply kept_mk rfl

theorem execCollectiveStart_kept {r : State} (q : CmdRef) (s : State) (h0 : Kept r s) :
    KeptE r (execCollectiveStart q s) := by
  dsimp only [execCollectiveStart]
  with_reducible repeat' first
    | assumption | apply keptE_next | intro _ | apply foldl_kept | apply foldl_keptP | apply State.collPegs_kept | apply State.collRead_kept
    | apply State.stallOn_kept | apply State.refuseColl_kept | apply State.uncorrectable_kept | apply State.raise_kept
    | apply State.walksMet_kept | apply State.collEarly_kept | apply State.beginColl_kept | split | refine kept_fst (by assumption) ?_
    | refine kept_fstEq (by assumption) ?_ | apply kept_mk rfl

theorem State.collHeader_kept {r : State} (s : State) (group : Nat) (b : List Byte) (h0 : Kept r s) :
    Kept r (State.collHeader s group b) := by
  dsimp only [State.collHeader]
  with_reducible repeat' first
    | assumption | intro _ | apply State.stray_kept | apply State.collWork_kept | split

theorem State.collDue_kept {r : State} (s : State) (b : List Byte) (h0 : Kept r s) :
    Kept r (State.collDue s b) := by
  dsimp only [State.collDue]
  with_reducible repeat' first
    | assumption | intro _ | apply State.deadlineColl_kept | split

theorem State.deliverColl_kept {r : State} (s : State) (p : Nat) (kind : Nat) (f : State → Nat → List Byte → Option State) (h0 : Kept r s) (h1 : ∀ x0 x1 x2, Kept r (x0) → KeptO r (f x0 x1 x2)) :
    Kept r (State.deliverColl s p kind f) := by
  dsimp only [State.deliverColl]
  with_reducible repeat' first
    | assumption | apply keptO_some | exact keptO_none | intro _ | apply h1 | apply State.collDue_kept | apply State.delivered_kept
    | apply State.badBlock_kept | apply State.beginWake_kept | split | refine kept_some (by assumption) ?_

theorem execCollDataReceived_kept {r : State} (p : Port) (s : State) (h0 : Kept r s) :
    KeptE r (execCollDataReceived p s) := by
  dsimp only [execCollDataReceived]
  with_reducible repeat' first
    | assumption | apply keptE_next | apply keptO_some | exact keptO_none | intro _ | apply State.deliverColl_kept | apply State.collData_kept
    | refine kept_some (by assumption) ?_

theorem execCollReadyReceived_kept {r : State} (p : Port) (s : State) (h0 : Kept r s) :
    KeptE r (execCollReadyReceived p s) := by
  dsimp only [execCollReadyReceived]
  with_reducible repeat' first
    | assumption | apply keptE_next | apply keptO_some | exact keptO_none | intro _ | apply State.deliverColl_kept | apply State.collReady_kept
    | refine kept_some (by assumption) ?_

theorem execCollSummaryReceived_kept {r : State} (p : Port) (s : State) (h0 : Kept r s) :
    KeptE r (execCollSummaryReceived p s) := by
  dsimp only [execCollSummaryReceived]
  with_reducible repeat' first
    | assumption | apply keptE_next | apply keptO_some | exact keptO_none | intro _ | apply State.deliverColl_kept | apply State.collSummary_kept
    | refine kept_some (by assumption) ?_

theorem execCollHeaderReceived_kept {r : State} (p : Port) (s : State) (h0 : Kept r s) :
    KeptE r (execCollHeaderReceived p s) := by
  dsimp only [execCollHeaderReceived]
  with_reducible repeat' first
    | assumption | apply keptE_next | apply keptO_some | exact keptO_none | intro _ | apply State.deliverColl_kept | apply State.collHeader_kept
    | refine kept_some (by assumption) ?_

theorem execCollTagReread_kept {r : State} (q : CmdRef) (s : State) (h0 : Kept r s) :
    KeptE r (execCollTagReread q s) := by
  dsimp only [execCollTagReread]
  with_reducible repeat' first
    | assumption | apply keptE_next | intro _ | apply State.collTag_kept | split

theorem execCollDeadlineExpiry_kept {r : State} (q : CmdRef) (s : State) (h0 : Kept r s) :
    KeptE r (execCollDeadlineExpiry q s) := by
  dsimp only [execCollDeadlineExpiry]
  with_reducible repeat' first
    | assumption | apply keptE_next | intro _ | apply State.collWork_kept | split

theorem execCollEndDeadlineExpiry_kept {r : State} (q : CmdRef) (s : State) (h0 : Kept r s) :
    KeptE r (execCollEndDeadlineExpiry q s) := by
  dsimp only [execCollEndDeadlineExpiry]
  with_reducible repeat' first
    | assumption | apply keptE_next | intro _ | apply State.deadlineColl_kept | split

theorem execLateWindowExpiry_kept {r : State} (ctx : Ctx) (tag : W32) (s : State) (h0 : Kept r s) :
    KeptE r (execLateWindowExpiry ctx tag s) := by
  dsimp only [execLateWindowExpiry]
  with_reducible repeat' first
    | assumption | apply keptE_next | intro _ | split | apply kept_mk rfl

theorem execCollCancel_kept {r : State} (q : CmdRef) (s : State) (h0 : Kept r s) :
    KeptE r (execCollCancel q s) := by
  dsimp only [execCollCancel]
  with_reducible repeat' first
    | assumption | apply keptE_next | intro _ | apply State.perform_kept | apply State.complete_kept | apply State.endColl_kept | split
    | apply kept_mk rfl

theorem State.cancelColls_kept {r : State} (s : State) (ctx : Nat) (h0 : Kept r s) :
    Kept r (State.cancelColls s ctx) := by
  dsimp only [State.cancelColls]
  with_reducible repeat' first
    | assumption | intro _ | apply foldl_kept | apply foldl_keptP | apply State.endColl_kept | apply kept_mk rfl

end Sys2Proof.Machine
end

