-- ==== Sys2Proof/Laws/KeptEvents.lean ====
section
/-! SUPPORT. The queue and the anti-rollback fuses are kept by resets, self-test, boot, memory, the pool, the host link, time and pegs. -/

namespace Sys2Proof.Machine

/-! ### Machine/Hbm.lean -/

theorem State.setStack_kept {r : State} (s : State) (n : Nat) (k : Stack) (h0 : Kept r s) :
    Kept r (State.setStack s n k) := by
  dsimp only [State.setStack]
  with_reducible repeat' first
    | assumption | intro _ | apply kept_mk rfl

theorem execMemGroupMode_kept {r : State} (q : CmdRef) (s : State) (h0 : Kept r s) :
    KeptE r (execMemGroupMode q s) := by
  dsimp only [execMemGroupMode]
  with_reducible repeat' first
    | assumption | apply keptE_next | intro _ | apply foldl_kept | apply foldl_keptP | apply State.perform_kept | apply State.stallOn_kept
    | apply State.settleWc_kept | apply State.complete_kept | split | apply kept_mk rfl

theorem execMemPpr_kept {r : State} (q : CmdRef) (s : State) (h0 : Kept r s) :
    KeptE r (execMemPpr q s) := by
  dsimp only [execMemPpr]
  with_reducible repeat' first
    | assumption | apply keptE_next | intro _ | apply State.perform_kept | apply State.complete_kept | apply State.startTaken_kept | split
    | apply kept_mk rfl

theorem State.startHppr_kept {r : State} (s : State) (x : Nat) (h0 : Kept r s) :
    Kept r (State.startHppr s x) := by
  dsimp only [State.startHppr]
  with_reducible repeat' first
    | assumption | intro _ | split | apply kept_mk rfl

theorem State.queuedHppr_kept {r : State} (s : State) (stackList : List Nat) (h0 : Kept r s) :
    Kept r (State.queuedHppr s stackList) := by
  dsimp only [State.queuedHppr]
  with_reducible repeat' first
    | assumption | intro _ | apply State.startHppr_kept | split

theorem execMemHpprWrite_kept {r : State} (v : RegValue) (s : State) (h0 : Kept r s) :
    KeptE r (execMemHpprWrite v s) := by
  dsimp only [execMemHpprWrite]
  with_reducible repeat' first
    | assumption | apply keptE_next | intro _ | apply State.rwp_kept | apply State.setReg_kept | apply State.startHppr_kept | split
    | refine kept_fst (by assumption) ?_ | refine kept_fstEq (by assumption) ?_ | apply kept_mk rfl

theorem execPostPackageRepairComplete_kept {r : State} (hard : Bool) (rowPassed : Bool) (s : State) (h0 : Kept r s) :
    KeptE r (execPostPackageRepairComplete hard rowPassed s) := by
  dsimp only [execPostPackageRepairComplete]
  with_reducible repeat' first
    | assumption | apply keptE_next | intro _ | apply State.setStack_kept | apply State.raise_kept | apply State.complete_kept | split
    | apply kept_mk rfl

theorem execMemLoopback_kept {r : State} (q : CmdRef) (s : State) (h0 : Kept r s) :
    KeptE r (execMemLoopback q s) := by
  dsimp only [execMemLoopback]
  with_reducible repeat' first
    | assumption | apply keptE_next | intro _ | apply State.perform_kept | apply State.completeBare_kept | apply State.setStack_kept
    | apply State.startTaken_kept | split | apply kept_mk rfl

theorem execLoopbackDurationExpiry_kept {r : State} (failing : List Nat) (s : State) (h0 : Kept r s) :
    KeptE r (execLoopbackDurationExpiry failing s) := by
  dsimp only [execLoopbackDurationExpiry]
  with_reducible repeat' first
    | assumption | apply keptE_next | intro _ | apply State.setStack_kept | apply State.raise_kept | apply State.complete_kept | split
    | apply kept_mk rfl

theorem execCaParityReport_kept {r : State} (stack : Fin 16) (pc : Fin 32) (s : State) (h0 : Kept r s) :
    KeptE r (execCaParityReport stack pc s) := by
  dsimp only [execCaParityReport]
  with_reducible repeat' first
    | assumption | apply keptE_next | intro _ | apply foldl_kept | apply foldl_keptP | apply State.raise_kept | apply State.startL0_kept | split
    | apply kept_mk rfl

theorem execRefreshInterval_kept {r : State} (a0 : Fin 16) (s : State) (h0 : Kept r s) :
    KeptE r (execRefreshInterval a0 s) := by
  dsimp only [execRefreshInterval]
  with_reducible repeat' first
    | assumption | apply keptE_next | intro _

theorem execWcFlushTimeout_kept {r : State} (line : Nat) (s : State) (h0 : Kept r s) :
    KeptE r (execWcFlushTimeout line s) := by
  dsimp only [execWcFlushTimeout]
  with_reducible repeat' first
    | assumption | apply keptE_next | intro _ | apply State.settleWc_kept | split | apply kept_mk rfl

/-! ### Machine/Recovery.lean -/

theorem State.setRst_kept {r : State} (s : State) (f : RstSt → RstSt) (h0 : Kept r s) :
    Kept r (State.setRst s f) := by
  dsimp only [State.setRst]
  with_reducible repeat' first
    | assumption | intro _ | apply kept_mk rfl

theorem State.resetBegin_kept {r : State} (s : State) (level : Nat) (cause : Nat) (scope : Nat) (from_ : Nat) (h0 : Kept r s) :
    Kept r (State.resetBegin s level cause scope from_) := by
  dsimp only [State.resetBegin]
  with_reducible repeat' first
    | assumption | intro _ | apply State.setRst_kept | apply State.raiseWith_kept

theorem State.resetEnd_kept {r : State} (s : State) (level : Nat) (since : Nat) (ctxs : Nat) (how : Nat) (h0 : Kept r s) :
    Kept r (State.resetEnd s level since ctxs how) := by
  dsimp only [State.resetEnd]
  with_reducible repeat' first
    | assumption | intro _ | apply State.raiseWith_kept

theorem State.startL0s_kept {r : State} (s : State) (ctxs : List Nat) (cause : Nat) (h0 : Kept r s) :
    Kept r (State.startL0s s ctxs cause) := by
  dsimp only [State.startL0s]
  with_reducible repeat' first
    | assumption | intro _ | apply foldl_kept | apply foldl_keptP | apply State.startL0_kept

theorem State.toPhase_kept {r : State} (s : State) (p : BootPhase) (h0 : Kept r s) :
    Kept r (State.toPhase s p) := by
  dsimp only [State.toPhase]
  with_reducible repeat' first
    | assumption | rfl | intro _ | apply State.raise_kept | split | apply kept_mk

theorem State.startL4_kept {r : State} (s : State) (cause : Nat) (level : Nat) (from_ : Nat) (h0 : Kept r s) :
    Kept r (State.startL4 s cause level from_) := by
  dsimp only [State.startL4]
  with_reducible repeat' first
    | assumption | intro _ | apply State.resetBegin_kept | apply State.raiseWith_kept | apply State.setRst_kept | split

theorem State.notReady_kept {r : State} (s : State) (cause : Nat) (h0 : Kept r s) :
    Kept r (State.notReady s cause) := by
  dsimp only [State.notReady]
  with_reducible repeat' first
    | assumption | intro _ | apply State.toPhase_kept | apply State.setRst_kept | apply State.startL4_kept | split

theorem State.undefineCore_kept {r : State} (s : State) (ctx : Nat) (c : CoreSt) (h0 : Kept r s) :
    Kept r (State.undefineCore s ctx c) := by
  dsimp only [State.undefineCore]
  with_reducible repeat' first
    | assumption | intro _ | apply foldl_kept | apply foldl_keptP | apply State.undefineTarget_kept | apply State.undefineVa_kept | split

theorem State.clearCluster_kept {r : State} (s : State) (ctx : Nat) (c : Nat) (h0 : Kept r s) :
    Kept r (State.clearCluster s ctx c) := by
  dsimp only [State.clearCluster]
  with_reducible repeat' first
    | assumption | intro _ | apply foldl_kept | apply foldl_keptP | apply State.undefineCore_kept | apply State.setCluster_kept
    | apply State.showOut_kept | apply State.giveBack_kept | split

theorem State.clearWork_kept {r : State} (s : State) (ctx : Nat) (h0 : Kept r s) :
    Kept r (State.clearWork s ctx) := by
  dsimp only [State.clearWork]
  with_reducible repeat' first
    | assumption | intro _ | apply foldl_kept | apply foldl_keptP | apply State.stopLaunch_kept | apply State.undefineTarget_kept
    | apply State.dropCons_kept | apply State.cancelColls_kept | apply State.clearCluster_kept | apply State.stallOff_kept | apply kept_mk rfl

theorem State.endReset_kept {r : State} (s : State) (q : CmdRef) (h0 : Kept r s) :
    Kept r (State.endReset s q) := by
  dsimp only [State.endReset]
  with_reducible repeat' first
    | assumption | intro _ | apply State.endLaunch_kept | apply State.launchEnded_kept | apply State.completeBare_kept | split

theorem State.completeReset_kept {r : State} (s : State) (ctx : Nat) (h0 : Kept r s) :
    Kept r (State.completeReset s ctx) := by
  dsimp only [State.completeReset]
  with_reducible repeat' first
    | assumption | intro _ | apply foldl_kept | apply foldl_keptP | apply State.releaseStage_kept | apply State.endReset_kept

theorem State.destroyContext_kept {r : State} (s : State) (ctx : Nat) (h0 : Kept r s) :
    Kept r (State.destroyContext s ctx) := by
  dsimp only [State.destroyContext]
  with_reducible repeat' first
    | assumption | intro _ | apply foldl_kept | apply foldl_keptP | apply State.giveBack_kept | apply kept_mk rfl

theorem State.toSelfRefresh_kept {r : State} (s : State) (ns : List Nat) (h0 : Kept r s) :
    Kept r (State.toSelfRefresh s ns) := by
  dsimp only [State.toSelfRefresh]
  with_reducible repeat' first
    | assumption | intro _ | apply foldl_kept | apply foldl_keptP | apply State.drainStacks_kept | apply State.setStack_kept | apply kept_mk rfl

theorem State.beginTraining_kept {r : State} (s : State) (h0 : Kept r s) :
    Kept r (State.beginTraining s) := by
  dsimp only [State.beginTraining]
  with_reducible repeat' first
    | assumption | intro _ | apply foldl_kept | apply foldl_keptP | apply State.queuedHppr_kept | apply State.setStack_kept | split
    | apply kept_mk rfl

theorem State.scrubDies_kept {r : State} (s : State) (dies : List Nat) (h0 : Kept r s) :
    Kept r (State.scrubDies s dies) := by
  dsimp only [State.scrubDies]
  with_reducible repeat' first
    | assumption | intro _ | apply foldl_kept | apply foldl_keptP | apply State.clearCluster_kept

theorem State.l3Image_kept {r : State} (s : State) (b : BigReset) (h0 : Kept r s) :
    Kept r (State.l3Image s b) := by
  dsimp only [State.l3Image]
  with_reducible repeat' first
    | assumption | intro _ | apply State.refuseImage_kept | apply State.setRst_kept | apply State.thaw_kept | apply State.resetEnd_kept
    | apply State.toPhase_kept | split | apply kept_mk rfl

theorem State.pushBig_kept {r : State} (s : State) (h0 : Kept r s) :
    Kept r (State.pushBig s) := by
  dsimp only [State.pushBig]
  with_reducible repeat' first
    | assumption | intro _ | apply State.setRst_kept | apply State.l3Image_kept | apply State.toSelfRefresh_kept | apply State.scrubDies_kept
    | split | apply kept_mk rfl

theorem State.absorbL1_kept {r : State} (s : State) (covered : UnitRef → Bool) (h0 : Kept r s) :
    Kept r (State.absorbL1 s covered) := by
  dsimp only [State.absorbL1]
  with_reducible repeat' first
    | assumption | intro _ | apply State.setRst_kept

theorem State.startL3_kept {r : State} (s : State) (cause : Nat) (from_ : Nat) (h0 : Kept r s) :
    Kept r (State.startL3 s cause from_) := by
  dsimp only [State.startL3]
  with_reducible repeat' first
    | assumption | intro _ | apply State.notReady_kept | apply State.setRst_kept | apply State.absorbL1_kept | apply State.freeze_kept
    | apply State.resetBegin_kept | apply State.pushBig_kept | apply State.startL0s_kept | split

theorem State.startL2_kept {r : State} (s : State) (d : Nat) (cause : Nat) (from_ : Nat) (asked : List CmdRef) (h0 : Kept r s) :
    Kept r (State.startL2 s d cause from_ asked) := by
  dsimp only [State.startL2]
  with_reducible repeat' first
    | assumption | intro _ | apply State.setRst_kept | apply State.startL3_kept | apply State.absorbL1_kept | apply State.freeze_kept
    | apply State.resetBegin_kept | apply State.pushBig_kept | apply State.startL0s_kept | split

theorem State.endL2_kept {r : State} (s : State) (d : Nat) (how : Nat) (h0 : Kept r s) :
    Kept r (State.endL2 s d how) := by
  dsimp only [State.endL2]
  with_reducible repeat' first
    | assumption | intro _ | apply foldl_kept | apply foldl_keptP | apply State.setRst_kept | apply State.thaw_kept | apply State.resetEnd_kept
    | apply State.complete_kept | split

theorem State.endL3_kept {r : State} (s : State) (h0 : Kept r s) :
    Kept r (State.endL3 s) := by
  dsimp only [State.endL3]
  with_reducible repeat' first
    | assumption | intro _ | apply State.setRst_kept | apply State.raise_kept | apply State.thaw_kept | apply State.resetEnd_kept | split

theorem State.failL3_kept {r : State} (s : State) (h0 : Kept r s) :
    Kept r (State.failL3 s) := by
  dsimp only [State.failL3]
  with_reducible repeat' first
    | assumption | intro _ | apply State.thaw_kept | apply State.notReady_kept | apply State.resetEnd_kept | split

theorem State.startL1_kept {r : State} (s : State) (k : L1Key) (cause : Nat) (except : List Nat) (asked : List CmdRef) (h0 : Kept r s) :
    Kept r (State.startL1 s k cause except asked) := by
  dsimp only [State.startL1]
  with_reducible repeat' first
    | assumption | intro _ | apply State.startL2_kept | apply State.setRst_kept | apply State.startL0s_kept | apply State.resetBegin_kept | split

theorem State.endL1_kept {r : State} (s : State) (x : L1St) (how : Nat) (h0 : Kept r s) :
    Kept r (State.endL1 s x how) := by
  dsimp only [State.endL1]
  with_reducible repeat' first
    | assumption | intro _ | apply foldl_kept | apply foldl_keptP | apply State.setRst_kept | apply State.resetEnd_kept
    | apply State.complete_kept | split

theorem State.failL1_kept {r : State} (s : State) (x : L1St) (verdictEngine : Nat) (signature : W64) (h0 : Kept r s) :
    Kept r (State.failL1 s x verdictEngine signature) := by
  dsimp only [State.failL1]
  with_reducible repeat' first
    | assumption | intro _ | apply State.endL1_kept | apply State.outOfService_kept | apply State.fence_kept | apply State.startL2_kept
    | apply State.startL3_kept | split

theorem State.finishL0_kept {r : State} (s : State) (ctx : Nat) (h0 : Kept r s) :
    Kept r (State.finishL0 s ctx) := by
  dsimp only [State.finishL0]
  with_reducible repeat' first
    | assumption | intro _ | apply foldl_kept | apply foldl_keptP | apply State.completeReset_kept | apply State.clearWork_kept
    | apply State.setRst_kept | apply State.complete_kept | apply State.raise_kept | apply State.destroyContext_kept | apply State.pushBig_kept
    | split

/-! ### Machine/Reset.lean -/

theorem execWatchdogExpiry_kept {r : State} (c : Ctx) (s : State) (h0 : Kept r s) :
    KeptE r (execWatchdogExpiry c s) := by
  dsimp only [execWatchdogExpiry]
  with_reducible repeat' first
    | assumption | apply keptE_next | intro _ | apply State.startL0_kept | apply State.raise_kept | split

theorem execHeartbeatTimeout_kept {r : State} (unit : UnitRef) (s : State) (h0 : Kept r s) :
    KeptE r (execHeartbeatTimeout unit s) := by
  dsimp only [execHeartbeatTimeout]
  with_reducible repeat' first
    | assumption | apply keptE_next | intro _ | apply State.startL1_kept | apply State.raise_kept | split

theorem execQuiesceComplete_kept {r : State} (c : Ctx) (s : State) (h0 : Kept r s) :
    KeptE r (execQuiesceComplete c s) := by
  dsimp only [execQuiesceComplete]
  with_reducible repeat' first
    | assumption | apply keptE_next | intro _ | apply State.finishL0_kept | split

theorem execQuiesceTimeout_kept {r : State} (c : Ctx) (unit : UnitRef) (core : Fin 84) (engine : Fin 4) (s : State) (h0 : Kept r s) :
    KeptE r (execQuiesceTimeout c unit core engine s) := by
  dsimp only [execQuiesceTimeout]
  with_reducible repeat' first
    | assumption | apply keptE_next | intro _ | apply State.startL1_kept | apply State.setRst_kept | split

theorem State.rowsFixed_kept {r : State} (s : State) (src : Nat) (rows : List RowFixed) (h0 : Kept r s) :
    Kept r (State.rowsFixed s src rows) := by
  dsimp only [State.rowsFixed]
  with_reducible repeat' first
    | assumption | intro _ | apply foldl_kept | apply foldl_keptP | apply State.raise_kept

theorem State.romCorrupt_kept {r : State} (s : State) (src : Nat) (set_ : Nat) (word : Nat) (h0 : Kept r s) :
    Kept r (State.romCorrupt s src set_ word) := by
  dsimp only [State.romCorrupt]
  with_reducible repeat' first
    | assumption | intro _ | apply State.raise_kept

theorem State.endTestRun_kept {r : State} (s : State) (r0 : TestRun) (h0 : Kept r s) :
    Kept r (State.endTestRun s r0) := by
  dsimp only [State.endTestRun]
  with_reducible repeat' first
    | assumption | intro _ | apply State.setRst_kept | apply State.raise_kept | apply State.complete_kept | split

theorem State.unitTested_kept {r : State} (s : State) (unit : UnitRef) (failed : Bool) (h0 : Kept r s) :
    Kept r (State.unitTested s unit failed) := by
  dsimp only [State.unitTested]
  with_reducible repeat' first
    | assumption | intro _ | apply State.endTestRun_kept | split

theorem execUnitBistComplete_kept {r : State} (unit : UnitRef) (core : Fin 84) (engine : Fin 4) (x : BistResult) (s : State) (h0 : Kept r s) :
    KeptE r (execUnitBistComplete unit core engine x s) := by
  dsimp only [execUnitBistComplete]
  with_reducible repeat' first
    | assumption | apply keptE_next | intro _ | apply State.rowsFixed_kept | apply State.romCorrupt_kept | apply State.failL1_kept
    | apply State.unitTested_kept | apply State.endL1_kept | apply State.failL3_kept | apply State.startL3_kept | apply State.endL2_kept | split

theorem State.requestReset_kept {r : State} (s : State) (v : RegValue) (h0 : Kept r s) :
    Kept r (State.requestReset s v) := by
  dsimp only [State.requestReset]
  with_reducible repeat' first
    | assumption | intro _ | apply State.rwp_kept | apply State.setReg_kept | apply State.startL2_kept | apply State.startL3_kept
    | apply State.startL4_kept | split | refine kept_fst (by assumption) ?_ | refine kept_fstEq (by assumption) ?_

theorem execRstRequestL2_kept {r : State} (v : RegValue) (s : State) (h0 : Kept r s) :
    KeptE r (execRstRequestL2 v s) := by
  dsimp only [execRstRequestL2]
  with_reducible repeat' first
    | assumption | apply keptE_next | intro _ | apply State.requestReset_kept

theorem execRstRequestL3_kept {r : State} (v : RegValue) (s : State) (h0 : Kept r s) :
    KeptE r (execRstRequestL3 v s) := by
  dsimp only [execRstRequestL3]
  with_reducible repeat' first
    | assumption | apply keptE_next | intro _ | apply State.requestReset_kept

theorem execRstRequestL4_kept {r : State} (v : RegValue) (s : State) (h0 : Kept r s) :
    KeptE r (execRstRequestL4 v s) := by
  dsimp only [execRstRequestL4]
  with_reducible repeat' first
    | assumption | apply keptE_next | intro _ | apply State.requestReset_kept

theorem execRstContext_kept {r : State} (q : CmdRef) (s : State) (h0 : Kept r s) :
    KeptE r (execRstContext q s) := by
  dsimp only [execRstContext]
  with_reducible repeat' first
    | assumption | apply keptE_next | intro _ | apply State.perform_kept | apply State.complete_kept | apply State.startTaken_kept
    | apply State.startL0_kept | apply State.setRst_kept | split

theorem State.dropWork_kept {r : State} (s : State) (q : CmdRef) (h0 : Kept r s) :
    Kept r (State.dropWork s q) := by
  dsimp only [State.dropWork]
  with_reducible repeat' first
    | assumption | intro _ | apply foldl_kept | apply foldl_keptP | apply State.clearCluster_kept | apply State.stopLaunch_kept
    | apply State.dropColl_kept | apply State.undefineTarget_kept | split | apply kept_mk rfl

theorem execRstUnit_kept {r : State} (q : CmdRef) (s : State) (h0 : Kept r s) :
    KeptE r (execRstUnit q s) := by
  dsimp only [execRstUnit]
  with_reducible repeat' first
    | assumption | apply keptE_next | intro _ | apply foldl_kept | apply foldl_keptP | apply State.perform_kept | apply State.complete_kept
    | apply State.endReset_kept | apply State.dropWork_kept | apply State.startL1_kept | apply State.startTaken_kept | split

theorem State.unitUnread_kept {r : State} (s : State) (line : Nat) (what : Nat) (h0 : Kept r s) :
    Kept r (State.unitUnread s line what) := by
  dsimp only [State.unitUnread]
  with_reducible repeat' first
    | assumption | intro _ | apply State.startL3_kept | apply State.uncorrectable_kept

/-! ### Machine/SelfTest.lean -/

theorem State.setTest_kept {r : State} (s : State) (f : TestSt → TestSt) (h0 : Kept r s) :
    Kept r (State.setTest s f) := by
  dsimp only [State.setTest]
  with_reducible repeat' first
    | assumption | intro _ | apply State.setRst_kept

theorem State.mapFromFuses_kept {r : State} (s : State) (h0 : Kept r s) :
    Kept r (State.mapFromFuses s) := by
  dsimp only [State.mapFromFuses]
  with_reducible repeat' first
    | assumption | intro _ | apply foldl_kept | apply foldl_keptP | apply State.setRepair_kept | split

theorem State.applyCore_kept {r : State} (s : State) (how : Nat) (x : CoreBist) (h0 : Kept r s) :
    Kept r (State.applyCore s how x) := by
  dsimp only [State.applyCore]
  with_reducible repeat' first
    | assumption | intro _ | apply State.fence_kept | apply State.outOfService_kept | split

theorem State.passToken_kept {r : State} (s : State) (h0 : Kept r s) :
    Kept r (State.passToken s) := by
  dsimp only [State.passToken]
  with_reducible repeat' first
    | assumption | intro _ | apply State.setTest_kept | split

theorem State.takeToken_kept {r : State} (s : State) (h0 : Kept r s) :
    Kept r (State.takeToken s) := by
  dsimp only [State.takeToken]
  with_reducible repeat' first
    | assumption | intro _ | apply State.setTest_kept | apply State.passToken_kept | split

theorem execTestTokenPulse_kept {r : State} (s : State) (h0 : Kept r s) :
    KeptE r (execTestTokenPulse s) := by
  dsimp only [execTestTokenPulse]
  with_reducible repeat' first
    | assumption | apply keptE_next | intro _ | apply State.takeToken_kept | split

theorem execTokenRegenTimeout_kept {r : State} (s : State) (h0 : Kept r s) :
    KeptE r (execTokenRegenTimeout s) := by
  dsimp only [execTokenRegenTimeout]
  with_reducible repeat' first
    | assumption | apply keptE_next | intro _ | apply State.setTest_kept | apply State.raise_kept | split

theorem State.beginPhase_kept {r : State} (s : State) (n : Nat) (heavy : Bool) (h0 : Kept r s) :
    Kept r (State.beginPhase s n heavy) := by
  dsimp only [State.beginPhase]
  with_reducible repeat' first
    | assumption | intro _ | apply State.setTest_kept | split

theorem State.startColdBist_kept {r : State} (s : State) (h0 : Kept r s) :
    Kept r (State.startColdBist s) := by
  dsimp only [State.startColdBist]
  with_reducible repeat' first
    | assumption | intro _ | apply State.setTest_kept | apply State.beginPhase_kept | apply State.toPhase_kept

theorem State.startTraining_kept {r : State} (s : State) (h0 : Kept r s) :
    Kept r (State.startTraining s) := by
  dsimp only [State.startTraining]
  with_reducible repeat' first
    | assumption | intro _ | apply State.beginTraining_kept | apply State.toSelfRefresh_kept | apply State.toPhase_kept
    | apply State.setTest_kept

theorem State.bootFailed_kept {r : State} (s : State) (h0 : Kept r s) :
    Kept r (State.bootFailed s) := by
  dsimp only [State.bootFailed]
  with_reducible repeat' first
    | assumption | intro _ | apply State.toPhase_kept | apply State.setRst_kept | apply State.setTest_kept

theorem State.refuseTest_kept {r : State} (s : State) (cause : Nat) (vdd : Nat) (ppm : Nat) (h0 : Kept r s) :
    Kept r (State.refuseTest s cause vdd ppm) := by
  dsimp only [State.refuseTest]
  with_reducible repeat' first
    | assumption | intro _ | apply State.setTest_kept | apply State.raise_kept | apply State.complete_kept | apply State.startTraining_kept
    | split

theorem execTestConditionCheck_kept {r : State} (x : TestConditions) (s : State) (h0 : Kept r s) :
    KeptE r (execTestConditionCheck x s) := by
  dsimp only [execTestConditionCheck]
  with_reducible repeat' first
    | assumption | apply keptE_next | intro _ | apply State.refuseTest_kept | split

theorem execColdBistRetry_kept {r : State} (s : State) (h0 : Kept r s) :
    KeptE r (execColdBistRetry s) := by
  dsimp only [execColdBistRetry]
  with_reducible repeat' first
    | assumption | apply keptE_next | intro _ | apply State.beginPhase_kept | split

theorem State.analogueFail_kept {r : State} (s : State) (a : AnalogueFail) (h0 : Kept r s) :
    Kept r (State.analogueFail s a) := by
  dsimp only [State.analogueFail]
  with_reducible repeat' first
    | assumption | intro _ | apply State.raise_kept | apply State.setPort_kept | apply State.failSensor_kept | split | apply kept_mk rfl

theorem State.spoilBuffer_kept {r : State} (s : State) (c : Nat) (h0 : Kept r s) :
    Kept r (State.spoilBuffer s c) := by
  dsimp only [State.spoilBuffer]
  with_reducible repeat' first
    | assumption | intro _ | apply State.setCluster_kept | apply kept_mk rfl

theorem State.replaceEntries_kept {r : State} (s : State) (set_ : List Nat) (found : List CoreBist) (h0 : Kept r s) :
    Kept r (State.replaceEntries s set_ found) := by
  dsimp only [State.replaceEntries]
  with_reducible repeat' first
    | assumption | intro _ | apply foldl_kept | apply foldl_keptP | apply State.setRepair_kept | apply State.applyCore_kept
    | apply State.showOut_kept | apply State.setCluster_kept | split

theorem State.endClusterRun_kept {r : State} (s : State) (r0 : TestRun) (h0 : Kept r s) :
    Kept r (State.endClusterRun s r0) := by
  dsimp only [State.endClusterRun]
  with_reducible repeat' first
    | assumption | intro _ | apply foldl_kept | apply foldl_keptP | apply State.replaceEntries_kept | apply State.spoilBuffer_kept
    | apply State.endTestRun_kept | apply State.setTest_kept | split

theorem execBistBatchComplete_kept {r : State} (x : List CoreBist) (s : State) (h0 : Kept r s) :
    KeptE r (execBistBatchComplete x s) := by
  dsimp only [execBistBatchComplete]
  with_reducible repeat' first
    | assumption | apply keptE_next | intro _ | apply foldl_kept | apply foldl_keptP | apply State.rowsFixed_kept | apply State.romCorrupt_kept
    | apply State.passToken_kept | apply State.setTest_kept | apply State.endClusterRun_kept | split

theorem State.coldDone_kept {r : State} (s : State) (h0 : Kept r s) :
    Kept r (State.coldDone s) := by
  dsimp only [State.coldDone]
  with_reducible repeat' first
    | assumption | intro _ | apply State.raise_kept

theorem State.countTests_kept {r : State} (s : State) (tested : Nat) (failed : Nat) (h0 : Kept r s) :
    Kept r (State.countTests s tested failed) := by
  dsimp only [State.countTests]
  with_reducible repeat' first
    | assumption | intro _ | apply State.setTest_kept

theorem State.haltedByFuses_kept {r : State} (s : State) (c : Nat) (h0 : Kept r s) :
    Kept r (State.haltedByFuses s c) := by
  dsimp only [State.haltedByFuses]
  with_reducible repeat' first
    | assumption | intro _ | apply State.raise_kept | split

theorem execColdBistPhaseComplete_kept {r : State} (x : PhaseResult) (s : State) (h0 : Kept r s) :
    KeptE r (execColdBistPhaseComplete x s) := by
  dsimp only [execColdBistPhaseComplete]
  with_reducible repeat' first
    | assumption | apply keptE_next | intro _ | apply foldl_kept | apply foldl_keptP | apply State.countTests_kept | apply State.beginPhase_kept
    | apply State.bootFailed_kept | apply State.coldDone_kept | apply State.analogueFail_kept | apply State.applyCore_kept
    | apply State.startTraining_kept | apply State.haltedByFuses_kept | apply State.endTestRun_kept | split

theorem execTestRun_kept {r : State} (q : CmdRef) (s : State) (h0 : Kept r s) :
    KeptE r (execTestRun q s) := by
  dsimp only [execTestRun]
  with_reducible repeat' first
    | assumption | apply keptE_next | intro _ | apply foldl_kept | apply foldl_keptP | apply State.perform_kept | apply State.setTest_kept
    | apply State.startTaken_kept | apply State.beginPhase_kept | apply State.complete_kept | apply State.raise_kept | apply State.endReset_kept
    | apply State.dropWork_kept | apply State.startL1_kept | split

theorem execRepairMapRead_kept {r : State} (q : CmdRef) (s : State) (h0 : Kept r s) :
    KeptE r (execRepairMapRead q s) := by
  dsimp only [execRepairMapRead]
  with_reducible repeat' first
    | assumption | apply keptE_next | intro _ | apply State.perform_kept | apply State.cmdOutcome_kept | apply State.writeVa_kept
    | apply State.complete_kept | refine kept_fst (by assumption) ?_ | refine kept_fstEq (by assumption) ?_

theorem State.burnCluster_kept {r : State} (s : State) (c : Nat) (h0 : Kept r s) :
    Kept r (State.burnCluster s c) := by
  dsimp only [State.burnCluster]
  with_reducible repeat' first
    | assumption | intro _ | apply State.raise_kept | apply State.setRepair_kept | split

theorem execRepairFuse_kept {r : State} (q : CmdRef) (s : State) (h0 : Kept r s) :
    KeptE r (execRepairFuse q s) := by
  dsimp only [execRepairFuse]
  with_reducible repeat' first
    | assumption | apply keptE_next | intro _ | apply foldl_kept | apply foldl_keptP | apply State.perform_kept | apply State.mapMet_kept
    | apply State.complete_kept | apply State.burnCluster_kept | split | apply kept_mk rfl

theorem execRotationInterval_kept {r : State} (c : ClusterNo) (s : State) (h0 : Kept r s) :
    KeptE r (execRotationInterval c s) := by
  dsimp only [execRotationInterval]
  with_reducible repeat' first
    | assumption | apply keptE_next | intro _ | apply State.rotateSwap_kept | split

theorem State.endSweep_kept {r : State} (s : State) (h0 : Kept r s) :
    Kept r (State.endSweep s) := by
  dsimp only [State.endSweep]
  with_reducible repeat' first
    | assumption | intro _ | apply State.setRotate_kept | apply State.raise_kept | split

theorem execRotationTestComplete_kept {r : State} (c : ClusterNo) (x : BistResult) (s : State) (h0 : Kept r s) :
    KeptE r (execRotationTestComplete c x s) := by
  dsimp only [execRotationTestComplete]
  with_reducible repeat' first
    | assumption | apply keptE_next | intro _ | apply State.rowsFixed_kept | apply State.setRotate_kept | apply State.endSweep_kept
    | apply State.raise_kept | apply State.tested_kept | apply State.romCorrupt_kept | apply State.outOfService_kept | apply State.fence_kept
    | split

/-! ### Machine/Boot.lean -/

theorem State.setBoard_kept {r : State} (s : State) (f : BoardSt → BoardSt) (h0 : Kept r s) (hf : ∀ b, (f b).rollback = b.rollback) :
    Kept r (State.setBoard s f) := ⟨h0.1, (hf s.board).trans h0.2⟩

theorem State.powerCycled_kept {r : State} (s : State) (h0 : Kept r s) :
    Kept r (State.powerCycled s) := by
  dsimp only [State.powerCycled]
  with_reducible repeat' first
    | assumption | rfl | intro _ | apply kept_mk

theorem execPwrGoodRise_kept {r : State} (straps : BitVec 3) (patch : PatchFound) (s : State) (h0 : Kept r s) :
    KeptE r (execPwrGoodRise straps patch s) := by
  dsimp only [execPwrGoodRise]
  with_reducible repeat' first
    | assumption | rfl | apply keptE_next | intro _ | apply State.setBoard_kept | apply State.powerCycled_kept | apply State.mapFromFuses_kept
    | apply State.tryPatch_kept | apply State.takeToken_kept | split | apply kept_mk

theorem execPwrGoodFall_kept {r : State} (s : State) (h0 : Kept r s) :
    KeptE r (execPwrGoodFall s) := by
  dsimp only [execPwrGoodFall]
  with_reducible repeat' first
    | assumption | apply keptE_next | intro _ | apply State.powerCycled_kept | split

theorem execBootBringupComplete_kept {r : State} (s : State) (h0 : Kept r s) :
    KeptE r (execBootBringupComplete s) := by
  dsimp only [execBootBringupComplete]
  with_reducible repeat' first
    | assumption | rfl | apply keptE_next | intro _ | apply State.toPhase_kept | apply State.setBoard_kept | split

theorem execGlbStageWindowWrite_kept {r : State} (off : BitVec 15) (data : List Byte) (s : State) (h0 : Kept r s) :
    KeptE r (execGlbStageWindowWrite off data s) := by
  dsimp only [execGlbStageWindowWrite]
  with_reducible repeat' first
    | assumption | rfl | apply keptE_next | intro _ | apply State.setBoard_kept | split | apply kept_mk

theorem State.stage_kept {r : State} (s : State) (q : CmdRef) (va : Nat) (n : Nat) (to_ : Nat) (h0 : Kept r s) :
    Kept r (State.stage s q va n to_) := by
  dsimp only [State.stage]
  with_reducible repeat' first
    | assumption | intro _ | apply State.cmdOutcome_kept | apply State.readVa_kept | apply State.complete_kept | apply State.stallOn_kept | split
    | refine kept_fst (by assumption) ?_ | refine kept_fstEq (by assumption) ?_ | apply kept_mk rfl

theorem execFwStage_kept {r : State} (q : CmdRef) (s : State) (h0 : Kept r s) :
    KeptE r (execFwStage q s) := by
  dsimp only [execFwStage]
  with_reducible repeat' first
    | assumption | apply keptE_next | intro _ | apply State.perform_kept | apply State.stage_kept

theorem execCfgStage_kept {r : State} (q : CmdRef) (s : State) (h0 : Kept r s) :
    KeptE r (execCfgStage q s) := by
  dsimp only [execCfgStage]
  with_reducible repeat' first
    | assumption | apply keptE_next | intro _ | apply State.perform_kept | apply State.stage_kept

theorem State.go_kept {r : State} (s : State) (h0 : Kept r s) :
    Kept r (State.go s) := by
  dsimp only [State.go]
  with_reducible repeat' first
    | assumption | rfl | intro _ | apply foldl_kept | apply foldl_keptP | apply State.toPhase_kept | apply State.setBoard_kept
    | apply State.refuseImage_kept | apply State.refuseConfig_kept | apply State.applyConfig_kept | apply State.activateImage_kept
    | apply State.setStack_kept | apply State.startColdBist_kept | split

theorem execGlbStageGo_kept {r : State} (v : RegValue) (s : State) (h0 : Kept r s) :
    KeptE r (execGlbStageGo v s) := by
  dsimp only [execGlbStageGo]
  with_reducible repeat' first
    | assumption | apply keptE_next | intro _ | apply State.rwp_kept | apply State.setReg_kept | apply State.go_kept | split
    | refine kept_fst (by assumption) ?_ | refine kept_fstEq (by assumption) ?_

theorem State.commit_kept {r : State} (s : State) (q : CmdRef) (fw : Bool) (h0 : Kept r s) :
    Kept r (State.commit s q fw) := by
  dsimp only [State.commit]
  with_reducible repeat' first
    | assumption | rfl | intro _ | apply State.complete_kept | apply State.refuseImage_kept | apply State.refuseConfig_kept
    | apply State.setBoard_kept | apply State.activateImage_kept | apply State.applyConfig_kept | split

theorem execCfgCommit_kept {r : State} (q : CmdRef) (s : State) (h0 : Kept r s) :
    KeptE r (execCfgCommit q s) := by
  dsimp only [execCfgCommit]
  with_reducible repeat' first
    | assumption | apply keptE_next | intro _ | apply State.perform_kept | apply State.releaseStage_kept | apply State.complete_kept
    | apply State.commit_kept | split

theorem execProcessorRestartComplete_kept {r : State} (s : State) (h0 : Kept r s) :
    KeptE r (execProcessorRestartComplete s) := by
  dsimp only [execProcessorRestartComplete]
  with_reducible repeat' first
    | assumption | rfl | apply keptE_next | intro _ | apply State.raise_kept | apply State.setBoard_kept | split

theorem State.trained_kept {r : State} (s : State) (x : StackTrained) (h0 : Kept r s) :
    Kept r (State.trained s x) := by
  dsimp only [State.trained]
  with_reducible repeat' first
    | assumption | intro _ | apply foldl_kept | apply foldl_keptP | apply State.raise_kept | apply State.setStack_kept | split
    | apply kept_mk rfl

theorem State.startProcessors_kept {r : State} (s : State) (h0 : Kept r s) :
    Kept r (State.startProcessors s) := by
  dsimp only [State.startProcessors]
  with_reducible repeat' first
    | assumption | rfl | intro _ | apply State.toPhase_kept | apply State.setBoard_kept | apply State.refuseImage_kept | apply State.raise_kept
    | apply State.setRst_kept | split

theorem State.afterTraining_kept {r : State} (s : State) (ok : Bool) (ns : List Nat) (h0 : Kept r s) :
    Kept r (State.afterTraining s ok ns) := by
  dsimp only [State.afterTraining]
  with_reducible repeat' first
    | assumption | intro _ | apply State.endL3_kept | apply State.failL3_kept | apply State.endL2_kept | apply State.startL3_kept
    | apply State.startProcessors_kept | apply State.bootFailed_kept | split

theorem execStackTrainingComplete_kept {r : State} (x : List StackTrained) (s : State) (h0 : Kept r s) :
    KeptE r (execStackTrainingComplete x s) := by
  dsimp only [execStackTrainingComplete]
  with_reducible repeat' first
    | assumption | apply keptE_next | intro _ | apply foldl_kept | apply foldl_keptP | apply State.trained_kept | apply State.raise_kept
    | apply State.afterTraining_kept | split | apply kept_mk rfl

/-! ### Machine/HbmCheck.lean -/

theorem State.reissueStall_kept {r : State} (s : State) (x : HbmRead) (stack : Nat) (line : Nat) (on : Bool) (h0 : Kept r s) :
    Kept r (State.reissueStall s x stack line on) := by
  dsimp only [State.reissueStall]
  with_reducible repeat' first
    | assumption | intro _ | apply State.stallOn_kept | apply State.stallOff_kept | split

theorem State.readLost_kept {r : State} (s : State) (reader : Nat) (ctx : Option Nat) (line : Nat) (what : Nat) (h0 : Kept r s) :
    Kept r (State.readLost s reader ctx line what) := by
  dsimp only [State.readLost]
  with_reducible repeat' first
    | assumption | intro _ | apply State.unitUnread_kept | apply State.answer_kept | apply State.uncorrectable_kept | apply State.settleWc_kept
    | split | apply kept_mk rfl

theorem execHbmReadResponse_kept {r : State} (x : HbmRead) (s : State) (h0 : Kept r s) :
    KeptE r (execHbmReadResponse x s) := by
  dsimp only [execHbmReadResponse]
  with_reducible repeat' first
    | assumption | apply keptE_next | intro _ | apply State.setStack_kept | apply State.reissueStall_kept | apply State.raiseLimited_kept
    | apply State.readLost_kept | split | apply kept_mk rfl

/-! ### Machine/Pool.lean -/

theorem State.setTier_kept {r : State} (s : State) (f : TierSt → TierSt) (h0 : Kept r s) :
    Kept r (State.setTier s f) := by
  dsimp only [State.setTier]
  with_reducible repeat' first
    | assumption | intro _ | apply kept_mk rfl

theorem State.quotaMet_kept {r : State} (s : State) (ctx : Nat) (h0 : Kept r s) :
    Kept r (State.quotaMet s ctx) := by
  dsimp only [State.quotaMet]
  with_reducible repeat' first
    | assumption | intro _ | apply State.raise_kept | split

theorem State.setEntry_kept {r : State} (s : State) (ctx : Nat) (vpn : Nat) (v : Nat) (h0 : Kept r s) :
    Kept r (State.setEntry s ctx vpn v) := by
  dsimp only [State.setEntry]
  with_reducible repeat' first
    | assumption | intro _ | apply State.setTier_kept

theorem State.storeFull_kept {r : State} (s : State) (h0 : Kept r s) :
    Kept r (State.storeFull s) := by
  dsimp only [State.storeFull]
  with_reducible repeat' first
    | assumption | intro _ | apply State.raise_kept | apply State.setTier_kept | split

theorem State.sendEviction_kept {r : State} (s : State) (e : Eviction) (h0 : Kept r s) :
    Kept r (State.sendEviction s e) := by
  dsimp only [State.sendEviction]
  with_reducible repeat' first
    | assumption | intro _ | apply State.setTier_kept | apply State.toHost_kept

theorem State.undoEvict_kept {r : State} (s : State) (e : Eviction) (h0 : Kept r s) :
    Kept r (State.undoEvict s e) := by
  dsimp only [State.undoEvict]
  with_reducible repeat' first
    | assumption | intro _ | apply State.setEntry_kept | apply State.setTier_kept | split

theorem State.pushEviction_kept {r : State} (s : State) (e : Eviction) (h0 : Kept r s) :
    Kept r (State.pushEviction s e) := by
  dsimp only [State.pushEviction]
  with_reducible repeat' first
    | assumption | intro _ | apply State.settleWc_kept | apply State.unitUnread_kept | apply State.undoEvict_kept | apply State.sendEviction_kept
    | split | apply kept_mk rfl

theorem State.startEvict_kept {r : State} (s : State) (f : Nat) (h0 : Kept r s) :
    Kept r (State.startEvict s f) := by
  dsimp only [State.startEvict]
  with_reducible repeat' first
    | assumption | intro _ | apply State.setEntry_kept | apply State.setTier_kept | apply State.pushEviction_kept | split

theorem State.pushEvictions_kept {r : State} (s : State) (h0 : Kept r s) :
    Kept r (State.pushEvictions s) := by
  dsimp only [State.pushEvictions]
  with_reducible repeat' first
    | assumption | intro _ | apply foldl_kept | apply foldl_keptP | apply State.pushEviction_kept

theorem State.evictSome_kept {r : State} (own : Bool) (choose : State → Option Nat) (a2 : Nat) (a3 : State) (h0 : Kept r a3) :
    Kept r (State.evictSome own choose a2 a3).1 := by
  induction a2 generalizing own a3 with
  | zero =>
    dsimp only [State.evictSome]
    with_reducible repeat' first
      | assumption | intro _ | apply State.storeFull_kept | apply State.startEvict_kept | split | refine kept_fst (by assumption) ?_
      | refine kept_fstEq (by assumption) ?_
  | succ n ih =>
    dsimp only [State.evictSome]
    with_reducible repeat' first
      | assumption | apply ih | intro _ | apply State.storeFull_kept | apply State.startEvict_kept | split | refine kept_fst (by assumption) ?_
      | refine kept_fstEq (by assumption) ?_

theorem State.background_kept {r : State} (s : State) (h0 : Kept r s) :
    Kept r (State.background s) := by
  dsimp only [State.background]
  with_reducible repeat' first
    | assumption | intro _ | apply State.evictSome_kept | split | refine kept_fst (by assumption) ?_ | refine kept_fstEq (by assumption) ?_

theorem State.evictOwn_kept {r : State} (s : State) (ctx : Nat) (fit : Nat → Bool) (n : Nat) (h0 : Kept r s) :
    Kept r (State.evictOwn s ctx fit n).1 := by
  dsimp only [State.evictOwn]
  with_reducible repeat' first
    | assumption | intro _ | apply State.evictSome_kept | apply State.setTier_kept | refine kept_fst (by assumption) ?_
    | refine kept_fstEq (by assumption) ?_

theorem State.takeFrames_kept {r : State} (s : State) (l : List Nat) (h0 : Kept r s) :
    Kept r (State.takeFrames s l).1 := by
  dsimp only [State.takeFrames]
  with_reducible repeat' first
    | assumption | intro _ | apply State.setTier_kept | refine kept_fst (by assumption) ?_ | refine kept_fstEq (by assumption) ?_

theorem State.getFrames_kept {r : State} (s : State) (ctx : Nat) (n : Nat) (mode : Nat) (die : Nat) (back : Bool) (h0 : Kept r s) :
    Kept r (State.getFrames s ctx n mode die back).1 := by
  dsimp only [State.getFrames]
  with_reducible repeat' first
    | assumption | intro _ | apply State.evictOwn_kept | apply State.takeFrames_kept | apply State.evictSome_kept | split
    | refine kept_fst (by assumption) ?_ | refine kept_fstEq (by assumption) ?_

theorem State.releasePage_kept {r : State} (s : State) (ctx : Nat) (vpn : Nat) (h0 : Kept r s) :
    Kept r (State.releasePage s ctx vpn) := by
  dsimp only [State.releasePage]
  with_reducible repeat' first
    | assumption | intro _ | apply State.setTier_kept

theorem State.freshL1_kept {r : State} (s : State) (ctx : Nat) (vpn : Nat) (h0 : Kept r s) :
    Kept r (State.freshL1 s ctx vpn) := by
  dsimp only [State.freshL1]
  with_reducible repeat' first
    | assumption | intro _ | apply State.setTier_kept | split

theorem State.onTarget_kept {r : State} (s : State) (q : CmdRef) (target : Nat) (f : Nat → State) (h0 : Kept r s) (h1 : ∀ x0, Kept r (f x0)) :
    Kept r (State.onTarget s q target f) := by
  dsimp only [State.onTarget]
  with_reducible repeat' first
    | assumption | intro _ | apply h1 | apply State.complete_kept | split

theorem State.entriesMet_kept {r : State} (s : State) (q : CmdRef) (ctx : Nat) (ps : List Nat) (h0 : Kept r s) :
    Kept r (State.entriesMet s q ctx ps) := by
  dsimp only [State.entriesMet]
  with_reducible repeat' first
    | assumption | intro _ | apply foldl_kept | apply foldl_keptP | apply State.walkMet_kept | split

theorem execPoolQuotaSet_kept {r : State} (q : CmdRef) (s : State) (h0 : Kept r s) :
    KeptE r (execPoolQuotaSet q s) := by
  dsimp only [execPoolQuotaSet]
  with_reducible repeat' first
    | assumption | apply keptE_next | intro _ | apply State.perform_kept | apply State.complete_kept | apply State.quotaMet_kept
    | apply State.setTier_kept | apply State.evictSome_kept | split | refine kept_fst (by assumption) ?_ | refine kept_fstEq (by assumption) ?_

theorem execPoolEvictStore_kept {r : State} (q : CmdRef) (s : State) (h0 : Kept r s) :
    KeptE r (execPoolEvictStore q s) := by
  dsimp only [execPoolEvictStore]
  with_reducible repeat' first
    | assumption | apply keptE_next | intro _ | apply State.perform_kept | apply State.complete_kept | apply State.setTier_kept | split

theorem State.mapPage_kept {r : State} (s : State) (ctx : Nat) (vpn : Nat) (f : Nat) (flags : Nat) (h0 : Kept r s) :
    Kept r (State.mapPage s ctx vpn f flags) := by
  dsimp only [State.mapPage]
  with_reducible repeat' first
    | assumption | intro _ | apply State.freshL1_kept | apply State.releasePage_kept | apply State.setEntry_kept | apply State.setTier_kept
    | split | apply kept_mk rfl

theorem State.mapPages_kept {r : State} (s : State) (ctx : Nat) (vpn : Nat) (flags : Nat) (a4 : List Nat) (h0 : Kept r s) :
    Kept r (State.mapPages s ctx vpn flags a4) := by
  induction a4 generalizing s ctx vpn flags with
  | nil =>
    dsimp only [State.mapPages]
    with_reducible repeat' first
      | assumption | intro _ | apply State.mapPage_kept | split
  | cons x l ih =>
    dsimp only [State.mapPages]
    with_reducible repeat' first
      | assumption | apply ih | intro _ | apply State.mapPage_kept | split

theorem execMemMap_kept {r : State} (q : CmdRef) (s : State) (h0 : Kept r s) :
    KeptE r (execMemMap q s) := by
  dsimp only [execMemMap]
  with_reducible repeat' first
    | assumption | apply keptE_next | intro _ | apply foldl_kept | apply foldl_keptP | apply State.perform_kept | apply State.onTarget_kept
    | apply State.quotaMet_kept | apply State.entriesMet_kept | apply State.complete_kept | apply State.getFrames_kept
    | apply State.releasePage_kept | apply State.background_kept | apply State.mapPages_kept | apply State.stallOn_kept | split
    | refine kept_fst (by assumption) ?_ | refine kept_fstEq (by assumption) ?_

theorem execMemUnmap_kept {r : State} (q : CmdRef) (s : State) (h0 : Kept r s) :
    KeptE r (execMemUnmap q s) := by
  dsimp only [execMemUnmap]
  with_reducible repeat' first
    | assumption | apply keptE_next | intro _ | apply foldl_kept | apply foldl_keptP | apply State.perform_kept | apply State.onTarget_kept
    | apply State.entriesMet_kept | apply State.complete_kept | apply State.stallOn_kept | apply State.freshL1_kept
    | apply State.releasePage_kept | split

theorem State.pinPages_kept {r : State} (s : State) (q : CmdRef) (ctx : Nat) (ps : List Nat) (returned : Nat) (h0 : Kept r s) :
    Kept r (State.pinPages s q ctx ps returned) := by
  dsimp only [State.pinPages]
  with_reducible repeat' first
    | assumption | intro _ | apply foldl_kept | apply foldl_keptP | apply State.complete_kept | apply State.setEntry_kept | split

theorem State.settlePages_kept {r : State} (s : State) (w : PageWait) (h0 : Kept r s) :
    Kept r (State.settlePages s w) := by
  dsimp only [State.settlePages]
  with_reducible repeat' first
    | assumption | intro _ | apply foldl_kept | apply foldl_keptP | apply State.complete_kept | apply State.setTier_kept
    | apply State.pinPages_kept | apply State.miss_kept | split

theorem pageCommand_kept {r : State} (op : Nat) (pin : Bool) (q : CmdRef) (s : State) (h0 : Kept r s) :
    Kept r (pageCommand op pin q s) := by
  dsimp only [pageCommand]
  with_reducible repeat' first
    | assumption | intro _ | apply State.perform_kept | apply State.onTarget_kept | apply State.entriesMet_kept | apply State.quotaMet_kept
    | apply State.complete_kept | apply State.stallOn_kept | apply State.setTier_kept | apply State.settlePages_kept
    | apply State.startTaken_kept | split

theorem execMemPin_kept {r : State} (q : CmdRef) (s : State) (h0 : Kept r s) :
    KeptE r (execMemPin q s) := by
  dsimp only [execMemPin]
  with_reducible repeat' first
    | assumption | apply keptE_next | intro _ | apply pageCommand_kept

theorem execMemPrefetch_kept {r : State} (q : CmdRef) (s : State) (h0 : Kept r s) :
    KeptE r (execMemPrefetch q s) := by
  dsimp only [execMemPrefetch]
  with_reducible repeat' first
    | assumption | apply keptE_next | intro _ | apply pageCommand_kept

theorem execMemUnpin_kept {r : State} (q : CmdRef) (s : State) (h0 : Kept r s) :
    KeptE r (execMemUnpin q s) := by
  dsimp only [execMemUnpin]
  with_reducible repeat' first
    | assumption | apply keptE_next | intro _ | apply foldl_kept | apply foldl_keptP | apply State.perform_kept | apply State.onTarget_kept
    | apply State.entriesMet_kept | apply State.complete_kept | apply State.stallOn_kept | apply State.setEntry_kept | split

theorem State.freshHostL1_kept {r : State} (s : State) (ctx : Nat) (vpn : Nat) (h0 : Kept r s) :
    Kept r (State.freshHostL1 s ctx vpn) := by
  dsimp only [State.freshHostL1]
  with_reducible repeat' first
    | assumption | intro _ | apply State.setTier_kept | split

theorem execHostMap_kept {r : State} (q : CmdRef) (s : State) (h0 : Kept r s) :
    KeptE r (execHostMap q s) := by
  dsimp only [execHostMap]
  with_reducible repeat' first
    | assumption | apply keptE_next | intro _ | apply foldl_kept | apply foldl_keptP | apply State.perform_kept | apply State.onTarget_kept
    | apply State.complete_kept | apply State.setTier_kept | apply State.freshHostL1_kept | split

theorem execHostUnmap_kept {r : State} (q : CmdRef) (s : State) (h0 : Kept r s) :
    KeptE r (execHostUnmap q s) := by
  dsimp only [execHostUnmap]
  with_reducible repeat' first
    | assumption | apply keptE_next | intro _ | apply foldl_kept | apply foldl_keptP | apply State.perform_kept | apply State.onTarget_kept
    | apply State.complete_kept | apply State.stallOn_kept | apply State.setTier_kept | apply State.freshHostL1_kept | split

theorem execPeerExport_kept {r : State} (q : CmdRef) (s : State) (h0 : Kept r s) :
    KeptE r (execPeerExport q s) := by
  dsimp only [execPeerExport]
  with_reducible repeat' first
    | assumption | apply keptE_next | intro _ | apply State.perform_kept | apply State.entriesMet_kept | apply State.complete_kept
    | apply State.setTier_kept | split

theorem execStallRead_kept {r : State} (q : CmdRef) (s : State) (h0 : Kept r s) :
    KeptE r (execStallRead q s) := by
  dsimp only [execStallRead]
  with_reducible repeat' first
    | assumption | apply keptE_next | intro _ | apply State.perform_kept | apply State.onTarget_kept | apply State.cmdOutcome_kept
    | apply State.writeVa_kept | apply State.complete_kept | refine kept_fst (by assumption) ?_ | refine kept_fstEq (by assumption) ?_

theorem execAgingTick_kept {r : State} (s : State) (h0 : Kept r s) :
    KeptE r (execAgingTick s) := by
  dsimp only [execAgingTick]
  with_reducible repeat' first
    | assumption | apply keptE_next | intro _ | apply State.setTier_kept | split

theorem State.endEvict_kept {r : State} (s : State) (e : Eviction) (h0 : Kept r s) :
    Kept r (State.endEvict s e) := by
  dsimp only [State.endEvict]
  with_reducible repeat' first
    | assumption | intro _ | apply State.setEntry_kept | apply State.setTier_kept | apply State.raise_kept | split | apply kept_mk rfl

theorem execEvictionComplete_kept {r : State} (frame : Nat) (confirmed : Bool) (s : State) (h0 : Kept r s) :
    KeptE r (execEvictionComplete frame confirmed s) := by
  dsimp only [execEvictionComplete]
  with_reducible repeat' first
    | assumption | apply keptE_next | intro _ | apply State.sendEviction_kept | apply State.unitUnread_kept | apply State.endEvict_kept | split

theorem State.setReturn_kept {r : State} (s : State) (r0 : Return) (h0 : Kept r s) :
    Kept r (State.setReturn s r0) := by
  dsimp only [State.setReturn]
  with_reducible repeat' first
    | assumption | intro _ | apply State.setTier_kept

theorem State.readSlot_kept {r : State} (s : State) (r0 : Return) (h0 : Kept r s) :
    Kept r (State.readSlot s r0) := by
  dsimp only [State.readSlot]
  with_reducible repeat' first
    | assumption | intro _ | apply State.setReturn_kept | apply State.setTier_kept | apply State.toHost_kept

theorem execPageReturnStart_kept {r : State} (c : Ctx) (page : Nat) (s : State) (h0 : Kept r s) :
    KeptE r (execPageReturnStart c page s) := by
  dsimp only [execPageReturnStart]
  with_reducible repeat' first
    | assumption | apply keptE_next | intro _ | apply State.setTier_kept | apply State.setReturn_kept | apply State.quotaMet_kept
    | apply State.getFrames_kept | apply State.setEntry_kept | apply State.background_kept | apply State.readSlot_kept | split
    | refine kept_fst (by assumption) ?_ | refine kept_fstEq (by assumption) ?_

theorem State.endReturn_kept {r : State} (s : State) (r0 : Return) (h0 : Kept r s) :
    Kept r (State.endReturn s r0) := by
  dsimp only [State.endReturn]
  with_reducible repeat' first
    | assumption | intro _ | apply foldl_kept | apply foldl_keptP | apply State.setEntry_kept | apply State.setTier_kept | apply State.raise_kept
    | apply State.settlePages_kept | split | apply kept_mk rfl

theorem execPageReturnComplete_kept {r : State} (c : Ctx) (page : Nat) (s : State) (h0 : Kept r s) :
    KeptE r (execPageReturnComplete c page s) := by
  dsimp only [execPageReturnComplete]
  with_reducible repeat' first
    | assumption | apply keptE_next | intro _ | apply State.unitUnread_kept | apply State.endReturn_kept | split

theorem State.returnFailed_kept {r : State} (s : State) (r0 : Return) (h0 : Kept r s) :
    Kept r (State.returnFailed s r0) := by
  dsimp only [State.returnFailed]
  with_reducible repeat' first
    | assumption | intro _ | apply State.readSlot_kept | apply State.setEntry_kept | apply State.setTier_kept | apply State.startL0_kept
    | apply State.raise_kept | split

theorem State.fillReturn_kept {r : State} (s : State) (r0 : Return) (h0 : Kept r s) :
    Kept r (State.fillReturn s r0) := by
  dsimp only [State.fillReturn]
  with_reducible repeat' first
    | assumption | intro _ | apply State.setReturn_kept | split | apply kept_mk rfl

theorem State.fillReturns_kept {r : State} (s : State) (h0 : Kept r s) :
    Kept r (State.fillReturns s) := by
  dsimp only [State.fillReturns]
  with_reducible repeat' first
    | assumption | intro _ | apply foldl_kept | apply foldl_keptP | apply State.fillReturn_kept

theorem execHostReadCompletion_kept {r : State} (id : Nat) (data : Option (List (Nat × Byte))) (s : State) (h0 : Kept r s) :
    KeptE r (execHostReadCompletion id data s) := by
  dsimp only [execHostReadCompletion]
  with_reducible repeat' first
    | assumption | apply keptE_next | intro _ | apply State.setTier_kept | apply State.startL0_kept | apply State.raise_kept
    | apply State.returnFailed_kept | apply State.fillReturn_kept | apply State.setReturn_kept | split

/-! ### Machine/Clock.lean -/

theorem State.stacksGoOn_kept {r : State} (s : State) (h0 : Kept r s) :
    Kept r (State.stacksGoOn s) := by
  dsimp only [State.stacksGoOn]
  with_reducible repeat' first
    | assumption | intro _ | apply State.fillReturns_kept | apply State.pushEvictions_kept | apply State.reportReads_kept
    | apply State.flushRings_kept | apply State.beginTraining_kept

theorem State.tick_kept {r : State} (s : State) (h0 : Kept r s) :
    Kept r (State.tick s) := by
  dsimp only [State.tick]
  with_reducible repeat' first
    | assumption | intro _ | apply State.pumpAll_kept | apply State.stacksGoOn_kept | split | apply kept_mk rfl

/-! ### Machine/HostLink.lean -/

theorem State.setHost_kept {r : State} (s : State) (f : HostSt → HostSt) (h0 : Kept r s) :
    Kept r (State.setHost s f) := by
  dsimp only [State.setHost]
  with_reducible repeat' first
    | assumption | intro _ | apply kept_mk rfl

theorem State.setLink_kept {r : State} (s : State) (f : LinkSt → LinkSt) (h0 : Kept r s) :
    Kept r (State.setLink s f) := by
  dsimp only [State.setLink]
  with_reducible repeat' first
    | assumption | intro _ | apply State.setHost_kept

theorem State.makeRing_kept {r : State} (s : State) (ctx : Nat) (ring : Nat) (entries : Nat) (iova : Nat) (vector : Nat) (count : Nat) (ns : Nat) (h0 : Kept r s) :
    Kept r (State.makeRing s ctx ring entries iova vector count ns) := by
  dsimp only [State.makeRing]
  with_reducible repeat' first
    | assumption | intro _ | apply State.setRing_kept | apply kept_mk rfl

theorem State.makeContext_kept {r : State} (s : State) (ctx : Nat) (seed : W64) (rank : Nat) (window : Nat) (h0 : Kept r s) :
    Kept r (State.makeContext s ctx seed rank window) := by
  dsimp only [State.makeContext]
  with_reducible repeat' first
    | assumption | intro _ | apply State.setTier_kept | apply State.setHost_kept | apply kept_mk rfl

theorem State.resumeRing_kept {r : State} (s : State) (ctx : Nat) (ring : Nat) (head : W32) (seq : Nat) (h0 : Kept r s) :
    Kept r (State.resumeRing s ctx ring head seq) := by
  dsimp only [State.resumeRing]
  with_reducible repeat' first
    | assumption | intro _ | apply State.setRing_kept | apply State.setHost_kept | split

theorem State.badDoorbell_kept {r : State} (s : State) (c : Ctx) (r0 : RingNo) (v : W32) (which : Nat) (h0 : Kept r s) :
    Kept r (State.badDoorbell s c r0 v which) := by
  dsimp only [State.badDoorbell]
  with_reducible repeat' first
    | assumption | intro _ | apply State.raise_kept | apply State.setHost_kept

theorem execDoorbellSqTailWrite_kept {r : State} (c : Ctx) (r0 : RingNo) (v : W32) (s : State) (h0 : Kept r s) :
    KeptE r (execDoorbellSqTailWrite c r0 v s) := by
  dsimp only [execDoorbellSqTailWrite]
  with_reducible repeat' first
    | assumption | apply keptE_next | intro _ | apply State.beginWake_kept | apply State.badDoorbell_kept | apply State.setRing_kept | split

theorem execDoorbellCqHeadWrite_kept {r : State} (c : Ctx) (r0 : RingNo) (v : W32) (s : State) (h0 : Kept r s) :
    KeptE r (execDoorbellCqHeadWrite c r0 v s) := by
  dsimp only [execDoorbellCqHeadWrite]
  with_reducible repeat' first
    | assumption | apply keptE_next | intro _ | apply State.beginWake_kept | apply State.badDoorbell_kept | apply State.setRing_kept | split

theorem State.hostAccess_kept {r : State} (s : State) (ctx : Nat) (va : Nat) (n : Nat) (write : Bool) (h0 : Kept r s) :
    Kept r (State.hostAccess s ctx va n write).1 := by
  dsimp only [State.hostAccess]
  with_reducible repeat' first
    | assumption | intro _ | apply State.missAll_kept | apply State.touchAll_kept | split | refine kept_fst (by assumption) ?_
    | refine kept_fstEq (by assumption) ?_

theorem State.refuseAperture_kept {r : State} (s : State) (a : Nat) (off : Nat) (cause : Nat) (write : Bool) (h0 : Kept r s) :
    Kept r (State.refuseAperture s a off cause write) := by
  dsimp only [State.refuseAperture]
  with_reducible repeat' first
    | assumption | intro _ | apply State.setHost_kept | apply State.raiseLimited_kept | split

theorem execApertureWrite_kept {r : State} (a : Fin 16) (off : W32) (data : List Byte) (s : State) (h0 : Kept r s) :
    KeptE r (execApertureWrite a off data s) := by
  dsimp only [execApertureWrite]
  with_reducible repeat' first
    | assumption | apply keptE_next | intro _ | apply State.refuseAperture_kept | apply State.hostAccess_kept | apply State.settleWc_kept | split
    | refine kept_fst (by assumption) ?_ | refine kept_fstEq (by assumption) ?_ | apply kept_mk rfl

theorem execApertureRead_kept {r : State} (a : Fin 16) (off : W32) (len : Nat) (s : State) (h0 : Kept r s) :
    KeptE r (execApertureRead a off len s) := by
  dsimp only [execApertureRead]
  with_reducible repeat' first
    | assumption | apply keptE_next | intro _ | apply State.answer_kept | apply State.refuseAperture_kept | apply State.hostAccess_kept
    | apply State.uncorrectable_kept | split | refine kept_fst (by assumption) ?_ | refine kept_fstEq (by assumption) ?_ | apply kept_mk rfl

theorem State.windowPart_kept {r : State} (s : State) (off : Nat) (bs : List Byte) (h0 : Kept r s) :
    Kept r (State.windowPart s off bs) := by
  dsimp only [State.windowPart]
  with_reducible repeat' first
    | assumption | intro _ | apply State.settleWc_kept | apply State.setHost_kept | split | apply kept_mk rfl

theorem execCommandWindowWrite_kept {r : State} (off : BitVec 28) (data : List Byte) (s : State) (h0 : Kept r s) :
    KeptE r (execCommandWindowWrite off data s) := by
  dsimp only [execCommandWindowWrite]
  with_reducible repeat' first
    | assumption | apply keptE_next | intro _ | apply foldl_kept | apply foldl_keptP | apply State.refuseAperture_kept
    | apply State.windowPart_kept | split

theorem State.dropPlacement_kept {r : State} (s : State) (requester : Nat) (off : Nat) (entry : Nat) (h0 : Kept r s) :
    Kept r (State.dropPlacement s requester off entry) := by
  dsimp only [State.dropPlacement]
  with_reducible repeat' first
    | assumption | intro _ | apply State.setHost_kept | apply State.raiseLimited_kept

theorem execPlacementWrite_kept {r : State} (requester : BitVec 16) (off : BitVec 36) (data : List Byte) (s : State) (h0 : Kept r s) :
    KeptE r (execPlacementWrite requester off data s) := by
  dsimp only [execPlacementWrite]
  with_reducible repeat' first
    | assumption | apply keptE_next | intro _ | apply State.dropPlacement_kept | apply State.hostAccess_kept | apply State.settleWc_kept
    | apply State.completionSignal_kept | split | refine kept_fst (by assumption) ?_ | refine kept_fstEq (by assumption) ?_ | apply kept_mk rfl

theorem execPlacementRead_kept {r : State} (requester : BitVec 16) (a1 : BitVec 36) (a2 : Nat) (s : State) (h0 : Kept r s) :
    KeptE r (execPlacementRead requester a1 a2 s) := by
  dsimp only [execPlacementRead]
  with_reducible repeat' first
    | assumption | apply keptE_next | intro _ | apply State.answer_kept | split

theorem execHlCtx0EnableWrite_kept {r : State} (v : RegValue) (s : State) (h0 : Kept r s) :
    KeptE r (execHlCtx0EnableWrite v s) := by
  dsimp only [execHlCtx0EnableWrite]
  with_reducible repeat' first
    | assumption | apply keptE_next | intro _ | apply State.write64_kept | apply State.setReg_kept | apply State.makeRing_kept
    | apply State.makeContext_kept | split | refine kept_fst (by assumption) ?_ | refine kept_fstEq (by assumption) ?_

theorem execHlCtx0ResumeWrite_kept {r : State} (v : RegValue) (s : State) (h0 : Kept r s) :
    KeptE r (execHlCtx0ResumeWrite v s) := by
  dsimp only [execHlCtx0ResumeWrite]
  with_reducible repeat' first
    | assumption | apply keptE_next | intro _ | apply State.write64_kept | apply State.resumeRing_kept | split
    | refine kept_fst (by assumption) ?_ | refine kept_fstEq (by assumption) ?_

theorem execNop_kept {r : State} (q : CmdRef) (s : State) (h0 : Kept r s) :
    KeptE r (execNop q s) := by
  dsimp only [execNop]
  with_reducible repeat' first
    | assumption | apply keptE_next | intro _ | apply State.perform_kept | apply State.complete_kept

theorem execApertureBind_kept {r : State} (q : CmdRef) (s : State) (h0 : Kept r s) :
    KeptE r (execApertureBind q s) := by
  dsimp only [execApertureBind]
  with_reducible repeat' first
    | assumption | apply keptE_next | intro _ | apply State.perform_kept | apply State.complete_kept | apply State.setHost_kept | split

theorem execApertureUnbind_kept {r : State} (q : CmdRef) (s : State) (h0 : Kept r s) :
    KeptE r (execApertureUnbind q s) := by
  dsimp only [execApertureUnbind]
  with_reducible repeat' first
    | assumption | apply keptE_next | intro _ | apply State.perform_kept | apply State.complete_kept | apply State.setHost_kept

theorem execPlaceSet_kept {r : State} (q : CmdRef) (s : State) (h0 : Kept r s) :
    KeptE r (execPlaceSet q s) := by
  dsimp only [execPlaceSet]
  with_reducible repeat' first
    | assumption | apply keptE_next | intro _ | apply State.perform_kept | apply State.complete_kept | apply State.setHost_kept | split

theorem execCtxCreate_kept {r : State} (q : CmdRef) (s : State) (h0 : Kept r s) :
    KeptE r (execCtxCreate q s) := by
  dsimp only [execCtxCreate]
  with_reducible repeat' first
    | assumption | apply keptE_next | intro _ | apply State.perform_kept | apply State.complete_kept | apply State.makeContext_kept
    | apply State.raise_kept | split

theorem execCtxDestroy_kept {r : State} (q : CmdRef) (s : State) (h0 : Kept r s) :
    KeptE r (execCtxDestroy q s) := by
  dsimp only [execCtxDestroy]
  with_reducible repeat' first
    | assumption | apply keptE_next | intro _ | apply State.perform_kept | apply State.complete_kept | apply State.startTaken_kept
    | apply State.startL0_kept | apply State.setRst_kept | split

theorem execRingCreate_kept {r : State} (q : CmdRef) (s : State) (h0 : Kept r s) :
    KeptE r (execRingCreate q s) := by
  dsimp only [execRingCreate]
  with_reducible repeat' first
    | assumption | apply keptE_next | intro _ | apply State.perform_kept | apply State.complete_kept | apply State.makeRing_kept | split

theorem execRingDestroy_kept {r : State} (q : CmdRef) (s : State) (h0 : Kept r s) :
    KeptE r (execRingDestroy q s) := by
  dsimp only [execRingDestroy]
  with_reducible repeat' first
    | assumption | apply keptE_next | intro _ | apply State.perform_kept | apply State.complete_kept | apply State.setHost_kept | split

theorem execRingResume_kept {r : State} (q : CmdRef) (s : State) (h0 : Kept r s) :
    KeptE r (execRingResume q s) := by
  dsimp only [execRingResume]
  with_reducible repeat' first
    | assumption | apply keptE_next | intro _ | apply State.perform_kept | apply State.complete_kept | apply State.resumeRing_kept | split

theorem execInterruptCoalesceTimeout_kept {r : State} (c : Ctx) (r0 : RingNo) (s : State) (h0 : Kept r s) :
    KeptE r (execInterruptCoalesceTimeout c r0 s) := by
  dsimp only [execInterruptCoalesceTimeout]
  with_reducible repeat' first
    | assumption | apply keptE_next | intro _ | apply State.signalRing_kept | split

theorem execDlDown_kept {r : State} (lost : Nat) (s : State) (h0 : Kept r s) :
    KeptE r (execDlDown lost s) := by
  dsimp only [execDlDown]
  with_reducible repeat' first
    | assumption | apply keptE_next | intro _ | apply State.setLink_kept | apply State.raise_kept | split | apply kept_mk rfl

theorem State.repeatLost_kept {r : State} (s : State) (o : HostOut) (h0 : Kept r s) :
    Kept r (State.repeatLost s o) := by
  dsimp only [State.repeatLost]
  with_reducible repeat' first
    | assumption | intro _ | apply State.toHost_kept | apply State.free_kept | apply State.startL0_kept | apply State.raise_kept | split
    | refine kept_snd (by assumption) ?_ | apply kept_mk rfl

theorem State.flushOne_kept {r : State} (s : State) (o : HostOut) (h0 : Kept r s) :
    Kept r (State.flushOne s o) := by
  dsimp only [State.flushOne]
  with_reducible repeat' first
    | assumption | intro _ | apply State.toHost_kept | apply State.setTier_kept | split

theorem State.linkUp_kept {r : State} (s : State) (rate : Nat) (width : Nat) (flit : Bool) (h0 : Kept r s) :
    Kept r (State.linkUp s rate width flit) := by
  dsimp only [State.linkUp]
  with_reducible repeat' first
    | assumption | intro _ | apply State.setLink_kept | apply State.raise_kept

theorem State.hostLoss_kept {r : State} (s : State) (cause : Nat) (h0 : Kept r s) :
    Kept r (State.hostLoss s cause) := by
  dsimp only [State.hostLoss]
  with_reducible repeat' first
    | assumption | intro _ | apply foldl_kept | apply foldl_keptP | apply State.setLink_kept | apply State.raise_kept
    | apply State.stackStates_kept | apply State.drainStacks_kept | apply State.destroyContext_kept | apply State.completeReset_kept
    | apply State.clearWork_kept | apply State.setHost_kept | apply State.setRst_kept | apply State.pushBig_kept | apply State.setStack_kept
    | apply kept_mk rfl

theorem execDlUp_kept {r : State} (rate : Nat) (width : Nat) (flit : Bool) (s : State) (h0 : Kept r s) :
    KeptE r (execDlUp rate width flit s) := by
  dsimp only [execDlUp]
  with_reducible repeat' first
    | assumption | apply keptE_next | intro _ | apply foldl_kept | apply foldl_keptP | apply State.linkUp_kept | apply State.hostLoss_kept
    | apply State.setLink_kept | apply State.repeatLost_kept | apply State.flushOne_kept | split

theorem execHoldTimeExpiry_kept {r : State} (s : State) (h0 : Kept r s) :
    KeptE r (execHoldTimeExpiry s) := by
  dsimp only [execHoldTimeExpiry]
  with_reducible repeat' first
    | assumption | apply keptE_next | intro _ | apply State.hostLoss_kept | split

theorem execFunctionLevelReset_kept {r : State} (s : State) (h0 : Kept r s) :
    KeptE r (execFunctionLevelReset s) := by
  dsimp only [execFunctionLevelReset]
  with_reducible repeat' first
    | assumption | apply keptE_next | intro _ | apply State.hostLoss_kept | split

theorem execPerstNAssert_kept {r : State} (s : State) (h0 : Kept r s) :
    KeptE r (execPerstNAssert s) := by
  dsimp only [execPerstNAssert]
  with_reducible repeat' first
    | assumption | apply keptE_next | intro _ | apply State.hostLoss_kept | apply State.setHost_kept | apply State.setLink_kept | split

theorem execPerstNRelease_kept {r : State} (rate : Nat) (width : Nat) (flit : Bool) (s : State) (h0 : Kept r s) :
    KeptE r (execPerstNRelease rate width flit s) := by
  dsimp only [execPerstNRelease]
  with_reducible repeat' first
    | assumption | apply keptE_next | intro _ | apply State.setHost_kept | apply State.linkUp_kept | split

theorem execConfigurationRequest_kept {r : State} (off : BitVec 12) (write : Option W32) (s : State) (h0 : Kept r s) :
    KeptE r (execConfigurationRequest off write s) := by
  dsimp only [execConfigurationRequest]
  with_reducible repeat' first
    | assumption | apply keptE_next | intro _ | apply State.answer_kept | apply State.setHost_kept | split

/-! ### Machine/Identity.lean -/

theorem State.setConn_kept {r : State} (s : State) (t : Transport) (c : SpdmConn) (h0 : Kept r s) :
    Kept r (State.setConn s t c) := by
  dsimp only [State.setConn]
  with_reducible repeat' first
    | assumption | rfl | intro _ | apply State.setBoard_kept

theorem State.spdmAnswer_kept {r : State} (s : State) (t : Transport) (a : SpdmAnswer) (h0 : Kept r s) :
    Kept r (State.spdmAnswer s t a) := by
  dsimp only [State.spdmAnswer]
  with_reducible repeat' first
    | assumption | rfl | intro _ | apply State.setBoard_kept

theorem State.spdm_kept {r : State} (s : State) (t : Transport) (allowed : SpdmConn → Bool) (f : State → State) (h0 : Kept r s) (h1 : ∀ x0, Kept r (x0) → Kept r (f x0)) :
    Kept r (State.spdm s t allowed f) := by
  dsimp only [State.spdm]
  with_reducible repeat' first
    | assumption | intro _ | apply h1 | apply State.spdmAnswer_kept | split

theorem execGetVersion_kept {r : State} (t : Transport) (s : State) (h0 : Kept r s) :
    KeptE r (execGetVersion t s) := by
  dsimp only [execGetVersion]
  with_reducible repeat' first
    | assumption | apply keptE_next | intro _ | apply State.spdm_kept | apply State.spdmAnswer_kept | apply State.setConn_kept

theorem execGetCapabilities_kept {r : State} (t : Transport) (s : State) (h0 : Kept r s) :
    KeptE r (execGetCapabilities t s) := by
  dsimp only [execGetCapabilities]
  with_reducible repeat' first
    | assumption | apply keptE_next | intro _ | apply State.spdm_kept | apply State.spdmAnswer_kept | apply State.setConn_kept

theorem execNegotiateAlgorithms_kept {r : State} (t : Transport) (offersEd25519 : Bool) (offersSha384 : Bool) (s : State) (h0 : Kept r s) :
    KeptE r (execNegotiateAlgorithms t offersEd25519 offersSha384 s) := by
  dsimp only [execNegotiateAlgorithms]
  with_reducible repeat' first
    | assumption | apply keptE_next | intro _ | apply State.spdm_kept | apply State.spdmAnswer_kept | apply State.setConn_kept | split

theorem execGetDigests_kept {r : State} (t : Transport) (s : State) (h0 : Kept r s) :
    KeptE r (execGetDigests t s) := by
  dsimp only [execGetDigests]
  with_reducible repeat' first
    | assumption | apply keptE_next | intro _ | apply State.spdm_kept | apply State.spdmAnswer_kept

theorem execGetCertificate_kept {r : State} (t : Transport) (slot : Nat) (off : Nat) (len : Nat) (s : State) (h0 : Kept r s) :
    KeptE r (execGetCertificate t slot off len s) := by
  dsimp only [execGetCertificate]
  with_reducible repeat' first
    | assumption | apply keptE_next | intro _ | apply State.spdm_kept | apply State.spdmAnswer_kept | split

theorem State.nonce_kept {r : State} (s : State) (h0 : Kept r s) :
    Kept r (State.nonce s).2 := by
  dsimp only [State.nonce]
  with_reducible repeat' first
    | assumption | intro _ | refine kept_snd (by assumption) ?_ | apply kept_mk rfl

theorem execChallenge_kept {r : State} (t : Transport) (slot : Nat) (nonce : List Byte) (s : State) (h0 : Kept r s) :
    KeptE r (execChallenge t slot nonce s) := by
  dsimp only [execChallenge]
  with_reducible repeat' first
    | assumption | apply keptE_next | intro _ | apply State.spdm_kept | apply State.spdmAnswer_kept | apply State.nonce_kept | split
    | refine kept_snd (by assumption) ?_

theorem execGetMeasurements_kept {r : State} (t : Transport) (index : Nat) (nonce : List Byte) (s : State) (h0 : Kept r s) :
    KeptE r (execGetMeasurements t index nonce s) := by
  dsimp only [execGetMeasurements]
  with_reducible repeat' first
    | assumption | apply keptE_next | intro _ | apply State.spdm_kept | apply State.spdmAnswer_kept | apply State.nonce_kept | split
    | refine kept_snd (by assumption) ?_

theorem execTapOperation_kept {r : State} (x : TapStep) (s : State) (h0 : Kept r s) :
    KeptE r (execTapOperation x s) := by
  dsimp only [execTapOperation]
  with_reducible repeat' first
    | assumption | rfl | apply keptE_next | intro _ | apply State.free_kept | apply State.setBoard_kept | split
    | refine kept_snd (by assumption) ?_

/-! ### Machine/Time.lean -/

theorem State.shiftTimers_kept {r : State} (s : State) (d : Int) (h0 : Kept r s) :
    Kept r (State.shiftTimers s d) := by
  dsimp only [State.shiftTimers]
  with_reducible repeat' first
    | assumption | intro _ | apply kept_mk rfl

theorem State.stepTime_kept {r : State} (s : State) (new : Nat) (h0 : Kept r s) :
    Kept r (State.stepTime s new) := by
  dsimp only [State.stepTime]
  with_reducible repeat' first
    | assumption | intro _ | apply State.shiftTimers_kept | apply State.raise_kept | split | apply kept_mk rfl

theorem State.toHoldover_kept {r : State} (s : State) (h0 : Kept r s) :
    Kept r (State.toHoldover s) := by
  dsimp only [State.toHoldover]
  with_reducible repeat' first
    | assumption | intro _ | apply State.raise_kept | split | apply kept_mk rfl

theorem State.countMeasure_kept {r : State} (s : State) (off : Int) (h0 : Kept r s) :
    Kept r (State.countMeasure s off) := by
  dsimp only [State.countMeasure]
  with_reducible repeat' first
    | assumption | intro _ | apply State.raise_kept | apply State.toHoldover_kept | split | apply kept_mk rfl

theorem State.estimateRate_kept {r : State} (s : State) (h0 : Kept r s) :
    Kept r (State.estimateRate s) := by
  dsimp only [State.estimateRate]
  with_reducible repeat' first
    | assumption | intro _ | apply State.free_kept | split | refine kept_snd (by assumption) ?_ | apply kept_mk rfl

theorem State.measure_kept {r : State} (s : State) (off : Int) (h0 : Kept r s) :
    Kept r (State.measure s off) := by
  dsimp only [State.measure]
  with_reducible repeat' first
    | assumption | intro _ | apply State.estimateRate_kept | apply State.stepTime_kept | apply State.countMeasure_kept | apply State.raise_kept
    | apply State.toHoldover_kept | split | apply kept_mk rfl

theorem execMeasurementLossTimeout_kept {r : State} (s : State) (h0 : Kept r s) :
    KeptE r (execMeasurementLossTimeout s) := by
  dsimp only [execMeasurementLossTimeout]
  with_reducible repeat' first
    | assumption | apply keptE_next | intro _ | apply State.toHoldover_kept | split | apply kept_mk rfl

theorem execTimeCtrlWrite_kept {r : State} (v : RegValue) (s : State) (h0 : Kept r s) :
    KeptE r (execTimeCtrlWrite v s) := by
  dsimp only [execTimeCtrlWrite]
  with_reducible repeat' first
    | assumption | apply keptE_next | intro _ | apply State.write64_kept | apply State.setReg_kept | apply State.toHoldover_kept | split
    | refine kept_fst (by assumption) ?_ | refine kept_fstEq (by assumption) ?_ | apply kept_mk rfl

theorem execTimePpsEdge_kept {r : State} (clock10M : Bool) (s : State) (h0 : Kept r s) :
    KeptE r (execTimePpsEdge clock10M s) := by
  dsimp only [execTimePpsEdge]
  with_reducible repeat' first
    | assumption | apply keptE_next | intro _ | apply State.measure_kept | split | apply kept_mk rfl

theorem execTimePpsOutPulse_kept {r : State} (s : State) (h0 : Kept r s) :
    KeptE r (execTimePpsOutPulse s) := by
  dsimp only [execTimePpsOutPulse]
  with_reducible repeat' first
    | assumption | apply keptE_next | intro _ | split | apply kept_mk rfl

theorem execBeaconIntervalTick_kept {r : State} (s : State) (h0 : Kept r s) :
    KeptE r (execBeaconIntervalTick s) := by
  dsimp only [execBeaconIntervalTick]
  with_reducible repeat' first
    | assumption | apply keptE_next | intro _ | apply State.sendOn_kept | split | apply kept_mk rfl

theorem State.deliverBeacon_kept {r : State} (s : State) (p : Nat) (arg : Nat) (f : State → List Byte → State) (h0 : Kept r s) (h1 : ∀ x0 x1, Kept r (x0) → Kept r (f x0 x1)) :
    Kept r (State.deliverBeacon s p arg f) := by
  dsimp only [State.deliverBeacon]
  with_reducible repeat' first
    | assumption | intro _ | apply h1 | apply State.deliver_kept | split

theorem execBeaconRequestReceived_kept {r : State} (p : Port) (s : State) (h0 : Kept r s) :
    KeptE r (execBeaconRequestReceived p s) := by
  dsimp only [execBeaconRequestReceived]
  with_reducible repeat' first
    | assumption | apply keptE_next | intro _ | apply State.deliverBeacon_kept | apply State.sendOn_kept | split

theorem execBeaconReplyReceived_kept {r : State} (p : Port) (s : State) (h0 : Kept r s) :
    KeptE r (execBeaconReplyReceived p s) := by
  dsimp only [execBeaconReplyReceived]
  with_reducible repeat' first
    | assumption | apply keptE_next | intro _ | apply State.deliverBeacon_kept | apply State.measure_kept | split | apply kept_mk rfl

theorem State.ptpSend_kept {r : State} (s : State) (p : Nat) (x : PtpBody) (h0 : Kept r s) :
    Kept r (State.ptpSend s p x) := by
  dsimp only [State.ptpSend]
  with_reducible repeat' first
    | assumption | intro _ | apply State.pump_kept | apply State.enqueue_kept | apply kept_mk rfl

theorem State.setPtp_kept {r : State} (s : State) (f : PtpState → PtpState) (h0 : Kept r s) :
    Kept r (State.setPtp s f) := by
  dsimp only [State.setPtp]
  with_reducible repeat' first
    | assumption | intro _ | apply kept_mk rfl

theorem State.ptpSynced_kept {r : State} (s : State) (p : Nat) (t1 : Int) (t2 : Int) (h0 : Kept r s) :
    Kept r (State.ptpSynced s p t1 t2) := by
  dsimp only [State.ptpSynced]
  with_reducible repeat' first
    | assumption | intro _ | apply State.ptpSend_kept | apply State.setPtp_kept

theorem execPtpMessageReceived_kept {r : State} (p : Port) (x : PtpMessage) (s : State) (h0 : Kept r s) :
    KeptE r (execPtpMessageReceived p x s) := by
  dsimp only [execPtpMessageReceived]
  with_reducible repeat' first
    | assumption | apply keptE_next | intro _ | apply State.setPtp_kept | apply State.ptpSynced_kept | apply State.measure_kept
    | apply State.ptpSend_kept | split

theorem execPtpSyncInterval_kept {r : State} (s : State) (h0 : Kept r s) :
    KeptE r (execPtpSyncInterval s) := by
  dsimp only [execPtpSyncInterval]
  with_reducible repeat' first
    | assumption | apply keptE_next | intro _ | apply foldl_kept | apply foldl_keptP | apply State.ptpSend_kept | apply State.setPtp_kept | split

theorem execSlotPlanPeriodBoundary_kept {r : State} (p : Port) (s : State) (h0 : Kept r s) :
    KeptE r (execSlotPlanPeriodBoundary p s) := by
  dsimp only [execSlotPlanPeriodBoundary]
  with_reducible repeat' first
    | assumption | apply keptE_next | intro _ | apply State.pump_kept | apply State.raise_kept | split | apply kept_mk rfl

theorem execTimeSet_kept {r : State} (q : CmdRef) (s : State) (h0 : Kept r s) :
    KeptE r (execTimeSet q s) := by
  dsimp only [execTimeSet]
  with_reducible repeat' first
    | assumption | apply keptE_next | intro _ | apply State.perform_kept | apply State.stepTime_kept | apply State.complete_kept | split
    | apply kept_mk rfl

theorem execTimeMark_kept {r : State} (q : CmdRef) (s : State) (h0 : Kept r s) :
    KeptE r (execTimeMark q s) := by
  dsimp only [execTimeMark]
  with_reducible repeat' first
    | assumption | apply keptE_next | intro _ | apply State.perform_kept | apply State.raise_kept | apply State.complete_kept

/-! ### Machine/Pegs.lean -/

theorem execPegQuotaSet_kept {r : State} (q : CmdRef) (s : State) (h0 : Kept r s) :
    KeptE r (execPegQuotaSet q s) := by
  dsimp only [execPegQuotaSet]
  with_reducible repeat' first
    | assumption | apply keptE_next | intro _ | apply State.perform_kept | apply State.complete_kept | apply kept_mk rfl

theorem execPegAlloc_kept {r : State} (q : CmdRef) (s : State) (h0 : Kept r s) :
    KeptE r (execPegAlloc q s) := by
  dsimp only [execPegAlloc]
  with_reducible repeat' first
    | assumption | apply keptE_next | intro _ | apply foldl_kept | apply foldl_keptP | apply State.perform_kept | apply State.complete_kept
    | apply State.free_kept | split | refine kept_snd (by assumption) ?_ | apply kept_mk rfl

theorem State.breakWait_kept {r : State} (s : State) (w : Wait) (status : Nat) (fault : Nat) (h0 : Kept r s) :
    Kept r (State.breakWait s w status fault) := by
  dsimp only [State.breakWait]
  with_reducible repeat' first
    | assumption | intro _ | apply State.complete_kept | apply State.lateFault_kept | apply State.stallOff_kept | apply State.endLaunch_kept
    | apply State.launchPegs_kept | apply State.collPegs_kept | apply State.refuseColl_kept | split

theorem execPegFree_kept {r : State} (q : CmdRef) (s : State) (h0 : Kept r s) :
    KeptE r (execPegFree q s) := by
  dsimp only [execPegFree]
  with_reducible repeat' first
    | assumption | apply keptE_next | intro _ | apply foldl_kept | apply foldl_keptP | apply State.perform_kept | apply State.complete_kept
    | apply State.breakWait_kept | split | apply kept_mk rfl

theorem pegCommand_kept {r : State} (op : Nat) (set : Bool) (q : CmdRef) (s : State) (h0 : Kept r s) :
    Kept r (pegCommand op set q s) := by
  dsimp only [pegCommand]
  with_reducible repeat' first
    | assumption | intro _ | apply State.perform_kept | apply State.complete_kept | apply State.pegTake_kept | apply State.pegAdd_kept
    | apply State.sendBlock_kept | split | refine kept_fst (by assumption) ?_ | refine kept_fstEq (by assumption) ?_

theorem execPegSignal_kept {r : State} (q : CmdRef) (s : State) (h0 : Kept r s) :
    KeptE r (execPegSignal q s) := by
  dsimp only [execPegSignal]
  with_reducible repeat' first
    | assumption | apply keptE_next | intro _ | apply pegCommand_kept

theorem execPegSet_kept {r : State} (q : CmdRef) (s : State) (h0 : Kept r s) :
    KeptE r (execPegSet q s) := by
  dsimp only [execPegSet]
  with_reducible repeat' first
    | assumption | apply keptE_next | intro _ | apply pegCommand_kept

theorem pegWaitCommand_kept {r : State} (op : Nat) (eq : Bool) (q : CmdRef) (s : State) (h0 : Kept r s) :
    Kept r (pegWaitCommand op eq q s) := by
  dsimp only [pegWaitCommand]
  with_reducible repeat' first
    | assumption | intro _ | apply State.perform_kept | apply State.complete_kept | apply State.startWait_kept | apply State.stallOn_kept
    | apply State.startTaken_kept | split | refine kept_fst (by assumption) ?_ | refine kept_fstEq (by assumption) ?_

theorem execPegWaitGe_kept {r : State} (q : CmdRef) (s : State) (h0 : Kept r s) :
    KeptE r (execPegWaitGe q s) := by
  dsimp only [execPegWaitGe]
  with_reducible repeat' first
    | assumption | apply keptE_next | intro _ | apply pegWaitCommand_kept

theorem execPegWaitEq_kept {r : State} (q : CmdRef) (s : State) (h0 : Kept r s) :
    KeptE r (execPegWaitEq q s) := by
  dsimp only [execPegWaitEq]
  with_reducible repeat' first
    | assumption | apply keptE_next | intro _ | apply pegWaitCommand_kept

theorem execPegWaitTimeout_kept {r : State} (s : State) (h0 : Kept r s) :
    KeptE r (execPegWaitTimeout s) := by
  dsimp only [execPegWaitTimeout]
  with_reducible repeat' first
    | assumption | apply keptE_next | intro _ | apply foldl_kept | apply foldl_keptP | apply State.breakWait_kept | apply State.raise_kept
    | split | apply kept_mk rfl

theorem execPegBlockReceived_kept {r : State} (p : Port) (s : State) (h0 : Kept r s) :
    KeptE r (execPegBlockReceived p s) := by
  dsimp only [execPegBlockReceived]
  with_reducible repeat' first
    | assumption | apply keptE_next | intro _ | apply State.deliver_kept | apply State.pegTake_kept | apply State.pegAdd_kept
    | apply State.raise_kept | split | apply kept_mk rfl

theorem execCatRingBind_kept {r : State} (q : CmdRef) (s : State) (h0 : Kept r s) :
    KeptE r (execCatRingBind q s) := by
  dsimp only [execCatRingBind]
  with_reducible repeat' first
    | assumption | apply keptE_next | intro _ | apply State.perform_kept | apply State.complete_kept | apply State.cmdOutcome_kept
    | apply State.parts_kept | apply State.writeVa_kept | split | refine kept_fst (by assumption) ?_ | refine kept_fstEq (by assumption) ?_
    | apply kept_mk rfl

theorem execCatExportBind_kept {r : State} (q : CmdRef) (s : State) (h0 : Kept r s) :
    KeptE r (execCatExportBind q s) := by
  dsimp only [execCatExportBind]
  with_reducible repeat' first
    | assumption | apply keptE_next | intro _ | apply foldl_kept | apply foldl_keptP | apply State.perform_kept | apply State.complete_kept
    | apply State.toHost_kept | apply State.exportOne_kept | apply State.exportLost_kept | split | apply kept_mk rfl

/-! ### Machine/Take.lean -/

theorem State.takePacket_kept {r : State} (s : State) (c : Ctx) (r0 : RingNo) (x : Ring) (h0 : Kept r s) :
    Kept r (State.takePacket s c r0 x) := by
  dsimp only [State.takePacket]
  with_reducible repeat' first
    | assumption | intro _ | apply State.uncorrectable_kept | apply State.setRing_kept | apply State.setHost_kept | apply State.cpProgress_kept
    | apply State.endLaunch_kept | apply State.completeBare_kept | split | apply kept_mk rfl

theorem State.headerRead_kept {r : State} (s : State) (c : Ctx) (r0 : RingNo) (x : Ring) (f : State → State) (h0 : Kept r s) (h1 : ∀ x0, Kept r (x0) → Kept r (f x0)) :
    Kept r (State.headerRead s c r0 x f) := by
  dsimp only [State.headerRead]
  with_reducible repeat' first
    | assumption | intro _ | apply h1 | apply State.uncorrectable_kept | split | apply kept_mk rfl

theorem State.ringWait_kept {r : State} (s : State) (c : Ctx) (r0 : RingNo) (h0 : Kept r s) :
    Kept r (State.ringWait s c r0) := by
  dsimp only [State.ringWait]
  with_reducible repeat' first
    | assumption | intro _ | apply State.stallOn_kept

theorem execPacketTake_kept {r : State} (c : Ctx) (r0 : RingNo) (s : State) (h0 : Kept r s) :
    KeptE r (execPacketTake c r0 s) := by
  dsimp only [execPacketTake]
  with_reducible repeat' first
    | assumption | apply keptE_next | intro _ | apply State.ringWait_kept | apply State.headerRead_kept | apply State.stallOff_kept
    | apply State.setRing_kept | apply State.takePacket_kept | split

theorem execPacketHeaderRepoll_kept {r : State} (c : Ctx) (r0 : RingNo) (s : State) (h0 : Kept r s) :
    KeptE r (execPacketHeaderRepoll c r0 s) := by
  dsimp only [execPacketHeaderRepoll]
  with_reducible repeat' first
    | assumption | apply keptE_next | intro _ | apply State.headerRead_kept | apply State.setRing_kept | split

theorem execTornPacketTimeout_kept {r : State} (c : Ctx) (r0 : RingNo) (s : State) (h0 : Kept r s) :
    KeptE r (execTornPacketTimeout c r0 s) := by
  dsimp only [execTornPacketTimeout]
  with_reducible repeat' first
    | assumption | apply keptE_next | intro _ | apply State.headerRead_kept | apply State.setRing_kept | apply State.raise_kept
    | apply State.writeRecord_kept | split

end Sys2Proof.Machine
end

