-- ==== Sys2Proof/Laws/Memory.lean ====
section
/-! SUPPORT. Laws of the sparse memories: a read after a write, and the canonical form that every operation keeps. -/

namespace Sys2Proof.Machine

/-! ### The canonical form -/

theorem wfFrom_mono {m : Mem} {a b : Nat} (h : b ≤ a) (w : Mem.wfFrom a m = true) : Mem.wfFrom b m = true := by
  cases m with
  | nil => rfl
  | cons c r =>
    obtain ⟨k, v⟩ := c
    simp only [Mem.wfFrom, Bool.and_eq_true, decide_eq_true_eq] at *
    exact ⟨⟨by omega, w.1.2⟩, w.2⟩

theorem memDel_wfFrom {m : Mem} {lo : Nat} (a : Nat) (w : Mem.wfFrom lo m = true) : Mem.wfFrom lo (memDel m a) = true := by
  induction m generalizing lo with
  | nil => rfl
  | cons c r ih =>
    obtain ⟨k, v⟩ := c
    simp only [Mem.wfFrom, Bool.and_eq_true, decide_eq_true_eq] at w
    simp only [memDel]
    split
    · exact wfFrom_mono (by omega) w.2
    · simp only [Mem.wfFrom, Bool.and_eq_true, decide_eq_true_eq]
      exact ⟨w.1, ih w.2⟩

theorem memIns_wfFrom {m : Mem} {lo a : Nat} {v : Byte} (h : lo ≤ a) (hv : v ≠ 0) (w : Mem.wfFrom lo m = true) :
    Mem.wfFrom lo (memIns m a v) = true := by
  induction m generalizing lo with
  | nil => simpa [memIns, Mem.wfFrom, h] using hv
  | cons c r ih =>
    obtain ⟨k, b⟩ := c
    simp only [Mem.wfFrom, Bool.and_eq_true, decide_eq_true_eq] at w
    simp only [memIns]
    split
    · simp only [Mem.wfFrom, Bool.and_eq_true, decide_eq_true_eq]
      exact ⟨⟨h, by simpa using hv⟩, ⟨by omega, w.1.2⟩, w.2⟩
    · split
      · rename_i e
        simp only [Mem.wfFrom, Bool.and_eq_true, decide_eq_true_eq]
        exact ⟨⟨h, by simpa using hv⟩, e ▸ w.2⟩
      · simp only [Mem.wfFrom, Bool.and_eq_true, decide_eq_true_eq]
        exact ⟨w.1, ih (by omega) w.2⟩

theorem memSet_wf {m : Mem} (a : Nat) (v : Byte) (w : m.wf = true) : (memSet m a v).wf = true := by
  simp only [Mem.wf, memSet] at *
  split
  · exact memDel_wfFrom a w
  · exact memIns_wfFrom (Nat.zero_le _) ‹_› w

theorem memWrite_wf (bs : List Byte) {m : Mem} (a : Nat) (w : m.wf = true) : (memWrite m a bs).wf = true := by
  induction bs generalizing m a with
  | nil => exact w
  | cons b r ih => exact ih (a + 1) (memSet_wf a b w)

theorem memPaste_wf (cs : List (Nat × Byte)) {m : Mem} (base : Nat) (w : m.wf = true) : (memPaste m base cs).wf = true := by
  induction cs generalizing m with
  | nil => exact w
  | cons c r ih => exact ih (memSet_wf _ _ w)

theorem filter_wfFrom (p : Host.Cell → Bool) {m : Mem} {lo : Nat} (w : Mem.wfFrom lo m = true) :
    Mem.wfFrom lo (m.filter p) = true := by
  induction m generalizing lo with
  | nil => rfl
  | cons c r ih =>
    obtain ⟨k, v⟩ := c
    simp only [Mem.wfFrom, Bool.and_eq_true, decide_eq_true_eq] at w
    by_cases h : p (k, v) = true
    · simp only [List.filter_cons, h, if_true, Mem.wfFrom, Bool.and_eq_true, decide_eq_true_eq]
      exact ⟨w.1, ih w.2⟩
    · simp only [List.filter_cons, h]
      exact wfFrom_mono (by omega) (ih w.2)

theorem memClear_wf {m : Mem} (lo hi : Nat) (w : m.wf = true) : (memClear m lo hi).wf = true := filter_wfFrom _ w

theorem nil_wf : Mem.wf [] = true := rfl

theorem poke_wf {h : HbmSt} (a : Nat) (bs : List Byte) (w : h.mem.wf = true) : (h.poke a bs).mem.wf = true :=
  memWrite_wf bs a w

theorem zero_wf {h : HbmSt} (lo hi : Nat) (w : h.mem.wf = true) : (h.zero lo hi).mem.wf = true := memClear_wf lo hi w

theorem makeUndef_wf {h : HbmSt} (lo hi tag : Nat) (w : h.mem.wf = true) : (h.makeUndef lo hi tag).mem.wf = true :=
  memClear_wf lo hi w

/-! ### A read after a write -/

theorem memByte_memDel_ne {m : Mem} {a b : Nat} (h : b ≠ a) : memByte (memDel m a) b = memByte m b := by
  induction m with
  | nil => rfl
  | cons c r ih =>
    obtain ⟨k, v⟩ := c
    simp only [memDel]
    split
    · rename_i e
      have : k ≠ b := fun x => h (x ▸ e)
      simp [memByte, this]
    · simp [memByte, ih]

theorem memByte_below {m : Mem} {lo a : Nat} (w : Mem.wfFrom lo m = true) (h : a < lo) : memByte m a = 0 := by
  induction m generalizing lo with
  | nil => rfl
  | cons c r ih =>
    obtain ⟨k, v⟩ := c
    simp only [Mem.wfFrom, Bool.and_eq_true, decide_eq_true_eq] at w
    have : k ≠ a := by omega
    simp only [memByte, this, if_false]
    exact ih w.2 (by omega)

theorem memByte_memDel_self {m : Mem} {lo a : Nat} (w : Mem.wfFrom lo m = true) : memByte (memDel m a) a = 0 := by
  induction m generalizing lo with
  | nil => rfl
  | cons c r ih =>
    obtain ⟨k, v⟩ := c
    simp only [Mem.wfFrom, Bool.and_eq_true, decide_eq_true_eq] at w
    simp only [memDel]
    split
    · exact memByte_below w.2 (by omega)
    · rename_i e
      simp only [memByte, e, if_false]
      exact ih w.2

theorem memByte_memIns_ne {m : Mem} {a b : Nat} (v : Byte) (h : b ≠ a) : memByte (memIns m a v) b = memByte m b := by
  induction m with
  | nil => simp [memIns, memByte, Ne.symm h]
  | cons c r ih =>
    obtain ⟨k, x⟩ := c
    simp only [memIns]
    split
    · simp [memByte, Ne.symm h]
    · split
      · rename_i e
        have : k ≠ b := fun y => h (y ▸ e)
        simp [memByte, Ne.symm h, this]
      · simp [memByte, ih]

theorem memByte_memIns_self {m : Mem} {a : Nat} (v : Byte) : memByte (memIns m a v) a = v := by
  induction m with
  | nil => simp [memIns, memByte]
  | cons c r ih =>
    obtain ⟨k, x⟩ := c
    simp only [memIns]
    split
    · simp [memByte]
    · split
      · simp [memByte]
      · simp [memByte, *]

theorem memByte_memSet_self {m : Mem} (a : Nat) (v : Byte) (w : m.wf = true) : memByte (memSet m a v) a = v := by
  simp only [memSet]
  split
  · rename_i e
    rw [e]
    exact memByte_memDel_self w
  · exact memByte_memIns_self v

theorem memByte_memSet_ne {m : Mem} {a b : Nat} (v : Byte) (h : b ≠ a) : memByte (memSet m a v) b = memByte m b := by
  simp only [memSet]
  split
  · exact memByte_memDel_ne h
  · exact memByte_memIns_ne v h

/-- A write leaves every byte outside it. -/
theorem memByte_memWrite_out (bs : List Byte) {m : Mem} {a b : Nat} (h : b < a ∨ a + bs.length ≤ b) :
    memByte (memWrite m a bs) b = memByte m b := by
  induction bs generalizing m a with
  | nil => rfl
  | cons x r ih =>
    simp only [List.length_cons] at h
    rw [memWrite, ih (by omega), memByte_memSet_ne x (by omega)]

/-- A read of what was written. -/
theorem memByte_memWrite_in (bs : List Byte) {m : Mem} {a i : Nat} (h : i < bs.length) (w : m.wf = true) :
    memByte (memWrite m a bs) (a + i) = bs[i] := by
  induction bs generalizing m a i with
  | nil => simp at h
  | cons x r ih =>
    simp only [memWrite]
    cases i with
    | zero =>
      rw [memByte_memWrite_out r (by omega)]
      simpa using memByte_memSet_self a x w
    | succ j =>
      have := ih (m := memSet m a x) (a := a + 1) (i := j) (by simpa using h) (memSet_wf a x w)
      simpa [Nat.add_assoc, Nat.add_comm 1 j] using this

end Sys2Proof.Machine
end

