-- ==== Sys2Proof/Laws/Program.lean ====
section
/-! SUPPORT. What the shared operations of core programs do: issuing a row, completing an instruction. -/

namespace Sys2Proof.Machine

/-! ### Cores and clusters in the state -/

@[simp] theorem cluster_setCluster_self (s : State) (c : Nat) (x : Cluster) : (s.setCluster c x).cluster c = x := by
  simp [State.cluster, State.setCluster]

theorem cluster_setCluster_ne (s : State) {c d : Nat} (x : Cluster) (h : d ≠ c) :
    (s.setCluster c x).cluster d = s.cluster d := by
  simp [State.cluster, State.setCluster, mgetD_mset_ne _ _ _ h]

@[simp] theorem core_setCore_self (s : State) (k : CoreRef) (x : CoreSt) : (s.setCore k x).core k = x := by
  simp [State.core, State.setCore]

theorem core_setCore_ne (s : State) {k j : CoreRef} (x : CoreSt) (h : j ≠ k) : (s.setCore k x).core j = s.core j := by
  simp only [State.core, State.setCore]
  by_cases e : j.cluster.val = k.cluster.val
  · have n : j.core.val ≠ k.core.val := by
      intro y
      apply h
      cases j; cases k; simp only [CoreRef.mk.injEq]
      exact ⟨Fin.ext e, Fin.ext y⟩
    simp [e, mgetD_mset_ne _ _ _ n]
  · rw [cluster_setCluster_ne s _ e]

/-! ### Issuing a row -/

theorem opDefined_of (cls op : Nat) (h : opDefined cls op = true) {w : Nat} (a : wClass w = cls) (b : wOp w = op) :
    opDefined (wClass w) (wOp w) = true := by rw [a, b, h]

/-- A row whose core issues its instruction is run by its meaning. -/
theorem issueRow_of {s : State} {k : CoreRef} {cls op : Nat} {used : Nat → List (Nat × Nat)} {i : Issue}
    (f : State → Issue → State) (d : opDefined cls op = true) (h : Issues s k cls op used i) :
    s.issueRow k cls op used f = f s i := by
  have n : ¬ i.cl.image.length ≤ i.core.pc := by have := h.inImage; omega
  simp [State.issueRow, h.issue, n, h.isClass, h.isOp, d, h.clear, h.reads]

theorem issue_core {s : State} {k : CoreRef} {i : Issue} (h : s.issue? k = some i) :
    i.k = k ∧ i.core = s.core k ∧ i.cl = s.cluster k.cluster.val := by
  simp only [State.issue?] at h
  split at h
  · cases h; exact ⟨rfl, rfl, rfl⟩
  · cases h

theorem regs_of {i : Issue} {s : State} {rs : List Nat} (f : State → State) (h : i.free rs) : i.regs s rs f = f s := by
  have : rs.any i.core.xBusy = false := by
    simp only [List.any_eq_false]
    intro r m
    simp [h r m]
  simp [Issue.regs, this]

theorem sramRead_clean {s : State} (c p m lo n x : Nat) (h : s.eng.flips = []) : s.sramRead c p m lo n x = (s, true) := by
  simp [State.sramRead, h]

theorem reading_of {i : Issue} {s : State} {off n : Nat} (f : State → State) (h : i.clean s off n) :
    i.reading s off n f = f s := by
  simp [Issue.reading, h.1, sramRead_clean _ _ _ _ _ _ h.2]

theorem writing_of {i : Issue} {s : State} {off n : Nat} (f : State → State) (h : i.core.canWrite off n = true) :
    i.writing s off n f = f s := by
  simp [Issue.writing, h]

/-! ### Completing an instruction -/

theorem stallOff_eq (s : State) (u : StallUnit) :
    s.stallOff u = { s with tier := { s.tier with
      episodes := (s.stallOff u).tier.episodes, stalls := (s.stallOff u).tier.stalls } } := by
  simp only [State.stallOff]
  split <;> rfl

@[simp] theorem stallOff_eng (s : State) (u : StallUnit) : (s.stallOff u).eng = s.eng := by
  rw [stallOff_eq]

@[simp] theorem progress_eng (s : State) (unit ctx n : Nat) : (s.progress unit ctx n).eng = s.eng := rfl

/-- An instruction counted marks nothing but the counters and the contexts' last progress. -/
theorem counted_only (i : Issue) (s : State) : i.counted s = { s with rst := { s.rst with
    progress := (i.counted s).rst.progress, counters := (i.counted s).rst.counters } } := by
  simp only [Issue.counted]
  split <;> rfl

@[simp] theorem counted_eng (i : Issue) (s : State) : (i.counted s).eng = s.eng := by
  rw [counted_only]

/-- A core set, its stall ended and its progress marked: nothing else changes. -/
theorem jumped_only {i : Issue} {s : State} (c : CoreSt) :
    (i.jumped s c).core i.k = c ∧ OnlyCore s i.k (i.jumped s c) := by
  have e : (i.jumped s c).eng = (s.setCore i.k c).eng := by simp [Issue.jumped]
  have cl : ∀ d, (i.jumped s c).cluster d = (s.setCore i.k c).cluster d := by
    intro d; simp only [State.cluster, e]
  refine ⟨?_, ?_, ?_, ?_, ?_⟩
  · simp only [State.core, cl]
    exact core_setCore_self s i.k c
  · simp only [Issue.jumped]
    rw [counted_only, stallOff_eq]
    simp only [State.setCore, State.setCluster]
  · intro d hd
    rw [cl]
    exact cluster_setCluster_ne s _ hd
  · rw [cl]
    simp [State.setCore]
  · intro n hn
    rw [cl]
    simp [State.setCore, mget_mset_ne _ _ hn]

theorem done_only {i : Issue} {s : State} (c : CoreSt) :
    (i.done s c).core i.k = c.advance ∧ OnlyCore s i.k (i.done s c) := jumped_only c.advance

theorem leaves_done {row : Instr} {s : State} {k : CoreRef} {i : Issue} {c : CoreSt} (h : s.issue? k = some i)
    (e : exec row s = .next (i.done s c)) : Leaves row s k c.advance := by
  have hk := (issue_core h).1
  subst hk
  exact ⟨_, e, done_only c⟩

theorem leaves_jumped {row : Instr} {s : State} {k : CoreRef} {i : Issue} {c : CoreSt} (h : s.issue? k = some i)
    (e : exec row s = .next (i.jumped s c)) : Leaves row s k c := by
  have hk := (issue_core h).1
  subst hk
  exact ⟨_, e, jumped_only c⟩

end Sys2Proof.Machine
end

