-- ==== Sys2Proof/Laws/State.lean ====
section
/-! SUPPORT. What each named update of the state writes and what it leaves. One lemma for the field that an update writes, one for
all the others: simp takes the conjunction apart, so that no proof unfolds an update. -/

namespace Sys2Proof.Machine

@[simp] theorem State.setReg_regs (s : State) (off : Nat) (v : W64) : (s.setReg off v).regs = mset s.regs off v := rfl
@[simp] theorem State.setReg_rest (s : State) (off : Nat) (v : W64) :
    (s.setReg off v).pending = s.pending ∧ (s.setReg off v).freeCtr = s.freeCtr ∧ (s.setReg off v).held = s.held ∧
    (s.setReg off v).rwpCount = s.rwpCount ∧ (s.setReg off v).rwpLast = s.rwpLast ∧ (s.setReg off v).time = s.time ∧
    (s.setReg off v).plans = s.plans ∧ (s.setReg off v).pegs = s.pegs ∧ (s.setReg off v).cat = s.cat ∧ (s.setReg off v).host = s.host ∧
    (s.setReg off v).hbm = s.hbm ∧ (s.setReg off v).tier = s.tier ∧ (s.setReg off v).eng = s.eng ∧ (s.setReg off v).stat = s.stat ∧
    (s.setReg off v).pack = s.pack ∧ (s.setReg off v).rst = s.rst ∧ (s.setReg off v).cons = s.cons ∧ (s.setReg off v).coll = s.coll ∧
    (s.setReg off v).guy = s.guy ∧ (s.setReg off v).board = s.board ∧ (s.setReg off v).cur = s.cur ∧
    (s.setReg off v).hostOut = s.hostOut ∧ (s.setReg off v).answers = s.answers :=
  ⟨rfl, rfl, rfl, rfl, rfl, rfl, rfl, rfl, rfl, rfl, rfl, rfl, rfl, rfl, rfl, rfl, rfl, rfl, rfl, rfl, rfl, rfl, rfl⟩

@[simp] theorem State.answer_answers (s : State) (a : HostAnswer) : (s.answer a).answers = s.answers ++ [a] := rfl
@[simp] theorem State.answer_rest (s : State) (a : HostAnswer) :
    (s.answer a).pending = s.pending ∧ (s.answer a).freeCtr = s.freeCtr ∧ (s.answer a).regs = s.regs ∧ (s.answer a).held = s.held ∧
    (s.answer a).rwpCount = s.rwpCount ∧ (s.answer a).rwpLast = s.rwpLast ∧ (s.answer a).time = s.time ∧ (s.answer a).plans = s.plans ∧
    (s.answer a).pegs = s.pegs ∧ (s.answer a).cat = s.cat ∧ (s.answer a).host = s.host ∧ (s.answer a).hbm = s.hbm ∧
    (s.answer a).tier = s.tier ∧ (s.answer a).eng = s.eng ∧ (s.answer a).stat = s.stat ∧ (s.answer a).pack = s.pack ∧
    (s.answer a).rst = s.rst ∧ (s.answer a).cons = s.cons ∧ (s.answer a).coll = s.coll ∧ (s.answer a).guy = s.guy ∧
    (s.answer a).board = s.board ∧ (s.answer a).cur = s.cur ∧ (s.answer a).hostOut = s.hostOut :=
  ⟨rfl, rfl, rfl, rfl, rfl, rfl, rfl, rfl, rfl, rfl, rfl, rfl, rfl, rfl, rfl, rfl, rfl, rfl, rfl, rfl, rfl, rfl, rfl⟩

@[simp] theorem State.progress_rst (s : State) (unit ctx n : Nat) : (s.progress unit ctx n).rst = { s.rst with
      counters := mupd s.rst.counters unit 0 (fun c => wrapAdd 32 c n)
      progress := mset s.rst.progress ctx s.local_ } := rfl
@[simp] theorem State.progress_rest (s : State) (unit ctx n : Nat) :
    (s.progress unit ctx n).pending = s.pending ∧ (s.progress unit ctx n).freeCtr = s.freeCtr ∧ (s.progress unit ctx n).regs = s.regs ∧
    (s.progress unit ctx n).held = s.held ∧ (s.progress unit ctx n).rwpCount = s.rwpCount ∧ (s.progress unit ctx n).rwpLast = s.rwpLast ∧
    (s.progress unit ctx n).time = s.time ∧ (s.progress unit ctx n).plans = s.plans ∧ (s.progress unit ctx n).pegs = s.pegs ∧
    (s.progress unit ctx n).cat = s.cat ∧ (s.progress unit ctx n).host = s.host ∧ (s.progress unit ctx n).hbm = s.hbm ∧
    (s.progress unit ctx n).tier = s.tier ∧ (s.progress unit ctx n).eng = s.eng ∧ (s.progress unit ctx n).stat = s.stat ∧
    (s.progress unit ctx n).pack = s.pack ∧ (s.progress unit ctx n).cons = s.cons ∧ (s.progress unit ctx n).coll = s.coll ∧
    (s.progress unit ctx n).guy = s.guy ∧ (s.progress unit ctx n).board = s.board ∧ (s.progress unit ctx n).cur = s.cur ∧
    (s.progress unit ctx n).hostOut = s.hostOut ∧ (s.progress unit ctx n).answers = s.answers :=
  ⟨rfl, rfl, rfl, rfl, rfl, rfl, rfl, rfl, rfl, rfl, rfl, rfl, rfl, rfl, rfl, rfl, rfl, rfl, rfl, rfl, rfl, rfl, rfl⟩

@[simp] theorem State.setHost_host (s : State) (f : HostSt → HostSt) : (s.setHost f).host = f s.host := rfl
@[simp] theorem State.setHost_rest (s : State) (f : HostSt → HostSt) :
    (s.setHost f).pending = s.pending ∧ (s.setHost f).freeCtr = s.freeCtr ∧ (s.setHost f).regs = s.regs ∧ (s.setHost f).held = s.held ∧
    (s.setHost f).rwpCount = s.rwpCount ∧ (s.setHost f).rwpLast = s.rwpLast ∧ (s.setHost f).time = s.time ∧
    (s.setHost f).plans = s.plans ∧ (s.setHost f).pegs = s.pegs ∧ (s.setHost f).cat = s.cat ∧ (s.setHost f).hbm = s.hbm ∧
    (s.setHost f).tier = s.tier ∧ (s.setHost f).eng = s.eng ∧ (s.setHost f).stat = s.stat ∧ (s.setHost f).pack = s.pack ∧
    (s.setHost f).rst = s.rst ∧ (s.setHost f).cons = s.cons ∧ (s.setHost f).coll = s.coll ∧ (s.setHost f).guy = s.guy ∧
    (s.setHost f).board = s.board ∧ (s.setHost f).cur = s.cur ∧ (s.setHost f).hostOut = s.hostOut ∧ (s.setHost f).answers = s.answers :=
  ⟨rfl, rfl, rfl, rfl, rfl, rfl, rfl, rfl, rfl, rfl, rfl, rfl, rfl, rfl, rfl, rfl, rfl, rfl, rfl, rfl, rfl, rfl, rfl⟩

@[simp] theorem State.setLink_host (s : State) (f : LinkSt → LinkSt) : (s.setLink f).host = { s.host with link := f s.host.link } := rfl
@[simp] theorem State.setLink_rest (s : State) (f : LinkSt → LinkSt) :
    (s.setLink f).pending = s.pending ∧ (s.setLink f).freeCtr = s.freeCtr ∧ (s.setLink f).regs = s.regs ∧ (s.setLink f).held = s.held ∧
    (s.setLink f).rwpCount = s.rwpCount ∧ (s.setLink f).rwpLast = s.rwpLast ∧ (s.setLink f).time = s.time ∧
    (s.setLink f).plans = s.plans ∧ (s.setLink f).pegs = s.pegs ∧ (s.setLink f).cat = s.cat ∧ (s.setLink f).hbm = s.hbm ∧
    (s.setLink f).tier = s.tier ∧ (s.setLink f).eng = s.eng ∧ (s.setLink f).stat = s.stat ∧ (s.setLink f).pack = s.pack ∧
    (s.setLink f).rst = s.rst ∧ (s.setLink f).cons = s.cons ∧ (s.setLink f).coll = s.coll ∧ (s.setLink f).guy = s.guy ∧
    (s.setLink f).board = s.board ∧ (s.setLink f).cur = s.cur ∧ (s.setLink f).hostOut = s.hostOut ∧ (s.setLink f).answers = s.answers :=
  ⟨rfl, rfl, rfl, rfl, rfl, rfl, rfl, rfl, rfl, rfl, rfl, rfl, rfl, rfl, rfl, rfl, rfl, rfl, rfl, rfl, rfl, rfl, rfl⟩

@[simp] theorem State.setRing_host (s : State) (ctx ring : Nat) (r : Ring) : (s.setRing ctx ring r).host = { s.host with rings := mset s.host.rings (ringKey ctx ring) r } := rfl
@[simp] theorem State.setRing_rest (s : State) (ctx ring : Nat) (r : Ring) :
    (s.setRing ctx ring r).pending = s.pending ∧ (s.setRing ctx ring r).freeCtr = s.freeCtr ∧ (s.setRing ctx ring r).regs = s.regs ∧
    (s.setRing ctx ring r).held = s.held ∧ (s.setRing ctx ring r).rwpCount = s.rwpCount ∧ (s.setRing ctx ring r).rwpLast = s.rwpLast ∧
    (s.setRing ctx ring r).time = s.time ∧ (s.setRing ctx ring r).plans = s.plans ∧ (s.setRing ctx ring r).pegs = s.pegs ∧
    (s.setRing ctx ring r).cat = s.cat ∧ (s.setRing ctx ring r).hbm = s.hbm ∧ (s.setRing ctx ring r).tier = s.tier ∧
    (s.setRing ctx ring r).eng = s.eng ∧ (s.setRing ctx ring r).stat = s.stat ∧ (s.setRing ctx ring r).pack = s.pack ∧
    (s.setRing ctx ring r).rst = s.rst ∧ (s.setRing ctx ring r).cons = s.cons ∧ (s.setRing ctx ring r).coll = s.coll ∧
    (s.setRing ctx ring r).guy = s.guy ∧ (s.setRing ctx ring r).board = s.board ∧ (s.setRing ctx ring r).cur = s.cur ∧
    (s.setRing ctx ring r).hostOut = s.hostOut ∧ (s.setRing ctx ring r).answers = s.answers :=
  ⟨rfl, rfl, rfl, rfl, rfl, rfl, rfl, rfl, rfl, rfl, rfl, rfl, rfl, rfl, rfl, rfl, rfl, rfl, rfl, rfl, rfl, rfl, rfl⟩

@[simp] theorem State.dropTaken_host (s : State) (q : CmdRef) : (s.dropTaken q).host = { s.host with taken := s.host.taken.filter (fun t => t.q != q) } := rfl
@[simp] theorem State.dropTaken_rest (s : State) (q : CmdRef) :
    (s.dropTaken q).pending = s.pending ∧ (s.dropTaken q).freeCtr = s.freeCtr ∧ (s.dropTaken q).regs = s.regs ∧
    (s.dropTaken q).held = s.held ∧ (s.dropTaken q).rwpCount = s.rwpCount ∧ (s.dropTaken q).rwpLast = s.rwpLast ∧
    (s.dropTaken q).time = s.time ∧ (s.dropTaken q).plans = s.plans ∧ (s.dropTaken q).pegs = s.pegs ∧ (s.dropTaken q).cat = s.cat ∧
    (s.dropTaken q).hbm = s.hbm ∧ (s.dropTaken q).tier = s.tier ∧ (s.dropTaken q).eng = s.eng ∧ (s.dropTaken q).stat = s.stat ∧
    (s.dropTaken q).pack = s.pack ∧ (s.dropTaken q).rst = s.rst ∧ (s.dropTaken q).cons = s.cons ∧ (s.dropTaken q).coll = s.coll ∧
    (s.dropTaken q).guy = s.guy ∧ (s.dropTaken q).board = s.board ∧ (s.dropTaken q).cur = s.cur ∧ (s.dropTaken q).hostOut = s.hostOut ∧
    (s.dropTaken q).answers = s.answers :=
  ⟨rfl, rfl, rfl, rfl, rfl, rfl, rfl, rfl, rfl, rfl, rfl, rfl, rfl, rfl, rfl, rfl, rfl, rfl, rfl, rfl, rfl, rfl, rfl⟩

@[simp] theorem State.startTaken_host (s : State) (q : CmdRef) : (s.startTaken q).host = { s.host with
      taken := replaceFirst (fun t => t.q == q) (fun t => { t with started := true }) s.host.taken } := rfl
@[simp] theorem State.startTaken_rest (s : State) (q : CmdRef) :
    (s.startTaken q).pending = s.pending ∧ (s.startTaken q).freeCtr = s.freeCtr ∧ (s.startTaken q).regs = s.regs ∧
    (s.startTaken q).held = s.held ∧ (s.startTaken q).rwpCount = s.rwpCount ∧ (s.startTaken q).rwpLast = s.rwpLast ∧
    (s.startTaken q).time = s.time ∧ (s.startTaken q).plans = s.plans ∧ (s.startTaken q).pegs = s.pegs ∧ (s.startTaken q).cat = s.cat ∧
    (s.startTaken q).hbm = s.hbm ∧ (s.startTaken q).tier = s.tier ∧ (s.startTaken q).eng = s.eng ∧ (s.startTaken q).stat = s.stat ∧
    (s.startTaken q).pack = s.pack ∧ (s.startTaken q).rst = s.rst ∧ (s.startTaken q).cons = s.cons ∧ (s.startTaken q).coll = s.coll ∧
    (s.startTaken q).guy = s.guy ∧ (s.startTaken q).board = s.board ∧ (s.startTaken q).cur = s.cur ∧
    (s.startTaken q).hostOut = s.hostOut ∧ (s.startTaken q).answers = s.answers :=
  ⟨rfl, rfl, rfl, rfl, rfl, rfl, rfl, rfl, rfl, rfl, rfl, rfl, rfl, rfl, rfl, rfl, rfl, rfl, rfl, rfl, rfl, rfl, rfl⟩

@[simp] theorem State.begin_host (s : State) (q : CmdRef) : (s.begin q).host = { s.host with
      taken := replaceFirst (fun t => t.q == q) (fun t => { t with begun := true }) s.host.taken } := rfl
@[simp] theorem State.begin_rest (s : State) (q : CmdRef) :
    (s.begin q).pending = s.pending ∧ (s.begin q).freeCtr = s.freeCtr ∧ (s.begin q).regs = s.regs ∧ (s.begin q).held = s.held ∧
    (s.begin q).rwpCount = s.rwpCount ∧ (s.begin q).rwpLast = s.rwpLast ∧ (s.begin q).time = s.time ∧ (s.begin q).plans = s.plans ∧
    (s.begin q).pegs = s.pegs ∧ (s.begin q).cat = s.cat ∧ (s.begin q).hbm = s.hbm ∧ (s.begin q).tier = s.tier ∧ (s.begin q).eng = s.eng ∧
    (s.begin q).stat = s.stat ∧ (s.begin q).pack = s.pack ∧ (s.begin q).rst = s.rst ∧ (s.begin q).cons = s.cons ∧
    (s.begin q).coll = s.coll ∧ (s.begin q).guy = s.guy ∧ (s.begin q).board = s.board ∧ (s.begin q).cur = s.cur ∧
    (s.begin q).hostOut = s.hostOut ∧ (s.begin q).answers = s.answers :=
  ⟨rfl, rfl, rfl, rfl, rfl, rfl, rfl, rfl, rfl, rfl, rfl, rfl, rfl, rfl, rfl, rfl, rfl, rfl, rfl, rfl, rfl, rfl, rfl⟩

@[simp] theorem State.setTier_tier (s : State) (f : TierSt → TierSt) : (s.setTier f).tier = f s.tier := rfl
@[simp] theorem State.setTier_rest (s : State) (f : TierSt → TierSt) :
    (s.setTier f).pending = s.pending ∧ (s.setTier f).freeCtr = s.freeCtr ∧ (s.setTier f).regs = s.regs ∧ (s.setTier f).held = s.held ∧
    (s.setTier f).rwpCount = s.rwpCount ∧ (s.setTier f).rwpLast = s.rwpLast ∧ (s.setTier f).time = s.time ∧
    (s.setTier f).plans = s.plans ∧ (s.setTier f).pegs = s.pegs ∧ (s.setTier f).cat = s.cat ∧ (s.setTier f).host = s.host ∧
    (s.setTier f).hbm = s.hbm ∧ (s.setTier f).eng = s.eng ∧ (s.setTier f).stat = s.stat ∧ (s.setTier f).pack = s.pack ∧
    (s.setTier f).rst = s.rst ∧ (s.setTier f).cons = s.cons ∧ (s.setTier f).coll = s.coll ∧ (s.setTier f).guy = s.guy ∧
    (s.setTier f).board = s.board ∧ (s.setTier f).cur = s.cur ∧ (s.setTier f).hostOut = s.hostOut ∧ (s.setTier f).answers = s.answers :=
  ⟨rfl, rfl, rfl, rfl, rfl, rfl, rfl, rfl, rfl, rfl, rfl, rfl, rfl, rfl, rfl, rfl, rfl, rfl, rfl, rfl, rfl, rfl, rfl⟩

@[simp] theorem State.setCopy_tier (s : State) (x : Copy) : (s.setCopy x).tier = { s.tier with copies := replaceFirst (fun c => c.q == x.q) (fun _ => x) s.tier.copies } := rfl
@[simp] theorem State.setCopy_rest (s : State) (x : Copy) :
    (s.setCopy x).pending = s.pending ∧ (s.setCopy x).freeCtr = s.freeCtr ∧ (s.setCopy x).regs = s.regs ∧ (s.setCopy x).held = s.held ∧
    (s.setCopy x).rwpCount = s.rwpCount ∧ (s.setCopy x).rwpLast = s.rwpLast ∧ (s.setCopy x).time = s.time ∧
    (s.setCopy x).plans = s.plans ∧ (s.setCopy x).pegs = s.pegs ∧ (s.setCopy x).cat = s.cat ∧ (s.setCopy x).host = s.host ∧
    (s.setCopy x).hbm = s.hbm ∧ (s.setCopy x).eng = s.eng ∧ (s.setCopy x).stat = s.stat ∧ (s.setCopy x).pack = s.pack ∧
    (s.setCopy x).rst = s.rst ∧ (s.setCopy x).cons = s.cons ∧ (s.setCopy x).coll = s.coll ∧ (s.setCopy x).guy = s.guy ∧
    (s.setCopy x).board = s.board ∧ (s.setCopy x).cur = s.cur ∧ (s.setCopy x).hostOut = s.hostOut ∧ (s.setCopy x).answers = s.answers :=
  ⟨rfl, rfl, rfl, rfl, rfl, rfl, rfl, rfl, rfl, rfl, rfl, rfl, rfl, rfl, rfl, rfl, rfl, rfl, rfl, rfl, rfl, rfl, rfl⟩

@[simp] theorem State.setStack_hbm (s : State) (n : Nat) (k : Stack) : (s.setStack n k).hbm = { s.hbm with stackList := mset s.hbm.stackList n k } := rfl
@[simp] theorem State.setStack_rest (s : State) (n : Nat) (k : Stack) :
    (s.setStack n k).pending = s.pending ∧ (s.setStack n k).freeCtr = s.freeCtr ∧ (s.setStack n k).regs = s.regs ∧
    (s.setStack n k).held = s.held ∧ (s.setStack n k).rwpCount = s.rwpCount ∧ (s.setStack n k).rwpLast = s.rwpLast ∧
    (s.setStack n k).time = s.time ∧ (s.setStack n k).plans = s.plans ∧ (s.setStack n k).pegs = s.pegs ∧ (s.setStack n k).cat = s.cat ∧
    (s.setStack n k).host = s.host ∧ (s.setStack n k).tier = s.tier ∧ (s.setStack n k).eng = s.eng ∧ (s.setStack n k).stat = s.stat ∧
    (s.setStack n k).pack = s.pack ∧ (s.setStack n k).rst = s.rst ∧ (s.setStack n k).cons = s.cons ∧ (s.setStack n k).coll = s.coll ∧
    (s.setStack n k).guy = s.guy ∧ (s.setStack n k).board = s.board ∧ (s.setStack n k).cur = s.cur ∧
    (s.setStack n k).hostOut = s.hostOut ∧ (s.setStack n k).answers = s.answers :=
  ⟨rfl, rfl, rfl, rfl, rfl, rfl, rfl, rfl, rfl, rfl, rfl, rfl, rfl, rfl, rfl, rfl, rfl, rfl, rfl, rfl, rfl, rfl, rfl⟩

@[simp] theorem State.setCluster_eng (s : State) (c : Nat) (x : Cluster) : (s.setCluster c x).eng = { s.eng with clusters := mset s.eng.clusters c x } := rfl
@[simp] theorem State.setCluster_rest (s : State) (c : Nat) (x : Cluster) :
    (s.setCluster c x).pending = s.pending ∧ (s.setCluster c x).freeCtr = s.freeCtr ∧ (s.setCluster c x).regs = s.regs ∧
    (s.setCluster c x).held = s.held ∧ (s.setCluster c x).rwpCount = s.rwpCount ∧ (s.setCluster c x).rwpLast = s.rwpLast ∧
    (s.setCluster c x).time = s.time ∧ (s.setCluster c x).plans = s.plans ∧ (s.setCluster c x).pegs = s.pegs ∧
    (s.setCluster c x).cat = s.cat ∧ (s.setCluster c x).host = s.host ∧ (s.setCluster c x).hbm = s.hbm ∧
    (s.setCluster c x).tier = s.tier ∧ (s.setCluster c x).stat = s.stat ∧ (s.setCluster c x).pack = s.pack ∧
    (s.setCluster c x).rst = s.rst ∧ (s.setCluster c x).cons = s.cons ∧ (s.setCluster c x).coll = s.coll ∧
    (s.setCluster c x).guy = s.guy ∧ (s.setCluster c x).board = s.board ∧ (s.setCluster c x).cur = s.cur ∧
    (s.setCluster c x).hostOut = s.hostOut ∧ (s.setCluster c x).answers = s.answers :=
  ⟨rfl, rfl, rfl, rfl, rfl, rfl, rfl, rfl, rfl, rfl, rfl, rfl, rfl, rfl, rfl, rfl, rfl, rfl, rfl, rfl, rfl, rfl, rfl⟩

@[simp] theorem State.setLaunch_eng (s : State) (q : CmdRef) (f : Launch → Launch) : (s.setLaunch q f).eng = { s.eng with launches := replaceFirst (fun l => l.q == q) f s.eng.launches } := rfl
@[simp] theorem State.setLaunch_rest (s : State) (q : CmdRef) (f : Launch → Launch) :
    (s.setLaunch q f).pending = s.pending ∧ (s.setLaunch q f).freeCtr = s.freeCtr ∧ (s.setLaunch q f).regs = s.regs ∧
    (s.setLaunch q f).held = s.held ∧ (s.setLaunch q f).rwpCount = s.rwpCount ∧ (s.setLaunch q f).rwpLast = s.rwpLast ∧
    (s.setLaunch q f).time = s.time ∧ (s.setLaunch q f).plans = s.plans ∧ (s.setLaunch q f).pegs = s.pegs ∧
    (s.setLaunch q f).cat = s.cat ∧ (s.setLaunch q f).host = s.host ∧ (s.setLaunch q f).hbm = s.hbm ∧ (s.setLaunch q f).tier = s.tier ∧
    (s.setLaunch q f).stat = s.stat ∧ (s.setLaunch q f).pack = s.pack ∧ (s.setLaunch q f).rst = s.rst ∧ (s.setLaunch q f).cons = s.cons ∧
    (s.setLaunch q f).coll = s.coll ∧ (s.setLaunch q f).guy = s.guy ∧ (s.setLaunch q f).board = s.board ∧ (s.setLaunch q f).cur = s.cur ∧
    (s.setLaunch q f).hostOut = s.hostOut ∧ (s.setLaunch q f).answers = s.answers :=
  ⟨rfl, rfl, rfl, rfl, rfl, rfl, rfl, rfl, rfl, rfl, rfl, rfl, rfl, rfl, rfl, rfl, rfl, rfl, rfl, rfl, rfl, rfl, rfl⟩

@[simp] theorem State.setRst_rst (s : State) (f : RstSt → RstSt) : (s.setRst f).rst = f s.rst := rfl
@[simp] theorem State.setRst_rest (s : State) (f : RstSt → RstSt) :
    (s.setRst f).pending = s.pending ∧ (s.setRst f).freeCtr = s.freeCtr ∧ (s.setRst f).regs = s.regs ∧ (s.setRst f).held = s.held ∧
    (s.setRst f).rwpCount = s.rwpCount ∧ (s.setRst f).rwpLast = s.rwpLast ∧ (s.setRst f).time = s.time ∧ (s.setRst f).plans = s.plans ∧
    (s.setRst f).pegs = s.pegs ∧ (s.setRst f).cat = s.cat ∧ (s.setRst f).host = s.host ∧ (s.setRst f).hbm = s.hbm ∧
    (s.setRst f).tier = s.tier ∧ (s.setRst f).eng = s.eng ∧ (s.setRst f).stat = s.stat ∧ (s.setRst f).pack = s.pack ∧
    (s.setRst f).cons = s.cons ∧ (s.setRst f).coll = s.coll ∧ (s.setRst f).guy = s.guy ∧ (s.setRst f).board = s.board ∧
    (s.setRst f).cur = s.cur ∧ (s.setRst f).hostOut = s.hostOut ∧ (s.setRst f).answers = s.answers :=
  ⟨rfl, rfl, rfl, rfl, rfl, rfl, rfl, rfl, rfl, rfl, rfl, rfl, rfl, rfl, rfl, rfl, rfl, rfl, rfl, rfl, rfl, rfl, rfl⟩

@[simp] theorem State.setTest_rst (s : State) (f : TestSt → TestSt) : (s.setTest f).rst = { s.rst with test := f s.rst.test } := rfl
@[simp] theorem State.setTest_rest (s : State) (f : TestSt → TestSt) :
    (s.setTest f).pending = s.pending ∧ (s.setTest f).freeCtr = s.freeCtr ∧ (s.setTest f).regs = s.regs ∧ (s.setTest f).held = s.held ∧
    (s.setTest f).rwpCount = s.rwpCount ∧ (s.setTest f).rwpLast = s.rwpLast ∧ (s.setTest f).time = s.time ∧
    (s.setTest f).plans = s.plans ∧ (s.setTest f).pegs = s.pegs ∧ (s.setTest f).cat = s.cat ∧ (s.setTest f).host = s.host ∧
    (s.setTest f).hbm = s.hbm ∧ (s.setTest f).tier = s.tier ∧ (s.setTest f).eng = s.eng ∧ (s.setTest f).stat = s.stat ∧
    (s.setTest f).pack = s.pack ∧ (s.setTest f).cons = s.cons ∧ (s.setTest f).coll = s.coll ∧ (s.setTest f).guy = s.guy ∧
    (s.setTest f).board = s.board ∧ (s.setTest f).cur = s.cur ∧ (s.setTest f).hostOut = s.hostOut ∧ (s.setTest f).answers = s.answers :=
  ⟨rfl, rfl, rfl, rfl, rfl, rfl, rfl, rfl, rfl, rfl, rfl, rfl, rfl, rfl, rfl, rfl, rfl, rfl, rfl, rfl, rfl, rfl, rfl⟩

@[simp] theorem State.setRepair_rst (s : State) (f : RepairSt → RepairSt) : (s.setRepair f).rst = { s.rst with repair := f s.rst.repair } := rfl
@[simp] theorem State.setRepair_rest (s : State) (f : RepairSt → RepairSt) :
    (s.setRepair f).pending = s.pending ∧ (s.setRepair f).freeCtr = s.freeCtr ∧ (s.setRepair f).regs = s.regs ∧
    (s.setRepair f).held = s.held ∧ (s.setRepair f).rwpCount = s.rwpCount ∧ (s.setRepair f).rwpLast = s.rwpLast ∧
    (s.setRepair f).time = s.time ∧ (s.setRepair f).plans = s.plans ∧ (s.setRepair f).pegs = s.pegs ∧ (s.setRepair f).cat = s.cat ∧
    (s.setRepair f).host = s.host ∧ (s.setRepair f).hbm = s.hbm ∧ (s.setRepair f).tier = s.tier ∧ (s.setRepair f).eng = s.eng ∧
    (s.setRepair f).stat = s.stat ∧ (s.setRepair f).pack = s.pack ∧ (s.setRepair f).cons = s.cons ∧ (s.setRepair f).coll = s.coll ∧
    (s.setRepair f).guy = s.guy ∧ (s.setRepair f).board = s.board ∧ (s.setRepair f).cur = s.cur ∧ (s.setRepair f).hostOut = s.hostOut ∧
    (s.setRepair f).answers = s.answers :=
  ⟨rfl, rfl, rfl, rfl, rfl, rfl, rfl, rfl, rfl, rfl, rfl, rfl, rfl, rfl, rfl, rfl, rfl, rfl, rfl, rfl, rfl, rfl, rfl⟩

@[simp] theorem State.setRotate_rst (s : State) (f : RotateSt → RotateSt) : (s.setRotate f).rst = { s.rst with rotate := f s.rst.rotate } := rfl
@[simp] theorem State.setRotate_rest (s : State) (f : RotateSt → RotateSt) :
    (s.setRotate f).pending = s.pending ∧ (s.setRotate f).freeCtr = s.freeCtr ∧ (s.setRotate f).regs = s.regs ∧
    (s.setRotate f).held = s.held ∧ (s.setRotate f).rwpCount = s.rwpCount ∧ (s.setRotate f).rwpLast = s.rwpLast ∧
    (s.setRotate f).time = s.time ∧ (s.setRotate f).plans = s.plans ∧ (s.setRotate f).pegs = s.pegs ∧ (s.setRotate f).cat = s.cat ∧
    (s.setRotate f).host = s.host ∧ (s.setRotate f).hbm = s.hbm ∧ (s.setRotate f).tier = s.tier ∧ (s.setRotate f).eng = s.eng ∧
    (s.setRotate f).stat = s.stat ∧ (s.setRotate f).pack = s.pack ∧ (s.setRotate f).cons = s.cons ∧ (s.setRotate f).coll = s.coll ∧
    (s.setRotate f).guy = s.guy ∧ (s.setRotate f).board = s.board ∧ (s.setRotate f).cur = s.cur ∧ (s.setRotate f).hostOut = s.hostOut ∧
    (s.setRotate f).answers = s.answers :=
  ⟨rfl, rfl, rfl, rfl, rfl, rfl, rfl, rfl, rfl, rfl, rfl, rfl, rfl, rfl, rfl, rfl, rfl, rfl, rfl, rfl, rfl, rfl, rfl⟩

@[simp] theorem State.setConsCmd_cons (s : State) (x : ConsCmd) : (s.setConsCmd x).cons = { s.cons with cmds := replaceFirst (fun c => c.q == x.q) (fun _ => x) s.cons.cmds } := rfl
@[simp] theorem State.setConsCmd_rest (s : State) (x : ConsCmd) :
    (s.setConsCmd x).pending = s.pending ∧ (s.setConsCmd x).freeCtr = s.freeCtr ∧ (s.setConsCmd x).regs = s.regs ∧
    (s.setConsCmd x).held = s.held ∧ (s.setConsCmd x).rwpCount = s.rwpCount ∧ (s.setConsCmd x).rwpLast = s.rwpLast ∧
    (s.setConsCmd x).time = s.time ∧ (s.setConsCmd x).plans = s.plans ∧ (s.setConsCmd x).pegs = s.pegs ∧ (s.setConsCmd x).cat = s.cat ∧
    (s.setConsCmd x).host = s.host ∧ (s.setConsCmd x).hbm = s.hbm ∧ (s.setConsCmd x).tier = s.tier ∧ (s.setConsCmd x).eng = s.eng ∧
    (s.setConsCmd x).stat = s.stat ∧ (s.setConsCmd x).pack = s.pack ∧ (s.setConsCmd x).rst = s.rst ∧ (s.setConsCmd x).coll = s.coll ∧
    (s.setConsCmd x).guy = s.guy ∧ (s.setConsCmd x).board = s.board ∧ (s.setConsCmd x).cur = s.cur ∧
    (s.setConsCmd x).hostOut = s.hostOut ∧ (s.setConsCmd x).answers = s.answers :=
  ⟨rfl, rfl, rfl, rfl, rfl, rfl, rfl, rfl, rfl, rfl, rfl, rfl, rfl, rfl, rfl, rfl, rfl, rfl, rfl, rfl, rfl, rfl, rfl⟩

@[simp] theorem State.setColl_coll (s : State) (c : Coll) : (s.setColl c).coll = { s.coll with running := replaceFirst (fun x => x.q == c.q) (fun _ => c) s.coll.running } := rfl
@[simp] theorem State.setColl_rest (s : State) (c : Coll) :
    (s.setColl c).pending = s.pending ∧ (s.setColl c).freeCtr = s.freeCtr ∧ (s.setColl c).regs = s.regs ∧ (s.setColl c).held = s.held ∧
    (s.setColl c).rwpCount = s.rwpCount ∧ (s.setColl c).rwpLast = s.rwpLast ∧ (s.setColl c).time = s.time ∧
    (s.setColl c).plans = s.plans ∧ (s.setColl c).pegs = s.pegs ∧ (s.setColl c).cat = s.cat ∧ (s.setColl c).host = s.host ∧
    (s.setColl c).hbm = s.hbm ∧ (s.setColl c).tier = s.tier ∧ (s.setColl c).eng = s.eng ∧ (s.setColl c).stat = s.stat ∧
    (s.setColl c).pack = s.pack ∧ (s.setColl c).rst = s.rst ∧ (s.setColl c).cons = s.cons ∧ (s.setColl c).guy = s.guy ∧
    (s.setColl c).board = s.board ∧ (s.setColl c).cur = s.cur ∧ (s.setColl c).hostOut = s.hostOut ∧ (s.setColl c).answers = s.answers :=
  ⟨rfl, rfl, rfl, rfl, rfl, rfl, rfl, rfl, rfl, rfl, rfl, rfl, rfl, rfl, rfl, rfl, rfl, rfl, rfl, rfl, rfl, rfl, rfl⟩

@[simp] theorem State.dropQueued_coll (s : State) (q : CmdRef) : (s.dropQueued q).coll = { s.coll with queued := s.coll.queued.filter (fun c => c.q != q) } := rfl
@[simp] theorem State.dropQueued_rest (s : State) (q : CmdRef) :
    (s.dropQueued q).pending = s.pending ∧ (s.dropQueued q).freeCtr = s.freeCtr ∧ (s.dropQueued q).regs = s.regs ∧
    (s.dropQueued q).held = s.held ∧ (s.dropQueued q).rwpCount = s.rwpCount ∧ (s.dropQueued q).rwpLast = s.rwpLast ∧
    (s.dropQueued q).time = s.time ∧ (s.dropQueued q).plans = s.plans ∧ (s.dropQueued q).pegs = s.pegs ∧ (s.dropQueued q).cat = s.cat ∧
    (s.dropQueued q).host = s.host ∧ (s.dropQueued q).hbm = s.hbm ∧ (s.dropQueued q).tier = s.tier ∧ (s.dropQueued q).eng = s.eng ∧
    (s.dropQueued q).stat = s.stat ∧ (s.dropQueued q).pack = s.pack ∧ (s.dropQueued q).rst = s.rst ∧ (s.dropQueued q).cons = s.cons ∧
    (s.dropQueued q).guy = s.guy ∧ (s.dropQueued q).board = s.board ∧ (s.dropQueued q).cur = s.cur ∧
    (s.dropQueued q).hostOut = s.hostOut ∧ (s.dropQueued q).answers = s.answers :=
  ⟨rfl, rfl, rfl, rfl, rfl, rfl, rfl, rfl, rfl, rfl, rfl, rfl, rfl, rfl, rfl, rfl, rfl, rfl, rfl, rfl, rfl, rfl, rfl⟩

@[simp] theorem State.setPort_guy (s : State) (p : Nat) (x : PortSt) : (s.setPort p x).guy = { s.guy with ports := mset s.guy.ports p x } := rfl
@[simp] theorem State.setPort_rest (s : State) (p : Nat) (x : PortSt) :
    (s.setPort p x).pending = s.pending ∧ (s.setPort p x).freeCtr = s.freeCtr ∧ (s.setPort p x).regs = s.regs ∧
    (s.setPort p x).held = s.held ∧ (s.setPort p x).rwpCount = s.rwpCount ∧ (s.setPort p x).rwpLast = s.rwpLast ∧
    (s.setPort p x).time = s.time ∧ (s.setPort p x).plans = s.plans ∧ (s.setPort p x).pegs = s.pegs ∧ (s.setPort p x).cat = s.cat ∧
    (s.setPort p x).host = s.host ∧ (s.setPort p x).hbm = s.hbm ∧ (s.setPort p x).tier = s.tier ∧ (s.setPort p x).eng = s.eng ∧
    (s.setPort p x).stat = s.stat ∧ (s.setPort p x).pack = s.pack ∧ (s.setPort p x).rst = s.rst ∧ (s.setPort p x).cons = s.cons ∧
    (s.setPort p x).coll = s.coll ∧ (s.setPort p x).board = s.board ∧ (s.setPort p x).cur = s.cur ∧ (s.setPort p x).hostOut = s.hostOut ∧
    (s.setPort p x).answers = s.answers :=
  ⟨rfl, rfl, rfl, rfl, rfl, rfl, rfl, rfl, rfl, rfl, rfl, rfl, rfl, rfl, rfl, rfl, rfl, rfl, rfl, rfl, rfl, rfl, rfl⟩

@[simp] theorem State.setBoard_board (s : State) (f : BoardSt → BoardSt) : (s.setBoard f).board = f s.board := rfl
@[simp] theorem State.setBoard_rest (s : State) (f : BoardSt → BoardSt) :
    (s.setBoard f).pending = s.pending ∧ (s.setBoard f).freeCtr = s.freeCtr ∧ (s.setBoard f).regs = s.regs ∧
    (s.setBoard f).held = s.held ∧ (s.setBoard f).rwpCount = s.rwpCount ∧ (s.setBoard f).rwpLast = s.rwpLast ∧
    (s.setBoard f).time = s.time ∧ (s.setBoard f).plans = s.plans ∧ (s.setBoard f).pegs = s.pegs ∧ (s.setBoard f).cat = s.cat ∧
    (s.setBoard f).host = s.host ∧ (s.setBoard f).hbm = s.hbm ∧ (s.setBoard f).tier = s.tier ∧ (s.setBoard f).eng = s.eng ∧
    (s.setBoard f).stat = s.stat ∧ (s.setBoard f).pack = s.pack ∧ (s.setBoard f).rst = s.rst ∧ (s.setBoard f).cons = s.cons ∧
    (s.setBoard f).coll = s.coll ∧ (s.setBoard f).guy = s.guy ∧ (s.setBoard f).cur = s.cur ∧ (s.setBoard f).hostOut = s.hostOut ∧
    (s.setBoard f).answers = s.answers :=
  ⟨rfl, rfl, rfl, rfl, rfl, rfl, rfl, rfl, rfl, rfl, rfl, rfl, rfl, rfl, rfl, rfl, rfl, rfl, rfl, rfl, rfl, rfl, rfl⟩

@[simp] theorem State.setSensor_cur (s : State) (i : Nat) (x : Sensor) : (s.setSensor i x).cur = { s.cur with sensors := mset s.cur.sensors i x } := rfl
@[simp] theorem State.setSensor_rest (s : State) (i : Nat) (x : Sensor) :
    (s.setSensor i x).pending = s.pending ∧ (s.setSensor i x).freeCtr = s.freeCtr ∧ (s.setSensor i x).regs = s.regs ∧
    (s.setSensor i x).held = s.held ∧ (s.setSensor i x).rwpCount = s.rwpCount ∧ (s.setSensor i x).rwpLast = s.rwpLast ∧
    (s.setSensor i x).time = s.time ∧ (s.setSensor i x).plans = s.plans ∧ (s.setSensor i x).pegs = s.pegs ∧
    (s.setSensor i x).cat = s.cat ∧ (s.setSensor i x).host = s.host ∧ (s.setSensor i x).hbm = s.hbm ∧ (s.setSensor i x).tier = s.tier ∧
    (s.setSensor i x).eng = s.eng ∧ (s.setSensor i x).stat = s.stat ∧ (s.setSensor i x).pack = s.pack ∧ (s.setSensor i x).rst = s.rst ∧
    (s.setSensor i x).cons = s.cons ∧ (s.setSensor i x).coll = s.coll ∧ (s.setSensor i x).guy = s.guy ∧
    (s.setSensor i x).board = s.board ∧ (s.setSensor i x).hostOut = s.hostOut ∧ (s.setSensor i x).answers = s.answers :=
  ⟨rfl, rfl, rfl, rfl, rfl, rfl, rfl, rfl, rfl, rfl, rfl, rfl, rfl, rfl, rfl, rfl, rfl, rfl, rfl, rfl, rfl, rfl, rfl⟩

@[simp] theorem State.setPtp_time (s : State) (f : PtpState → PtpState) : (s.setPtp f).time = { s.time with ptp := f s.time.ptp } := rfl
@[simp] theorem State.setPtp_rest (s : State) (f : PtpState → PtpState) :
    (s.setPtp f).pending = s.pending ∧ (s.setPtp f).freeCtr = s.freeCtr ∧ (s.setPtp f).regs = s.regs ∧ (s.setPtp f).held = s.held ∧
    (s.setPtp f).rwpCount = s.rwpCount ∧ (s.setPtp f).rwpLast = s.rwpLast ∧ (s.setPtp f).plans = s.plans ∧ (s.setPtp f).pegs = s.pegs ∧
    (s.setPtp f).cat = s.cat ∧ (s.setPtp f).host = s.host ∧ (s.setPtp f).hbm = s.hbm ∧ (s.setPtp f).tier = s.tier ∧
    (s.setPtp f).eng = s.eng ∧ (s.setPtp f).stat = s.stat ∧ (s.setPtp f).pack = s.pack ∧ (s.setPtp f).rst = s.rst ∧
    (s.setPtp f).cons = s.cons ∧ (s.setPtp f).coll = s.coll ∧ (s.setPtp f).guy = s.guy ∧ (s.setPtp f).board = s.board ∧
    (s.setPtp f).cur = s.cur ∧ (s.setPtp f).hostOut = s.hostOut ∧ (s.setPtp f).answers = s.answers :=
  ⟨rfl, rfl, rfl, rfl, rfl, rfl, rfl, rfl, rfl, rfl, rfl, rfl, rfl, rfl, rfl, rfl, rfl, rfl, rfl, rfl, rfl, rfl, rfl⟩

/-! ### Reading back what an update wrote -/

@[simp] theorem State.reg_setReg_self (s : State) (off : Nat) (v : W64) : (s.setReg off v).reg off = v.toNat := by
  simp [State.reg, State.setReg]

@[simp] theorem State.port_setPort_self (s : State) (p : Nat) (x : PortSt) : (s.setPort p x).port p = x := by
  simp [State.port, State.setPort]

@[simp] theorem State.stack_setStack_self (s : State) (n : Nat) (k : Stack) : (s.setStack n k).stack n = k := by
  simp [State.stack, State.setStack]

@[simp] theorem State.ring_setRing_self (s : State) (ctx ring : Nat) (r : Ring) : (s.setRing ctx ring r).ring? ctx ring = some r := by
  simp [State.ring?, State.setRing]

@[simp] theorem State.sensor_setSensor_self (s : State) (i : Nat) (x : Sensor) : (s.setSensor i x).sensor i = x := by
  simp [State.sensor, State.setSensor]

end Sys2Proof.Machine
end

