-- ==== Sys2Proof/Machine/Reads.lean ====
section
/-! DEFINITION. What a read of BAR 0 returns (00_scope.md R3 to R7), and the levels of the output lands (17_pins_and_power.md
R490, R501): views of the state, which no row changes it through. The table has no row for a read of a register. -/

namespace Sys2Proof.Machine

/-- A field at a bit position. -/
def at_ (lo n : Nat) : Nat := n * 2 ^ lo
/-- A signed number in `w` bits. -/
def signed (w : Nat) (n : Int) : Nat := (BitVec.ofInt w n).toNat
def codeSum (l : List Nat) : Nat := l.foldl (fun a b => a + b) 0

/-! ### Codes of states -/

def ClState.code : ClState → Nat
  | .gated => 0
  | .idle => 1
  | .loading => 2
  | .running => 3
  | .draining => 4
  | .outOfService => 5

def StackState.code : StackState → Nat
  | .untrained => 0
  | .training => 1
  | .ready => 2
  | .selfRefresh => 3
  | .failed => 4
  | .loopback => 5

/-! ### Boot, cores and launches: 0x000_0000 (00_scope.md, 04_cores.md, 05_core_programs.md, 16_boot_and_identity.md) -/

/-- GLB_CLUSTER_STATE_c (R134, R460). -/
def State.readCluster (s : State) (c : Nat) : Nat :=
  let cl := s.cluster c
  at_ 40 ((s.aside c).getD 0xFF) + at_ 36 (min 3 (s.fencedCores c).length) + at_ 31 (bit01 cl.holder.isSome) +
    at_ 16 (cl.holder.getD 0) + cl.state.code

/-- GLB_PROG_FAULT_LAST. -/
def State.readFaultLast (s : State) : Nat :=
  match s.eng.faultLast with
  | some (code, pc, core, cluster, ctx) => at_ 56 code + at_ 44 pc + at_ 37 core + at_ 28 cluster + at_ 18 ctx + 1
  | none => 0

/-- GLB_STAGE_WINDOW: eight bytes of the selected page; those beyond the configuration read as zero. -/
def State.readStage (s : State) (o : Nat) : Nat :=
  let page := min 1792 (bits (s.reg rStageOffset) 25 15)
  if page = 1792 ∧ 4096 ≤ o then 0 else fld (s.hbm.peek (stagingBase + 32768 * page + o) 8) 0 8

def State.readGlb (s : State) (off : Nat) : Nat :=
  if off = 0x000040 then at_ 32 s.rwpCount + s.rwpLast
  else if off = 0x000100 then 0x1020014050041030
  else if off = 0x000108 then at_ 32 s.eng.sramCorrected + s.eng.sramUncorrectable
  else if off = 0x000110 then at_ 32 s.eng.faulted + s.eng.completed
  else if off = 0x000118 then s.readFaultLast
  else if off = 0x000200 then
    at_ 56 s.board.refuseCause + at_ 40 s.board.rollback + at_ 36 s.board.keySlots + at_ 4 s.board.generation + s.board.phase.code
  else if off = rStageOffset then at_ 15 (min 1792 (bits (s.reg rStageOffset) 25 15))
  else if off = rStageGo then s.reg rStageGo
  else if off = 0x000218 then at_ 32 s.board.version + s.board.svn
  else if off = rRollback then (rwpPair (BitVec.ofNat 32 s.board.rollback)).toNat
  else if 0x001000 ≤ off ∧ off < 0x001000 + 8 * Config.clusters then s.readCluster ((off - 0x001000) / 8)
  else if 0x008000 ≤ off ∧ off < 0x010000 then s.readStage (off - 0x008000)
  else 0

/-! ### The MSI-X table and its pending bits: 0x001_0000 (R389, R409) -/

def State.readMsix (s : State) (off : Nat) : Nat :=
  if off < 0x018000 then
    let e := mgetD s.host.msix ((off - 0x010000) / 16) .reset
    if off % 16 = 0 then e.addr.toNat else e.data.toNat + at_ 32 (bit01 e.masked)
  else if off < 0x018100 then
    codeSum ((List.range 64).map (fun j => at_ j (bit01 (mgetD s.host.msix (8 * (off - 0x018000) + j) .reset).pending)))
  else 0

/-! ### Time, pegs and plans: 0x002_0000 (02_fabric_time.md) -/

/-- TIME_CTRL, its fields as they read. -/
def State.readTimeCtrl (s : State) : Nat :=
  let r := s.reg rTimeCtrl
  at_ 32 (bits r 47 32) + at_ 20 (bits r 23 20) + at_ 16 (min 7 (bits r 19 16)) + at_ 12 s.lossIntervals + at_ 8 (bits r 10 8) + bits r 3 0

def State.readTime (s : State) (off : Nat) : Nat :=
  if off = 0x020000 then s.now
  else if off = 0x020008 then
    at_ 32 (signed 32 (clamp32 s.time.offset)) + at_ 16 s.time.steps + at_ 4 s.timeSource + s.time.state.code
  else if off = rTimeCtrl then s.readTimeCtrl
  else if off = rTimePtp then s.reg rTimePtp
  else if off = 0x020040 then at_ 32 s.pegs.waits.length + at_ 16 s.pegs.remoteRejects + (pegCount - s.pegs.pegs.length)
  else if off = 0x020080 then at_ 32 s.cat.globalLost + s.cat.nextSeq.toNat
  else if 0x021000 ≤ off ∧ off < 0x021C00 ∧ off % 256 < 160 then
    fld (((mget s.plans ((off - 0x021000) / 256)).bind (·.live)).getD (List.replicate 160 0)) (off % 256) 8
  else 0

/-! ### The Curator: 0x003_0000 (14_curator.md) -/

/-- m and y of the selected sensor in milli-units, or the code of one that shows nothing. -/
def State.readSensor (s : State) : Nat :=
  let i := s.reg rSensorSel
  if s.sensorGone i then at_ 32 0x80000000 + 0x80000000
  else at_ 32 (signed 32 ((s.sensor i).m.getD 0)) + signed 32 (s.shownY i)

def State.readCur (s : State) (off : Nat) : Nat :=
  if off = rCurStatus then
    at_ 48 s.powerW + at_ 32 s.mhz + at_ 24 (bit01 (!s.cur.causes.isEmpty)) + at_ 23 (bit01 s.packing.2) +
      at_ 22 (bits (s.reg rCurStatus) 22 22) + at_ 21 (bit01 s.cur.floorYield) + codeSum (s.cur.causes.map (fun c => at_ (16 + c.bit) 1)) +
      s.cur.power.code
  else if off = rClockLimits ∨ off = rPowerCap ∨ off = rThrottlePoint then s.reg off
  else if off = rEnvelope then
    at_ 32 (bits (s.reg off) 63 32) + at_ 16 (min 2 (bits (s.reg off) 17 16)) + max 256 (min 2048 (bits (s.reg off) 11 0))
  else if off = rFilter then at_ 8 (s.tau 2) + at_ 4 (s.tau 1) + s.tau 0
  else if off = rSensorSel then s.reg rSensorSel
  else if off = 0x030038 then s.readSensor
  else if off = 0x030040 then at_ 32 s.cur.departures + at_ 16 s.cur.fastThrottles + s.cur.pointChanges
  else 0

/-! ### Resets and tests: 0x004_0000 (15_recovery_and_test.md) -/

/-- FAULT_N is driven low (R447). -/
def State.faultLow (s : State) : Bool := s.rst.fault || s.rst.cycleReq

/-- RST_CTX_LAST: fabric time of the selected context's last progress, 0 with no pending work (R438). -/
def State.readCtxLast (s : State) : Nat :=
  let c := s.reg rRstCtxSel
  if s.host.taken.any (fun t => t.q.ctx.val == c) then s.now - (s.local_ - mgetD s.rst.progress c 0) else 0

def State.readRst (s : State) (off : Nat) : Nat :=
  if off = 0x040000 then
    at_ 56 s.rst.lastCause + at_ 52 s.rst.lastLevel + at_ 31 (bit01 s.rst.ready) + at_ 30 (bit01 s.faultLow) +
      at_ 8 (bit01 s.rst.l3.isSome) + codeSum (s.rst.l2.map (fun d => at_ (4 + d.1) 1))
  else if off = rRstRequest ∨ off = rFuseArm then s.reg off
  else if off = rRstCtrl then at_ 16 (max 100 s.quiesceUs) + s.reg off % 2
  else if off = 0x040018 then at_ 56 s.rst.count3 + at_ 48 s.rst.count2 + at_ 32 s.rst.count1 + s.rst.count0
  else if off = rRstCtxSel then s.reg off
  else if off = 0x040028 then s.readCtxLast
  else if off = 0x040040 then
    at_ 48 (codeSum (s.rst.repair.fenced.map (fun e => e.2.length))) +
      at_ 32 (min 255 ((List.range Config.clusters).filter s.clusterOut).length) + at_ 24 s.rst.test.lastRefusal +
      at_ 8 (min 9 s.rst.test.batch) + at_ 4 s.rst.test.phase + at_ 1 (bit01 s.rst.test.token) + bit01 (s.rst.test.phase != 0)
  else if off = rRotation then at_ 32 (max 1 (bits (s.reg off) 63 32)) + s.reg off % 2
  else if off = 0x040050 then at_ 48 s.rst.rotate.sweeps + at_ 32 s.rst.rotate.failed + s.rst.rotate.passed
  else 0

/-! ### Guylines: 0x005_0000 (11_guylines.md) -/

/-- The routing entry that GL_ROUTE_IDX selects, its complement above it. -/
def State.readRoute (s : State) : Nat :=
  let e := mgetD s.guy.routes (s.reg rRouteIdx) (0, 0xFFFFFFFF)
  at_ 32 e.2.toNat + e.1.toNat

def State.readPort (s : State) (p : Nat) : Nat :=
  let x := s.port p
  at_ 48 x.neighbour + at_ 45 x.nbSlot + at_ 41 x.nbPort + at_ 24 (min 0xFFFF x.rtt) + at_ 8 x.mode + at_ 4 x.fails + x.state.code

def State.readGl (s : State) (off : Nat) : Nat :=
  if off = 0x050000 then at_ 20 s.guy.boardSize + at_ 16 s.guy.slot + s.guy.node
  else if off = rSwCtrl then
    at_ 48 s.etherType + at_ 32 s.frameMax + at_ 31 (bits (s.reg off) 31 31) + bits (s.reg off) 11 0
  else if off = rSwPcp ∨ off = rMacPrefix ∨ off = rRouteIdx then s.reg off
  else if off = rE2eCtrl then at_ 48 s.idleMs + at_ 32 s.rtoUs + at_ 16 s.ackNs
  else if off = 0x050030 then s.readRoute
  else if off = 0x050038 then
    at_ 32 s.guy.routeCorrupt + (s.guy.routes.filter (fun e => e.2.1.getLsbD 31 && e.2.2 == ~~~e.2.1)).length
  else if off = 0x050040 then at_ 32 s.guy.relayed + s.guy.discarded
  else if 0x050100 ≤ off ∧ off < 0x0501C0 then
    let x := s.port ((off - 0x050100) / 16)
    if off % 16 = 0 then s.readPort ((off - 0x050100) / 16) else at_ 32 x.replays + at_ 16 x.crcErrors + x.retrains
  else if 0x050200 ≤ off ∧ off < 0x050260 then s.replayNs ((off - 0x050200) / 8)
  else 0

/-! ### Memory: 0x006_0000 (07_hbm.md, 08_tiers_and_streams.md, 09_pack_format.md) -/

/-- The fewest spare rows left in a bank group of a stack (log entry 12); 0 before its first training. -/
def State.fewestSpares (s : State) (n : Nat) : Nat :=
  let k := s.stack n
  if k.state = .untrained then 0
  else
    let l := (List.range 512).map (fun g => Config.spareRows n g - mgetD k.sparesUsed g 0)
    min 255 (l.tail.foldl min (l.headD 0))

/-- MEM_STACK_n. -/
def State.readStack (s : State) (n : Nat) : Nat :=
  let k := s.stack n
  at_ 56 (signed 8 k.tempC) + at_ 48 k.refresh + at_ 40 k.softPpr + at_ 32 k.hardPpr + at_ 24 (s.fewestSpares n) +
    at_ 16 k.lanesRepaired + k.state.code

/-- MEM_GROUP_MODE_n: the modes of 32 groups and their complement. -/
def State.readGroups (s : State) (n : Nat) : Nat :=
  (rwpPair (BitVec.ofNat 32 (codeSum ((List.range 32).map (fun j => at_ j (bit01 (s.hbm.isDieLocal (32 * n + j)))))))).toNat

def State.readPool (s : State) (off : Nat) : Nat :=
  if off = 0x060000 then at_ 32 s.reservedSum + s.freeFrames
  else if off = rPoolCtrl then at_ 32 s.agingNs + at_ 16 s.stallReportUs
  else if off = rPoolWater then at_ 32 s.waterHigh + s.waterLow
  else if off = 0x060018 then at_ 32 s.tier.returned + s.tier.evicted
  else if off = 0x060020 then at_ 32 ((s.tier.store.map (·.2)).getD 0) + s.tier.slots.length
  else if off = 0x060028 then at_ 32 s.tier.tagPeak + s.tagsInUse
  else if off = rStallCtx then s.reg rStallCtx
  else if 0x060110 ≤ off ∧ off < 0x0601A0 then
    let e := mgetD s.tier.stalls (16 * s.reg rStallCtx + (off - 0x060110) / 16) (0, 0)
    if off % 16 = 0 then e.1 else e.2
  else if off = 0x060200 then mgetD s.tier.late (s.reg rStallCtx) 0
  else 0

def State.readHbm (s : State) (off : Nat) : Nat :=
  let ready := s.readyStacks
  if off = 0x068000 then
    at_ 32 (codeSum (ready.map (fun n => 2 ^ n))) + at_ 16 s.hbm.lanesAll + bit01 (ready.length == 16)
  else if off = 0x068008 then
    match s.hbm.uncorrLast with
    | some (pa, reader, ctx) => at_ 63 1 + at_ 53 ctx + at_ 40 reader + pa
    | none => 0
  else if 0x068100 ≤ off ∧ off < 0x068180 then s.readStack ((off - 0x068100) / 8)
  else if 0x068180 ≤ off ∧ off < 0x068200 then
    let k := s.stack ((off - 0x068180) / 8)
    at_ 32 k.retried + at_ 16 k.uncorrectable + k.ondie
  else if off = rWcCtrl then s.reg rWcCtrl
  else if 0x068400 ≤ off ∧ off < 0x068420 then
    at_ 32 (mgetD s.hbm.hits ((off - 0x068400) / 8) 0) + mgetD s.hbm.misses ((off - 0x068400) / 8) 0
  else if off = rHppr then s.reg rHppr
  else if off = 0x068508 then at_ 8 s.hbm.hpprSpares + at_ 4 s.hbm.hpprCause + s.hbm.hpprState
  else if 0x068600 ≤ off ∧ off < 0x0686C0 then (mgetD s.hbm.lbFail ((off - 0x068600) / 8) 0).toNat
  else if 0x06A000 ≤ off ∧ off < 0x06C000 then s.readGroups ((off - 0x06A000) / 8)
  else 0

def State.readPack (s : State) (off : Nat) : Nat :=
  if off < 0x06C020 then mgetD s.pack.enc ((off - 0x06C000) / 8) 0
  else if off < 0x06C040 then mgetD s.pack.dec ((off - 0x06C020) / 8) 0
  else if off = 0x06C040 then at_ 32 s.pack.refetched + s.pack.damaged
  else if off = 0x06C048 then at_ 32 s.pack.tableMiss + s.pack.escFallback
  else 0

/-! ### Statistics: 0x007_0000 (06_scaling.md, 10_conservators.md, 12_collectives.md) -/

def State.readStat (s : State) (off : Nat) : Nat :=
  if off = 0x070000 then at_ 32 s.stat.refused + s.stat.closed
  else if off = 0x070008 then at_ 32 s.stat.rejected + s.stat.merged
  else if off = 0x070010 then at_ 32 s.stat.alarms + at_ 4 s.stat.alarmBits
  else if off = 0x070018 then at_ 32 s.stat.advances + at_ 16 s.stat.downs + s.stat.ups
  else if off = 0x070100 then at_ 32 s.cons.skipped + s.cons.committed
  else if off = 0x070108 then at_ 32 s.cons.corrupt + s.cons.stale
  else if off = 0x070110 then at_ 32 s.cons.mismatches + s.cons.sweeps
  else if 0x070200 ≤ off ∧ off < 0x070280 then mgetD s.cons.records ((off - 0x070200) / 8) 0
  else if off = 0x070300 then at_ 32 s.coll.failed + s.coll.completed
  else if off = 0x070308 then at_ 32 s.coll.missing + s.coll.late
  else if off = 0x070310 then at_ 32 s.coll.stepMiss + s.coll.stray
  else if 0x070320 ≤ off ∧ off < 0x070338 then
    let e := (off - 0x070320) / 8
    at_ 16 (mgetD s.coll.chunks e 0) + (s.coll.running.filter (fun c => c.engine == e)).length
  else 0

/-! ### The host link and the doorbells: 0x008_0000, 0x040_0000 (13_host_link.md) -/

/-- HL_APERTURE_a. -/
def State.readAperture (s : State) (a : Nat) : Nat :=
  match mget s.host.apertures a with
  | some b => at_ 32 (b.va / 2 ^ 32 % 2 ^ 32) + at_ 31 1 + at_ 11 (bit01 b.write) + at_ 10 (bit01 b.read) + b.ctx
  | none => 0

/-- HL_CTX0_CTRL, its fields as they read. -/
def State.readCtx0Ctrl (s : State) : Nat :=
  let r := s.reg rCtx0Ctrl
  at_ 32 (bits r 63 32) + at_ 16 (max 1 (bits r 31 16)) + at_ 5 (max 1 (bits r 15 5)) + at_ 1 (min 10 (bits r 4 1)) + r % 2

def State.readHl (s : State) (off : Nat) : Nat :=
  let k := s.host.link
  if off = 0x080000 then
    at_ 48 k.downs + at_ 32 k.hostLosses + at_ 11 (bit01 k.flit) + at_ 8 k.rate + at_ 3 k.width + bit01 k.dlUp
  else if off = rHlCtrl then at_ 32 s.holdMs + s.tornUs
  else if off = rIrqCtrl then s.reg rIrqCtrl
  else if 0x080100 ≤ off ∧ off < 0x080180 then s.readAperture ((off - 0x080100) / 8)
  else if off = 0x080180 then at_ 32 s.host.apertureReads + s.host.apertureWrites
  else if off = 0x080188 then at_ 48 s.host.placeLast + s.host.placeDropped
  else if off = 0x080190 then at_ 32 s.host.windowDoorbells + s.host.windowDrops
  else if off = rCtx0CqBase then s.reg rCtx0CqBase
  else if off = rCtx0Ctrl then s.readCtx0Ctrl
  else if off = rCtx0RingSel then s.reg rCtx0RingSel
  else 0

/-- A register of a doorbell page: SQ_TAIL, CQ_HEAD, SQ_HEAD, RING_STATE of four rings. -/
def State.readDoorbell (s : State) (ctx o : Nat) : Nat :=
  match (if o % 0x40 < 0x20 ∧ o < 0x100 then s.ring? ctx (o % 0x40 / 8) else none) with
  | none => 0
  | some r =>
    if o < 0x40 then r.tail.toNat
    else if o < 0x80 then r.cqHead.toNat
    else if o < 0xC0 then r.head.toNat
    else at_ 10 r.nextSeq.toNat + (if r.faulted then 2 else 1)

/-- What a read of BAR 0 at a multiple of eight returns; an offset that no chapter defines reads as zero (R4; log entry 95). -/
def State.readBar0 (s : State) (off : Nat) : Nat :=
  if off < 0x010000 then s.readGlb off
  else if off < 0x020000 then s.readMsix off
  else if off < 0x030000 then s.readTime off
  else if off < 0x040000 then s.readCur off
  else if off < 0x050000 then s.readRst off
  else if off < 0x060000 then s.readGl off
  else if off < 0x068000 then s.readPool off
  else if off < 0x06C000 then s.readHbm off
  else if off < 0x070000 then s.readPack off
  else if off < 0x080000 then s.readStat off
  else if off < 0x090000 then s.readHl off
  else if 0x400000 ≤ off ∧ off < 0x800000 then s.readDoorbell ((off - 0x400000) / 0x1000) (off % 0x1000)
  else 0

/-! ### Output lands (R37, R429, R432, R447, R490, R493) -/

/-- The levels of the lands that the tray reads: high when released. -/
structure PinLevels where
  smbAlertN : Bool
  pwrCycleReqN : Bool
  thermTripN : Bool
  faultN : Bool
  presentN : Bool
  wakeN : Bool
  ppsOut : Bool
  deriving DecidableEq, Repr

/-- While the block is without PWR_GOOD every output is released; TIME_PPS_OUT is pulled low then (R490). WAKE_N is never
asserted, PRESENT_N is tied low. -/
def State.pins (s : State) : PinLevels :=
  let up := s.board.pwrGood
  { smbAlertN := !(up && !s.cur.messages.isEmpty), pwrCycleReqN := !(up && s.rst.cycleReq), thermTripN := !(up && s.cur.tripped)
    faultN := !(up && s.faultLow), presentN := false, wakeN := true
    ppsOut := up && (s.reg rTimeCtrl).testBit 10 && s.time.state != .unset && s.time.ppsOutUntil.isSome }

end Sys2Proof.Machine
end

