-- ==== Sys2Proof/Tests/Slice0.lean ====
section
/-! SUPPORT. Small tests by evaluation: operand checks, values that the manual prints, and, for every statement with hypotheses,
a state and operands that meet them (`witness_<statement>`). -/

namespace Sys2Proof.Tests

set_option Elab.async false

open Sys2Proof.Machine

/-! ### States that the witnesses share -/

/-- A word or structure from its fields: lowest bit, value. -/
def enc (l : List (Nat × Nat)) : Nat := (l.map (fun p => p.2 * 2 ^ p.1)).sum

def k0 : CoreRef := ⟨0, 0⟩
def q0 : CmdRef := ⟨1, 0, 5⟩

/-- Ring 0 of context 1, empty, with 64 completion records. -/
def ring0 : Ring := ⟨8, 8, 0, 0, 6, 64, 0x10000, 1, 1, 0, 0, none, false, none, 0⟩

/-- An Askax in service: the link is up, stacks are READY, contexts 0 and 1 exist, page 0 of context 1's local space lies in
frame 1 and page 0 of its host space is mapped, cluster 0 is held by context 1. -/
def up : State :=
  { State.reset with
    board := { BoardSt.reset with pwrGood := true, phase := .ready, functionReady := true }
    rst := { RstSt.reset with ready := true }
    time := { TimeSt.reset with localNs := 10 ^ 12, ns := 10 ^ 12, state := .locked }
    host := { HostSt.reset with
      link := { LinkSt.reset with dlUp := true, rate := 7, width := 16 }
      perstN := true
      ctxs := [(0, ⟨0, 0, 60000000000, false⟩), (1, ⟨0, 0, 1000000, false⟩)]
      rings := [(0, ring0), (4, ring0)] }
    hbm := { HbmSt.reset with stackList := (List.range 16).map (fun n => (n, { Stack.reset with state := .ready, trained := true })) }
    tier := { TierSt.reset with
      level1 := [(l1Key 1 0, Pair64.of 0x20001)], ptes := [(2 ^ 27, Pair64.of (mkPte 1 0 false false false 0 true))]
      hostL1 := [(l1Key 1 0, Pair64.of 0x20001)], hostPtes := [(2 ^ 27, Pair64.of 0x400003)]
      frames := [(1, ⟨1, 0, 0, false⟩)] }
    eng := { CoreSide.reset with clusters := [(0, { Cluster.reset with state := .idle, holder := some 1 })] } }

/-- `up`, with the word `w` at the index of core 0 of cluster 0. -/
def onCluster (cl : Cluster) (c : CoreSt) (w : Nat) : State :=
  { up with eng := { up.eng with clusters := [(0, { cl with
      state := .running, holder := some 1, image := [BitVec.ofNat 128 w, 0, 0], cores := [(0, c)] })] } }

def on (c : CoreSt) (w : Nat) : State := onCluster .reset c w

def issued (s : State) : Issue := (s.issue? k0).getD ⟨k0, .reset, .reset, 0, 0⟩

/-- Core 0 of cluster 0 can issue an instruction of this class and operation. -/
def issues (s : State) (cls op : Nat) (used : Nat → List (Nat × Nat)) : Bool :=
  let i := issued s
  decide (s.issue? k0 = some i) && decide (i.core.pc < i.cl.image.length) && wClass i.w == cls && wOp i.w == op &&
    reservedClear i.w (used i.w) && s.eng.flips.isEmpty

theorem issues_sound {s : State} {cls op : Nat} {used : Nat → List (Nat × Nat)} (h : issues s cls op used = true) :
    Issues s k0 cls op used (issued s) := by
  simp only [issues, Bool.and_eq_true, decide_eq_true_eq, beq_iff_eq] at h
  exact ⟨h.1.1.1.1.1, h.1.1.1.1.2, h.1.1.1.2, h.1.1.2, h.1.2, by simp [State.issueReads, h.2]⟩

/-- `s` with the command of this opcode and these parameter bytes taken, its turn come. -/
def with_ (s : State) (op : Nat) (par : List Byte) : State :=
  { s with host := { s.host with taken := [⟨q0, leBytes 8 op ++ leBytes 8 0 ++ par, true, false⟩] } }

/-- Parameters by byte offset in the packet, `n` bytes in all. -/
def par (n : Nat) (l : List (Nat × Nat)) : List Byte := leBytes n (enc (l.map (fun p => (8 * (p.1 - 16), p.2))))

def cmd (op n : Nat) (l : List (Nat × Nat)) : State := with_ up op (par n l)

def taken0 (s : State) : Taken := (s.findTaken q0).getD ⟨q0, [], true, false⟩

/-- It is the turn of command `q0`, of this opcode. -/
def turn (s : State) (op : Nat) : Bool :=
  decide (s.findTaken q0 = some (taken0 s)) && s.alive && (taken0 s).opcode == op && !(taken0 s).started &&
    !s.inL0 q0.ctx.val && (taken0 s).begun

theorem turn_sound {s : State} {op : Nat} (h : turn s op = true) : Turn s q0 op (taken0 s) := by
  simp only [turn, Bool.and_eq_true, decide_eq_true_eq, beq_iff_eq, Bool.not_eq_true'] at h
  exact ⟨h.1.1.1.1.1, h.1.1.1.1.2, h.1.1.1.2, h.1.1.2, h.1.2, .inl h.2⟩

/-- An access came out well. -/
def good {α : Type} : Got α → Bool
  | .ok _ => true
  | _ => false

/-- The state that a row answers. -/
def out (c : Instr) (s : State) : State :=
  match exec c s with
  | .next t => t
  | _ => s

theorem test_up : up.alive = true ∧ up.hostUp = true ∧ up.serving = true ∧ good (up.readVa 1 64 64 (.other false) false 0).2 = true ∧
    hostLookup up 1 0x1000000000000040 true = some 0x400040 := by decide +kernel

/-! ### Core instructions -/

/-- An instruction word: class, operation, fields. -/
def ins (cls op : Nat) (l : List (Nat × Nat)) : Nat := enc ((0, cls) :: (4, op) :: l)

def fixed (l : List (Nat × Nat)) : Nat → List (Nat × Nat) := fun _ => l

/-- The registers are free of outstanding atomics. -/
def idle (s : State) (rs : List Nat) : Bool := rs.all (fun r => !(issued s).core.xBusy r)

theorem witness_ScalarOperations : (scalarRows.all (fun r =>
    let s := on .reset (ins 0 r.2.1 [(12, 3), (17, 1), (22, 2)])
    let t := on .reset (ins 0 r.2.1 [(12, 31), (17, 31), (27, 1), (64, 2 ^ 64 - 1)])
    issues s 0 r.2.1 scalarUsed && issues t 0 r.2.1 scalarUsed && idle s [3, 1, 2] && idle t [31, 31, 0])) = true := by
  decide +kernel

theorem test_add_wraps : let s := on { CoreSt.reset with x := [(1, 1)] } (ins 0 0 [(12, 3), (17, 1), (27, 1), (64, 2 ^ 64 - 1)])
    ((out (.add k0) s).core k0).getX 3 = 0 ∧ ((out (.add k0) s).core k0).pc = 1 := by decide +kernel

theorem test_x0_stays_zero : ((out (.add k0) (on .reset (ins 0 0 [(27, 1), (64, 5)]))).core k0).getX 0 = 0 := by decide +kernel

/-- The last aligned place of the tile store. -/
theorem witness_ScalarMoves :
    issues (on .reset (ins 0 0x0B [(12, 3), (64, 7)])) 0 0x0B (fixed [(16, 12), (127, 64)]) = true ∧
    (let s := on .reset (ins 0 0x0C [(12, 3), (64, 49144)])
     issues s 0 0x0C (fixed [(21, 12), (127, 64)]) = true ∧ (issued s).core.canRead 49144 8 = true ∧ s.eng.flips = []) ∧
    (let s := on .reset (ins 0 0x0D [(22, 3), (64, 49144)])
     issues s 0 0x0D (fixed [(26, 17), (127, 64)]) = true ∧ (issued s).core.canWrite 49144 8 = true) ∧
    ([0, 1, 2, 7, 8, 0xA, 0xB].all (fun c =>
      let s := on .reset (ins 0 0x0E [(12, 3), (64, c)])
      issues s 0 0x0E (fixed [(16, 12), (127, 64)]) && idle s [3])) = true := by decide +kernel

theorem witness_BranchesAndLoops :
    issues (on .reset (ins 0xA 0 [(26, 2)])) 0xA 0 (fixed [(35, 26)]) = true ∧
    ((List.range 6).all (fun c =>
      let s := on .reset (ins 0xA 1 [(12, 1), (22, c), (25, 1), (26, 2), (64, 2 ^ 32 - 1)])
      let t := on .reset (ins 0xA 1 [(12, 1), (17, 2), (22, c), (26, 2)])
      issues s 0xA 1 (fun w => (16, 12) :: (35, 22) :: (if brImmb w then [(95, 64)] else [(21, 17)])) && idle s [1, 2] &&
      issues t 0xA 1 (fun w => (16, 12) :: (35, 22) :: (if brImmb w then [(95, 64)] else [(21, 17)])) &&
        (condTable[c]?).isSome)) = true ∧
    ([0, 1, 2 ^ 32 - 1].all (fun n =>
      let s := on .reset (ins 0xA 2 [(26, 2), (36, 1), (64, n)])
      issues s 0xA 2 (fun w => (41, 36) :: (35, 26) :: (if brCntx w then [(16, 12)] else [(95, 64)])) && idle s [1] &&
        decide ((issued s).core.pc < 2 ∧ (issued s).core.loops.length < 4))) = true ∧
    (let s := on .reset (ins 0xA 3 [])
     issues s 0xA 3 (fixed []) = true ∧ (issued s).core.xfers = [] ∧ s.tier.remotes = [] ∧ (issued s).cl.scans = []) ∧
    issues (on .reset (ins 0xA 4 [])) 0xA 4 (fixed []) = true := by decide +kernel

/-- The three ways on: another pass, the last pass, no loop that ends there. -/
theorem witness_BranchesAndLoops_advance :
    let c : CoreSt := { CoreSt.reset with pc := 4, loops := [⟨2, 4, 1, 0, 2⟩] }
    let d : CoreSt := { c with loops := [⟨2, 4, 1, 1, 2⟩] }
    let e : CoreSt := { c with loops := [⟨2, 6, 1, 1, 2⟩] }
    c.advance.pc = 2 ∧ c.advance.getX 1 = 1 ∧ d.advance.pc = 5 ∧ d.advance.loops = [] ∧ e.advance.pc = 5 := by decide +kernel

theorem witness_VectorOperations :
    (vectorRows.all (fun r =>
      let s := on .reset (ins 4 r.2.1 [(12, 3), (17, 1), (22, 2)])
      let t := on .reset (ins 4 r.2.1 [(12, 31), (17, 31), (32, 31), (37, 1)])
      issues s 4 r.2.1 (vecUsed r.2.2.1) && idle s [0] && issues t 4 r.2.1 (vecUsed r.2.2.1) && idle t [31])) = true ∧
    ((List.range 5).all (fun c => issues (on .reset (ins 4 8 [(12, 3), (39, c)])) 4 8 (vecUsed [(41, 39)]) && (laneTests[c]?).isSome)) = true ∧
    issues (on .reset (ins 4 3 [(12, 3), (27, 31)])) 4 3 (vecUsed [(31, 27)]) = true ∧
    issues (on .reset (ins 4 9 [(12, 3), (27, 31)])) 4 9 (vecUsed [(31, 27)]) = true := by decide +kernel

theorem witness_VectorUnary :
    (unaryRows.all (fun r => issues (on .reset (ins 4 r.2.1 [(12, 31), (17, 1)])) 4 r.2.1 (fixed [(21, 12)]))) = true ∧
    (specialRows.all (fun r => r.2.2.all (fun p =>
      let s := on { CoreSt.reset with v := [(1, splat p.1)] } (ins 4 r.2.1 [(12, 31), (17, 1)])
      issues s 4 r.2.1 (fixed [(21, 12)]) && lane ((issued s).core.getV 1) 15 == p.1))) = true ∧
    (boundedRows.all (fun r =>
      let s := on { CoreSt.reset with v := [(1, splat 0x3F800000)] } (ins 4 r.2.1 [(12, 31), (17, 1)])
      issues s 4 r.2.1 (fixed [(21, 12)]) && (match f32 (lane ((issued s).core.getV 1) 15) with
        | .fin neg m _ => r.2.2 neg m 0x3F800000
        | _ => false))) = true := by
  decide +kernel

theorem witness_VectorMoves :
    let a := 49152 - 64
    (let s := on .reset (ins 4 0x30 [(12, 3), (42, a)])
     issues s 4 0x30 (fixed [(16, 12), (36, 32), (57, 42)]) = true ∧ (issued s).core.canRead a 64 = true ∧ s.eng.flips = []) ∧
    (let s := on .reset (ins 4 0x31 [(17, 3), (42, a)])
     issues s 4 0x31 (fixed [(21, 17), (36, 32), (57, 42)]) = true ∧ (issued s).core.canWrite a 64 = true) ∧
    issues (on .reset (ins 4 0x32 [(12, 3), (32, 1)])) 4 0x32 (fixed [(16, 12), (36, 32)]) = true ∧
    issues (on .reset (ins 4 0x33 [(17, 3), (32, 1), (42, 65535)])) 4 0x33 (fixed [(21, 17), (36, 32), (57, 42)]) = true := by
  decide +kernel

/-- MMA of BF16 with ZERO into the last tile, of FP32 in three passes, of INT8 with SAT into integer quarters, of SB8 blocks. -/
theorem witness_MatrixTiles :
    let one : W32 := 0x3F800000
    let c : CoreSt := { CoreSt.reset with intQuarters := [0], x := [(1, one.setWidth 64)] }
    ([on c (ins 1 0 [(12, 27), (17, 1), (18, 1), (21, 1), (25, 1), (40, 32)]), on c (ins 1 0 [(12, 1), (18, 3), (40, 32)]),
      on c (ins 1 0 [(18, 1), (20, 1), (21, 7), (25, 7), (30, 16), (70, 255)]),
      on c (ins 1 0 [(12, 16), (17, 1), (18, 1), (21, 11), (25, 11), (40, 32), (50, 64), (60, 72), (86, 1), (91, 1)])].all (fun s =>
      let i := issued s
      let w := i.w
      match accShape (bits w 16 12), Fmt.ofCode (bits w 24 21), Fmt.ofCode (bits w 28 25) with
      | some (m, n), some fa, some fb =>
        issues s 1 0 (fun w => if (Fmt.ofCode (bits w 24 21)).isNone then [(127, 12)] else mmaUsed w) && pairAllowed fa fb &&
        decide (bits w 19 18 ≠ 0) && (fa == .fp32 || bits w 19 18 == 1) && (!w.testBit 20 || fa.isInt) &&
        (!fa.isSb || (idle s [bits w 90 86, bits w 95 91] && scaleValid (i.core.x32 (bits w 90 86)) && scaleValid (i.core.x32 (bits w 95 91)))) &&
        (w.testBit 17 || (accQuarters (bits w 16 12)).all (fun q => i.core.intQuarters.contains q == fa.isInt)) &&
        decide (64 * bits w 49 40 + 64 * n ≤ 49152 ∧ 64 * bits w 69 60 + 64 * m ≤ 49152) && i.core.canRead 0 49152
      | _, _, _ => false)) = true := by decide +kernel

theorem witness_MatrixTiles_moves :
    let at_ := 768 - 16
    (let s := on .reset (ins 3 1 [(17, 1), (48, at_)])
     issues s 3 1 (fixed [(17, 12), (57, 48)]) = true ∧ ((issued s).core.tileClass 0).isSome ∧ (issued s).core.canWrite (64 * at_) 1024 = true) ∧
    (let s := on .reset (ins 3 2 [(12, 15), (47, 1), (48, at_)])
     issues s 3 2 (fixed [(16, 12), (47, 47), (57, 48)]) = true ∧ (issued s).core.canRead (64 * at_) 1024 = true) ∧
    issues (on .reset (ins 3 3 [(12, 27)])) 3 3 (fixed [(16, 12), (47, 47)]) = true := by decide +kernel

theorem test_mma_int8 :
    let c : CoreSt := { CoreSt.reset with ts := [(0, 2), (64, 3), (1024, 0xFF), (1025, 1)], intQuarters := [0], acc := [(0, 5)] }
    let o : MmaOps := ⟨.int8, .int8, 0, 1024, 0, 0, 0, 0, 0, false, 1⟩
    mmaElem c o 5 0 0 = 3 ∧ mmaElem c o 0 1 0 = BitVec.ofInt 32 (-3) ∧ mmaElem c { o with za := 1 } 0 0 0 = BitVec.ofInt 32 (-2) := by
  decide +kernel

theorem witness_IntegerMultiplyWraps : (⟨.int8, .uint8, 0, 1024, 0, 0, -128, 255, 0, false, 1⟩ : MmaOps).fa = .int8 ∧
    (⟨.uint8, .uint8, 0, 1024, 0, 0, 0, 0, 0, false, 1⟩ : MmaOps).sat = false := by decide +kernel

/-- EPI to E4M3 with CLEAR into the tile store, and to the local page, row by row. -/
theorem witness_EpilogueAndConvert :
    let c : CoreSt := { CoreSt.reset with x := [(5, 0x1000), (6, 64)] }
    ([on c (ins 3 0 [(17, 1), (34, 3), (44, 7), (48, 764)]), on c (ins 3 0 [(34, 3), (43, 1), (44, 7), (88, 5)])].all (fun s =>
      let i := issued s
      let w := i.w
      issues s 3 0 (fixed [(46, 12), (92, 48)]) && Fmt.ofCode (bits w 37 34) == some .e4m3 && RM.ofCode (bits w 39 38) == some .rne &&
      (i.core.tileClass 0).isSome && i.stat 7 == .none && decide (bits w 33 30 ≤ 8) && (List.range 32).all (fun r => !i.core.xBusy r) &&
      i.core.canWrite (64 * 764) 256 &&
      (if w.testBit 43 then
        let out := (List.range 16).map (fun r => ((i.core.getX 5 + BitVec.ofNat 64 r * i.core.getX 6).toNat, List.replicate 16 (0 : Byte)))
        match resolveRows s i.ctx out with
        | .ok ws => (match s.checkRows i.ctx ws with
          | (u, .ok (), _) => !(u.core k0).before (u.core k0).nextOrd [(0x1000, 16)] &&
            good (u.writePiece (.epi k0) 0 1 u.tier.nextRemote 0x1000 (List.replicate 16 0) (.program false) 0).2
          | _ => false)
        | .error _ => false
      else true))) = true := by decide +kernel

/-- A row for the host tier, in page 0 of the host space, is under way once it is sent, here while the link is down. -/
theorem witness_EpilogueAndConvert_rows :
    let va := 0x1000000000000040
    let s : State := { up with host := { up.host with link := { up.host.link with dlUp := false } } }
    (s.core k0).before (s.core k0).nextOrd [(va, 16)] = false ∧ (s.core k0).xfers.length + s.epiOpen k0 < 8 ∧
    (match s.writePiece (.epi k0) 0 1 s.tier.nextRemote va (List.replicate 16 0) (.program false) 0 with
     | (t, .wait _) => t.tier.nextRemote != s.tier.nextRemote
     | _ => false) = true := by decide +kernel

/-- Conversions of FP32 to BF16 at the end of the tile store, and of no elements. -/
theorem witness_EpilogueAndConvert_convert :
    ([16384 - 8192, 0].all (fun n =>
      let c : CoreSt := { CoreSt.reset with x := [(1, 0), (2, 32768), (3, BitVec.ofNat 64 n)] }
      let s := on c (ins 5 0 [(16, 1), (25, 7), (29, 1), (34, 2), (39, 3)])
      let i := issued s
      issues s 5 0 cvUsed && decide (planeBytes .fp32 n ≤ 32768 ∧ 32768 + planeBytes .bf16 n ≤ 49152) && i.stat 7 == .none &&
      i.core.canRead 0 (planeBytes .fp32 n) && i.core.canWrite 32768 (planeBytes .bf16 n))) = true := by decide +kernel

theorem witness_EpilogueAndConvert_clear : (List.range 28).all (fun a => (accShape a).isSome) = true ∧ accShape 28 = none := by
  decide +kernel

theorem test_bf16_rounds_to_even : (convertRun ⟨.fp32, .bf16, .rne, false, false, ⟨0, 0, 0⟩, 0, 0, 0⟩ [0x3F808000, 0x3F818000] []).codes =
    [0x3F80, 0x3F82] := by decide +kernel

/-- A descriptor of `n` elements of 64 bytes in a row: address, local side, CTRL, LKIND and POOL, SIG_PEG. -/
def desc (va local_ ctrl lkind sig n : Nat) : List Byte :=
  leBytes 8 va ++ leBytes 8 64 ++ leBytes 8 0 ++ leBytes 8 n ++ leBytes 8 local_ ++ leBytes 8 0 ++ leBytes 8 0 ++ leBytes 2 ctrl ++
    leBytes 1 63 ++ leBytes 1 lkind ++ leBytes 2 sig ++ leBytes 2 0

/-- A core whose first line holds a descriptor. -/
def described (d : List Byte) : CoreSt := { CoreSt.reset with ts := memWrite [] 0 d, x := [(1, 0x40), (2, 64)] }

theorem witness_WaitsAndBuffer :
    let c : CoreSt := { CoreSt.reset with x := [(1, 64), (2, 2097088)] }
    let cl : Cluster := { Cluster.reset with pools := [(3, ⟨0, 65, false, 1, 0, []⟩)] }
    issues (on c (ins 6 2 [(22, 7)])) 6 2 (fixed [(56, 56), (25, 22)]) = true ∧ issues (on c (ins 6 2 [(56, 1)])) 6 2 (fixed [(56, 56), (25, 22)]) = true ∧
    issues (on c (ins 7 3 [(60, 1)])) 7 3 (fixed [(60, 60), (44, 41)]) = true ∧ issues (on c (ins 6 6 [(26, 63), (32, 1)])) 6 6 (fixed [(36, 26)]) = true ∧
    (let s := on c (ins 6 3 [(32, 1), (37, 2), (42, 767)])
     issues s 6 3 (fixed [(51, 32)]) = true ∧ (issued s).core.canWrite (64 * 767) 64 = true ∧ idle s [1, 2] = true) ∧
    (let s := on c (ins 6 4 [(32, 1), (37, 2), (42, 767)])
     issues s 6 4 (fixed [(51, 32)]) = true ∧ (issued s).core.canRead (64 * 767) 64 = true) ∧
    (let s := onCluster cl c (ins 6 5 [(32, 1), (52, 3)])
     issues s 6 5 (fixed [(55, 52), (36, 32)]) = true ∧ (mget (issued s).cl.pools 3).isSome) := by decide +kernel

/-- `s` whose page 1 of context 1 is evicted. -/
def away (s : State) : State :=
  { s with tier := { s.tier with ptes := s.tier.ptes ++ [(2 ^ 27 + 1, Pair64.of (mkPte 2 1 false false false 0 true))] } }

def evictedVa : Nat := 0x200040

theorem witness_TransferIssue :
    ([0, 16].all (fun ctrl =>
      let s := on (described (desc 0x40 (49152 - 128) ctrl 0x10 0xFFFF 2)) (ins 6 0 [(22, 7)])
      let d := Desc.of (memRead (issued s).core.ts 0 64)
      issues s 6 0 (fixed [(25, 12)]) && d.valid .xfer && (issued s).core.canWrite d.local_ 128 && (issued s).core.canRead 0 64 &&
      decide ((issued s).core.xfers.length + s.epiOpen k0 < 8) &&
      (match s.xferPieces 1 d with
       | (u, .ok ps, _) => good (u.askPieces (.xfer k0 7) 0 1 (.program false) false d.scatter 0 ps).2.1
       | _ => false))) = true ∧
    (let d := Desc.of (desc evictedVa (49152 - 128) 0 0x10 0xFFFF 2)
     (match (away up).xferPieces 1 d with
      | (u, .ok ps, _) => (match (u.askPieces (.xfer k0 7) 0 1 (.program false) false false 0 ps).2.1 with | .wait _ => true | _ => false)
      | _ => false) = true ∧
     (match ((away up).askPiece (.daypack k0 15) 0 1 (.program false) false false 0 ⟨0, evictedVa, 192⟩).2 with | .wait _ => true | _ => false) =
       true) ∧
    ([0, 1].all (fun op =>
      let s := on (described []) (ins 7 op [(12, 1), (17, 191), (25, 49152 - 192), (41, 15)])
      issues s 7 op (fixed [(44, 12)]) && idle s [1] && (issued s).core.canWrite (49152 - 192) 192 &&
      good (s.askPiece (.daypack k0 15) 0 1 (.program false) false (op == 1) 0 ⟨0, 64, 192⟩).2)) = true := by decide +kernel

theorem witness_TransferCompletion :
    ([0, 16].all (fun ctrl =>
      let d := Desc.of (desc 0x40 0 ctrl 0x10 0xFFFF 1)
      let x : Xfer := ⟨0, desc 0x40 0 ctrl 0x10 0xFFFF 1, 0, false, 4, none, false, none⟩
      let s := on { CoreSt.reset with xfers := [(7, x)], nextOrd := 5 } 0
      s.moving 0 && !s.timePassed 0 &&
      (match s.xferPieces 1 d with
       | (u, .ok ps, _) =>
         let reach := ps.map (fun p => (p.va, p.len))
         let v := u.setCore k0 { u.core k0 with xfers := mset (u.core k0).xfers 7 { x with reach := some reach } }
         decide (u.eng = s.eng) && !(v.core k0).before 4 reach && !v.rowsMeet k0 reach && (if d.scatter
          then good (v.scatterPieces (.xfer k0 7) 0 1 (.program false) 0 d.whole ps (List.replicate 64 0)).2.1
          else good (v.gatherPieces (.xfer k0 7) 0 1 (.program false) false 0 ps).2.1)
       | _ => false))) = true ∧
    (let day := fun (op : DayOp) (ord : Nat) => (⟨0, op, 0, 64, 64, ord, false, none⟩ : Day)
     let s := on { CoreSt.reset with days := [(0, day .get 0), (2, day (.atom 3 7) 1)] } 0
     let p := on { CoreSt.reset with days := [(1, day .put 0)] } 0
     let h := on { CoreSt.reset with days := [(3, { day (.held 3 3 1 0 []) 0 with len := 8 })] } 0
     s.moving 0 = true ∧ (s.core k0).before 0 [(64, 64)] = false ∧ s.rowsMeet k0 [(64, 64)] = false ∧
     good (s.gatherPieces (.daypack k0 0) 0 1 (.program false) false 0 [⟨0, 64, 64⟩]).2.1 = true ∧
     (p.core k0).before 0 [(64, 64)] = false ∧
     good (p.scatterPieces (.daypack k0 1) 0 1 (.program false) 0 false [⟨0, 64, 64⟩] (List.replicate 64 0)).2.1 = true ∧
     (h.core k0).before 0 [(64, 8)] = false ∧ good (h.tryAtom 1 3 8 64 1 0 []).2 = true ∧
     ((out (.daypackComplete k0 2) s).core k0).getX 3 = 7) := by decide +kernel

theorem witness_Atomics :
    (atomRows.all (fun r =>
      let s := on (described []) (ins 7 2 [(12, 1), (41, 3), (45, r.2.1), (50, 5), (55, 6)])
      let held := on { described [] with xfers := [(0, ⟨0, [], 0, false, 0, some [(64, 64)], false, none⟩)], nextOrd := 1 }
        (ins 7 2 [(12, 1), (41, 3), (45, r.2.1), (50, 5), (55, 6)])
      issues s 7 2 atomFields && !mhas (issued s).core.days 3 && (List.range 32).all (fun x => !(issued s).core.xBusy x) &&
      !(issued s).core.before 0 [(64, r.2.2.1)] && !s.rowsMeet k0 [(64, r.2.2.1)] && issues held 7 2 atomFields &&
      (issued held).core.before 1 [(64, r.2.2.1)] &&
      (match s.reachVa 1 64 r.2.2.1 (.program false) 0 with
       | (_, .ok (_ :: _)) => true
       | _ => false))) = true ∧
    (let s := on (described []) (ins 7 2 [(12, 1), (25, 49088), (41, 0), (45, 0xD)])
     issues s 7 2 atomFields = true ∧ (issued s).core.canRead 49088 64 = true ∧ good (s.reachVa 1 64 64 (.program false) 0).2 = true) := by
  decide +kernel

theorem test_atomic_add : let s := on { CoreSt.reset with x := [(1, 0x40), (5, 7)] } (ins 7 2 [(12, 1), (45, 3), (50, 5)])
    ((out (.dpAtomAddInt64 k0) s).hbm.peek (2097152 + 64) 8) = leBytes 8 7 := by decide +kernel

theorem witness_ScansIssued :
    (scanRows.all (fun r =>
      let s := on .reset (ins 8 0 [(12, r.2), (31, if r.2 = 4 then 0 else 31)])
      issues s 8 0 scanUsed && bits (issued s).w 15 12 == r.2 && (issued s).cl.cores.all (fun c => !c.2.ended))) = true := by
  decide +kernel

/-- All 80 cores at the same scan. -/
def chained : State :=
  { up with eng := { up.eng with clusters := [(0, { Cluster.reset with
      state := .running, holder := some 1, image := [0]
      cores := (List.range 80).map (fun n => (n, { CoreSt.reset with wait := some .scan, v := [(1, 2), (2, 1)] }))
      scans := (List.range 80).map (fun n => (n, ⟨2, false, false, 1, 2, 3, 4⟩)) })] } }

theorem witness_ScanChains :
    chained.alive = true ∧ (chained.cluster 0).state = .running ∧ chained.inL0 1 = false ∧ (chained.cluster 0).scanning.length = 80 ∧
    ((chained.cluster 0).scanning.all (fun p => p.2.2.sop == 2 && p.2.2.excl == false && p.2.2.sat == false)) = true := by
  decide +kernel

/-- R129's neighbour, the example of three cores: 0.5 · 4 + 1, 0.25 · 3 + 2, 1 · 2.75 − 1. -/
theorem test_scan_example : ([(0x3F000000, 0x3F800000), (0x3E800000, 0x40000000), (0x3F800000, 0xBF800000)].foldl
    (fun (p : List W32 × W32) (ab : W32 × W32) => (p.1 ++ [scanOp 0 false ab.1 p.2 ab.2], scanOp 0 false ab.1 p.2 ab.2))
      ([], 0x40800000)).1 = [0x40400000, 0x40300000, 0x3FE00000] := by decide +kernel

/-- `s` with peg 16383 of context 1 at 5, and a route to node 9. -/
def pegged (s : State) : State :=
  { s with
    pegs := { s.pegs with pegs := [(16383, ⟨1, 5⟩)], quota := [(1, 2)] }
    guy := { s.guy with routes := [(9, (0x80000F00, 0x7FFFF0FF))] } }

theorem witness_ProgramPegs :
    let c : CoreSt := { CoreSt.reset with x := [(1, 16383), (2, 5), (3, 6)] }
    let word := fun (op val node : Nat) => pegged (on c (ins 9 op [(12, 1), (17, val), (32, node)]))
    ([word 0 2 0xFFFF, word 0 2 0].all (fun s => issues s 9 0 (fixed [(21, 12), (47, 32)]) && s.pegOwned 1 16383 && (issued s).writesDone s)) = true ∧
    issues (word 1 2 0xFFFF) 9 1 (fixed [(21, 12), (47, 32)]) = true ∧
    ([word 0 2 9, word 1 2 9].all (fun s => (s.sendBlock (srcCluster 0) 9 0 false true (pegBlock 9 s.guy.node 1 16383 false 5)).2)) = true ∧
    issues (word 1 2 9) 9 1 (fixed [(21, 12), (47, 32)]) = true ∧
    (let wait := fun (op val : Nat) => pegged (on c (ins 9 op [(12, 1), (17, val), (22, 0), (27, 31), (32, 0xFFFF)]))
     ([wait 2 2, wait 3 2, wait 2 3, wait 3 3].all (fun s =>
       issues s 9 2 (fixed [(31, 12), (47, 32)]) || issues s 9 3 (fixed [(31, 12), (47, 32)])) && !(wait 2 3).timePassed 0) = true) := by
  decide +kernel

theorem witness_StatisticsSlots :
    let c : CoreSt := { CoreSt.reset with slots := [(3, ⟨7, 0x40, .empty⟩)] }
    issues (on c (ins 0xB 0 [(12, 3), (14, 1), (19, 2)])) 0xB 0 (fixed [(23, 12)]) = true ∧
    issues (on c (ins 0xB 2 [(12, 3), (24, 31)])) 0xB 2 (fixed [(13, 12), (28, 24)]) = true ∧
    (let s := on c (ins 0xB 1 [(12, 3)])
     issues s 0xB 1 (fixed [(13, 12)]) = true ∧ (mget (issued s).core.slots 3).isSome = true ∧
       good (s.statMerge 0 1 (s.clusterStep 0) ⟨7, 0x40, .empty⟩).2 = true) := by decide +kernel

/-! ### Streams and copies -/

theorem witness_StreamIssue :
    let local_ := 0x100000000
    let started := fun (d : List Byte) => on (described d) (ins 6 1 [(26, 63)])
    (let s := started (desc 0x40 0x1000000000000000 0 0x20 0xFFFF 2)
     issues s 6 1 (fixed [(31, 26), (21, 12)]) = true ∧ (Desc.of (memRead (issued s).core.ts 0 64)).valid .stream = true ∧
     (Desc.of (memRead (issued s).core.ts 0 64)).lkind = 2) ∧
    (let s := started (desc 0x40 local_ 32 0 0xFFFF 2)
     issues s 6 1 (fixed [(31, 26), (21, 12)]) = true ∧ (Desc.of (memRead (issued s).core.ts 0 64)).valid .stream = true ∧
     (poolFor (issued s).cl (Desc.of (memRead (issued s).core.ts 0 64))).isSome = true ∧ (issued s).core.canRead 0 64 = true) := by
  decide +kernel

/-- A stream of two lines on pool 0, `issued` and `landed` of them so far. -/
def streaming (ctrl issued landed : Nat) : State :=
  let cl : Cluster := { Cluster.reset with
    pools := [(0, ⟨0, 2, ctrl % 32 ≥ 16, 2, 0, [63]⟩)]
    streams := [(63, ⟨0, 0, desc 0x40 0x200000000 ctrl 0 0xFFFF 2, 0, issued, landed, [], 0, true, false, 0, false, .start⟩)] }
  onCluster cl .reset 0

theorem witness_StreamProgress :
    ([0, 16].all (fun ctrl =>
      let s := streaming ctrl 0 0
      match s.stream? 0 63 with
      | some x =>
        let d := Desc.of x.desc
        let m := s.streamMover 0 63 x
        s.moving 0 && decide (x.issued < d.units) && x.tagOk && d.lkind == 0 &&
        (match (s.dataPieces m.ctx d (m.who false) 0 (d.span 0 1) 0) with
         | (u, .ok ps, _) => good (u.askPieces m.owner m.pc m.ctx (m.who false) d.noalloc false d.deadline ps).2.1
         | _ => false)
      | none => false)) = true ∧
    ([(0, 1, 0), (0, 2, 1), (16, 1, 0), (16, 2, 1)].all (fun p =>
      let s := streaming p.1 p.2.1 p.2.2
      match s.stream? 0 63 with
      | some x =>
        let d := Desc.of x.desc
        let m := s.streamMover 0 63 x
        let lo := p.2.2
        d.group == 1 && decide (lo + 1 ≤ x.issued ∧ x.landed ≤ lo) &&
        (match s.moveGroup m d (s.ringSide 0 x) x.pack lo (lo + 1) with
         | (u, run, .ok (), _) => good (u.packMerge m.user run d d.deadline).2
         | _ => false)
      | none => false)) = true := by decide +kernel

theorem witness_CopiesAndDeadlines :
    let d := desc 0x40 0x1000 0 0x20 0xFFFF 1
    let s := with_ up 0x0300 (leBytes 48 0 ++ d)
    turn s 0x0300 = true ∧ (Desc.of d).valid .copy = true ∧
    (let x : Copy := ⟨q0, d, 0, 0, true, false, false, 0, 0, .start⟩
     let t := { s with tier := { s.tier with copies := [x] } }
     t.copy? q0 = some x ∧ t.inL0 1 = false ∧
     (match (t.copyLate q0).copyGroups { x with late := x.late || (t.copyLate q0).timePassed x.deadline } (Desc.of x.desc).units with
      | (u, y, .ok ()) => good (u.packMerge y.mover.user y.pack (Desc.of y.desc) y.deadline).2
      | _ => false) = true ∧
     (let t := { s with tier := { s.tier with copies := [{ x with tagOk := false }] } }
      (t.copy? q0).isSome = true ∧ x.lastTag + 1000 ≤ t.local_)) ∧
    ((streaming 0 0 0).moving 0 = true ∧ ((streaming 0 0 0).stream? 0 63).isSome = true ∧ (0 : Nat) + 1000 ≤ (streaming 0 0 0).local_) ∧
    (let e : Episode := ⟨.cmd q0, 1, 3, 0, false⟩
     let t : State := { up with tier := { up.tier with episodes := [e] }, regs := [(rPoolCtrl, 0x10000)] }
     t.tier.episodes.find? (fun e => e.unit == .cmd q0 && e.ctx == 1) = some e ∧
     t.stallReportUs = 1 ∧ 1000 * t.stallReportUs ≤ t.local_ - e.since) := by decide +kernel

/-! ### Launches -/

/-- `s` with bytes in page 0 of context 1. -/
def holding (s : State) (off : Nat) (bs : List Byte) : State := { s with hbm := s.hbm.poke (2097152 + off) bs }

/-- A program image of one END. -/
def image1 : List Byte :=
  let body := leBytes 16 (ins 0xA 3 [])
  leBytes 4 0x50470A10 ++ leBytes 2 1 ++ leBytes 2 0 ++ leBytes 4 (crc32c body).toNat ++ leBytes 52 0 ++ body

def launch1 (phase : LaunchPhase) : Launch :=
  ⟨q0, 0x1000, false, 0, 0, false, 0, 0, 7, [0], [1, 2, 3, 4, 5, 6, 7, 8], [], phase, false, 0, none, 0⟩

theorem witness_LaunchAndStart :
    (let s := holding (cmd 0x0200 176 [(16, 0x1000), (64, 1)]) 0x1000 image1
     turn s 0x0200 = true ∧ (s.begin q0).launchRefusal 1 [0] = none ∧ clusterSet (taken0 s).packet 64 = [0] ∧
     (match (s.begin q0).readVa 1 0x1000 64 (.other false) false 0 with
      | (s1, .ok h) => fld h 0 4 == 0x50470A10 && fld h 4 2 == 1 && fld h 6 2 == 0 && zeroBytes h 12 64 &&
        (match s1.readVa 1 0x1040 16 (.other false) false 0 with
         | (_, .ok b) => (crc32c b).toNat == fld h 8 4
         | _ => false)
      | _ => false) = true) ∧
    (let s := { up with eng := { up.eng with launches := [launch1 .queued] } }
     let u := s.launchPegs 1 0 1
     s.alive = true ∧ s.inL0 1 = false ∧ (s.launch? q0).isSome = true ∧ u.launch? q0 = some (launch1 .queued) ∧
     (u.firstQueued 1 0).map (·.q) = some q0 ∧ u.launchRefusal 1 [0] = none ∧ (u.cluster 0).state = .idle ∧ u.cur.power = .active) := by
  decide +kernel

theorem witness_LaunchEnds :
    turn (cmd 0x0201 48 []) 0x0201 = true ∧
    (let s := cmd 0x0202 48 [(16, 1), (24, 1)]
     turn s 0x0202 = true ∧ mhas s.host.ctxs 1 = true ∧ (s.cluster 0).holder = some 1 ∧ turn (cmd 0x0203 48 [(16, 1), (24, 1)]) 0x0203 = true) ∧
    (let cl : Cluster := { Cluster.reset with holder := some 1 }
     let s := fun (x : Cluster) => { up with eng := { up.eng with clusters := [(0, x)], launches := [launch1 .running] } }
     let ended := s { cl with state := .running, cores := (List.range 80).map (fun n => (n, { CoreSt.reset with ended := true })) }
     (ended.cluster 0).state = .running ∧ (∀ j : Fin 80, (ended.core ⟨0, j⟩).ended = true) ∧ (s { cl with state := .draining }).drained 0 = true ∧
     (s cl).launch? q0 = some (launch1 .running) ∧ ((s cl).cluster 0).launch = none) ∧
    (let s : State := { up with eng := CoreSide.reset, regs := [(rEnvelope, 0x500000000)] }
     let t := s.setCluster 0 { Cluster.reset with state := .idle }
     (t.cluster 0).state = .idle ∧ (t.cluster 0).holder = none ∧ bits (t.reg rEnvelope) 63 32 = 5 ∧ 1000 * 5 ≤ t.local_) := by
  decide +kernel

/-! ### Statistics, time, pegs and the catalogue -/

theorem witness_RecordsInitialised :
    ([(0x0800, 176), (0x0802, 48), (0x0310, 48)].all (fun p =>
      let s := cmd p.1 p.2 [(16, 0x2000)]
      turn s p.1 && good ((s.begin q0).writeVa 1 0x2000 (List.replicate 2112 0) (.other false) 0).2)) = true := by decide +kernel

theorem witness_ListCommands :
    ([0x0801, 0x0803].all (fun op =>
      let each := if op = 0x0803 then 16 else 8
      let s := holding (cmd op 48 [(16, 0x1000), (24, 1)]) 0x1000 (leBytes each (0x8000 + (if op = 0x0803 then 0x9000 * 2 ^ 64 else 0)))
      turn s op &&
      (match (s.begin q0).readVa 1 0x1000 each (.other false) false 0 with
       | (u, .ok b) =>
         let items := [fld b 0 each]
         let r := if op = 0x0801 then runItems (fun v va => v.closeItem q0 va 0) u 0 0 none items
           else runItems (fun v x => v.advanceEntry q0 0 x) u 0 0 none items
         decide (r.2.1 = .done ∧ r.2.2.1 = 1 ∧ r.2.2.2 = none)
       | _ => false))) = true := by decide +kernel

theorem bsub_length (bs : List Byte) (o n : Nat) : (bsub bs o n).length = n := by
  simp only [bsub, List.length_append, List.length_take, List.length_replicate]
  omega

theorem advanceTable_length (r : List Byte) (n : Nat) : (advanceTable r n).length = 2112 := by
  simp only [advanceTable, List.length_append, bsub_length, List.length_replicate, leBytes, List.length_cons, List.length_nil]

theorem writeVa_length (s : State) (ctx va : Nat) (a b : List Byte) (who : Accessor) (d : Nat) (h : a.length = b.length) :
    (s.writeVa ctx va a who d).2 = (s.writeVa ctx va b who d).2 := by
  unfold State.writeVa
  rw [h]
  rcases s.parts ctx va b.length true who d with ⟨u, _ | _ | _ | _⟩ <;> rfl

/-- An item of PACK_TABLE_ADVANCE is done wherever a record of 2,112 bytes at the step can be read and written. -/
theorem advanceRecord_done (s v : State) (q : CmdRef) (step va : Nat) (r : List Byte) (h : local64 va = true)
    (a : s.readVa q.ctx.val va 2112 (.other false) false 0 = (v, .ok r)) (b : fld r 0 4 = step)
    (w : State) (ps : List (Nat × Nat)) (c : v.parts q.ctx.val va 2112 true (.other false) 0 = (w, .ok ps))
    (d : ∀ bs, bs.length = 2048 → ∃ x, w.writeVa q.ctx.val (va + 64) bs (.other false) 0 = (x, .ok ()) ∧
      (x.writeVa q.ctx.val va (List.replicate 64 0) (.other false) 0).2 = .ok ()) : (s.advanceRecord q step va).2 = .done := by
  have n := advanceTable_length r step
  obtain ⟨x, e, f⟩ := d ((advanceTable r step).drop 64) (by rw [List.length_drop, n])
  have g := writeVa_length x q.ctx.val va ((advanceTable r step).take 64) (List.replicate 64 0) (.other false) 0
    (by rw [List.length_take, n, List.length_replicate]; decide)
  simp only [State.advanceRecord, h, Bool.not_true, Bool.false_eq_true, if_false, a, b, ne_eq, not_true, State.writeAdvanced, n, c, e, g, f]
  rfl

theorem witness_ListCommands_pack :
    let s := holding (cmd 0x0311 48 [(16, 0x1000), (24, 1)]) 0x1000 (leBytes 8 0x8000)
    turn s 0x0311 = true ∧ local64 0x8000 = true ∧
    (match (s.begin q0).readVa 1 0x1000 8 (.other false) false 0 with
     | (u, .ok b) => fld b 0 8 == 0x8000 &&
       (match u.readVa 1 0x8000 2112 (.other false) false 0 with
        | (v, .ok r) => fld r 0 4 == 0 && (match v.parts 1 0x8000 2112 true (.other false) 0 with
          | (w, .ok _) => (match w.writeVa 1 0x8040 (List.replicate 2048 0) (.other false) 0 with
            | (x, .ok ()) => good (x.writeVa 1 0x8000 (List.replicate 64 0) (.other false) 0).2
            | _ => false)
          | _ => false)
        | _ => false)
     | _ => false) = true := by decide +kernel

def beaconBlock (arg : Nat) : InBlock := ⟨0, blockBytes 0 9 tyBeacon 0 0 0 500 arg (leBytes 8 900)⟩

/-- `s` whose port 0 is up in a mode, with blocks waiting. -/
def wired (s : State) (mode : Nat) (l : List InBlock) : State :=
  { s with guy := { s.guy with ports := [(0, { PortSt.reset with mode := mode, state := .up, trained := true, neighbour := 9, inbox := l })] } }

def timed (ctrl ptp : W64) : State := { up with regs := [(rTimeCtrl, ctrl), (rTimePtp, ptp)] }

theorem witness_TimeCommands :
    turn (cmd 0x0600 48 [(16, 10 ^ 12)]) 0x0600 = true ∧ up.timeSource = 0 ∧ turn (cmd 0x0601 48 [(16, 7)]) 0x0601 = true ∧
    (let s : State := { timed 3 0 with time := { up.time with ppsReady := true } }
     s.timeSource = 3 ∧ s.alive = true) ∧
    ((timed 1 0).timeSource ≠ 0 ∧ (timed 1 0).time.lastMeasure + (timed 1 0).lossIntervals * (timed 1 0).measureNs ≤ 10 ^ 12) ∧
    ((timed 0x400 0).reg 0x020010).testBit 10 = true ∧ (timed 0x400 0).time.lastPpsOut ≠ 10 ^ 12 / 10 ^ 9 ∧
    (let s : State := { up with plans := [(0, ⟨none, none, true, none⟩),
       (1, ⟨none, some (leBytes 160 (enc [(0, 1000), (128, 10 ^ 12 - 5000)])), false, none⟩)] }
     let b := leBytes 160 (enc [(0, 1000), (128, 10 ^ 12 - 5000)])
     mget s.plans 0 = some ⟨none, none, true, none⟩ ∧ (mget s.plans 1).map (·.committed) = some (some b) ∧ planEpoch b ≤ s.time.ns ∧
     (s.time.ns - planEpoch b) % planPeriod b < 2 ∧ (up.time.ns % 1000000000 < 2)) := by decide +kernel

theorem witness_BeaconsAndPtp :
    (let s := wired (timed 2 0) 1 []
     s.beaconing = true ∧ s.beaconPort = some 0 ∧ s.time.lastBeacon + s.beaconIntervalNs ≤ s.time.localNs) ∧
    (let s := wired (timed 0x200 0) 1 [beaconBlock 0]
     s.arrived 0 tyBeacon = some (beaconBlock 0) ∧ blkArg (beaconBlock 0).bytes = 0 ∧ s.beaconMaster = true ∧ (s.port 0).direct = true) ∧
    (let s := wired { timed 2 0 with time := { up.time with beacon := some 400 } } 1 [beaconBlock 1]
     s.arrived 0 tyBeacon = some (beaconBlock 1) ∧ blkArg (beaconBlock 1).bytes = 1 ∧ s.beaconing = true ∧ s.time.beacon = some 400) ∧
    (let s := wired (timed 1 0) 2 []
     s.ptpOn = true ∧ (s.port 0).switched = true ∧ (s.port 0).usable = true ∧ s.masterPorts = [0] ∧ s.masterPorts ≠ [] ∧
     s.time.ptp.lastSync + s.syncNs ≤ s.time.localNs) ∧
    (let c : PtpClock := { priority1 := 0, clockClass := 6, accuracy := 0x21, variance := 0, priority2 := 0, grandmaster := 5, steps := 0 }
     let m : PtpMaster := { port := 0, source := 5, clock := c }
     let s := wired { timed 1 1 with time := { up.time with ptp := ⟨some (3, 5, 6), some (7, 8), some (4, 9), some m, 0, 0⟩ } } 2 []
     s.timeSource = 1 ∧ s.slaveOnly = true ∧ s.time.ptp.master = some m ∧ (wired (timed 1 1) 2 []).time.ptp.master = none ∧
     betterClock (4, c) (5, c) = true ∧ m.port = 0) := by
  decide +kernel

theorem witness_TimeMeasured : State.reset.time.state = .unset ∧ up.time.state ≠ .unset ∧
    (1000 * bits (up.reg 0x020010) 47 32 : Nat) = 1000 * bits (regDefault 0x020010).toNat 47 32 := by decide +kernel

theorem witness_PegCommands :
    turn (cmd 0x0610 48 [(16, 1), (20, 5)]) 0x0610 = true ∧
    (let s := pegged (cmd 0x0611 48 [(16, 1)])
     turn s 0x0611 = true ∧ (s.pegs.pegs.filter (fun x => x.2.owner == 1)).length + 1 ≤ mgetD s.pegs.quota 1 0) ∧
    (let s := pegged (cmd 0x0612 48 [(16, 16383), (20, 1)])
     turn s 0x0612 = true ∧ s.pegOwned 1 16383 = true) ∧
    ([0x0613, 0x0614].all (fun op => [0xFFFF, 9].all (fun n =>
      turn (pegged (cmd op 48 [(16, 16383), (20, n), (24, 2 ^ 64 - 1)])) op))) = true ∧
    ([0x0615, 0x0616].all (fun op => [5, 6].all (fun v =>
      turn (pegged (cmd op 48 [(16, 16383), (24, v)])) op))) = true ∧
    (let s := pegged up
     mget s.pegs.pegs 16383 = some ⟨1, 5⟩ ∧ s.pegs.waits = [] ∧ s.timePassed 0 = false ∧ ((5 : W64).toNat ≤ (5 + 1 : W64).toNat)) := by
  decide +kernel

/-- A peg has room beside an allocated one. -/
theorem witness_PegCommands_room : (pegged up).freeBases 16383 = [0] := by decide +kernel

theorem witness_RemotePegOperations :
    let b := fun (ctx : Nat) (set : Bool) => (⟨0, pegBlock 0 9 ctx 16383 set 7⟩ : InBlock)
    let s := fun (x : InBlock) => wired (pegged up) 1 [x]
    (s (b 1 true)).arrived 0 tyPeg = some (b 1 true) ∧ blkCtx (b 1 true).bytes % 1024 = 1 ∧ bits (blkAddr (b 1 true).bytes) 13 0 = 16383 ∧
    (s (b 2 false)).arrived 0 tyPeg = some (b 2 false) ∧ blkCtx (b 2 false).bytes % 1024 = 2 := by decide +kernel

theorem witness_CatalogueBuffers :
    (let s := cmd 0x0620 48 [(16, 0x1000), (24, 1024)]
     turn s 0x0620 = true ∧
     (match (s.begin q0).parts 1 0x1000 (64 + 64 * 1024) true (.other false) 0 with
      | (u, .ok _) => good (u.writeVa 1 0x1000 (List.replicate 64 0) (.other false) 0).2
      | _ => false) = true) ∧
    (let s := cmd 0x0621 48 [(16, 0x1000000000001000), (24, 1024)]
     turn s 0x0621 = true ∧ hostLookup s 1 0x1000000000001000 true = some 0x401000 ∧
     ((pagesOf 0x1000000000001000 (64 + 64 * 1024)).all (fun p => hostLookup s 1 p.1 true == some (0x401000 + (p.1 - 0x1000000000001000)))) = true) := by
  decide +kernel

/-! ### The host side -/

/-- TAIL at the edge: all 1,024 units ahead of HEAD, one more, one backwards; CQ_HEAD at CQ_TAIL and past it. -/
theorem witness_Doorbells :
    up.hostUp = true ∧ up.ring? 1 0 = some ring0 ∧ up.ring? 1 3 = none ∧
    (let x := ring0
     ((1032 : W32) - x.head).toNat = 1024 ∧ ((1033 : W32) - x.head).toNat = 1025 ∧ (x.tail - x.head).toNat = 0 ∧ ((7 : W32) - x.head).toNat > 1024 ∧
     ((0 : W32) - x.cqHead).toNat ≤ (x.cqTail - x.cqHead).toNat ∧ (x.cqTail - x.cqHead).toNat < ((1 : W32) - x.cqHead).toNat) := by
  decide +kernel

/-- The header of R400's example layout: SEQ, context, length, opcode, followed by its complement. -/
def header (seq ctx len op : Nat) : List Byte :=
  let h := enc [(42, seq), (32, ctx), (16, len), (0, op)]
  leBytes 8 h ++ leBytes 8 (2 ^ 64 - 1 - h)

/-- A ring of context 1 with one unit ready at its head, whose first bytes are `bs`. -/
def ringed (bs : List Byte) (poll : Option Nat) : State :=
  let x : Ring := { ring0 with tail := 9, pollSince := poll }
  { up with
    host := { up.host with rings := [(4, x)] }
    hbm := up.hbm.poke (unitPa 1 0 x 0) bs }

theorem witness_PacketTaking :
    let x : Ring := { ring0 with tail := 9 }
    let ok := fun (s : State) => s.taking && s.ringOpen 1 0 x && takeHeaderOk 1 x (s.headerAt 1 0 x) && s.turnRing == some 4 &&
      s.hbm.stacksReady (unitParts 1 0 x 1) && ((unitParts 1 0 x 1).findSome? (fun p => s.hbm.damagedIn p.1 p.2)).isNone
    (let s := ringed (header 6 1 1 0) none
     ok s = true ∧ s.ring? 1 0 = some x ∧ packetFault 1 (peekParts s.hbm (unitParts 1 0 x 1)) = none) ∧
    (let s := ringed (header 6 1 1 0x08FF) none
     ok s = true ∧ (packetFault 1 (peekParts s.hbm (unitParts 1 0 x 1))).isSome = true) ∧
    ([header 6 1 1 0, header 5 1 1 0].all (fun h =>
      let s := ringed h (some 0)
      s.taking && (s.ring? 1 0).any (fun y => y.pollSince == some 0 && decide (y.lastPoll + 1000 ≤ s.time.localNs) &&
        decide (0 + 1000 * s.tornUs ≤ s.time.localNs) && takeHeaderOk 1 y (s.headerAt 1 0 y) == (h == header 6 1 1 0)))) = true := by
  decide +kernel

theorem test_header_layout : fld (header 1 5 1 0x0200) 0 8 = 0x0000_0405_0001_0200 := by decide +kernel

theorem witness_CompletionRecord :
    let s := cmd 0 48 []
    s.findTaken q0 = some (taken0 s) ∧ s.ring? 1 0 = some ring0 ∧ s.host.link.dlUp = true ∧ (fld (taken0 s).packet 0 8).testBit 24 = false := by
  decide +kernel

theorem witness_Interrupts :
    (let x : Ring := { ring0 with irqSince := some 5, coalNs := 7 }
     let s : State := { up with host := { up.host with rings := [(4, x)], msix := [(2047, ⟨0, 0, true, true⟩)] } }
     s.ring? 1 0 = some x ∧ x.coalNs ≠ 0 ∧ 5 + x.coalNs ≤ s.time.localNs ∧ s.hostUp = true ∧
       mget s.host.msix 2047 = some ⟨0, 0, true, true⟩) := by decide +kernel

theorem witness_HostAccesses :
    let s : State := { up with host := { up.host with
      apertures := [(15, ⟨1, 0, true, true⟩)]
      placements := [(0, ⟨7, 1, 0x100, 8, 0x40, none⟩), (1, ⟨7, 1, 0x200, 8, 0x80, some 3⟩)] } }
    s.hostUp = true ∧
    ([true, false].all (fun w => match (s.hostAccess 1 64 8 w).2 with | .parts l => (l.findSome? (fun p => s.hbm.damagedIn p.1 p.2)).isNone | _ => false)) = true ∧
    s.isPlacer 7 = true ∧
    ([0x100, 0x200].all (fun off => (s.host.placements.find? (fun p => p.2.requester == 7 && decide (p.2.offset ≤ off) &&
      decide (off + 8 ≤ p.2.offset + p.2.length))).isSome)) = true ∧
    ([(0x40000, true), (0x70000, false)].all (fun p => (s.ring? (p.1 / 0x40000) (p.1 / 0x10000 % 4)).isSome == p.2 &&
      s.hbm.stacksReady [(0xFFD0000000 + p.1, 65536)] && !s.hbm.stackDown [(0xFFD0000000 + p.1, 65536)] &&
      decide (p.1 / 0x10000 = (p.1 + 65536 - 1) / 0x10000))) = true := by decide +kernel

theorem witness_HostLink :
    let down := fun (l : LinkSt) (perst : Bool) => { up with host := { up.host with link := l, perstN := perst } }
    up.alive = true ∧ up.host.link.dlUp = true ∧ up.board.functionReady = true ∧ up.serving = true ∧ up.host.perstN = true ∧
    (down LinkSt.reset true).host.link.downSince = none ∧
    (let s := down { LinkSt.reset with downSince := some (10 ^ 12 - 1000000 * up.holdMs) } true
     s.host.link.downSince = some (10 ^ 12 - 1000000 * s.holdMs) ∧ s.time.localNs ≤ 10 ^ 12 - 1000000 * s.holdMs + 1000000 * s.holdMs ∧
     10 ^ 12 - 1000000 * s.holdMs + 1000000 * s.holdMs ≤ s.time.localNs) ∧
    (down LinkSt.reset false).host.perstN = false ∧
    ({ up with board := { up.board with functionReady := false } } : State).host.link.dlUp = true := by decide +kernel

theorem witness_HostCommands :
    ([(0x0000, []), (0x0010, [(16, 15), (17, 3), (20, 1), (24, 0)]), (0x0011, [(16, 15)]), (0x0012, [(16, 15)]),
      (0x0012, [(16, 15), (17, 1), (18, 7), (20, 1), (32, 8), (40, 0x40)]), (0x0700, [(16, 1023)]), (0x0701, [(16, 1)]),
      (0x0702, [(16, 1), (18, 3)]), (0x0703, [(16, 0), (18, 0)]), (0x0704, [(16, 1), (20, 8)])].all (fun p => turn (cmd p.1 48 p.2) p.1)) = true ∧
    mhas up.host.ctxs 1 = true ∧ mhas up.host.ctxs 1023 = false ∧ up.ring? 1 3 = none ∧ (up.ring? 0 0).isSome = true ∧
    (let s := pegged (cmd 0x0012 48 [(16, 0), (17, 3), (18, 7), (20, 1), (32, 8), (40, 0x40), (48, 16383)])
     turn s 0x0012 = true ∧ s.pegOwned 1 16383 = true) ∧
    (let s : State := { up with host := { up.host with ctxs := [(0, ⟨0, 0, 0, true⟩), (1, ⟨0, 0, 0, true⟩)] } }
     (mget s.host.ctxs 1).map (·.faulted) = some true ∧ s.reg 0x080218 % 4 = 0 ∧ ((8 : W32) - ring0.head).toNat ≤ (ring0.tail - ring0.head).toNat) ∧
    ((1 : W64).getLsbD 0 = true ∧ mhas ({ up with host := { up.host with ctxs := [] } } : State).host.ctxs 0 = false ∧ up.rst.ready = true) := by
  decide +kernel

/-! ### Registers, the Curator and boot -/

theorem witness_RejectedProtectedWrites : up.hostUp = true ∧ up.board.functionReady = true ∧
    (∀ x, ¬ Matched (.lower 7) x) ∧ (∀ x, ¬ Matched (.upper 7) x) ∧ (∀ x, ¬ Matched (.full 0) x) := by
  refine ⟨by decide +kernel, by decide +kernel, ?_, ?_, ?_⟩
  · intro x h
    exact RegValue.noConfusion h
  · intro x h
    exact RegValue.noConfusion h
  · intro x h
    have e : (0 : W64) = rwpPair x := RegValue.full.inj h
    have a : (rwpPair x).toNat = 0 := by rw [← e]; rfl
    simp only [rwpPair, BitVec.toNat_ofNat, BitVec.toNat_not] at a
    have := x.isLt
    omega

theorem witness_RegisterWrites : up.hostUp = true ∧ rwMask 0 = none ∧ (0 : Nat) ≠ 0x040058 ∧
    mget ({ up with host := { up.host with msix := [(2047, ⟨0, 0, true, true⟩)] } } : State).host.msix 2047 = some ⟨0, 0, true, true⟩ := by
  decide +kernel

/-- The complement of R8's example, at the edges of the power cap and for a throttle point between two points. -/
theorem test_protected : rwpPair 0x1B4 = 0xFFFF_FE4B_0000_01B4 ∧
    (out (.curPowerCapWrite (.full (rwpPair 599))) up).reg 0x030010 = (rwpPair 600).toNat ∧
    (out (.curThrottlePointWrite (.full (rwpPair 1400))) up).reg 0x030018 = (rwpPair 1350).toNat := by decide +kernel

/-- How many spare rows a stack has is free (log entry 12), so that none is counted here. -/
theorem witness_ProtectedWrites : up.hostUp = true ∧ Matched (.full (rwpPair 0x20000001)) 0x20000001 ∧
    (∃ i : Fin 8, (i.val = 7 ∨ 2250 - 150 * i.val ≤ 2399) ∧ (i.val = 0 ∨ 2399 < 2400 - 150 * i.val)) ∧
    bits 0x20000001 27 2 = 0 ∧ bits 0x20000001 31 28 = 2 ∧ up.serving = true ∧ bits 0x40000000 31 30 = 1 ∧ up.hbm.hpprState = 0 ∧
    (up.stack 0).state = .ready ∧ (up.stack 0).trained = true ∧ mhas up.rst.l2 0 = false ∧
    (let s := fun (k : Stack) => ({ up with hbm := { up.hbm with stackList := [(0, k)], hpprState := 4 } } : State)
     ((s .reset).stack 0).trained = false ∧ ((s .reset).stack 0).state ≠ .failed ∧
     ((s { Stack.reset with state := .loopback, trained := true }).stack 0).state = .loopback ∧
     ((s { Stack.reset with state := .failed }).stack 0).state = .failed ∧
     (s { Stack.reset with hardUsed := [(0, Config.spareRows 0 0)] }).sparesLeft 0 = 0) := by
  refine ⟨by decide +kernel, rfl, ⟨0, by decide⟩, by decide +kernel, by decide +kernel, by decide +kernel, by decide +kernel,
    by decide +kernel, by decide +kernel, by decide +kernel, by decide +kernel, by decide +kernel, by decide +kernel, by decide +kernel,
    by decide +kernel, ?_⟩
  show Config.spareRows 0 0 - (0 + Config.spareRows 0 0 + 0) = 0
  omega

theorem witness_RollbackFuses :
    let s : State := { up with board := { up.board with svn := 64 } }
    s.hostUp = true ∧ Matched (.full (rwpPair 64)) 64 ∧ s.board.rollback < 64 ∧ (64 : Nat) ≤ s.board.svn ∧
    ¬ (up.board.rollback < 64 ∧ 64 ≤ up.board.svn ∧ 64 ≤ 64) := by
  exact ⟨by decide +kernel, rfl, by decide +kernel⟩

theorem test_rollback : (out (.glbRollbackWrite (.full (rwpPair 64))) { up with board := { up.board with svn := 64 } }).board.rollback = 64 ∧
    (out (.glbRollbackWrite (.full (rwpPair 64))) up).board.rollback = 0 := by decide +kernel

theorem witness_SensorSamples : up.alive = true ∧ up.cur.restartSince = none ∧ (up.sensor 0).failed = 0 ∧
    (([2000, -3000] : List Int).all (fun x => decide (x.natAbs ≤ 3000))) = true ∧ 10 < (11 : Int).natAbs ∧ up.cur.monitorsOut.contains 0 = false := by
  decide +kernel

/-- The median of 10, 30 and 20 starts the filter at 20; the next median, 30, moves it by a quarter of 10. -/
theorem test_filter :
    let x := ((Sensor.reset.take 2 10).take 2 30).take 2 20
    x.y = some (20 * 2 ^ 32) ∧ (x.take 2 90).y = some (20 * 2 ^ 32 + 10 * 2 ^ 30) := by decide +kernel

theorem witness_PowerAndThrottle :
    let s := fun (f : CurSt → CurSt) => ({ up with cur := f up.cur, regs := [(0x030020, 0x1_0000_0000)] } : State)
    up.alive = true ∧ up.cur.restartSince = none ∧ (s (fun c => { c with rise := some (1, 2) })).cur.rise = some (1, 2) ∧
    up.cur.causes = [] ∧ up.regulators = [] ∧ up.cur.fastLow = false ∧ (s (fun c => { c with fastLow := true })).cur.fastLow = true ∧
    (s (fun c => { c with fastHold := some 0 })).cur.fastHold = some 0 ∧ 0 + 1000000 ≤ up.time.localNs ∧
    (let t := s id
     t.rst.ready = true ∧ t.cur.power = .active ∧ bits (t.reg 0x030020) 63 32 = 1 ∧ (t.eng.clusters.all (fun c => !c.2.busy)) = true ∧
       t.cur.busyUntil + 1000 ≤ t.time.localNs) ∧
    (s (fun c => { c with waking := some (.rest, 0) })).cur.waking = some (.rest, 0) ∧ 0 + 30000000 ≤ up.time.localNs ∧
    (s (fun c => { c with restartSince := some 0 })).cur.restartSince = some 0 := by decide +kernel

/-- The loop at rest: the power lies between 95 % of the cap and the cap. -/
theorem witness_PowerAndThrottle_loop : up.ceilIdx ≤ up.cur.loop ∧ up.cur.point = up.cur.loop ∧ up.cur.loop ≤ up.floorIdx ∧
    (∃ u : State, u = { up with regs := [(0x030010, rwpPair 0)] } ∧ u.power ≤ (bits (u.reg 0x030010) 15 0 : Nat) * wattUnit ∧
      95 * ((bits (u.reg 0x030010) 15 0 : Nat) * wattUnit) ≤ 100 * u.power) := by
  refine ⟨by decide +kernel, by decide +kernel, by decide +kernel, _, rfl, by decide +kernel, by decide +kernel⟩

theorem witness_CuratorServices :
    up.board.pwrGood = true ∧ turn (cmd 0x0750 48 []) 0x0750 = true ∧
    (let s := cmd 0x0750 48 [(16, 1)]
     turn s 0x0750 = true ∧ (∀ x ∈ s.host.taken, x.q = q0) ∧
     (let t : State := { s with host := { s.host with taken := s.host.taken ++ [⟨⟨1, 0, 6⟩, [], false, false⟩] } }
      turn t 0x0750 = true ∧ ∃ x ∈ t.host.taken, x.q ≠ q0)) ∧
    up.sensorGone 0 = false ∧ up.sensorGone 335 = true ∧ (1001 : BitVec 16).toNat = 1001 ∧ (0 : BitVec 16).toNat = 0 ∧
    336 < (337 : BitVec 16).toNat ∧
    (let x : PatchFound := ⟨true, true, true, 0, []⟩
     x.present = true ∧ x.image.length ≤ 98304 ∧ x.digestOk = true ∧ x.signaturesOk = true) ∧
    (let s := cmd 0x0751 48 [(16, 0x1000)]
     turn s 0x0751 = true ∧ good ((s.begin q0).writeVa 1 0x1000 (List.replicate 2688 0) (.other false) 0).2 = true) ∧
    turn (cmd 0x0752 48 []) 0x0752 = true ∧ up.board.patchFloor ≤ 0 := by decide +kernel

/-- No image can be shown to pass: signatures and digests are opaque (log entry 6). The bytes of zero power-on memory fail. -/
theorem witness_PowerAndBoot :
    let b := fun (f : BoardSt → BoardSt) => ({ up with board := f up.board } : State)
    up.board.pwrGood = true ∧ State.reset.board.pwrGood = false ∧
    (b (fun x => { x with phase := .rom })).board.phase = .rom ∧
    (let s := b (fun x => { x with phase := .waitImage })
     s.alive = true ∧ s.host.link.dlUp = true ∧ s.board.functionReady = true ∧ s.host.taken = [] ∧ bits (s.reg 0x000208) 25 15 < 1792 ∧
     s.board.relane = false ∧ (s.checkImage stagingBase).1 = 1) ∧
    (let s := cmd 0x0772 48 []
     s.host.link.dlUp = true ∧ s.board.functionReady = true ∧ ∃ c ∈ s.host.taken, c.opcode = 0x0772) ∧
    (let s : State := { b (fun x => { x with phase := .hbmTraining }) with hbm := { up.hbm with training := List.range 16 } }
     s.hbm.training = List.range 16 ∧ s.hbm.loop = none ∧ s.board.phase = .hbmTraining ∧ s.rst.l3 = none ∧ s.rst.l2 = []) ∧
    (b (fun x => { x with restart := some 5 })).board.restart = some 5 := by decide +kernel

theorem witness_StageAndCommit :
    (let s := cmd 0x0770 48 [(16, 0x1000), (24, 0x4000), (28, 64)]
     turn s 0x0770 = true ∧ (s.begin q0).hbm.stacksReady [(0xFE04004000, 64)] = true ∧ good ((s.begin q0).readVa 1 0x1000 64 (.other false) true 0).2 = true) ∧
    (let s := cmd 0x0771 48 [(16, 0x1000)]
     turn s 0x0771 = true ∧ (s.begin q0).hbm.stacksReady [(0xFE07800000, 4096)] = true ∧ good ((s.begin q0).readVa 1 0x1000 4096 (.other false) true 0).2 = true) ∧
    (let s := cmd 0x0772 48 []
     turn s 0x0772 = true ∧ s.rst.l2 = [] ∧ s.rst.l3 = none ∧ s.configFault.isSome = true ∧ (∀ x ∈ s.host.taken, x.q = q0)) ∧
    (let s := cmd 0x0772 48 [(16, 1)]
     turn s 0x0772 = true ∧ (∀ x ∈ s.host.taken, x.q = q0) ∧ (fld (taken0 s).packet 16 4).testBit 0 = true ∧
       (s.checkImage stagingBase).1 = 1) := by decide +kernel

theorem witness_AttestationAndTap :
    let t := fun (x : Transport) => ({ up with board := { up.board with spdm := [(x, ⟨true, true, true⟩)] } } : State)
    ([Transport.doe, .mctp].all (fun x => (t x).spdmReached x && (t x).rst.l3.isNone && ((t x).spdmConn x).algorithms &&
      !(up.spdmConn x).version)) = true ∧
    (let s : State := { up with rst := { up.rst with l3 := some ⟨6, 0, 0, 2, false, []⟩ } }
     s.spdmReached .mctp = true ∧ s.rst.l3.isSome = true) := by decide +kernel

/-- The test access port: after Test-Logic-Reset, TMS 0 leads to Run-Test/Idle and BYPASS is selected. -/
theorem test_tap : TapSt.reset.state = .testLogicReset ∧ TapState.testLogicReset.next false = .runTestIdle ∧
    TapSt.reset.instr = .bypass := by decide +kernel

/-! ### The pool and the stacks -/

/-- `s` with a quota for context 1. -/
def quoted (s : State) : State := { s with tier := { s.tier with quota := [(1, ⟨2, ~~~2, 4, ~~~4⟩)] } }

theorem witness_PoolCommands :
    ([(0x0100, [(16, 1), (20, 1), (24, 1)]), (0x0106, [(16, 0x200000), (24, 4)]), (0x0101, [(16, 0x200000), (24, 1), (28, 0xFFFF), (30, 2)]),
      (0x0102, [(24, 1), (28, 1)]), (0x0103, [(24, 1), (28, 0xFFFF)]), (0x0104, [(24, 1), (28, 0xFFFF)]), (0x0105, [(24, 1), (28, 0xFFFF)]),
      (0x0107, [(16, 0x1000000000200000), (24, 0x600000), (32, 1), (36, 0xFFFF), (38, 1)]), (0x0108, [(16, 0x1000000000000000), (32, 1), (36, 1)]),
      (0x0109, []), (0x0109, [(24, 0x200000), (32, 1)]), (0x010A, [(16, 0x1000), (24, 1)])].all (fun p =>
        turn (quoted (cmd p.1 48 p.2)) p.1)) = true ∧
    (let s := quoted up
     mhas s.host.ctxs 1 = true ∧ s.reservedSum - (s.quotaOf 1).1 + 1 ≤ Config.poolFrames ∧ s.pinned 1 ≤ 1 ∧ s.framesOf 1 ≤ 1 ∧
     s.tier.slots = [] ∧ s.quotaCorrupt 1 = false ∧ walk s 1 1 = .none ∧ mhas s.tier.ptes (2 ^ 27 + 1) = false ∧
     (s.entry 1 0).map pteState = some 0 ∧ s.pinned 1 + 1 ≤ (s.quotaOf 1).1 ∧ s.tier.pageWaits = [] ∧ s.hostEntry 1 1 = false ∧
     l1Corrupt s.tier.hostL1 1 1 = false ∧ s.tier.remotes = [] ∧ mhas s.tier.hostPtes (2 ^ 27) = true) ∧
    reaches (quoted up) q0 0xFFFF 1 ∧ reaches (quoted up) q0 1 1 := by
  refine ⟨by decide +kernel, by decide +kernel, ?_, ?_⟩
  · exact ⟨rfl, .inl rfl, by decide +kernel⟩
  · exact ⟨rfl, .inl rfl, by decide +kernel⟩

theorem witness_PoolEvents :
    up.alive = true ∧ up.tier.lastAging + up.agingNs ≤ up.time.localNs ∧ up.host.link.dlUp = true ∧
    (let s : State := { up with tier := { up.tier with
       evictions := [⟨1, 1, 0, 3, 0, true⟩], slots := [(3, ⟨1, 0, 0⟩)]
       returns := [⟨1, 0, 5, 0, some 1, 3, 0, 0, none, true, false⟩], remotes := [(7, ⟨.xfer k0 0, 1, 0, 1, 0, 64, 64, false, none, none, false, 0⟩)] } }
     s.tier.evictions.find? (fun x => x.frame == 1) = some ⟨1, 1, 0, 3, 0, true⟩ ∧ (s.entry 1 0).isSome = true ∧
     s.hbm.frameReady 1 = true ∧ s.hbm.metaGot false 0 0 = .ready ∧
     (s.tier.returns.find? (fun r => r.ctx == 1 && r.page == 0)).map (·.filled) = some true ∧ s.tier.pageWaits = [] ∧
     (mget s.tier.remotes 7).map (fun r => (r.write, r.node, r.data)) = some (false, none, none)) ∧
    (let r : Return := ⟨1, 1, 5, 0, none, 3, 0, 0, none, false, false⟩
     let s := quoted (away up)
     let t : State := { s with tier := { s.tier with returns := [r], slots := [(3, ⟨1, 1, 0⟩)] } }
     t.tier.returns.find? (fun r => r.ctx == 1 && r.page == 1) = some r ∧ (t.entry 1 1).isSome = true ∧ t.quotaCorrupt 1 = false ∧
     (∀ x ∈ t.tier.returns, x.before r = false) ∧
     (match (t.getFrames 1 1 (t.returnKind r).1 (t.returnKind r).2 true).2 with | .frames l => l.length == 1 | _ => false) = true) := by
  decide +kernel

/-- CRC-16 of R205 on the nine bytes whose check value the rule prints. -/
theorem test_crc16 : crc16 ([0x31, 0x32, 0x33, 0x34, 0x35, 0x36, 0x37, 0x38, 0x39] : List Byte) = 0x29B1 := by decide +kernel

theorem witness_StackCommands :
    ([(0x0180, [(16, 32511), (20, 1), (24, 1)]), (0x0181, []), (0x0182, [(16, 15)])].all (fun p => turn (cmd p.1 48 p.2) p.1)) = true ∧
    up.hbm.repairs = [] ∧ up.readyStacks.length = 16 ∧
    (up.stack 0).state = .ready ∧ ((State.reset.stack 0).state ≠ .ready) ∧ up.hbm.loop = none ∧ up.outOfMission 15 = false ∧
    State.reset.outOfMission 15 = true ∧
    (let l : Loopback := ⟨q0, 0, 0, 0, 0, 5, .ready⟩
     ({ up with hbm := { up.hbm with loop := some l } } : State).hbm.loop = some l ∧ l.until_ ≤ up.time.localNs) ∧
    (let x := fun (f : BitVec 16) => (⟨0, some 1, 0x200000, 0, f, f, 0⟩ : HbmRead)
     (up.stack (up.hbm.locate 0x200000).1).state = .ready ∧ up.hbm.readFault (x 0) 0x8000 = 0 ∧ up.hbm.readFault (x 1) 0x8000 ≠ 0 ∧
     up.hbm.reissues = [] ∧ up.hbm.recent = []) ∧
    (let r : ReIssue := ⟨0, some 1, 0x8000, 2⟩
     ({ up with hbm := { up.hbm with reissues := [r] } } : State).hbm.reissues.find? (fun r => r.reader == 0 && r.ctx == some 1 && r.line == 0x8000) =
       some r) ∧
    (let s : State := { up with hbm := { up.hbm with recent := [(10 ^ 12 - 1000, 32 * 15 + 31, 1)] } }
     (10 ^ 12 - 1000, 32 * 15 + 31, 1) ∈ s.hbm.recent ∧ s.time.localNs ≤ 10 ^ 12 - 1000 + 1000 ∧ mhas s.host.ctxs 1 = true) ∧
    (let e : WcEntry := ⟨0x8000, 1, [], 1, 0⟩
     let s : State := { up with hbm := { up.hbm with wc := [e] } }
     s.hbm.wc.find? (fun e => e.line == 0x8000) = some e ∧ e.since + s.flushNs ≤ s.time.localNs ∧
     s.hbm.stacksReady [(64 * 0x8000, 64)] = true) ∧
    (let r : RowRepair := ⟨some q0, false, 0, 0⟩
     ({ up with hbm := { up.hbm with repairs := [r] } } : State).hbm.repairs.find? (fun r => r.hard == false) = some r) := by
  decide +kernel

/-! ### Conservators, collectives and guylines -/

/-- A shard of 24 parameters of AdamW in BF16, with its records in page 1. -/
def shard1 : List Byte :=
  leBytes 128 (enc [(16, 2), (32, 1), (64, 24), (128, 0x3F666666), (160, 0x3F7FBE77), (192, 0x322BCC77), (512, 0x200000), (576, 0x1000),
    (704, 0x1100), (768, 0x210000), (832, 0x1200)])

/-- `s` with a RECORDS page at page 1, and the shard's descriptor at 0x4000. -/
def sharded (s : State) : State :=
  let s := { s with tier := { s.tier with ptes := s.tier.ptes ++ [(2 ^ 27 + 1, Pair64.of (mkPte 2 0 false true false 0 true))] } }
  holding s 0x4000 shard1

theorem witness_ConservatorCommands :
    ((conservatorRows q0).all (fun r =>
      let s := sharded (cmd r.2 112 [(24, 0x4000)])
      turn s r.2 &&
      (match (s.begin q0).readVa 1 0x4000 128 (.other false) false 0 with
       | (v, .ok b) => Shard.valid b 0 && v.shardPages 1 (Shard.of b)
       | _ => false))) = true ∧
    (let s := sharded (cmd 0x0501 112 [(24, 0x4000), (32, 0x5000), (40, 0x6000)])
     let x : ConsCmd := ⟨q0, 0x200000, 0x200000, 0, none⟩
     let e : ConsEnd := ⟨stOk, 0, 0, [(0x1000, [1])], [], false, none⟩
     let t := fun (x : ConsCmd) => ({ s with cons := { s.cons with cmds := [x] } } : State)
     (t x).consCmd? q0 = some x ∧ (t { x with ran := some e }).consCmd? q0 = some { x with ran := some e } ∧
     good (s.readVa 1 0x6000 64 (.other false) false 0).2 = true ∧ good (s.readVa 1 0x5000 96 (.other false) false 0).2 = true ∧
     gscaleK (List.replicate 64 0) 0 = some 0 ∧ (match s.writeAll 1 .conservator e.writes with | (_, .ok ()) => true | _ => false) = true) := by
  decide +kernel

/-- `s` with the shard whole at tag 0: its record of ones, its commit line, its header, its working copy, and a copy of all three at
0x8000. -/
def sound (s : State) : State :=
  let d := Shard.of shard1
  let rec_ := freshRecord d 0 (List.replicate 24 0x3F800000)
  let head := shardHeader d 0 F32.one F32.one F32.one
  let s := holding (holding (holding (sharded s) 0x1100 head) 0x8000 (commitLine d 0 ++ head ++ rec_)) 0x1000
    (packCodes 16 ((working d F32.one F32.one (recordWide d rec_)).codes.map (·.1)))
  let s := holding s 0 (leBytes 144 (enc [(32, 1)]))
  { s with hbm := (s.hbm.poke 4194304 rec_).poke (4194304 + 0x10000) (commitLine d 0) }

/-- The inputs of every conservator command's run hold; the update's too where the record is at its step. -/
theorem witness_ConservatorCommands_runs :
    let d := Shard.of shard1
    let o : Accessor := .other false
    let sc := (F32.one, F32.one)
    let fields := [(24, 0x4000), (32, 0x5000), (40, 0x6000), (48, 0x7000), (56, 1)]
    (let s := sound (cmd 0x0500 112 fields)
     match s.updInputs 1 d (taken0 s) with
     | (a, .ok i) =>
       scheduleValid i.sched && gscaleK i.gscale 0 == some 0 && clipFactor d [] == some F32.one && fld i.health 0 4 == 0 &&
       (failing d [0, 1] (recordsOf i.recs d.count)).isEmpty && ((recordsOf i.recs d.count).map (recordStand d 0) == [1]) &&
       good (State.andThen (a.allWritable 1 [(0x200000, 256, .conservator), (0x1000, 48, o), (0x1200, 64, o), (0x1100, 64, o),
           (0x210000, 64, .conservator)])
         (fun s _ => State.andThen (s.writeAll 1 .conservator [(0x200000, (updated d (taken0 (cmd 0x0500 112 fields)) i 0 F32.one).flatten)])
           (fun s _ => s.writeAll 1 o [(0x1000, List.replicate 48 0)]))).2
     | _ => false) = true ∧
    (let s := sound (cmd 0x0501 112 fields)
     good (s.readVa 1 0x6000 64 o false 0).2 = true ∧ good (s.readVa 1 0x5000 d.gradBytes o false 0).2 = true ∧
     good (s.parts 1 0x7000 4 true o 0).2 = true ∧ gscaleK (List.replicate 64 0) 0 = some 0) ∧
    (let s := sound (cmd 0x0502 48 [(24, 0x4000), (32, 0x9000)])
     good (s.readPieces (.cons q0 0) 0 1 o false 0 (chunks 0x9000 96)).2 = true ∧
     good (shardWrites s 1 d [freshRecord d 0 (List.replicate 24 0)] sc).2 = true) ∧
    (let s := sound (cmd 0x0503 48 [(24, 0x4000), (32, 0x9000)])
     match s.readShard 1 d with
     | (a, .ok b) => tagOf (bsub b 0 64) == some 0 && tagOf (bsub b 64 64) == some 0 &&
       (failing d [0] (recordsOf (b.drop 128) d.count)).isEmpty && good (a.writePieces (.cons q0 0) 0 1 o 0 (chunks 0x9000 384) b).2
     | _ => false) = true ∧
    (let s := sound (cmd 0x0504 48 [(24, 0x4000), (32, 0x8000)])
     match s.readPieces (.cons q0 0) 0 1 o false 0 (chunks 0x8000 384) with
     | (a, .ok b) => tagOf (bsub b 0 64) == some 0 && tagOf (bsub b 64 64) == some 0 &&
       (failing d [0] (recordsOf (b.drop 128) d.count)).isEmpty && good (shardWrites a 1 d (recordsOf (b.drop 128) d.count) sc).2
     | _ => false) = true ∧
    (let s := sound (cmd 0x0505 48 [(20, 1), (24, 0x4000), (32, 0x9000)])
     match s.readShard 1 d with
     | (a, .ok b) => tagOf (bsub b 0 64) == some 0 && tagOf (bsub b 64 64) == some 0 &&
       (failing d [0] (recordsOf (b.drop 128) d.count)).isEmpty &&
       (match a.readVa 1 d.wc d.planeBytes o false 0 with
        | (p, .ok w) => good (p.parts 1 0x9000 64 true o 0).2 && planeCodes d.fmt.bits w d.nparam ==
            (working d (BitVec.ofNat 32 (fld b 72 4)) (BitVec.ofNat 32 (fld b 76 4))
              ((recordsOf (b.drop 128) d.count).flatMap (recordWide d))).codes.map (·.1)
        | _ => false)
     | _ => false) = true := by
  decide +kernel

/-- A shard whose descriptor is not valid, one whose pages are not, and one that an earlier command holds. -/
theorem witness_ConservatorCommands_held :
    Shard.valid (List.replicate 128 0) 0 = false ∧ (up.shardPages 1 (Shard.of shard1)) = false ∧
    (let x : ConsCmd := ⟨q0, 0x200000, 0x200100, 0, none⟩
     let y : ConsCmd := ⟨⟨1, 0, 4⟩, 0x200000, 0x200100, 0, none⟩
     let s : State := { up with cons := { up.cons with cmds := [y, x] } }
     let t : State := { up with cons := { up.cons with cmds := [x] } }
     (∃ y ∈ s.cons.cmds.takeWhile (fun c => c.q != q0), y.q.ctx = q0.ctx ∧ y.lo < x.hi ∧ x.lo < y.hi) ∧
     ¬ (∃ y ∈ t.cons.cmds.takeWhile (fun c => c.q != q0), y.q.ctx = q0.ctx ∧ y.lo < x.hi ∧ x.lo < y.hi)) := by
  decide +kernel

/-- A RAW ALL_GATHER of 128 bytes by MESH between nodes 0 and 9, node 0 being rank 0. -/
def gatherD : List Byte :=
  leBytes 128 (enc [(0, 2), (24, 3), (48, 1), (64, 5), (128, 128), (256, 0x1000), (320, 0x2000), (384, 0x3000), (448, 0x10000), (512, 65536),
    (576, 0x8000)])

def rankMap2 : List Byte :=
  leBytes 8 (2 + (2 ^ 32 - 3) * 2 ^ 32) ++ leBytes 8 (1 + (2 ^ 32 - 2) * 2 ^ 32) ++ leBytes 48 0 ++ leBytes 8 ((2 ^ 32 - 1) * 2 ^ 32) ++
    leBytes 8 (9 + (2 ^ 32 - 10) * 2 ^ 32)

/-- It runs: rank 1's chunk is still to come. -/
def coll1 : Coll :=
  { q := q0, engine := 0, step := 4, desc := gatherD, ranks := [0, 9], inner := 1, me := 0, started := 0, deadline := 7, endDeadline := 9
    flows := [⟨false, 1, 0, 1, [1], 0, 1⟩, ⟨true, 1, 0, 1, [0], 0, 0⟩]
    parts := [], reduced := [], finals := [], delivered := [], stages := [1], dead := false, late := [], left := 0
    tagOk := true, lastTag := 0, header := [], headersIn := [], headersDone := [], headersOut := [], sumIn := [], sumSent := false
    sumAll := none, sumDone := false, moves := [], parkedDone := [], localDone := [], held := [] }

def collecting (s : State) (c : Coll) : State := { s with coll := { s.coll with running := [c] } }

theorem witness_CollectiveCommands :
    turn (cmd 0x0400 48 []) 0x0400 = true ∧ up.coll.queued = [] ∧ turn (collecting (cmd 0x0401 48 [(16, 5)]) coll1) 0x0401 = true ∧
    coll1.d.tag = 5 ∧
    (let s := holding (holding (cmd 0x0400 48 [(24, 0x7000)]) 0x7000 gatherD) 0x3000 rankMap2
     let s : State := { s with coll := { s.coll with queued := [⟨q0, false⟩] } }
     let g : CollG := ⟨CollD.of gatherD, 2, 1, 0⟩
     (match s.collRead 1 0x7000 0 with
      | (v, .ok (b, some (.ok (ranks, inner)), [])) => decide (b = gatherD ∧ ranks = [0, 9] ∧ inner = 1) && v.collPages 1 g 0 == (true, false) &&
        v.coll.running.isEmpty
      | _ => false) = true ∧
     (CollD.of gatherD).op = 2 ∧ g.ok (g.flows.filter (fun f => !f.out)).length = true) ∧
    (let s := collecting (cmd 0x0400 48 []) coll1
     s.coll? q0 = some coll1 ∧ s.timePassed coll1.endDeadline = true ∧ coll1.finished = false ∧ coll1.awaited.isSome = true) ∧
    (fld (taken0 (cmd 0x0400 48 [])).packet 40 2).testBit 0 = false := by
  decide +kernel

/-- The block that coll1 waits for, a READY, a SUMMARY and a HEADER of it, and one of another tag. -/
def collBlock (kind tag : Nat) : InBlock :=
  ⟨1, blockBytes 0 9 6 1 1 0 (enc [(0, tag), (32, 1), (40, kind)]) (enc [(0, 1), (32, 4)]) (leBytes 64 4)⟩

theorem witness_CollectiveBlocks :
    let c := { coll1 with deadline := 0, endDeadline := 0 }
    ([0, 1, 2, 3].all (fun k =>
      let s := collecting (wired up 1 [collBlock k 5]) c
      let t := collecting (wired up 1 [collBlock k 6]) coll1
      firstOfKind k (s.port 0).inbox [] == some (collBlock k 5) && s.collOf (collBlock k 5).bytes == some (c, false) &&
      !s.collReserved (collBlock k 5).bytes && !s.timePassed c.endDeadline && !s.timePassed c.deadline && s.takesWrites 1 (c.landing ⟨false, 1, 0, 1, [1], 0, 1⟩ 1) && (t.collOf (collBlock k 6).bytes).isNone)) = true ∧
    coll1.d.raw = true ∧ blkArg (collBlock 0 5).bytes / 2 ^ 32 = coll1.step ∧ coll1.ranks.idxOf 9 = 1 ∧
    coll1.flows.findIdx? (fun f => !f.out && f.stage == 1 && f.stripe == 0 && f.peer == 1) = some 0 ∧
    coll1.flows.findIdx? (fun f => f.out && f.stage == 1 && f.stripe == 0 && f.peer == 1) = some 1 ∧ coll1.g.payloadLen 1 ≤ 64 := by
  decide +kernel

theorem leBytes_length (n v : Nat) : (leBytes n v).length = n := by
  induction n generalizing v with
  | zero => rfl
  | succ n h => simp [leBytes, h]

theorem leNat_leBytes4 (v : Nat) (h : v < 2 ^ 32) : leNat (leBytes 4 v) = v := by
  simp [leBytes, leNat]; omega

/-- 252 bytes of a flit type below 4, followed by their CRC, are a good flit. -/
theorem flit_ok (b : List Byte) (hb : b.length = 252) (ht : flitType b < 4) : flitOk (b ++ leBytes 4 (crc32c b).toNat) = true := by
  have h1 : flitType (b ++ leBytes 4 (crc32c b).toNat) = flitType b := by
    simp [flitType, fld, bsub, List.take_append, hb]
  have h2 : fld (b ++ leBytes 4 (crc32c b).toNat) 252 4 = (crc32c b).toNat := by
    have : (b ++ leBytes 4 (crc32c b).toNat).drop 252 = leBytes 4 (crc32c b).toNat := by
      rw [← hb, List.drop_left]
    have h4 := leBytes_length 4 (crc32c b).toNat
    simp only [fld, bsub, this, List.take_of_length_le (Nat.le_of_eq h4), h4, Nat.sub_self, List.replicate_zero, List.append_nil]
    exact leNat_leBytes4 _ (crc32c b).isLt
  have h3 : (b ++ leBytes 4 (crc32c b).toNat).take 252 = b := by rw [← hb, List.take_left]
  simp [flitOk, h1, h2, h3, hb, ht, leBytes_length]
/-- A flit of a type without and with its CRC. -/
def flit0 (ty : Nat) : List Byte := leBytes 2 (ty * 2 ^ 12) ++ List.replicate 250 0

def flit1 (ty : Nat) : List Byte := flit0 ty ++ leBytes 4 (crc32c (flit0 ty)).toNat

theorem witness_flits : ∀ ty < 4, flitOk (flit1 ty) = true ∧ flitType (flit0 ty) = ty := by
  intro ty h
  have : flitType (flit0 ty) = ty := (by decide +kernel : ∀ ty < 4, flitType (flit0 ty) = ty) ty h
  exact ⟨flit_ok _ (by rw [flit0, List.length_append, leBytes_length, List.length_replicate]) (by omega), this⟩

theorem witness_bad_flit : flitOk (List.replicate 255 0) = false := by decide +kernel

theorem witness_LinksAndPorts :
    (let s := wired up 1 []
     (s.port 0).mode = 1 ∧ (s.port 0).usable = true) ∧
    (let x : PortSt := { PortSt.reset with mode := 1, state := .up, unacked := [⟨0, 0, flit1 1, []⟩] }
     let s : State := { up with guy := { up.guy with ports := [(0, x)] } }
     (s.port 0).unacked ≠ [] ∧ x.advanceAt + s.replayNs 0 ≤ s.time.localNs ∧ x.replayRuns < 15) ∧
    (let s : State := { up with guy := { up.guy with ports := [(0, { PortSt.reset with mode := 1 }), (11, { PortSt.reset with mode := 2, state := .training })] } }
     (s.port 0).state = .down ∧ (s.port 11).state = .training ∧ (s.port 11).trained = false ∧ s.macOk = true ∧
     ({ s with regs := [(rMacPrefix, 1)] } : State).macOk = false) ∧
    (let s : State := { up with guy := { up.guy with boardSize := 3, ports := [(0, { PortSt.reset with mode := 1, state := .training })] } }
     (s.port 0).state = .training ∧ (wiring s.guy.boardSize s.guy.slot 0).isSome = true ∧ (s.port 0).trained = false) ∧
    (let s : State := { up with guy := { up.guy with receivers := [(8 * 9 + 7, ⟨0, 1, 0, 1, 0, 0⟩)], senders := [(8 * 9 + 7, ⟨1, [⟨0, 0, 0, 1, []⟩], 0, 5, 0⟩), (8 * 9, ⟨1, [], 0, 5, 0⟩)] } }
     (mget s.guy.receivers (8 * 9 + 7)).isSome = true ∧ 0 + s.ackNs ≤ s.time.localNs ∧ 0 + 1000000 * s.idleMs ≤ s.time.localNs ∧
     (mget s.guy.senders (8 * 9 + 7)).isSome = true ∧ 0 + 2 * (1000000 * s.idleMs) ≤ s.time.localNs) ∧
    ([(0x0760, [(16, 0x1000), (24, 1)]), (0x0761, [(17, 1)]), (0x0761, [(17, 2)]), (0x0761, [(17, 3)])].all (fun p =>
      turn (cmd p.1 48 p.2) p.1)) = true ∧
    routeItemBad (leBytes 16 (enc [(0, 9), (64, 0x80000F00), (96, 0x7FFFF0FF)])) = false := by decide +kernel

/-- A block of context 1 from node 9. -/
def peerBlock (ty addr arg : Nat) (data : List Byte) : InBlock := ⟨5, blockBytes 0 9 ty 5 1 3 addr arg data⟩

theorem witness_PeerBlocks :
    let s : State := { up with tier := { up.tier with exports := [(1, ⟨0, 0x200000, true⟩)] } }
    (match exportWindow s 1 (0x200000 - 64) 64 true with | .ok v => v == 0x200000 - 64 | .error _ => false) = true ∧
    (match exportWindow s 1 (0x200000 - 63) 64 true with | .ok _ => false | .error c => c == 2) = true ∧
    good (s.writeVa 1 (0x200000 - 64) (List.replicate 64 0) (.other false) 0).2 = true ∧
    good (s.readVa 1 (0x200000 - 64) 64 (.other false) false 0).2 = true ∧
    ([1, 2, 3, 4, 8, 9].all (fun ty => (wired s 1 [peerBlock ty 0x40 (64 * 2 ^ 16) []]).arrived 0 ty == some (peerBlock ty 0x40 (64 * 2 ^ 16) []))) = true ∧
    (let r := fun (w : Bool) => (⟨.xfer k0 0, 1, 0, 1, 0, 64, 64, w, some 9, none, false, 0⟩ : Remote)
     let t := fun (w : Bool) => ({ up with tier := { up.tier with remotes := [(7, r w)] } } : State)
     (t true).answered (peerBlock 2 0 7 []).bytes true = some (7, r true) ∧ (t false).answered (peerBlock 4 0 7 []).bytes false = some (7, r false) ∧
     bits (blkArg (peerBlock 2 0 7 []).bytes) 19 16 = 0 ∧ mhas up.host.ctxs (blkCtx (peerBlock 2 0 7 []).bytes) = true) ∧
    (let u : State := { up with guy := { up.guy with senders := [(8 * 9 + 5, ⟨4, [⟨3, 0, 0, 1, []⟩], 0, 5, 0⟩)] } }
     (mget u.guy.senders (8 * blkSrc (peerBlock 8 0 5 []).bytes + 5)).isSome = true ∧ blkSeq (peerBlock 8 0 5 []).bytes = 3) ∧
    (let w := wired up 2 []
     (w.port 0).mode = 2 ∧ (w.port 0).usable = true ∧ w.etherType < 2 ^ 16 ∧ w.etherType ≠ 0x8100) := by decide +kernel

/-! ### Resets and self-test -/

theorem witness_ResetLevels :
    let r := fun (f : RstSt → RstSt) => ({ up with rst := f up.rst } : State)
    up.alive = true ∧ up.serving = true ∧ up.inL0 1 = false ∧ up.rst.frozen = none ∧
    ((cmd 0 48 []).host.taken.filter (fun t => t.q.ctx == 1)).length = 1 ∧ mgetD up.rst.progress 1 0 + 1000000 ≤ up.time.localNs ∧
    (mget (r (fun x => { x with l0 := [(1, ⟨1, 0, [], [], none⟩)] })).rst.l0 1).map (·.waits) = some [] ∧
    (let s := { r (fun x => { x with l0 := [(1, ⟨1, 0, [], [], none⟩)] }) with
       eng := { up.eng with clusters := [(0, { Cluster.reset with state := .running, holder := some 1, launch := some q0 })] } }
     unitHasL1 (.cluster 0) = true ∧ 0 + 1000 * max 100 (bits (s.reg 0x040010) 31 16) ≤ s.time.localNs ∧
     (s.workOn (.cluster 0)).contains 1 = true ∧ s.covered (.cluster 0) = false) ∧
    hasHeartbeat (.cmdProc 0) = true ∧ up.covered (.cmdProc 0) = false ∧ up.rst.l1 = [] ∧
    (let y : L1St := ⟨L1Key.of (.cmdProc 0) 0 0, 4, 0, [], 0, false, []⟩
     (r (fun x => { x with l1 := [y] })).rst.l1.find? (fun x => x.key == L1Key.of (.cmdProc 0) 0 0 && x.after.isEmpty) = some y) ∧
    up.rst.l2 = [] ∧ up.rst.l3 = none ∧ up.rst.test.run = none ∧ turn (cmd 0x0720 48 [(16, 1)]) 0x0720 = true ∧
    turn (cmd 0x0721 48 []) 0x0721 = true ∧ (unitOfSource 0).isSome = true ∧
    (10 ^ 12 : Nat) < (10 ^ 12 - 600000000000 + 1) + 600000000000 := by decide +kernel

theorem witness_SelfTest :
    let s := fun (f : TestSt → TestSt) => ({ up with rst := { up.rst with test := f up.rst.test } } : State)
    up.rst.test.heavy = false ∧ (s (fun t => { t with heavy := true })).rst.test.heavy = true ∧ up.guy.slot = 0 ∧
    max 0 0 + 2000000000 ≤ up.time.localNs ∧ (s (fun t => { t with phase := 4 })).rst.test.phase = 4 ∧ up.rst.test.found = [] ∧ up.rst.test.refusedAt = none ∧
    up.rst.test.departures = up.cur.departures ∧ (s (fun t => { t with refusedAt := some 0 })).rst.test.refusedAt = some 0 ∧
    0 + 1000000000 ≤ up.time.localNs ∧ (s (fun t => { t with heavy := true, token := true })).rst.test.token = true ∧
    (239 % 80 / 8 : Nat) = 9 ∧ (s (fun t => { t with phase := 3, batch := 10 })).rst.test.batch = 10 ∧
    ({ up with board := { up.board with phase := .coldBist } } : State).board.phase = .coldBist ∧ up.rst.ready = true ∧
    (up.cluster 0).state = .idle ∧
    (let t : State := { up with rst := { up.rst with rotate := { up.rst.rotate with testing := [(0, (0, 0))] } } }
     mget t.rst.rotate.testing 0 = some (t.cur.departures, t.cur.monitorsOut.length)) ∧
    (mgetD up.rst.repair.fencedC 0 0 = 0 ∧ mgetD up.rst.repair.fusedC 0 0 = 0 ∧ up.rst.repair.absent.contains 0 = false) ∧
    (let t := ({ cmd 0x0740 112 [(16, 1), (24, 1)] with eng := { up.eng with clusters := [(0, { Cluster.reset with state := .idle, holder := some 0 })] } } : State)
     turn t 0x0740 = true ∧ t.resetBusy = false ∧ (t.cluster 0).holder = some 0 ∧ (t.cluster 0).state = .idle) ∧
    turn (cmd 0x0741 48 [(16, 0x1000)]) 0x0741 = true ∧
    (let t : State := { cmd 0x0742 112 [(24, 1)] with regs := [(0x040058, rwpPair 0x46555345)] }
     turn t 0x0742 = true ∧ t.reg 0x040058 = (rwpPair 0x46555345).toNat ∧ up.reg 0x040058 ≠ (rwpPair 0x46555345).toNat) := by
  decide +kernel

/-- R474 and R24: the invariant holds after a power cycle. -/
theorem witness_QueueAndFusesKept : State.reset.fusesWf ∧ up.fusesWf ∧ State.reset.pending = [] ∧
    (∃ t, step up = .next t) ∧
    (up.guy.ports = [] ∧ up.time.slew = 0 ∧ up.time.rate = 0 ∧ up.time.frac < 2 ^ 32 ∧ up.time.ppsOutUntil = none ∧ up.hbm.training = [] ∧
      up.cat.waiting = [] ∧ up.hbm.unreported = [] ∧ up.tier.evictions = [] ∧ up.tier.returns = []) := ⟨by unfold State.fusesWf; decide +kernel, by unfold State.fusesWf; decide +kernel, rfl, ⟨_, rfl⟩, by decide +kernel⟩

/-! ### Rows of the table by word -/

/-- The table gives no row bits, so no word spells a command. -/
theorem test_no_word_spells_a_command : decodeTableWord 128 0 = none := rfl

/-! ### The Reset column of the BAR 0 register tables, as printed -/

theorem test_reset_column :
    ([(0x000040, 0), (0x000108, 0), (0x000110, 0), (0x000118, 0), (0x001000, 0xFF0000000000), (0x0019F8, 0xFF0000000000),
      (0x000208, 0), (0x000210, 0xFFFFFFFF00000000), (0x000218, 0), (0x020000, 0), (0x020008, 0), (0x020010, 0xA00034000),
      (0x020018, 0x808000D1), (0x020040, 16384), (0x020080, 0), (0x030008, 0xF735FB4F08CA04B0), (0x030010, 0xFFFFF76700000898),
      (0x030018, 0xFFFFFB4F000004B0), (0x030020, 0x6400020800), (0x030028, 0x324), (0x030030, 0), (0x030038, 0), (0x030040, 0),
      (0x030000, 0x8CA00800000)] : List (Nat × Nat)).all (fun x => State.reset.readBar0 x.1 == x.2) = true := by decide +kernel

theorem test_reset_column_resets :
    ([(0x040000, 0), (0x040008, 0xFFFFFFFF00000000), (0x040010, 0x3E80001), (0x040018, 0), (0x040020, 0), (0x040028, 0),
      (0x040040, 0), (0x040048, 0x10000000001), (0x040050, 0), (0x040058, 0xFFFFFFFF00000000), (0x050000, 0xFFFF),
      (0x050008, 0x88B5240000000000), (0x050010, 0xFAC688), (0x050018, 0x2475A00), (0x050020, 0xA001403E80000), (0x050028, 0),
      (0x050030, 0xFFFFFFFF00000000), (0x050038, 0), (0x050040, 0), (0x0501B0, 0xFFFF000000000001), (0x0501B8, 0),
      (0x050258, 500)] : List (Nat × Nat)).all (fun x => State.reset.readBar0 x.1 == x.2) = true := by decide +kernel

theorem test_reset_column_memory :
    ([(0x060000, 520192), (0x060008, 0x98968000640000), (0x060010, 0x10000000040), (0x060018, 0), (0x060020, 0), (0x060028, 0),
      (0x060100, 0), (0x060110, 0), (0x060198, 0), (0x060200, 0), (0x068000, 0), (0x068008, 0), (0x068178, 0), (0x0681F8, 0),
      (0x068300, 2000), (0x068418, 0), (0x068500, 0xFFFFFFFF00000000), (0x068508, 0), (0x0686B8, 0),
      (0x06A000, 0xFFFFFFFF00000000), (0x06BFF8, 0xFFFFFFFF00000000), (0x06C018, 0), (0x06C038, 0), (0x06C040, 0), (0x06C048, 0),
      (0x070000, 0), (0x070338, 0), (0x080000, 0), (0x080008, 0x320000000A), (0x080010, 0), (0x080178, 0), (0x080180, 0),
      (0x080188, 0), (0x080190, 0), (0x080200, 0), (0x080208, 0x10020), (0x080210, 0), (0x080218, 0), (0x400000, 0)]
      : List (Nat × Nat)).all (fun x => State.reset.readBar0 x.1 == x.2) = true := by decide +kernel

/-! ### Operands out of range -/

/-- Each check of `Instr.wf` refuses a term. -/
theorem test_ill_formed : ([.perstNRelease 0 16 true, .perstNRelease 7 5 true, .dlUp 8 16 true, .apertureWrite 0 0 [], .apertureRead 0 1 (2 ^ 32),
    .placementWrite 0 (2 ^ 36 - 1) [0, 0], .placementRead 0 0 0, .commandWindowWrite (2 ^ 28 - 1) [0, 0], .glbStageWindowWrite 32767 [0, 0],
    .loopbackDurationExpiry [1536], .evictionComplete Config.poolFrames true, .pageReturnStart 0 (2 ^ 27), .pageReturnComplete 0 (2 ^ 27),
    .wcFlushTimeout (2 ^ 34), .stackTrainingComplete [⟨0, [(32, 0)], []⟩], .flitReceived 0 [], .nakFlitReceived 0 [], .idleFlitReceived 0 [],
    .lpiFlitReceived 0 []] : List Instr).all (fun i => !i.wf) = true := by decide +kernel

end Sys2Proof.Tests
end

section
/-! Registers and the power cycle (00_scope.md R5 to R8): unmatched writes of protected registers, GL_MAC_PREFIX among the plain
registers, and the state that `State.reset` gives. -/

namespace Sys2Proof.Machine

/-! ### Unmatched writes (R8) -/

/-- The state after a write that GLB_RWP_REJECT counts, made to a half or to the whole of the register at `off`. -/
def State.rejected (s : State) (off : Nat) (v : RegValue) : State :=
  { s with rwpCount := satAdd 32 s.rwpCount 1, rwpLast := rejectedAt off v }

/-- A value whose upper half is the complement of its lower half is `rwpPair` of the lower half. -/
theorem eq_rwpPair_of_complement {x : W64} (h : (x >>> 32).setWidth 32 = ~~~(x.setWidth 32 : W32)) :
    x = rwpPair (x.setWidth 32) := by
  have hx := x.isLt
  have hupper := congrArg BitVec.toNat h
  rw [BitVec.toNat_setWidth, BitVec.toNat_ushiftRight, Nat.shiftRight_eq_div_pow] at hupper
  apply BitVec.eq_of_toNat_eq
  rw [rwpPair, ← hupper, BitVec.toNat_ofNat, BitVec.toNat_setWidth]
  omega

theorem State.rwp_of_not_matched (s : State) (off : Nat) {v : RegValue} (hv : ∀ x, ¬ Matched v x) :
    s.rwp off v = (s.rejected off v, none) := by
  cases v with
  | full x => exact if_neg fun h => hv _ (congrArg RegValue.full (eq_rwpPair_of_complement h))
  | lower x => rfl
  | upper x => rfl

section
variable {s : State} {v : RegValue} (hup : s.hostUp = true) (hv : ∀ x, ¬ Matched v x)
include hup hv

theorem curClockLimitsWrite_rejected : RunsTo (.curClockLimitsWrite v) s (s.rejected rClockLimits v) := by
  show execCurClockLimitsWrite v s = _
  simp [execCurClockLimitsWrite, hup, s.rwp_of_not_matched _ hv]

theorem curPowerCapWrite_rejected : RunsTo (.curPowerCapWrite v) s (s.rejected rPowerCap v) := by
  show execCurPowerCapWrite v s = _
  simp [execCurPowerCapWrite, hup, s.rwp_of_not_matched _ hv]

theorem curThrottlePointWrite_rejected : RunsTo (.curThrottlePointWrite v) s (s.rejected rThrottlePoint v) := by
  show execCurThrottlePointWrite v s = _
  simp [execCurThrottlePointWrite, hup, s.rwp_of_not_matched _ hv]

/-- The one meaning behind the three rows of RST_REQUEST. -/
theorem State.requestReset_rejected : s.requestReset v = s.rejected rRstRequest v := by
  simp [State.requestReset, hup, s.rwp_of_not_matched _ hv]

theorem memHpprWrite_rejected : RunsTo (.memHpprWrite v) s (s.rejected rHppr v) := by
  show execMemHpprWrite v s = _
  simp [execMemHpprWrite, hup, s.rwp_of_not_matched _ hv]

theorem glbRollbackWrite_rejected : RunsTo (.glbRollbackWrite v) s (s.rejected rRollback v) := by
  show execGlbRollbackWrite v s = _
  simp [execGlbRollbackWrite, hup, s.rwp_of_not_matched _ hv]

theorem glbStageGo_rejected (hready : s.board.functionReady = true) :
    RunsTo (.glbStageGo v) s (s.rejected rStageGo v) := by
  show execGlbStageGo v s = _
  simp [execGlbStageGo, hup, hready, s.rwp_of_not_matched _ hv]

omit hup in
theorem State.plainWrite_fuseArm_rejected : s.plainWrite rFuseArm v = s.rejected rFuseArm v := by
  simp [State.plainWrite, s.rwp_of_not_matched _ hv]

end

/-! ### Plain registers (R6) -/

/-- A write of 8 bytes outside the MSI-X table is a whole write of the register at its offset. -/
theorem registerWrite_w8 {s : State} (hup : s.hostUp = true) (d : BitVec 23) (x : W64)
    (h : ¬ (0x010000 ≤ 8 * d.toNat ∧ 8 * d.toNat < 0x018000)) :
    RunsTo (.registerWrite (.w8 d x)) s (s.plainWrite (8 * d.toNat) (.full x)) := by
  show execRegisterWrite (.w8 d x) s = _
  simp only [execRegisterWrite, hup, if_neg h]
  rfl

/-- A write of 4 bytes at a multiple of 8 outside the MSI-X table writes the lower half of the register there. -/
theorem registerWrite_w4_lower {s : State} (hup : s.hostUp = true) (d : BitVec 24) (x : W32) (hd : 4 * d.toNat % 8 = 0)
    (h : ¬ (0x010000 ≤ 4 * d.toNat ∧ 4 * d.toNat < 0x018000)) :
    RunsTo (.registerWrite (.w4 d x)) s (s.plainWrite (4 * d.toNat) (.lower x)) := by
  show execRegisterWrite (.w4 d x) s = _
  simp only [execRegisterWrite, hup, if_neg h, if_pos hd]
  rfl

/-- A write of 4 bytes at 4 above a multiple of 8 outside the MSI-X table writes the upper half of the register below it. -/
theorem registerWrite_w4_upper {s : State} (hup : s.hostUp = true) (d : BitVec 24) (x : W32) (hd : 4 * d.toNat % 8 ≠ 0)
    (h : ¬ (0x010000 ≤ 4 * d.toNat ∧ 4 * d.toNat < 0x018000)) :
    RunsTo (.registerWrite (.w4 d x)) s (s.plainWrite (4 * d.toNat - 4) (.upper x)) := by
  show execRegisterWrite (.w4 d x) s = _
  simp only [execRegisterWrite, hup, if_neg h, if_neg hd]
  rfl

/-- Settles O38: `State.rwp` alone decides, and every row of a protected register hands its answer on. -/
theorem rejectedProtectedWrites : Obligations.RejectedProtectedWrites := by
  unfold Obligations.RejectedProtectedWrites
  intro row hrow s v hup hready hv
  simp only [protectedRows, List.cons_append, List.nil_append, List.mem_cons, List.not_mem_nil, or_false] at hrow
  rcases hrow with rfl | rfl | rfl | rfl | rfl | rfl | rfl | rfl | rfl | rfl
  · exact curClockLimitsWrite_rejected hup hv
  · exact curPowerCapWrite_rejected hup hv
  · exact curThrottlePointWrite_rejected hup hv
  · exact congrArg Host.Outcome.next (State.requestReset_rejected hup hv)
  · exact congrArg Host.Outcome.next (State.requestReset_rejected hup hv)
  · exact congrArg Host.Outcome.next (State.requestReset_rejected hup hv)
  · exact memHpprWrite_rejected hup hv
  · exact glbRollbackWrite_rejected hup hv
  · exact glbStageGo_rejected hup hv (hready rfl)
  · have hfuse : s.plainWrite rFuseArm v = s.rejected rFuseArm v := State.plainWrite_fuseArm_rejected hv
    cases v with
    | full x => exact (registerWrite_w8 hup 0x800B x (by decide)).trans (congrArg Host.Outcome.next hfuse)
    | lower x => exact (registerWrite_w4_lower hup 0x10016 x (by decide) (by decide)).trans (congrArg Host.Outcome.next hfuse)
    | upper x => exact (registerWrite_w4_upper hup 0x10017 x (by decide) (by decide)).trans (congrArg Host.Outcome.next hfuse)

/-- A write of GL_MAC_PREFIX keeps the 32 bits of the register and then holds the switched ports to R338. -/
theorem registerWrite_macPrefix {s : State} (hup : s.hostUp = true) (x : W64) :
    RunsTo (.registerWrite (.w8 (BitVec.ofNat 23 (rMacPrefix / 8)) x)) s
      (({ s with held := mdel s.held rMacPrefix } : State).setReg rMacPrefix (x &&& 0xFFFFFFFF)).macChecked :=
  registerWrite_w8 hup _ x (by decide)

/-- Refutes O39: `wideRegisters` lists GL_MAC_PREFIX (0x050018), whose write does more than keep its bits. With a value whose
octet 0 is not locally administered every switched port goes DOWN (R338), here port 0, which was training. -/
theorem not_registerWrites : ¬ Obligations.RegisterWrites := by
  unfold Obligations.RegisterWrites
  intro h
  have hup : ({ State.reset with
      board := { BoardSt.reset with pwrGood := true }
      host := { HostSt.reset with link := { LinkSt.reset with dlUp := true } }
      guy := { GuySt.reset with ports := [(0, { PortSt.reset with mode := 2, state := .training })] } } : State).hostUp = true := rfl
  obtain ⟨hwide, -⟩ := h _ hup
  have claimed := hwide (rMacPrefix, 0xFFFFFFFF) (by decide) 0
  have actual := registerWrite_macPrefix hup 0
  have hport := congrArg (fun t : State => (t.port 0).state) (Host.Outcome.next.inj (actual.symm.trans claimed))
  exact absurd hport (by decide)

/-! ### The power cycle (R5) -/

theorem State.reset_cluster (c : Nat) : State.reset.cluster c = .reset := rfl

theorem State.reset_port (p : Nat) : State.reset.port p = .reset := rfl

/-- Settles O59: every part of the state starts at its own reset value, and a cluster or a port that no table lists has its own. -/
theorem resetState : Obligations.ResetState := by
  unfold Obligations.ResetState
  have hfuses : State.reset.fusesWf := Nat.zero_le 64
  have hcluster (c : Nat) : (State.reset.cluster c).state = .gated ∧ (State.reset.cluster c).holder = none ∧
      (State.reset.cluster c).buf = [] := by rw [State.reset_cluster]; exact ⟨rfl, rfl, rfl⟩
  have hport (p : Nat) : (State.reset.port p).state = .down := by rw [State.reset_port]; rfl
  exact ⟨rfl, rfl, rfl, rfl, rfl, rfl, rfl, rfl, rfl, rfl, rfl, rfl, rfl, rfl, rfl, rfl, rfl, rfl, rfl, hfuses, rfl, rfl,
    hcluster, hport⟩

end Sys2Proof.Machine
end

section
/-! The peg rows (02_fabric_time.md R45 to R51, 05_core_programs.md R162, R163): commands, core instructions and blocks of other
nodes, each through the shared operation that gives it its meaning. -/

namespace Sys2Proof.Machine

/-! ### Rows through their shared operations -/

/-- A packet row whose meaning is `State.perform` runs to what its body makes of the begun state. -/
theorem runsTo_perform {row : Instr} {s t : State} {q : CmdRef} {op : Nat} {x : Taken} {f : State → Taken → State}
    (hrow : exec row s = .next (s.perform q op f)) (h : Turn s q op x) (ht : f (s.begin q) x = t) : RunsTo row s t :=
  hrow.trans (congrArg Host.Outcome.next ((perform_of f h).trans ht))

/-- A row of delivery whose block arrived runs to its effect, and the block leaves. -/
theorem runsTo_deliver {row : Instr} {s t : State} {p ty : Nat} {b : InBlock} {f : State → List Byte → State}
    (hrow : exec row s = .next (s.deliver p ty f)) (h : Arrives s p ty b) (ht : f s b.bytes = t) : RunsTo row s (t.delivered p b) :=
  hrow.trans (congrArg Host.Outcome.next ((deliver_of f h).trans (by rw [ht])))

/-- A core-instruction row that can issue runs to what its meaning makes of the issue. -/
theorem runsTo_issueRow {row : Instr} {s t : State} {k : CoreRef} {cls op : Nat} {used : Nat → List (Nat × Nat)} {i : Issue}
    {f : State → Issue → State} (hrow : exec row s = .next (s.issueRow k cls op used f)) (hop : opDefined cls op = true)
    (h : Issues s k cls op used i) (ht : f s i = t) : RunsTo row s t :=
  hrow.trans (congrArg Host.Outcome.next ((issueRow_of f hop h).trans ht))

/-! ### The peg array -/

theorem State.pegOwned_eq_true_iff (s : State) (ctx i : Nat) :
    s.pegOwned ctx i = true ↔ ∃ g, mget s.pegs.pegs i = some g ∧ g.owner = ctx := by
  unfold State.pegOwned
  cases mget s.pegs.pegs i <;> simp

/-- A value that no wait in time is met by only replaces the peg's own. -/
theorem State.pegTake_of_unmet {s : State} {i : Nat} {v : W64} {p : Peg} (hp : mget s.pegs.pegs i = some p)
    (hunmet : ∀ w ∈ s.pegs.waits, w.peg = i → w.met v = false ∨ s.timePassed w.timeout = true) :
    s.pegTake i v = { s with pegs := { s.pegs with pegs := mset s.pegs.pegs i { p with value := v } } } := by
  have hhit : ∀ w ∈ s.pegs.waits, (w.peg == i && w.met v && !s.timePassed w.timeout) = false := by
    intro w hw
    by_cases hpeg : w.peg = i
    · rcases hunmet w hw hpeg with h | h <;> simp [h]
    · simp [hpeg]
  have hmet : s.pegs.waits.filter (fun w => w.peg == i && w.met v && !s.timePassed w.timeout) = [] :=
    List.filter_eq_nil_iff.mpr fun w hw => by simp [hhit w hw]
  have hkept : s.pegs.waits.filter (fun w => !(w.peg == i && w.met v && !s.timePassed w.timeout)) = s.pegs.waits :=
    List.filter_eq_self.mpr fun w hw => by rw [hhit w hw]; rfl
  simp only [State.pegTake, hmet, hkept, hp, List.foldl_nil]

theorem State.pegAdd_of_no_wrap {s : State} {i : Nat} {a : W64} {p : Peg} (hp : mget s.pegs.pegs i = some p)
    (hwrap : p.value.toNat ≤ (p.value + a).toNat) : s.pegAdd i a = s.pegTake i (p.value + a) := by
  simp only [State.pegAdd, hp, if_neg (Nat.not_lt.mpr hwrap)]

/-! ### A wait that reaches the array -/

/-- The wait's test, as R47 words it. -/
theorem Wait.met_iff (w : Wait) (v : W64) :
    w.met v = true ↔ if w.eq then v = w.operand else w.operand.toNat ≤ v.toNat := by
  unfold Wait.met
  cases w.eq <;> simp

section
variable {s : State} {w : Wait} {p : Peg} (hp : mget s.pegs.pegs w.peg = some p)
include hp

theorem State.startWait_met (hmet : w.met p.value = true) : s.startWait w = (s, .met p.value) := by
  simp [State.startWait, hp, hmet]

theorem State.startWait_entered (hmet : w.met p.value = false) (htime : s.timePassed w.timeout = false)
    (hroom : s.pegs.waits.length < 32768) :
    s.startWait w = ({ s with pegs := { s.pegs with waits := s.pegs.waits ++ [w] } }, .entered) := by
  simp [State.startWait, hp, hmet, htime, Config.waitEntries, Nat.not_le.mpr hroom]

end

/-! ### Peg commands (R45 to R50) -/

section
variable {s : State} {q : CmdRef} {t : Taken}

theorem pegAlloc_runsTo (h : Turn s q 0x0611 t)
    (hquota : (s.pegs.pegs.filter (fun x => x.2.owner == q.ctx.val)).length + fld t.packet 16 4 ≤ mgetD s.pegs.quota q.ctx.val 0)
    (hroom : s.freeBases (fld t.packet 16 4) ≠ []) :
    ∃ base ∈ s.freeBases (fld t.packet 16 4), RunsTo (.pegAlloc q) s
      (({ s.begin q with freeCtr := (s.begin q).freeCtr + 1, pegs := { (s.begin q).pegs with
        pegs := (List.range (fld t.packet 16 4)).foldl (fun m j => mset m (base + j) ⟨q.ctx.val, 0⟩) s.pegs.pegs } } :
          State).complete q stOk base 0) := by
  have hlt : (s.begin q).free.1.toNat % (s.freeBases (fld t.packet 16 4)).length < (s.freeBases (fld t.packet 16 4)).length :=
    Nat.mod_lt _ (List.length_pos_iff.mpr hroom)
  refine ⟨(s.freeBases (fld t.packet 16 4)).getD
    ((s.begin q).free.1.toNat % (s.freeBases (fld t.packet 16 4)).length) 0, ?_, ?_⟩
  · rw [List.getD_eq_getElem _ _ hlt]
    exact List.getElem_mem hlt
  · refine runsTo_perform rfl h (if_neg ?_)
    rw [not_or]
    exact ⟨Nat.not_lt.mpr hquota, fun hnil => hroom (List.isEmpty_iff.mp hnil)⟩

theorem pegFree_runsTo (h : Turn s q 0x0612 t)
    (howned : ∀ j, j < fld t.packet 20 4 → s.pegOwned q.ctx.val (fld t.packet 16 4 + j) = true) :
    let inside := fun (j : Nat) => decide (fld t.packet 16 4 ≤ j) && decide (j < fld t.packet 16 4 + fld t.packet 20 4)
    let rest := { s.begin q with pegs := { (s.begin q).pegs with
      pegs := s.pegs.pegs.filter (fun x => !inside x.1), waits := s.pegs.waits.filter (fun w => !inside w.peg) } }
    RunsTo (.pegFree q) s (((s.pegs.waits.filter (fun w => inside w.peg)).foldl
      (fun a w => a.breakWait w stPegNotOwned pfPeg) rest).complete q stOk 0 0) := by
  refine runsTo_perform rfl h (if_pos ?_)
  rw [List.all_eq_true]
  exact fun j hj => howned j (List.mem_range.mp hj)

/-- PEG_SIGNAL and PEG_SET of the local Askax, by their shared meaning. -/
theorem pegCommand_local {row : Instr} {op : Nat} {set : Bool} (hrow : exec row s = .next (pegCommand op set q s))
    (h : Turn s q op t) (hnode : fld t.packet 20 2 = 0xFFFF ∨ fld t.packet 20 2 = s.guy.node)
    (howned : s.pegOwned q.ctx.val (fld t.packet 16 4) = true) :
    RunsTo row s ((if set then (s.begin q).pegTake (fld t.packet 16 4) (BitVec.ofNat 64 (fld t.packet 24 8))
      else (s.begin q).pegAdd (fld t.packet 16 4) (BitVec.ofNat 64 (fld t.packet 24 8))).complete q stOk 0 0) :=
  runsTo_perform hrow h ((if_pos hnode).trans (if_pos howned))

/-- PEG_SIGNAL and PEG_SET of another node: the block is sent, and the command completes whatever became of it. -/
theorem pegCommand_remote {row : Instr} {op : Nat} {set : Bool} (hrow : exec row s = .next (pegCommand op set q s))
    (h : Turn s q op t) (hbroad : fld t.packet 20 2 ≠ 0xFFFF) (hother : fld t.packet 20 2 ≠ s.guy.node) :
    RunsTo row s ((((s.begin q).sendBlock (srcCp q.ctx.val q.ring.val) (fld t.packet 20 2) 0 false true
      (pegBlock (fld t.packet 20 2) s.guy.node q.ctx.val (fld t.packet 16 4) set (BitVec.ofNat 64 (fld t.packet 24 8)))).1).complete
        q stOk 0 0) :=
  runsTo_perform hrow h (if_neg (not_or.mpr ⟨hbroad, hother⟩))

/-- The wait that PEG_WAIT_GE or PEG_WAIT_EQ puts to the peg array. -/
def commandWait (q : CmdRef) (t : Taken) (eq : Bool) : Wait :=
  ⟨.cmd q, q.ctx.val, t.par 16 4, eq, BitVec.ofNat 64 (t.par 24 8), t.par 32 8⟩

section
variable {row : Instr} {op : Nat} {eq : Bool} {g : Peg} (hrow : exec row s = .next (pegWaitCommand op eq q s))
  (h : Turn s q op t) (htimed : (fld t.packet 20 4).testBit 0 = true → s.time.state ≠ .unset)
  (hg : mget s.pegs.pegs (fld t.packet 16 4) = some g) (howner : g.owner = q.ctx.val)

include htimed in
theorem begin_not_unset_of_timed : ¬ ((t.par 20 4).testBit 0 && (s.begin q).time.state == .unset) = true := by
  rw [Bool.and_eq_true, beq_iff_eq]
  exact fun ⟨hbit, hunset⟩ => htimed hbit hunset

include hg howner in
theorem begin_pegOwned : (s.begin q).pegOwned q.ctx.val (t.par 16 4) = true :=
  ((s.begin q).pegOwned_eq_true_iff _ _).mpr ⟨g, hg, howner⟩

include hrow h htimed hg howner

theorem pegWaitCommand_met (hmet : (commandWait q t eq).met g.value = true) :
    RunsTo row s ((s.begin q).complete q stOk g.value.toNat 0) := by
  have hstart := State.startWait_met (s := s.begin q) (w := commandWait q t eq) hg hmet
  refine runsTo_perform hrow h ((if_neg (begin_not_unset_of_timed htimed)).trans
    ((if_neg (by simp [begin_pegOwned hg howner])).trans ?_))
  rw [commandWait] at hstart
  rw [hstart]

theorem pegWaitCommand_entered (hmet : (commandWait q t eq).met g.value = false)
    (htime : s.timePassed (commandWait q t eq).timeout = false) (hroom : s.pegs.waits.length < 32768) :
    RunsTo row s ((({ s.begin q with pegs := { (s.begin q).pegs with
      waits := s.pegs.waits ++ [commandWait q t eq] } } : State).startTaken q).stallOn (.cmd q) q.ctx.val 7) := by
  have hstart := State.startWait_entered (s := s.begin q) (w := commandWait q t eq) hg hmet htime hroom
  refine runsTo_perform hrow h ((if_neg (begin_not_unset_of_timed htimed)).trans
    ((if_neg (by simp [begin_pegOwned hg howner])).trans ?_))
  rw [commandWait] at hstart
  rw [hstart]
  rfl

end

end

/-- Settles O28: each row through its lemma above; a wait's outcome is `State.startWait`'s, and a value that meets no wait only
replaces the peg's own. -/
theorem pegCommands : Obligations.PegCommands := by
  unfold Obligations.PegCommands
  refine ⟨fun s q t => ⟨?_, pegAlloc_runsTo, pegFree_runsTo, ?_, ?_, ?_, ?_⟩, ?_⟩
  · exact fun h => runsTo_perform rfl h rfl
  · intro hnode howned
    exact ⟨fun h => pegCommand_local (set := false) rfl h hnode howned,
      fun h => pegCommand_local (set := true) rfl h hnode howned⟩
  · intro hbroad hother
    exact ⟨fun h => pegCommand_remote rfl h hbroad hother, fun h => pegCommand_remote rfl h hbroad hother⟩
  · intro eq row hmem h htimed g hg howner
    have hrow : exec row s = .next (pegWaitCommand (if eq then 0x0616 else 0x0615) eq q s) := by
      simp only [List.mem_cons, Prod.mk.injEq, List.not_mem_nil, or_false] at hmem
      rcases hmem with ⟨rfl, rfl⟩ | ⟨rfl, rfl⟩ <;> rfl
    have hmet := (commandWait q t eq).met_iff g.value
    exact ⟨fun hm => pegWaitCommand_met hrow h htimed hg howner (hmet.mpr hm),
      fun hm htime hroom => pegWaitCommand_entered hrow h htimed hg howner
        (Bool.eq_false_iff.mpr fun hm' => hm (hmet.mp hm')) htime hroom⟩
  · intro halive
    exact congrArg Host.Outcome.next (if_neg (by simp [halive]))
  · exact fun s i v p hp hunmet => ⟨State.pegTake_of_unmet hp hunmet, State.pegAdd_of_no_wrap hp⟩

/-! ### Blocks of other nodes (R51) -/

/-- Settles O29: `State.pegOwned` decides, and it says that the peg's owner is the sender's context. -/
theorem remotePegOperations : Obligations.RemotePegOperations := by
  unfold Obligations.RemotePegOperations
  intro s p b hb
  constructor
  · intro g hg howner
    exact runsTo_deliver rfl hb (if_pos ((s.pegOwned_eq_true_iff _ _).mpr ⟨g, hg, howner⟩))
  · intro hforeign
    refine runsTo_deliver rfl hb (if_neg ?_)
    rw [State.pegOwned_eq_true_iff]
    exact fun ⟨g, hg, howner⟩ => hforeign g hg howner

/-! ### Core instructions (R162, R163) -/

section
variable {s : State} {k : CoreRef} {i : Issue} {op : Nat} {row : Instr}

/-- PSIG and PSET on a peg of the local Askax, by their shared meaning. -/
theorem pegOperate_local {set : Bool} (hop : opDefined 0x9 op = true) (hrow : exec row s = .next (pegOperate op set k s))
    (h : Issues s k 0x9 op (fun _ => [(21, 12), (47, 32)]) i)
    (hfree : i.free [bits i.w 16 12, bits i.w 21 17]) (hidx : pgIdx i < 16384)
    (hnode : pgNode i.w = 0xFFFF ∨ pgNode i.w = s.guy.node) (howned : s.pegOwned i.ctx (pgIdx i) = true)
    (hdone : i.writesDone s = true) :
    RunsTo row s (if set then ((i.done s i.core).publish k).pegTake (pgIdx i) (pgVal i)
      else ((i.done s i.core).publish k).pegAdd (pgIdx i) (pgVal i)) := by
  refine runsTo_issueRow hrow hop h ((regs_of _ hfree).trans ?_)
  have hhere : (pgNode i.w == 0xFFFF || pgNode i.w == s.guy.node) = true := by simpa using hnode
  simp [pegCount, Nat.not_le.mpr hidx, hhere, howned, hdone]

/-- PSIG and PSET on a peg of another node that a route reaches, by their shared meaning. -/
theorem pegOperate_remote {set : Bool} {s' : State} (hop : opDefined 0x9 op = true)
    (hrow : exec row s = .next (pegOperate op set k s)) (h : Issues s k 0x9 op (fun _ => [(21, 12), (47, 32)]) i)
    (hfree : i.free [bits i.w 16 12, bits i.w 21 17]) (hidx : pgIdx i < 16384) (hbroad : pgNode i.w ≠ 0xFFFF)
    (hother : pgNode i.w ≠ s.guy.node) (hdone : i.writesDone s = true)
    (hsent : s.sendBlock (srcCluster k.cluster.val) (pgNode i.w) 0 false true
      (pegBlock (pgNode i.w) s.guy.node i.ctx (pgIdx i) set (pgVal i)) = (s', true)) :
    RunsTo row s ((i.done s' i.core).publish k) := by
  refine runsTo_issueRow hrow hop h ((regs_of _ hfree).trans ?_)
  simp [pegCount, Nat.not_le.mpr hidx, hbroad, hother, hdone, hsent]

/-- The wait that PWGE or PWEQ puts to the peg array. -/
def programWait (k : CoreRef) (i : Issue) (eq : Bool) : Wait :=
  ⟨.prog k, i.ctx, pgIdx i, eq, pgVal i, (i.core.getX (bits i.w 26 22)).toNat⟩

section
variable {eq : Bool} {p : Peg} (hop : opDefined 0x9 op = true) (hrow : exec row s = .next (pegWait op eq k s))
  (h : Issues s k 0x9 op (fun _ => [(31, 12), (47, 32)]) i)
  (hfree : i.free [bits i.w 16 12, bits i.w 21 17, bits i.w 26 22, bits i.w 31 27])
  (hnode : pgNode i.w = 0xFFFF) (hidx : pgIdx i < 16384) (howned : s.pegOwned i.ctx (pgIdx i) = true)
  (hp : mget s.pegs.pegs (pgIdx i) = some p)
include hop hrow h hfree hnode hidx howned hp

theorem pegWait_met (hmet : (programWait k i eq).met p.value = true) :
    Leaves row s k (i.core.setX (bits i.w 31 27) p.value).advance := by
  have hstart := State.startWait_met (s := s) (w := programWait k i eq) hp hmet
  rw [programWait] at hstart
  refine leaves_done h.issue (runsTo_issueRow hrow hop h ((regs_of _ hfree).trans ?_))
  simp [pegCount, hnode, Nat.not_le.mpr hidx, howned, hstart]

theorem pegWait_entered (hmet : (programWait k i eq).met p.value = false)
    (htime : s.timePassed (programWait k i eq).timeout = false) (hroom : s.pegs.waits.length < 32768) :
    RunsTo row s (i.stall (({ s with pegs := { s.pegs with waits := s.pegs.waits ++ [programWait k i eq] } } : State).setCore k
      { i.core with wait := some (.peg (bits i.w 31 27)) }) 7) := by
  have hstart := State.startWait_entered (s := s) (w := programWait k i eq) hp hmet htime hroom
  rw [programWait] at hstart
  refine runsTo_issueRow hrow hop h ((regs_of _ hfree).trans ?_)
  simp [pegCount, hnode, Nat.not_le.mpr hidx, howned, hstart, programWait]

end

end

/-- A stall that begins or goes on changes nothing but the episodes and their sums. -/
theorem stallOn_eq (s : State) (u : StallUnit) (ctx cause : Nat) :
    s.stallOn u ctx cause = { s with tier := { s.tier with
      episodes := (s.stallOn u ctx cause).tier.episodes, stalls := (s.stallOn u ctx cause).tier.stalls } } := by
  unfold State.stallOn
  split
  · rfl
  · rw [stallOff_eq]

/-- A core set and its instruction left waiting: the core is as set, and no state but the engines and the stalls has changed. -/
theorem stall_setCore (i : Issue) (s : State) (k : CoreRef) (c : CoreSt) (cause : Nat) :
    let t := i.stall (s.setCore k c) cause
    t.core k = c ∧ t.pegs = s.pegs ∧ t.hbm = s.hbm ∧ t.host = s.host := by
  rw [Issue.stall, stallOn_eq]
  exact ⟨core_setCore_self s k c, rfl, rfl, rfl⟩

/-- Settles O16: the four rows are two shared meanings, each taken as far as the peg array lets it go. -/
theorem programPegs : Obligations.ProgramPegs := by
  unfold Obligations.ProgramPegs
  intro s k i hfree idx v node used hidx
  have hfree2 : i.free [bits i.w 16 12, bits i.w 21 17] := fun r hr => hfree r (by
    simp only [List.mem_cons, List.not_mem_nil, or_false] at hr ⊢
    exact hr.imp_right Or.inl)
  refine ⟨?_, ?_, ?_⟩
  · intro hnode howned hdone
    exact ⟨fun h => pegOperate_local (set := false) rfl rfl h hfree2 hidx hnode howned hdone,
      fun h => pegOperate_local (set := true) rfl rfl h hfree2 hidx hnode howned hdone⟩
  · intro hbroad hother hdone s'
    exact ⟨fun h => pegOperate_remote rfl rfl h hfree2 hidx hbroad hother hdone,
      fun h => pegOperate_remote rfl rfl h hfree2 hidx hbroad hother hdone⟩
  · intro hnode howned p hp limit xret eq row hmem h met
    have hrow : exec row s = .next (pegWait (if eq then 0x03 else 0x02) eq k s) := by
      simp only [List.mem_cons, Prod.mk.injEq, List.not_mem_nil, or_false] at hmem
      rcases hmem with ⟨rfl, rfl⟩ | ⟨rfl, rfl⟩ <;> rfl
    have hop : opDefined 0x9 (if eq then 0x03 else 0x02) = true := by cases eq <;> rfl
    have hmet := (programWait k i eq).met_iff p.value
    refine ⟨fun hm => pegWait_met hop hrow h hfree hnode hidx howned hp (hmet.mpr hm), fun hm htime hroom => ?_⟩
    have hm' : (programWait k i eq).met p.value = false := Bool.eq_false_iff.mpr fun hm' => hm (hmet.mp hm')
    exact ⟨_, pegWait_entered hop hrow h hfree hnode hidx howned hp hm' htime hroom, stall_setCore i _ k _ 7⟩

end Sys2Proof.Machine
end

section
/-! Fabric time (02_fabric_time.md R27 to R44, R58): what an event and a port's next unit leave of the time, how a measurement
goes on, and the rows of time, beacons and PTP. -/

namespace Sys2Proof.Machine

/-! ### What an event without a context leaves (R54 to R56) -/

@[simp] theorem State.toHost_time_regs (s : State) (o : HostOut) :
    (s.toHost o).time = s.time ∧ (s.toHost o).regs = s.regs := by
  unfold State.toHost
  split <;> exact ⟨rfl, rfl⟩

@[simp] theorem State.signalVector_time_regs (s : State) (v : Nat) :
    (s.signalVector v).time = s.time ∧ (s.signalVector v).regs = s.regs := by
  unfold State.signalVector
  dsimp only
  split
  · exact ⟨rfl, rfl⟩
  · exact s.toHost_time_regs _

@[simp] theorem State.exportPut_time_regs (s : State) (g : CatRing) (h a : Nat) (r : Record) :
    (s.exportPut g h a r).time = s.time ∧ (s.exportPut g h a r).regs = s.regs := by
  simp [State.exportPut]

@[simp] theorem State.exportOne_time_regs (s : State) (r : Record) :
    (s.exportOne r).time = s.time ∧ (s.exportOne r).regs = s.regs := by
  unfold State.exportOne
  split
  · exact ⟨rfl, rfl⟩
  · dsimp only
    split
    · simp [State.free]
    · exact ⟨rfl, rfl⟩

@[simp] theorem State.exportLost_time_regs (s : State) : s.exportLost.time = s.time ∧ s.exportLost.regs = s.regs := by
  unfold State.exportLost
  split
  · exact ⟨rfl, rfl⟩
  · split
    · exact ⟨rfl, rfl⟩
    · dsimp only
      split
      · exact ⟨rfl, rfl⟩
      · simp [State.generate, State.free]

/-- A record of no context reaches neither the time nor the registers. -/
@[simp] theorem State.raise_none_time_regs (s : State) (code src : Nat) (args : List Nat) :
    (s.raise code src none args).time = s.time ∧ (s.raise code src none args).regs = s.regs := by
  simp only [State.raise, State.raiseWith, State.generate, Bool.false_eq_true, if_false]
  split <;> simp

theorem State.reg_congr {s t : State} (h : s.regs = t.regs) (off : Nat) : s.reg off = t.reg off := by
  simp only [State.reg, h]

/-! ### Measurements (R27, R32 to R34) -/

@[simp] theorem State.toHoldover_regs (s : State) : s.toHoldover.regs = s.regs := by
  unfold State.toHoldover
  split <;> simp

@[simp] theorem State.toHoldover_time (s : State) :
    s.toHoldover.time = { s.time with state := if s.time.state = .locked then .holdover else s.time.state } := by
  unfold State.toHoldover
  split <;> simp

/-- The counts of measurements move the state, the counts and the catalogue, not the clock. -/
theorem State.countMeasure_ns_regs (s : State) (off : Int) :
    (s.countMeasure off).time.ns = s.time.ns ∧ (s.countMeasure off).regs = s.regs := by
  unfold State.countMeasure
  dsimp only
  generalize (if inLockWindow s.timeSource off then min 8 (s.time.inWindow + 1) else 0) = i
  generalize (if inLockWindow s.timeSource off then 0 else min 8 (s.time.outWindow + 1)) = o
  split
  · simp
  · split <;> simp

theorem State.shiftTimers_time (s : State) (d : Int) : (s.shiftTimers d).time = s.time := rfl

theorem State.stepTime_ns (s : State) (new : Nat) : (s.stepTime new).time.ns = new % 2 ^ 64 := by
  unfold State.stepTime
  dsimp only
  split <;> simp

/-- The rate estimate is a remainder of 858993 = 2 × 429496 + 1, taken about zero: ±100 ppm in units of 2^-32 (R33). -/
theorem State.estimateRate_bound (s : State) : s.estimateRate.time.rate.natAbs ≤ 429496 := by
  have hlt : s.free.1.toNat % 858993 < 858993 := Nat.mod_lt _ (by decide)
  simp only [State.estimateRate]
  split <;> omega

/-- The state with a measurement's offset noted and its rate estimate made. -/
def State.measured (s : State) (off : Int) : State :=
  { s.estimateRate with time := { s.estimateRate.time with offset := off, lastMeasure := s.time.localNs } }

/-- The state with a measurement noted and counted, as one that finds the time set leaves it. -/
def State.measuredSet (s : State) (off : Int) : State := (s.measured off).countMeasure off

/-- The step limit, in ns. -/
def State.stepLimit (s : State) : Nat := 1000 * bits (s.reg 0x020010) 47 32

theorem State.measure_of_unset {s : State} (off : Int) (h : s.time.state = .unset) :
    s.measure off = (s.measured off).stepTime ((s.time.ns : Int) + off).toNat := if_pos h

/-- What `measure` decides once the time is set, with the clock and the registers read before the counts. -/
theorem State.measure_of_set {s : State} (off : Int) (h : s.time.state ≠ .unset) :
    s.measure off =
      if s.stepLimit < off.natAbs then
        if (s.reg 0x020010).testBit 8 then (s.measuredSet off).stepTime ((s.time.ns : Int) + off).toNat
        else
          ({ s.measuredSet off with time := { (s.measuredSet off).time with slew := off * 2 ^ 32, inWindow := 0 } } :
            State).toHoldover.raise 0x0A04 srcTime none [asArg off, s.stepLimit, 0, 0]
      else { s.measuredSet off with time := { (s.measuredSet off).time with slew := off * 2 ^ 32 } } := by
  obtain ⟨hns, hregs⟩ := (s.measured off).countMeasure_ns_regs off
  have hreg : (s.measuredSet off).reg 0x020010 = s.reg 0x020010 := State.reg_congr hregs _
  have hnow : (s.measuredSet off).now = s.time.ns := hns
  rw [State.stepLimit, ← hreg, ← hnow]
  exact if_neg h

/-- Settles O27: `measure` by its branches; neither the counts nor HOLDOVER touch the clock or the correction. -/
theorem timeMeasured : Obligations.TimeMeasured := by
  unfold Obligations.TimeMeasured
  intro s off e u limit
  refine ⟨State.measure_of_unset off, ⟨rfl, s.estimateRate_bound⟩, ?_, ?_⟩
  · intro hset (hwithin : off.natAbs ≤ s.stepLimit)
    rw [State.measure_of_set off hset, if_neg (Nat.not_lt.mpr hwithin)]
  · intro hset (hbeyond : s.stepLimit < off.natAbs)
    rw [State.measure_of_set off hset, if_pos hbeyond]
    constructor
    · intro hallow
      rw [if_pos hallow, State.stepTime_ns]
    · intro hrefuse
      rw [if_neg (Bool.eq_false_iff.mp hrefuse)]
      refine ⟨by simp, ?_⟩
      simp only [State.raise_none_time_regs, State.toHoldover_time]
      split
      · decide
      · assumption

/-! ### The rows of time (R31, R32, R37, R42, R58) -/

theorem atBoundary_iff (b : List Byte) (now : Nat) :
    atBoundary b now = true ↔ planEpoch b ≤ now ∧ (now - planEpoch b) % planPeriod b < 2 := by
  simp [atBoundary]

section
variable {s : State}

theorem timeCtrlWrite_full (hup : s.hostUp = true) (x : W64) :
    let u := ({ s with held := mdel s.held 0x020010 } : State).setReg 0x020010 (x &&& 0x0000FFFF00FFF70F)
    RunsTo (.timeCtrlWrite (.full x)) s (if u.timeSource = s.timeSource then u
      else ({ u with time := { u.time with
        inWindow := 0, outWindow := 0, lastMeasure := u.local_, ppsSecond := none, beacon := none } } : State).toHoldover) :=
  congrArg Host.Outcome.next (if_neg (by simp [hup]))

theorem timePpsEdge_runsTo (halive : s.alive = true) (hsource : s.timeSource = 3) (hready : s.time.ppsReady = true) :
    let sec := match s.time.ppsSecond with
      | some n => n + 1
      | none => (s.time.ns + 500000000) / 1000000000
    RunsTo (.timePpsEdge true) s (({ s with time := { s.time with ppsSecond := some sec } } : State).measure
      ((sec * 1000000000 : Nat) - (s.time.ns : Int))) :=
  congrArg Host.Outcome.next (if_neg (by simp [halive, hsource, hready]))

theorem measurementLossTimeout_runsTo (halive : s.alive = true) (hsource : s.timeSource ≠ 0) (hset : s.time.state ≠ .unset)
    (hlate : s.time.lastMeasure + s.lossIntervals * s.measureNs ≤ s.time.localNs) :
    RunsTo .measurementLossTimeout s (({ s with time := { s.time with
      inWindow := 0, outWindow := 0, lastMeasure := s.time.localNs, ptp := { s.time.ptp with master := none } } } :
        State).toHoldover) :=
  congrArg Host.Outcome.next (if_pos (by simp [halive, hsource, hset, State.local_, hlate]))

theorem timePpsOutPulse_runsTo (halive : s.alive = true) (henabled : (s.reg 0x020010).testBit 10 = true)
    (hset : s.time.state ≠ .unset) (hnew : s.time.lastPpsOut ≠ s.time.ns / 1000000000)
    (hsecond : s.time.ns % 1000000000 < 2) :
    RunsTo .timePpsOutPulse s { s with time := { s.time with
      ppsOutUntil := some (s.time.localNs + 10000), lastPpsOut := s.time.ns / 1000000000 } } :=
  congrArg Host.Outcome.next (if_pos (by simp [halive, rTimeCtrl, henabled, hset, hnew, State.now, hsecond]))

section
variable {p : Port} {x : PlanSt} (halive : s.alive = true) (hset : s.time.state ≠ .unset) (hx : mget s.plans p.val = some x)
include halive hset hx

/-- A removal ends the live plan at a boundary of the plan, in the time that the plan counts. -/
theorem slotPlanPeriodBoundary_removed (hremoving : x.removing = true)
    (hboundary : ∀ b, x.live = some b →
      planEpoch b ≤ x.count s.time.ns ∧ (x.count s.time.ns - planEpoch b) % planPeriod b < 2) :
    RunsTo (.slotPlanPeriodBoundary p) s ((({ s with plans := mset s.plans p.val ⟨none, none, false, none⟩ } :
      State).raise 0x0A06 srcTime none [p.val, 0, 0, 0]).pump p.val) := by
  have hall : x.live.all (fun b => atBoundary b (x.count s.now)) = true :=
    Option.all_eq_true _ _ |>.mpr fun b hb => (atBoundary_iff _ _).mpr (hboundary b hb)
  show execSlotPlanPeriodBoundary p s = _
  simp [execSlotPlanPeriodBoundary, halive, hset, hx, hremoving, hall, PlanSt.empty]

/-- A committed plan becomes live at its own boundary. -/
theorem slotPlanPeriodBoundary_committed {b : List Byte} (hstays : x.removing = false) (hb : x.committed = some b)
    (hboundary : planEpoch b ≤ s.time.ns ∧ (s.time.ns - planEpoch b) % planPeriod b < 2) :
    RunsTo (.slotPlanPeriodBoundary p) s ((({ s with plans := mset s.plans p.val ⟨some b, none, false, none⟩ } :
      State).raise 0x0A06 srcTime none [p.val, planEpoch b, 0, 0]).pump p.val) := by
  have hat : atBoundary b s.now = true := (atBoundary_iff _ _).mpr hboundary
  show execSlotPlanPeriodBoundary p s = _
  simp [execSlotPlanPeriodBoundary, halive, hset, hx, hstays, hb, hat]

end

end

/-- Settles O25: each row by the lemma above that takes it past its guard. -/
theorem timeCommands : Obligations.TimeCommands := by
  unfold Obligations.TimeCommands
  intro s q p
  refine ⟨fun t h hallowed => runsTo_perform rfl h (if_pos hallowed), fun t h => runsTo_perform rfl h rfl,
    timeCtrlWrite_full, timePpsEdge_runsTo, measurementLossTimeout_runsTo, timePpsOutPulse_runsTo, ?_⟩
  intro halive hset x hx boundary
  exact ⟨slotPlanPeriodBoundary_removed halive hset hx,
    fun hstays b hb => slotPlanPeriodBoundary_committed halive hset hx hstays hb⟩

end Sys2Proof.Machine
end

section
/-! Beacons and PTP (02_fabric_time.md R29, R30): what a port's next unit leaves of the local count, and the rows that exchange
and measure. -/

namespace Sys2Proof.Machine

/-! ### The local count through a port's next unit (R43) -/

@[simp] theorem State.stallOff_time (s : State) (u : StallUnit) : (s.stallOff u).time = s.time := by
  rw [stallOff_eq]

@[simp] theorem State.stallOn_time (s : State) (u : StallUnit) (ctx cause : Nat) : (s.stallOn u ctx cause).time = s.time := by
  rw [stallOn_eq]

@[simp] theorem State.sent_time (s : State) (p : Nat) (x : PortSt) (cls n : Nat) (o : GuyOut) :
    (s.sent p x cls n o).time = s.time := rfl

/-- A fold whose every step keeps a view of the state keeps it. -/
theorem foldl_view {α β : Type} {view : State → α} {f : State → β → State} (h : ∀ s x, view (f s x) = view s)
    (l : List β) (s : State) : view (l.foldl f s) = view s :=
  (List.foldl_hom view (g₂ := fun v _ => v) (fun s x => (h s x).symm)).symm.trans (List.foldl_fixed _)

@[simp] theorem State.slotStalls_time (s : State) (p : Nat) (x : PortSt) (waits : List Nat) :
    (s.slotStalls p x waits).time = s.time := by
  unfold State.slotStalls
  split
  · rfl
  · refine foldl_view (view := State.time) (fun s c => ?_) _ s
    dsimp only
    split <;> simp

@[simp] theorem State.pumpIdle_time (s : State) (p : Nat) (x : PortSt) : (s.pumpIdle p x).time = s.time := by
  unfold State.pumpIdle
  split
  · dsimp only
    split <;> simp
  · split <;> simp

@[simp] theorem State.ptpLeft_localNs (s : State) (p : Nat) (m : PtpMessage) :
    (s.ptpLeft p m).time.localNs = s.time.localNs := by
  unfold State.ptpLeft
  split <;> rfl

@[simp] theorem State.sendUnit_localNs (s : State) (p : Nat) (x : PortSt) (c : Nat) :
    (s.sendUnit p x c).time.localNs = s.time.localNs := by
  unfold State.sendUnit
  split
  · dsimp only
    rw [State.sent_time]
    exact (apply_ite (fun u : State => u.time.localNs) _ _ _).trans (ite_self _)
  · split
    · rfl
    · dsimp only
      split <;> simp

/-- A port that sends stamps what it sends, and no more of the time than that. -/
@[simp] theorem State.pump_localNs (s : State) (p : Nat) : (s.pump p).time.localNs = s.time.localNs := by
  unfold State.pump
  dsimp only
  split
  · rfl
  · split
    · rfl
    · split <;> simp

@[simp] theorem State.ptpSend_localNs (s : State) (p : Nat) (x : PtpBody) : (s.ptpSend p x).time.localNs = s.time.localNs := by
  simp [State.ptpSend, State.enqueue]

/-! ### Beacons (R30) -/

theorem deliverBeacon_of {s : State} {p arg : Nat} {b : InBlock} (f : State → List Byte → State) (h : Arrives s p tyBeacon b)
    (harg : blkArg b.bytes = arg) : s.deliverBeacon p arg f = s.deliver p tyBeacon f :=
  if_pos (by simp [h.2, harg])

section
variable {s : State} {p : Port}

theorem beaconIntervalTick_runsTo (halive : s.alive = true) (hbeacon : s.beaconing = true)
    (hport : s.beaconPort = some p.val) (hdue : s.time.lastBeacon + s.beaconIntervalNs ≤ s.time.localNs) :
    RunsTo .beaconIntervalTick s
      (({ s with time := { s.time with beacon := some s.time.ns, lastBeacon := s.time.localNs } } : State).sendOn p.val 0
        (blockBytes (s.port p.val).neighbour s.guy.node tyBeacon 0 0 0 s.time.ns 0 [])) := by
  show execBeaconIntervalTick s = _
  simp only [execBeaconIntervalTick, halive, hbeacon, hport, State.local_, hdue]
  rfl

theorem beaconRequestReceived_runsTo {b : InBlock} (h : Arrives s p.val tyBeacon b) (hrequest : blkArg b.bytes = 0)
    (hmaster : s.beaconMaster = true) (hdirect : (s.port p.val).direct = true) :
    RunsTo (.beaconRequestReceived p) s
      ((s.sendOn p.val 0 (blockBytes (blkSrc b.bytes) s.guy.node tyBeacon 0 0 0 s.time.ns 1
        (leBytes 8 s.time.ns))).delivered p.val b) :=
  runsTo_deliver (congrArg Host.Outcome.next (deliverBeacon_of _ h hrequest)) h (if_pos ⟨hmaster, hdirect⟩)

theorem beaconReplyReceived_runsTo {b : InBlock} {t1 : Nat} (h : Arrives s p.val tyBeacon b) (hreply : blkArg b.bytes = 1)
    (hbeacon : s.beaconing = true) (hport : s.beaconPort = some p.val) (ht1 : s.time.beacon = some t1) :
    RunsTo (.beaconReplyReceived p) s ((({ s with time := { s.time with beacon := none } } : State).measure
      ((((fld (blkData b.bytes) 0 8 : Int) - t1) - ((s.time.ns : Int) - (blkAddr b.bytes : Int))).fdiv 2)).delivered p.val b) := by
  refine runsTo_deliver (congrArg Host.Outcome.next (deliverBeacon_of _ h hreply)) h ?_
  simp only [hbeacon, hport, ht1]
  rfl

end

/-! ### PTP (R29) -/

section
variable {s : State} {p : Port} (halive : s.alive = true) (hon : s.ptpOn = true) (hswitched : (s.port p.val).switched = true)
  (husable : (s.port p.val).usable = true)

/-- A PTP body from a clock, as a switched port receives it in this clock's domain. -/
def State.ptpFrom (s : State) (src : Nat) (x : PtpBody) : PtpMessage := ⟨bits (s.reg rTimePtp) 15 8, src, x⟩

include halive hon hswitched husable

theorem ptpFrom_accepted (src : Nat) (x : PtpBody) :
    ¬ (!s.alive || !s.ptpOn || !(s.port p.val).switched || !(s.port p.val).usable ||
      (s.ptpFrom src x).domain != bits (s.reg rTimePtp) 15 8) = true := by
  simp [halive, hon, hswitched, husable, State.ptpFrom]

theorem ptp_delayReq {src n : Nat} {c : Int} (hmaster : s.masterPorts.contains p.val = true) :
    RunsTo (.ptpMessageReceived p (s.ptpFrom src (.delayReq n c))) s (s.ptpSend p.val (.delayResp n src s.time.ns c)) :=
  congrArg Host.Outcome.next ((if_neg (ptpFrom_accepted halive hon hswitched husable _ _)).trans (if_pos hmaster))

/-- An Announce of a clock that is no worse than this one, with no master yet or better than the one there is. -/
theorem ptp_announce {src : Nat} {c : PtpClock} (hsource : s.timeSource = 1)
    (hfollows : s.slaveOnly = true ∨ betterClock (s.clockId, s.ownClock) (src, c) = false)
    (hbest : s.time.ptp.master = none ∨
      ∃ b, s.time.ptp.master = some b ∧ betterClock (src, c) (b.source, b.clock) = true) :
    RunsTo (.ptpMessageReceived p (s.ptpFrom src (.announce c))) s
      (s.setPtp (fun x => { x with master := some ⟨p.val, src, c⟩ })) := by
  refine congrArg Host.Outcome.next ((if_neg (ptpFrom_accepted halive hon hswitched husable _ _)).trans ?_)
  have htaken : ¬ (s.timeSource != 1 || (!s.slaveOnly && betterClock (s.clockId, s.ownClock) (src, c))) = true := by
    rcases hfollows with h | h <;> simp [hsource, h]
  refine (if_neg htaken).trans ?_
  rcases hbest with hnone | ⟨b, hb, hbetter⟩
  · rw [hnone]; rfl
  · rw [hb]
    exact if_pos (by simp [State.ptpFrom, hbetter])

section
variable {m : PtpMaster} {src : Nat} (hsource : s.timeSource = 1) (hm : s.time.ptp.master = some m) (hport : m.port = p.val)
  (hsrc : m.source = src)
include hsource hm hport hsrc

omit halive hon hswitched husable in
theorem ptp_of_master : (s.timeSource == 1 && s.time.ptp.master.any (fun m => m.port == p.val && m.source == src)) = true := by
  simp [hsource, hm, hport, hsrc]

theorem ptp_sync_oneStep (n : Nat) (o c : Int) :
    RunsTo (.ptpMessageReceived p (s.ptpFrom src (.sync n false o c))) s (s.ptpSynced p.val (o + c) s.time.ns) := by
  refine congrArg Host.Outcome.next ((if_neg (ptpFrom_accepted halive hon hswitched husable _ _)).trans ?_)
  exact (if_neg (by simp [State.ptpFrom, hsource, hm, hport, hsrc])).trans rfl

theorem ptp_sync_twoStep (n : Nat) (o c : Int) :
    RunsTo (.ptpMessageReceived p (s.ptpFrom src (.sync n true o c))) s
      (s.setPtp (fun x => { x with twoStep := some (n, s.time.ns, c) })) := by
  refine congrArg Host.Outcome.next ((if_neg (ptpFrom_accepted halive hon hswitched husable _ _)).trans ?_)
  exact (if_neg (by simp [State.ptpFrom, hsource, hm, hport, hsrc])).trans rfl

theorem ptp_followUp (n : Nat) (o c t2 c2 : Int) (htwo : s.time.ptp.twoStep = some (n, t2, c2)) :
    RunsTo (.ptpMessageReceived p (s.ptpFrom src (.followUp n o c))) s (s.ptpSynced p.val (o + c + c2) t2) := by
  refine congrArg Host.Outcome.next ((if_neg (ptpFrom_accepted halive hon hswitched husable _ _)).trans ?_)
  simp only [State.ptpFrom, htwo, ptp_of_master hsource hm hport hsrc, beq_self_eq_true, Bool.and_self, if_true]

theorem ptp_delayResp (n : Nat) (r c t1 t2 t3 : Int) (hreq : s.time.ptp.delayReq = some (n, t3))
    (hsync : s.time.ptp.sync = some (t1, t2)) :
    RunsTo (.ptpMessageReceived p (s.ptpFrom src (.delayResp n s.clockId r c))) s
      ((s.setPtp (fun x => { x with delayReq := none, sync := none })).measure (((t1 - t2) + ((r - c) - t3)).fdiv 2)) := by
  refine congrArg Host.Outcome.next ((if_neg (ptpFrom_accepted halive hon hswitched husable _ _)).trans ?_)
  simp only [State.ptpFrom, hreq, hsync, ptp_of_master hsource hm hport hsrc, beq_self_eq_true, Bool.and_self, if_true]

end

end

/-- The Sync interval's messages leave the local count, which the row notes after them. -/
theorem ptpSyncInterval_runsTo {s : State} (halive : s.alive = true) (hports : s.masterPorts ≠ [])
    (hdue : s.time.ptp.lastSync + s.syncNs ≤ s.time.localNs) :
    RunsTo .ptpSyncInterval s ((s.masterPorts.foldl (fun u j =>
      (u.ptpSend j (.announce s.announced)).ptpSend j (.sync s.time.ptp.txSeq true 0 0)) s).setPtp
        (fun x => { x with txSeq := (s.time.ptp.txSeq + 1) % 65536, lastSync := s.time.localNs })) := by
  have hlocal : (s.masterPorts.foldl (fun u j =>
      (u.ptpSend j (.announce s.announced)).ptpSend j (.sync s.time.ptp.txSeq true 0 0)) s).time.localNs = s.time.localNs :=
    foldl_view (view := fun u => u.time.localNs) (fun u j => by simp) _ s
  refine congrArg Host.Outcome.next ((if_neg (by simp [halive, hports, State.local_, Nat.not_lt.mpr hdue])).trans ?_)
  simp only [State.local_, hlocal]

/-- Settles O26: each row by the lemma above that takes it past its guard. -/
theorem beaconsAndPtp : Obligations.BeaconsAndPtp := by
  unfold Obligations.BeaconsAndPtp
  intro s p halive
  refine ⟨beaconIntervalTick_runsTo halive, fun b h => ⟨beaconRequestReceived_runsTo h, fun hreply hbeacon hport t1 ht1 =>
    beaconReplyReceived_runsTo h hreply hbeacon hport ht1⟩, ?_, ptpSyncInterval_runsTo halive⟩
  intro hon hswitched husable ps src got
  refine ⟨fun hmaster n c => ptp_delayReq halive hon hswitched husable hmaster, fun hsource => ⟨fun c =>
    ptp_announce halive hon hswitched husable hsource, fun m hm hport hsrc => ⟨?_, ?_, ?_, ?_⟩⟩⟩
  · exact ptp_sync_oneStep halive hon hswitched husable hsource hm hport hsrc
  · exact ptp_sync_twoStep halive hon hswitched husable hsource hm hport hsrc
  · exact ptp_followUp halive hon hswitched husable hsource hm hport hsrc
  · exact ptp_delayResp halive hon hswitched husable hsource hm hport hsrc

end Sys2Proof.Machine
end

section
/-! The catalogue (02_fabric_time.md R52 to R56): a record made, and the commands that bind its buffers. -/

namespace Sys2Proof.Machine

/-! ### Records (R52 to R54) -/

theorem length_leBytes (n v : Nat) : (leBytes n v).length = n := by
  induction n generalizing v with
  | zero => rfl
  | succ n ih => exact congrArg (· + 1) (ih _)

/-- The four arguments take 32 bytes, however many a record has. -/
theorem Record.length_bytes (r : Record) : r.bytes.length = 64 := by
  simp only [Record.bytes, List.length_append, length_leBytes, List.length_flatMap, List.map_const', List.length_range,
    List.sum_replicate]
  rfl

/-- The newest record at the head of a buffer of `n` leaves at most `n` there. -/
theorem length_cons_take_le {α : Type} (x : α) (l : List α) {n : Nat} (hn : 0 < n) : (x :: l.take (n - 1)).length ≤ n := by
  have htake := List.length_take_le (n - 1) l
  rw [List.length_cons]
  omega

/-! ### Bindings (R54, R55) -/

/-- A command whose accesses came out goes on with what they gave. -/
theorem cmdOutcome_ok {α : Type} {s u : State} {q : CmdRef} {bad : Nat} {r : State × Got α} {x : α} {f : State → α → State}
    (h : r = (u, .ok x)) : s.cmdOutcome q bad r f = f u x := by
  rw [h]; rfl

section
variable {s : State} {q : CmdRef} {t : Taken}

theorem catRingBind_runsTo (h : Turn s q 0x0620 t) (hspace : vaSpace (fld t.packet 16 8) = 0) {u v : State}
    {l : List (Nat × Nat)}
    (hparts : (s.begin q).parts q.ctx.val (fld t.packet 16 8) (64 + 64 * fld t.packet 24 4) true (.other false) 0 = (u, .ok l))
    (hheader : u.writeVa q.ctx.val (fld t.packet 16 8) (List.replicate 64 0) (.other false) 0 = (v, .ok ())) :
    RunsTo (.catRingBind q) s (({ v with cat := { v.cat with
      rings := mset v.cat.rings q.ctx.val ⟨fld t.packet 16 8, fld t.packet 24 4, 0, 0, 0⟩ } } : State).complete q stOk 0 0) :=
  runsTo_perform rfl h ((if_neg (not_not.mpr hspace)).trans ((cmdOutcome_ok hparts).trans (cmdOutcome_ok hheader)))

theorem catExportBind_runsTo (h : Turn s q 0x0621 t) {iova : Nat}
    (hbase : hostLookup s q.ctx.val (fld t.packet 16 8) true = some iova)
    (hpages : ∀ p ∈ pagesOf (fld t.packet 16 8) (64 + 64 * fld t.packet 24 4), (hostLookup s q.ctx.val p.1 true).isSome = true) :
    let lost := s.cat.overwritten
    let u := (s.begin q).toHost (.catExport iova (List.replicate 64 0))
    let u := { u with cat := { u.cat with
      exportRing := some ⟨fld t.packet 16 8, fld t.packet 24 4, 0, lost, BitVec.ofNat 32 s.cat.exported⟩
      exported := u.cat.exported + lost, globalLost := satAdd 32 u.cat.globalLost lost } }
    RunsTo (.catExportBind q) s ((u.cat.uncopied.foldl (fun a r => a.exportOne r) u.exportLost).complete q stOk 0 0) := by
  have hbegun : hostLookup (s.begin q) q.ctx.val (t.par 16 8) true = some iova := hbase
  refine runsTo_perform rfl h ?_
  simp only [hbegun]
  exact if_pos (List.all_eq_true.mpr hpages)

end

/-- Settles O30: the bindings by the lemmas above; a record's fields are what `generate` sets, and each buffer keeps its newest. -/
theorem catalogueBuffers : Obligations.CatalogueBuffers := by
  unfold Obligations.CatalogueBuffers
  constructor
  · intro s q t
    exact ⟨fun h hspace u l v => catRingBind_runsTo h hspace, fun h iova => catExportBind_runsTo h⟩
  · intro s code src ctx args fatal lost
    exact ⟨rfl, rfl, rfl, rfl, rfl, rfl, rfl, rfl, rfl, fun _ => length_cons_take_le _ _ (by decide),
      fun _ => length_cons_take_le _ _ (by decide), Record.length_bytes _⟩

end Sys2Proof.Machine
end

section
/-! Numbers (03_numbers.md R79, R95; 04_cores.md R104, R105, R117, R118): the sums of integer multiplies, the lanes of a vector
register, and the vector instructions of one operand. -/

namespace Sys2Proof.Machine

/-! ### Integer accumulation without SAT (R79, R104) -/

/-- Without SAT the accumulator keeps the low 32 bits of its sum. -/
theorem addInt_unsaturated (acc : W32) (n : Int) : addInt false acc n = acc + BitVec.ofInt 32 n := by
  simp [addInt, BitVec.ofInt_add]

/-- Sums added one after the other without SAT come out as their total does. -/
theorem foldl_addInt_unsaturated (f : Nat → Int) (l : List Nat) (acc : W32) :
    l.foldl (fun a g => addInt false a (f g)) acc = acc + BitVec.ofInt 32 (l.map f).sum := by
  induction l generalizing acc with
  | nil => simp
  | cons g r ih =>
    rw [List.foldl_cons, ih, addInt_unsaturated, List.map_cons, List.sum_cons, BitVec.ofInt_add, BitVec.add_assoc]

/-- A group's sum of products, taken element by element. -/
theorem foldl_add_eq_sum_map (f : Nat → Int) (l : List Nat) : l.foldl (fun s k => s + f k) 0 = (l.map f).sum := by
  rw [List.sum_eq_foldl, List.foldl_map]

/-- The 64 elements of a row of byte codes, as its two groups of 32. -/
theorem sum_groups_eq_sum_range (f : Nat → Int) :
    ((List.range 2).map (fun g => (((List.range 32).map (fun t => 32 * g + t)).map f).sum)).sum = ((List.range 64).map f).sum := by
  have hsplit : List.range 64 = List.range 32 ++ (List.range 32).map (32 + ·) := List.range_add (n := 32) (m := 32)
  have hgroups : List.range 2 = [0, 1] := rfl
  rw [hsplit, hgroups]
  simp [Function.comp_def]

/-- Settles O8: the row's two groups are each summed and added without SAT, and together they are its 64 products. -/
theorem integerMultiplyWraps : Obligations.IntegerMultiplyWraps := by
  unfold Obligations.IntegerMultiplyWraps
  intro c o acc i j hfa hsat
  obtain ⟨hfp, hint, hdepth⟩ : (o.fa == Fmt.fp32) = false ∧ o.fa.isInt = true ∧ tileK o.fa = 64 := by
    rcases hfa with h | h <;> rw [h] <;> exact ⟨rfl, rfl, rfl⟩
  simp only [mmaElem, hfp, hint, hdepth, hsat, if_true, Bool.false_eq_true, if_false]
  rw [foldl_addInt_unsaturated, ← sum_groups_eq_sum_range]
  simp only [foldl_add_eq_sum_map]
  rfl

/-! ### Lanes of a vector register (R96) -/

/-- The number whose base-2^32 digits are the lanes. -/
def lanesNat (l : List W32) : Nat := l.foldr (fun x a => x.toNat + 2 ^ 32 * a) 0

theorem ofLanes_eq (l : List W32) : ofLanes l = BitVec.ofNat 512 (lanesNat l) := rfl

@[simp] theorem lanesNat_cons (x : W32) (l : List W32) : lanesNat (x :: l) = x.toNat + 2 ^ 32 * lanesNat l := rfl

/-- Digit `j` of the number is lane `j`. -/
theorem lanesNat_digit (l : List W32) {j : Nat} (hj : j < l.length) : lanesNat l / 2 ^ (32 * j) % 2 ^ 32 = l[j].toNat := by
  induction l generalizing j with
  | nil => exact absurd hj (Nat.not_lt_zero j)
  | cons x r ih =>
    have hx := x.isLt
    cases j with
    | zero => simp only [lanesNat_cons, List.getElem_cons_zero, Nat.mul_zero, pow_zero, Nat.div_one]; omega
    | succ n =>
      have hpow : 2 ^ (32 * (n + 1)) = 2 ^ 32 * 2 ^ (32 * n) := by rw [← pow_add]; congr 1; omega
      have hrest : (x.toNat + 2 ^ 32 * lanesNat r) / 2 ^ 32 = lanesNat r := by omega
      rw [lanesNat_cons, hpow, ← Nat.div_div_eq_div_mul, hrest, ih (Nat.lt_of_succ_lt_succ hj), List.getElem_cons_succ]

/-- The low `b` bits from bit `a` on of a word are those of the number it was made of. -/
theorem toNat_ofNat_digit (n : Nat) {a b w : Nat} (h : a + b ≤ w) :
    ((BitVec.ofNat w n >>> a).setWidth b).toNat = n / 2 ^ a % 2 ^ b := by
  rw [BitVec.toNat_setWidth, BitVec.toNat_ushiftRight, BitVec.toNat_ofNat, Nat.shiftRight_eq_div_pow]
  obtain ⟨c, rfl⟩ := Nat.exists_eq_add_of_le (Nat.le_of_add_right_le h)
  rw [pow_add, Nat.mod_mul_right_div_self, Nat.mod_mod_of_dvd _ (pow_dvd_pow 2 (Nat.le_of_add_le_add_left h))]

/-- Lane `j` of a register formed from its lanes. -/
theorem lane_ofLanes (l : List W32) {j : Nat} (hj : j < 16) (hl : j < l.length) : lane (ofLanes l) j = l[j] := by
  apply BitVec.eq_of_toNat_eq
  rw [lane, ofLanes_eq, toNat_ofNat_digit _ (by omega), lanesNat_digit l hl]

/-- An operation lane by lane takes lane `j` from lane `j` (R96). -/
theorem lane_mapLanes (f : W32 → W32) (a : W512) {j : Nat} (hj : j < 16) : lane (mapLanes f a) j = f (lane a j) := by
  rw [mapLanes, lane_ofLanes _ hj (by simpa [lanes] using hj)]
  simp [lanes]

/-! ### A vector register after an instruction -/

@[simp] theorem advance_getV (c : CoreSt) (r : Nat) : c.advance.getV r = c.getV r := by
  unfold CoreSt.advance CoreSt.advanceFrom CoreSt.setX
  split
  · split <;> rfl
  · rfl

theorem setV_advance_getV_self (c : CoreSt) (r : Nat) (v : W512) : (c.setV r v).advance.getV r = v := by
  rw [advance_getV]
  exact mgetD_mset_self _ _ _ _

/-! ### Rows of one vector operand (R155) -/

/-- The reductions as R117 words them: each level combines the neighbours of the one before. -/
def neighbourTree (f : W32 → W32 → W32) (a : W512) : W512 :=
  let level1 := fun (n : Nat) => f (lane a (2 * n)) (lane a (2 * n + 1))
  let level2 := fun (n : Nat) => f (level1 (2 * n)) (level1 (2 * n + 1))
  let level3 := fun (n : Nat) => f (level2 (2 * n)) (level2 (2 * n + 1))
  ofLanes (f (level3 0) (level3 1) :: List.replicate 15 0)

theorem reduceLanes_eq_neighbourTree (f : W32 → W32 → W32) : reduceLanes f = neighbourTree f := by
  funext a
  rfl

theorem reduction_next (op : Nat) (f : W32 → W32 → W32) (k : CoreRef) (s : State) :
    (.next (vectorOp1 op (reduceLanes f) k s) : Host.Outcome State Fault Refusal) =
      .next (vectorOp1 op (neighbourTree f) k s) := by
  rw [reduceLanes_eq_neighbourTree]

/-- Every row of the table runs its operation on VA. -/
theorem exec_unaryRow {row : (CoreRef → Instr) × Nat × (W512 → W512)} (hrow : row ∈ unaryRows) (k : CoreRef) (s : State) :
    exec (row.1 k) s = .next (vectorOp1 row.2.1 row.2.2 k s) ∧ opDefined 0x4 row.2.1 = true := by
  simp only [unaryRows, List.mem_cons, List.not_mem_nil, or_false] at hrow
  rcases hrow with rfl | rfl | rfl | rfl | htranscendental
  · exact ⟨rfl, rfl⟩
  · exact ⟨reduction_next 0x0A F32.add k s, rfl⟩
  · exact ⟨reduction_next 0x0B F32.maxNum k s, rfl⟩
  · exact ⟨reduction_next 0x0C F32.minNum k s, rfl⟩
  · rcases htranscendental with rfl | rfl | rfl | rfl | rfl | rfl | rfl | rfl | rfl | rfl | rfl <;> exact ⟨rfl, rfl⟩

theorem unaryRow_leaves {row : (CoreRef → Instr) × Nat × (W512 → W512)} {s : State} {k : CoreRef} {i : Issue}
    (hrow : row ∈ unaryRows) (h : Issues s k 0x4 row.2.1 (fun _ => [(21, 12)]) i) :
    Leaves (row.1 k) s k (i.core.setV (bits i.w 16 12) (row.2.2 (i.core.getV (bits i.w 21 17)))).advance := by
  obtain ⟨hexec, hop⟩ := exec_unaryRow hrow k s
  exact leaves_done h.issue (runsTo_issueRow hexec hop h rfl)

/-- A row whose operation is lane by lane leaves in each lane of VD the result of the lane of VA. -/
theorem lanewiseRow_runs {row : CoreRef → Instr} {op : Nat} {f : W32 → W32} {s : State} {k : CoreRef} {i : Issue}
    (hrow : (row, op, mapLanes f) ∈ unaryRows) (h : Issues s k 0x4 op (fun _ => [(21, 12)]) i) :
    Runs (row k) s (fun t => ∀ j < 16,
      lane ((t.core k).getV (bits i.w 16 12)) j = f (lane (i.core.getV (bits i.w 21 17)) j)) := by
  obtain ⟨t, hexec, hcore, -⟩ := unaryRow_leaves hrow h
  refine ⟨t, hexec, fun j hj => ?_⟩
  rw [hcore, setV_advance_getV_self, lane_mapLanes f _ hj]

/-! ### The transcendentals (R95, R118) -/

/-- The result of a transcendental in a lane, by its operation code. -/
def transcendentalResult (op : Nat) : W32 → W32 :=
  match op with
  | 0x20 => expResult 0x20 0x43000000 0xC3150001
  | 0x21 => expResult 0x21 0x42B17218 0xC2CE8ED0
  | 0x22 => logResult 0x22
  | 0x23 => logResult 0x23
  | 0x24 => rcpResult
  | 0x25 => rsqrtResult
  | 0x26 => trigResult 0x26
  | 0x27 => trigResult 0x27
  | 0x28 => limitResult 0x28 0xBF800000 0x3F800000
  | 0x29 => limitResult 0x29 0 0x3F800000
  | _ => limitResult 0x2A 0xBF800000 0x3F800000

/-- The transcendentals' rows stand in `unaryRows` after VSQRT and the reductions, each with its result lane by lane. -/
theorem specialRows_lanewise :
    specialRows.map (fun r => (r.1, r.2.1, mapLanes (transcendentalResult r.2.1))) = unaryRows.drop 4 := rfl

theorem boundedRows_lanewise :
    boundedRows.map (fun r => (r.1, r.2.1, mapLanes (transcendentalResult r.2.1))) = unaryRows.drop 4 := rfl

/-- R118's table of special values, evaluated. -/
theorem specialRows_evaluate :
    specialRows.all (fun row => row.2.2.all (fun p => transcendentalResult row.2.1 p.1 == p.2)) = true := by
  decide +kernel

theorem specialRows_result {row : (CoreRef → Instr) × Nat × List (W32 × W32)} (hrow : row ∈ specialRows) {p : W32 × W32}
    (hp : p ∈ row.2.2) : transcendentalResult row.2.1 p.1 = p.2 :=
  beq_iff_eq.mp (List.all_eq_true.mp (List.all_eq_true.mp specialRows_evaluate row hrow) p hp)

/-- The part's own result within the bound, and the exact value rounded to nearest otherwise. -/
theorem near2_of_fin (op : Nat) {x : W32} {neg : Bool} {m : Nat} {e : Int} (hx : f32 x = .fin neg m e) :
    near2 op x = boundedResult 2 false (transcendentalDy op neg m e) (Config.transcendental op x) := by
  simp only [near2, hx]

section
variable {op : Nat} {x : W32} {neg : Bool} {m : Nat} {e : Int} (hx : f32 x = .fin neg m e)
include hx

theorem expResult_of_fin {excess under : Nat} (hlt : x.toNat < if neg then under else excess) :
    expResult op excess under x = near2 op x := by
  unfold expResult
  rw [hx]
  cases neg
  · exact if_neg (Nat.not_le.mpr hlt)
  · exact if_neg (Nat.not_le.mpr hlt)

theorem logResult_of_positive (hpos : (!neg && m != 0) = true) : logResult op x = near2 op x := by
  obtain ⟨hneg, hm⟩ : neg = false ∧ m ≠ 0 := by simpa using hpos
  simp [logResult, hx, hneg, hm]

theorem rcpResult_of_nonzero (hm : (m != 0) = true) : rcpResult x = near2 0x24 x := by
  have hm' : m ≠ 0 := by simpa using hm
  simp [rcpResult, hx, hm']

theorem rsqrtResult_of_positive (hpos : (!neg && m != 0) = true) : rsqrtResult x = near2 0x25 x := by
  obtain ⟨hneg, hm⟩ : neg = false ∧ m ≠ 0 := by simpa using hpos
  simp [rsqrtResult, hx, hneg, hm]

theorem trigResult_of_fin : trigResult op x = near2 op x := by
  simp [trigResult, hx, FVal.isFin]

theorem limitResult_of_fin (low high : W32) : limitResult op low high x = near2 op x := by
  simp only [limitResult, hx]

theorem boundedRows_result {row : (CoreRef → Instr) × Nat × (Bool → Nat → W32 → Bool)} (hrow : row ∈ boundedRows)
    (hin : row.2.2 neg m x = true) : transcendentalResult row.2.1 x = near2 row.2.1 x := by
  simp only [boundedRows, List.mem_cons, List.not_mem_nil, or_false] at hrow
  rcases hrow with rfl | rfl | rfl | rfl | rfl | rfl | rfl | rfl | rfl | rfl | rfl
  · exact expResult_of_fin hx (of_decide_eq_true hin)
  · exact expResult_of_fin hx (of_decide_eq_true hin)
  · exact logResult_of_positive hx hin
  · exact logResult_of_positive hx hin
  · exact rcpResult_of_nonzero hx hin
  · exact rsqrtResult_of_positive hx hin
  · exact trigResult_of_fin hx
  · exact trigResult_of_fin hx
  · exact limitResult_of_fin hx _ _
  · exact limitResult_of_fin hx _ _
  · exact limitResult_of_fin hx _ _

end

/-- Settles O5: a row of the first table runs its own operation, and the transcendentals of the other two are rows of the first,
whose lanes take the special value or the bounded result. -/
theorem vectorUnary : Obligations.VectorUnary := by
  unfold Obligations.VectorUnary
  refine ⟨fun row hrow s k i h => unaryRow_leaves hrow h, ?_, ?_⟩
  · intro row hrow s k i h
    have hmem := List.mem_of_mem_drop (specialRows_lanewise ▸ List.mem_map_of_mem hrow)
    obtain ⟨t, hexec, hlanes⟩ := lanewiseRow_runs hmem h
    exact ⟨t, hexec, fun j hj p hp hx => by rw [hlanes j hj, hx, specialRows_result hrow hp]⟩
  · intro row hrow s k i h
    have hmem := List.mem_of_mem_drop (boundedRows_lanewise ▸ List.mem_map_of_mem hrow)
    obtain ⟨t, hexec, hlanes⟩ := lanewiseRow_runs hmem h
    exact ⟨t, hexec, fun j hj neg m e hx hin =>
      (hlanes j hj).trans ((boundedRows_result hx hrow hin).trans (near2_of_fin _ hx))⟩

end Sys2Proof.Machine
end

section
/-! Vector instructions of two and three operands (04_cores.md R96, R117; 05_core_programs.md R155). -/

namespace Sys2Proof.Machine

/-! ### Lanes formed from several operands (R96) -/

section
variable {j : Nat} (hj : j < 16)
include hj

theorem lane_mapLanes2 (f : W32 → W32 → W32) (a b : W512) : lane (mapLanes2 f a b) j = f (lane a j) (lane b j) := by
  rw [mapLanes2, lane_ofLanes _ hj (by simpa using hj)]
  simp

theorem lane_mapLanes3 (f : W32 → W32 → W32 → W32) (a b c : W512) :
    lane (mapLanes3 f a b c) j = f (lane a j) (lane b j) (lane c j) := by
  rw [mapLanes3, lane_ofLanes _ hj (by simpa using hj)]
  simp

theorem lane_splat (x : W32) : lane (splat x) j = x := by
  rw [splat, lane_ofLanes _ hj (by simpa using hj), List.getElem_replicate]

end

theorem getLsbD_lane (v : W512) (j : Nat) {m : Nat} (hm : m < 32) : (lane v j).getLsbD m = v.getLsbD (32 * j + m) := by
  simp [lane, hm]

/-- A vector register is what its lanes say. -/
theorem eq_of_lane_eq {a b : W512} (h : ∀ j < 16, lane a j = lane b j) : a = b := by
  apply BitVec.eq_of_getLsbD_eq
  intro n hn
  have hlane := congrArg (fun x : W32 => x.getLsbD (n % 32)) (h (n / 32) (by omega))
  simpa only [getLsbD_lane _ _ (Nat.mod_lt n (by decide : 32 > 0)), Nat.div_add_mod] using hlane

theorem ofLanes_lanes (a : W512) : ofLanes (lanes a) = a := by
  apply eq_of_lane_eq
  intro j hj
  rw [lane_ofLanes _ hj (by simpa [lanes] using hj)]
  simp [lanes]

/-! ### Results of a lane, as R155 words them -/

theorem satInt_eq (sat : Bool) (x : Int) : satInt sat x =
    if sat then BitVec.ofInt 32 (max (-2 ^ 31) (min (2 ^ 31 - 1) x)) else BitVec.ofInt 32 x := rfl

theorem mul_eq_ofInt (a b : W32) : a * b = BitVec.ofInt 32 (a.toInt * b.toInt) := by
  rw [BitVec.ofInt_mul, BitVec.ofInt_toInt, BitVec.ofInt_toInt]

theorem shiftLeft_eq_ofNat (a : W32) (n : Nat) : a <<< n = BitVec.ofNat 32 (a.toNat * 2 ^ n) := by
  apply BitVec.eq_of_toNat_eq
  rw [BitVec.toNat_shiftLeft, BitVec.toNat_ofNat, Nat.shiftLeft_eq]

theorem ushiftRight_eq_ofNat (a : W32) (n : Nat) : a >>> n = BitVec.ofNat 32 (a.toNat / 2 ^ n) := by
  apply BitVec.eq_of_toNat_eq
  have hlt : a.toNat / 2 ^ n < 2 ^ 32 := Nat.lt_of_le_of_lt (Nat.div_le_self _ _) a.isLt
  rw [BitVec.toNat_ushiftRight, BitVec.toNat_ofNat, Nat.shiftRight_eq_div_pow, Nat.mod_eq_of_lt hlt]

theorem sshiftRight_eq_ofInt (a : W32) (n : Nat) : a.sshiftRight n = BitVec.ofInt 32 (a.toInt / 2 ^ n) := by
  rw [BitVec.sshiftRight, Int.shiftRight_eq_div_pow]
  norm_cast

theorem slt_min_eq_ofInt (a b : W32) : (if b.slt a then b else a) = BitVec.ofInt 32 (min a.toInt b.toInt) := by
  simp only [BitVec.slt_iff_toInt_lt]
  split
  · next h => rw [min_eq_right (Int.le_of_lt h), BitVec.ofInt_toInt]
  · next h => rw [min_eq_left (Int.not_lt.mp h), BitVec.ofInt_toInt]

theorem slt_max_eq_ofInt (a b : W32) : (if a.slt b then b else a) = BitVec.ofInt 32 (max a.toInt b.toInt) := by
  simp only [BitVec.slt_iff_toInt_lt]
  split
  · next h => rw [max_eq_right (Int.le_of_lt h), BitVec.ofInt_toInt]
  · next h => rw [max_eq_left (Int.not_lt.mp h), BitVec.ofInt_toInt]

/-- A condition of the table is not reserved, and VCMP tests it. -/
theorem vecTest_of_laneTests {n : Nat} {test : W32 → W32 → Bool} (h : laneTests[n]? = some test) :
    ¬ 4 < n ∧ vecTest n = test := by
  obtain ⟨hlt, hget⟩ := List.getElem?_eq_some_iff.mp h
  have hlt' : n < 5 := hlt
  subst hget
  refine ⟨by omega, ?_⟩
  interval_cases n <;> rfl

/-! ### The rows -/

/-- Two meanings that agree lane by lane are one. -/
theorem vectorOp_next_congr {f g : Nat → W32 → W32 → W32} (hfg : ∀ w a b, f w a b = g w a b) (op : Nat)
    (more : List (Nat × Nat)) (k : CoreRef) (s : State) : (.next (vectorOp op more f k s) : Host.Outcome State Fault Refusal) =
      .next (vectorOp op more g k s) := by
  have hfg' : f = g := funext fun w => funext fun a => funext fun b => hfg w a b
  rw [hfg']

/-- Every row of the table runs its operation on VA and B. -/
theorem exec_vectorRow {row : (CoreRef → Instr) × Nat × List (Nat × Nat) × (Nat → W32 → W32 → W32)}
    (hrow : row ∈ vectorRows) (k : CoreRef) (s : State) :
    exec (row.1 k) s = .next (vectorOp row.2.1 row.2.2.1 row.2.2.2 k s) ∧ opDefined 0x4 row.2.1 = true := by
  simp only [vectorRows, List.mem_cons, List.not_mem_nil, or_false] at hrow
  rcases hrow with rfl | rfl | rfl | rfl | rfl | rfl | rfl | rfl | rfl | rfl | rfl | rfl | rfl | rfl | rfl | rfl | rfl
  · exact ⟨rfl, rfl⟩
  · exact ⟨rfl, rfl⟩
  · exact ⟨rfl, rfl⟩
  · exact ⟨rfl, rfl⟩
  · exact ⟨rfl, rfl⟩
  · exact ⟨rfl, rfl⟩
  · exact ⟨vectorOp_next_congr (fun _ _ _ => satInt_eq _ _) _ _ k s, rfl⟩
  · exact ⟨vectorOp_next_congr (fun _ _ _ => satInt_eq _ _) _ _ k s, rfl⟩
  · exact ⟨vectorOp_next_congr (fun _ => mul_eq_ofInt) _ _ k s, rfl⟩
  · exact ⟨rfl, rfl⟩
  · exact ⟨rfl, rfl⟩
  · exact ⟨rfl, rfl⟩
  · exact ⟨vectorOp_next_congr (fun _ a _ => shiftLeft_eq_ofNat a _) _ _ k s, rfl⟩
  · exact ⟨vectorOp_next_congr (fun _ a _ => ushiftRight_eq_ofNat a _) _ _ k s, rfl⟩
  · exact ⟨vectorOp_next_congr (fun _ a _ => sshiftRight_eq_ofInt a _) _ _ k s, rfl⟩
  · exact ⟨vectorOp_next_congr (fun _ => slt_min_eq_ofInt) _ _ k s, rfl⟩
  · exact ⟨vectorOp_next_congr (fun _ => slt_max_eq_ofInt) _ _ k s, rfl⟩

section
variable {s : State} {k : CoreRef} {i : Issue} {op : Nat} {row : Instr} (hop : opDefined 0x4 op = true)
  (hfree : i.free [if i.w.testBit 37 then bits i.w 36 32 else 0])
include hop hfree

theorem vectorOp_leaves {more : List (Nat × Nat)} {f : Nat → W32 → W32 → W32}
    (hrow : exec row s = .next (vectorOp op more f k s)) (h : Issues s k 0x4 op (vecUsed more) i) :
    Leaves row s k (i.core.setV (bits i.w 16 12) (mapLanes2 (f i.w) (i.core.getV (bits i.w 21 17)) (operandB i))).advance :=
  leaves_done h.issue (runsTo_issueRow hrow hop h (regs_of _ hfree))

theorem vectorOp3_leaves {f : W32 → W32 → W32 → W32} (hrow : exec row s = .next (vectorOp3 op f k s))
    (h : Issues s k 0x4 op (vecUsed [(31, 27)]) i) :
    Leaves row s k (i.core.setV (bits i.w 16 12)
      (mapLanes3 f (i.core.getV (bits i.w 21 17)) (operandB i) (i.core.getV (bits i.w 31 27)))).advance :=
  leaves_done h.issue (runsTo_issueRow hrow hop h (regs_of _ hfree))

end

theorem vcmp_leaves {s : State} {k : CoreRef} {i : Issue} {test : W32 → W32 → Bool}
    (hfree : i.free [if i.w.testBit 37 then bits i.w 36 32 else 0]) (h : Issues s k 0x4 0x08 (vecUsed [(41, 39)]) i)
    (htest : laneTests[bits i.w 41 39]? = some test) :
    Leaves (.vcmp k) s k (i.core.setV (bits i.w 16 12)
      (mapLanes2 (fun a b => if test a b then 0xFFFFFFFF else 0) (i.core.getV (bits i.w 21 17)) (operandB i))).advance := by
  obtain ⟨hcond, rfl⟩ := vecTest_of_laneTests htest
  exact leaves_done h.issue (runsTo_issueRow rfl rfl h ((if_neg hcond).trans (regs_of _ hfree)))

/-- Settles O4: the rows of the table are one shared operation, VCMP and the operations of three operands have their own, and each
takes lane j from the lanes j of its operands. -/
theorem vectorOperations : Obligations.VectorOperations := by
  unfold Obligations.VectorOperations
  refine ⟨fun s k i hfree => ⟨?_, ?_, vectorOp3_leaves rfl hfree rfl, vectorOp3_leaves rfl hfree rfl⟩, ?_⟩
  · intro row hrow h
    obtain ⟨hexec, hop⟩ := exec_vectorRow hrow k s
    exact vectorOp_leaves hop hfree hexec h
  · exact fun h test => vcmp_leaves hfree h
  · intro f g h a b c x j hj
    exact ⟨lane_mapLanes2 hj f a b, lane_mapLanes3 hj g a b c, lane_mapLanes h a hj, lane_splat hj x, ofLanes_lanes a⟩

end Sys2Proof.Machine
end

section
/-! The matrix engine's tiles (04_cores.md R102 to R109; 05_core_programs.md R152, R153). -/

namespace Sys2Proof.Machine

section
variable {s : State} {k : CoreRef} {i : Issue}

/-! ### Moves between a tile and the tile store (R109) -/

section
variable {m n : Nat} (hshape : accShape (bits i.w 16 12) = some (m, n))
include hshape

theorem accRead_leaves (h : Issues s k 0x3 0x01 (fun _ => [(17, 12), (57, 48)]) i)
    (hclass : (i.core.tileClass (bits i.w 16 12)).isSome) (hplace : 64 * bits i.w 57 48 + 4 * m * n ≤ 49152)
    (hwrite : i.core.canWrite (64 * bits i.w 57 48) (4 * m * n) = true) :
    let c := i.core.tsWrite (64 * bits i.w 57 48) (i.core.accBytes (bits i.w 16 12) m n)
    Leaves (.accRead k) s k (if i.w.testBit 17 then c.clearTile (bits i.w 16 12) m n else c).advance := by
  have hclass' : ¬ (i.core.tileClass (bits i.w 16 12)).isNone = true := 
    Option.isNone_iff_eq_none.not.mpr (Option.isSome_iff_ne_none.mp hclass)
  refine leaves_done h.issue (runsTo_issueRow rfl rfl h ?_)
  simp only [epAcc, hshape]
  exact (if_neg hclass').trans ((if_neg (Nat.not_lt.mpr hplace)).trans (writing_of _ hwrite))

theorem accWrite_leaves (hflips : s.eng.flips = [])
    (h : Issues s k 0x3 0x02 (fun _ => [(16, 12), (47, 47), (57, 48)]) i)
    (hplace : 64 * bits i.w 57 48 + 4 * m * n ≤ 49152)
    (hread : i.core.canRead (64 * bits i.w 57 48) (4 * m * n) = true) :
    Leaves (.accWrite k) s k (((tileCells m n).foldl (fun c p => c.setAcc (accPlace (bits i.w 16 12) p.1 p.2)
      (i.core.tsWord (64 * bits i.w 57 48 + 4 * (n * p.1 + p.2)))) i.core).setClass (bits i.w 16 12) (i.w.testBit 47)).advance := by
  refine leaves_done h.issue (runsTo_issueRow rfl rfl h ?_)
  simp only [epAcc, hshape]
  exact (if_neg (Nat.not_lt.mpr hplace)).trans (reading_of _ ⟨hread, hflips⟩)

theorem accZero_leaves (h : Issues s k 0x3 0x03 (fun _ => [(16, 12), (47, 47)]) i) :
    Leaves (.accZero k) s k ((i.core.clearTile (bits i.w 16 12) m n).setClass (bits i.w 16 12) (i.w.testBit 47)).advance := by
  refine leaves_done h.issue (runsTo_issueRow rfl rfl h ?_)
  simp only [epAcc, hshape]
  rfl

end

/-! ### The multiply (R104 to R107, R152) -/

/-- The operands that an MMA of two formats names. -/
def mmaOps (i : Issue) (fa fb : Fmt) : MmaOps :=
  ⟨fa, fb, 64 * bits i.w 39 30, 64 * bits i.w 49 40, 64 * bits i.w 59 50, 64 * bits i.w 69 60, zpValue fa (bits i.w 77 70),
    zpValue fb (bits i.w 85 78), F32.mul (i.core.x32 (bits i.w 90 86)) (i.core.x32 (bits i.w 95 91)), i.w.testBit 20,
    bits i.w 19 18⟩

/-- The bytes of the side entries of `rows` rows of a format. -/
def sideLength (fa : Fmt) (rows : Nat) : Nat := if fa.isSb then rows * (512 / fa.bits / 32) * 2 else 0

/-- A multiply without ZERO finds every quarter of its tile in the class of its operands. -/
theorem quarters_match {int : Bool} {c : CoreSt} {a : Nat} {zero : Bool}
    (h : zero = false → ∀ q ∈ accQuarters a, c.intQuarters.contains q = int) :
    ¬ (!zero && (accQuarters a).any (fun q => c.intQuarters.contains q != int)) = true := by
  cases zero with
  | true => simp
  | false => simpa using h rfl

/-- The fields of an MMA are good: a tile, two formats that one multiply takes, their passes, SAT for integers alone, valid scales
for scaled blocks, and quarters of the operands' class unless ZERO clears them (R101 to R104, R152). -/
structure MmaFields (i : Issue) (m n : Nat) (fa fb : Fmt) : Prop where
  shape : accShape (bits i.w 16 12) = some (m, n)
  formatA : Fmt.ofCode (bits i.w 24 21) = some fa
  formatB : Fmt.ofCode (bits i.w 28 25) = some fb
  pair : pairAllowed fa fb = true
  passes : bits i.w 19 18 ≠ 0
  onePass : fa ≠ .fp32 → bits i.w 19 18 = 1
  sat : i.w.testBit 20 = true → fa.isInt = true
  scaled : fa.isSb = true → i.free [bits i.w 90 86, bits i.w 95 91] ∧ scaleValid (i.core.x32 (bits i.w 90 86)) = true ∧
    scaleValid (i.core.x32 (bits i.w 95 91)) = true
  class_ : i.w.testBit 17 = false → ∀ q ∈ accQuarters (bits i.w 16 12), i.core.intQuarters.contains q = fa.isInt

/-- A stretch of the tile store that lies inside it and can be read. -/
def Issue.readable (i : Issue) (off n : Nat) : Prop := off + n ≤ 49152 ∧ i.core.canRead off n = true

/-- The tiles and the side entries of an MMA can be read. -/
structure MmaPlaces (i : Issue) (m n : Nat) (fa : Fmt) : Prop where
  tileA : i.readable (64 * bits i.w 39 30) (64 * m)
  tileB : i.readable (64 * bits i.w 49 40) (64 * n)
  sideA : i.readable (64 * bits i.w 59 50) (sideLength fa m)
  sideB : i.readable (64 * bits i.w 69 60) (sideLength fa n)

section
variable {m n : Nat} {fa fb : Fmt} (f : MmaFields i m n fa fb)
include f

theorem MmaFields.format_ok :
    ¬ (!pairAllowed fa fb || bits i.w 19 18 == 0 || (fa != .fp32 && bits i.w 19 18 != 1)) = true := by
  have hpair := f.pair
  by_cases hfp : fa = .fp32
  · subst hfp
    simp [hpair, f.passes]
  · simp [hpair, f.onePass hfp]

theorem MmaFields.free : i.free (if fa.isSb then [bits i.w 90 86, bits i.w 95 91] else []) := by
  cases hsb : fa.isSb with
  | true => exact (f.scaled hsb).1
  | false => simp [Issue.free]

theorem MmaFields.scale_ok :
    ¬ (fa.isSb && !(scaleValid (i.core.x32 (bits i.w 90 86)) && scaleValid (i.core.x32 (bits i.w 95 91)))) = true := by
  simpa using fun hsb => (f.scaled hsb).2

theorem mma_leaves (hflips : s.eng.flips = [])
    (h : Issues s k 0x1 0x00 (fun w => if (Fmt.ofCode (bits w 24 21)).isNone then [(127, 12)] else mmaUsed w) i)
    (p : MmaPlaces i m n fa) :
    let c := mmaTile i.core (mmaOps i fa fb) (bits i.w 16 12) m n (i.w.testBit 17)
    Leaves (.mma k) s k (if i.w.testBit 17 then c.setClass (bits i.w 16 12) fa.isInt else c).advance := by
  have hsat : ¬ (i.w.testBit 20 && !fa.isInt) = true := by simpa using f.sat
  have hplaces : ¬ (49152 < 64 * bits i.w 39 30 + 64 * m ∨ 49152 < 64 * bits i.w 49 40 + 64 * n ∨
      49152 < 64 * bits i.w 59 50 + sideLength fa m ∨ 49152 < 64 * bits i.w 69 60 + sideLength fa n) := by
    simpa using ⟨p.tileA.1, p.tileB.1, p.sideA.1, p.sideB.1⟩
  refine leaves_done h.issue (runsTo_issueRow rfl rfl h ?_)
  simp only [f.shape, f.formatA, f.formatB]
  refine (if_neg f.format_ok).trans ((if_neg hsat).trans ?_)
  refine (regs_of _ f.free).trans ((if_neg f.scale_ok).trans ?_)
  refine (if_neg hplaces).trans ((if_neg (quarters_match f.class_)).trans ?_)
  refine (reading_of _ ⟨p.tileA.2, hflips⟩).trans ((reading_of _ ⟨p.tileB.2, hflips⟩).trans ?_)
  exact (reading_of _ ⟨p.sideA.2, hflips⟩).trans (reading_of _ ⟨p.sideB.2, hflips⟩)

end

end

/-- Settles O7: each of the four rows passes its checks and leaves the core as its lemma above says. -/
theorem matrixTiles : Obligations.MatrixTiles := by
  unfold Obligations.MatrixTiles
  intro s k i hflips w
  refine ⟨?_, ?_⟩
  · intro h m n fa fb hshape hfa hfb hpair hpasses hone hsat hscaled side hplaceA hplaceB hsideA hsideB hclass hreadA hreadB
      hreadSA hreadSB
    exact mma_leaves ⟨hshape, hfa, hfb, hpair, hpasses, hone, hsat, hscaled, hclass⟩ hflips h
      ⟨⟨hplaceA, hreadA⟩, ⟨hplaceB, hreadB⟩, ⟨hsideA, hreadSA⟩, ⟨hsideB, hreadSB⟩⟩
  · intro m n hshape at_
    exact ⟨accRead_leaves hshape, accWrite_leaves hshape hflips, accZero_leaves hshape⟩

end Sys2Proof.Machine
end

section
/-! The epilogue and the conversions (04_cores.md R110 to R116; 05_core_programs.md R153, R154, R156). -/

namespace Sys2Proof.Machine

/-! ### Empty stretches of the tile store (R122) -/

@[simp] theorem shareLine_zero (a n b : Nat) : shareLine a n b 0 = false := by
  simp [shareLine]

@[simp] theorem pendingIn_zero (c : CoreSt) (off : Nat) : c.pendingIn off 0 = false := by
  simp only [CoreSt.pendingIn, shareLine_zero, Bool.and_false, Bool.or_eq_false_iff, List.any_eq_false]
  refine ⟨fun _ _ => Bool.false_ne_true, fun p _ => ?_⟩
  cases p.2.op <;> exact Bool.false_ne_true

@[simp] theorem sourcingIn_zero (c : CoreSt) (off : Nat) : c.sourcingIn off 0 = false := by
  simp only [CoreSt.sourcingIn, shareLine_zero, Bool.and_false, Bool.or_eq_false_iff, List.any_eq_false]
  refine ⟨fun _ _ => Bool.false_ne_true, fun p _ => ?_⟩
  cases p.2.op <;> exact Bool.false_ne_true

@[simp] theorem canRead_zero (c : CoreSt) (off : Nat) : c.canRead off 0 = true := by
  simp [CoreSt.canRead]

@[simp] theorem canWrite_zero (c : CoreSt) (off : Nat) : c.canWrite off 0 = true := by
  simp [CoreSt.canWrite]

/-- A vector operand that can be read, and none, can both be read. -/
theorem canRead_vector {c : CoreSt} {v : Option (Nat × Nat)} (h : ∀ p, v = some p → c.canRead p.1 p.2 = true) :
    c.canRead ((v.map (·.1)).getD 0) ((v.map (·.2)).getD 0) = true := by
  cases v with
  | none => exact canRead_zero c 0
  | some p => exact h p rfl

theorem free_of_none_busy {i : Issue} (h : ∀ r, i.core.xBusy r = false) (rs : List Nat) : i.free rs := fun r _ => h r

/-! ### The epilogue (R110 to R115, R153, R154) -/

section
variable {s : State} {k : CoreRef} {i : Issue} {m n : Nat} {fmt : Fmt} {rm : RM} {int : Bool}

/-- What an epilogue leaves of its core beside its output: its elements counted, its tile cleared when asked. -/
def epiFinish (i : Issue) (o : EpiOps) (st : StatRef) (c : CoreSt) : CoreSt :=
  let counted := st.count c (((List.range o.rows).map (o.row i.core)).flatMap (·.counted))
  if i.w.testBit 17 then counted.clearTile o.acc o.rows o.cols else counted

/-- The core with the rows of DEST 0, and their side entries, in its tile store. -/
def epiStored (i : Issue) (o : EpiOps) : CoreSt :=
  let rows := (List.range o.rows).map (o.row i.core)
  let c := i.core.tsWrite (64 * bits i.w 57 48) (rows.flatMap (·.bytes))
  if o.fmt.isSb then c.tsWrite (64 * bits i.w 67 58) (rows.flatMap (·.side)) else c

/-- The addresses and the bytes of the rows, and of the side entries, of DEST 1. -/
def epiRowsOut (i : Issue) (o : EpiOps) : List (Nat × List Byte) :=
  let rows := (List.range o.rows).map (o.row i.core)
  let at_ := fun (x r : Nat) => (i.core.getX x + BitVec.ofNat 64 r * i.core.getX (x + 1)).toNat
  rows.zipIdx.map (fun p => (at_ (bits i.w 92 88) p.2, p.1.bytes)) ++
    (if o.fmt.isSb then rows.zipIdx.map (fun p => (at_ (bits i.w 92 88 + 2) p.2, p.1.side)) else [])

theorem epiOutput_store {o : EpiOps} {st : StatRef} (hdest : i.w.testBit 43 = false) :
    epiOutput s i o st = i.done s (epiFinish i o st (epiStored i o)) :=
  if_neg (Bool.eq_false_iff.mp hdest)

theorem epiOutput_send {o : EpiOps} {st : StatRef} (hdest : i.w.testBit 43 = true) {ws : List RowOut} {s' : State} {x : Nat}
    (hresolve : resolveRows s i.ctx (epiRowsOut i o) = .ok ws) (hcheck : s.checkRows i.ctx ws = (s', .ok (), x)) :
    epiOutput s i o st = (s'.setCore i.k (epiFinish i o st i.core)).sendRows i ws := by
  refine (if_pos hdest).trans ?_
  dsimp only
  rw [epiRowsOut] at hresolve
  rw [hresolve]
  dsimp only
  rw [hcheck]
  rfl

/-- The fields of an EPI are good (R110 to R113, R153): a tile of one class, a format with tiles of its width, a rounding mode, a
slot, an activation, and registers and lines that exist. -/
structure EpiFields (i : Issue) (m n : Nat) (fmt : Fmt) (rm : RM) (int : Bool) : Prop where
  shape : accShape (bits i.w 16 12) = some (m, n)
  format : Fmt.ofCode (bits i.w 37 34) = some fmt
  rounding : RM.ofCode (bits i.w 39 38) = some rm
  class_ : i.core.tileClass (bits i.w 16 12) = some int
  notReserved : i.stat (bits i.w 46 44) ≠ .reserved
  bound : i.stat (bits i.w 46 44) ≠ .unbound
  act : bits i.w 33 30 ≤ 8
  block : fmt.isSb = true → bits i.w 72 68 < 31 ∧ 24 ≤ bits i.w 16 12 ∧ scaleValid (i.core.x32 (bits i.w 72 68 + 1)) = true
  position : bits i.w 82 78 < 30
  outLine : bits i.w 57 48 < 768
  sideLine : bits i.w 67 58 < 768

/-- The scale and the bias of an EPI are there: registers that no atomic is to write, vectors inside the tile store that can be read
(R111, R121, R122). -/
structure EpiOperands (i : Issue) (m n : Nat) : Prop where
  free : ∀ r, i.core.xBusy r = false
  scale : badVector (epiVector i.core (bits i.w 19 18) (bits i.w 72 68) m n) = false
  bias : badVector (epiVector i.core (bits i.w 21 20) (bits i.w 77 73) m n) = false
  readable : ∀ v ∈ [epiVector i.core (bits i.w 19 18) (bits i.w 72 68) m n,
    epiVector i.core (bits i.w 21 20) (bits i.w 77 73) m n], ∀ p, v = some p → i.core.canRead p.1 p.2 = true

section
variable (f : EpiFields i m n fmt rm int)
include f

theorem EpiFields.registers_ok (hxd : i.w.testBit 43 = true → bits i.w 92 88 + (if fmt.isSb then 3 else 1) ≤ 31) :
    ¬ ((fmt.isSb && decide (31 < bits i.w 72 68 + 1)) || decide (31 < bits i.w 82 78 + 2) ||
      (i.w.testBit 43 && decide (31 < bits i.w 92 88 + (if fmt.isSb then 3 else 1)))) = true := by
  have hscale : fmt.isSb = true → bits i.w 72 68 + 1 ≤ 31 := fun hsb => (f.block hsb).1
  simpa using ⟨⟨hscale, Nat.le_of_lt_succ f.position⟩, hxd⟩

/-- An EPI with good fields goes on to its operands. -/
theorem epi_checked (hrows : i.core.rows = []) (h : Issues s k 0x3 0x00 (fun _ => [(46, 12), (92, 48)]) i)
    (hxd : i.w.testBit 43 = true → bits i.w 92 88 + (if fmt.isSb then 3 else 1) ≤ 31) :
    RunsTo (.epi k) s (epiChecked s i m n int fmt rm (i.stat (bits i.w 46 44))) := by
  have hnew : ¬ (!i.core.rows.isEmpty) = true := by simp [hrows]
  have hbound : ¬ (i.stat (bits i.w 46 44) == .unbound) = true := by simpa using f.bound
  have hlines : ¬ (768 ≤ bits i.w 57 48 ∨ 768 ≤ bits i.w 67 58) :=
    not_or.mpr ⟨Nat.not_le.mpr f.outLine, Nat.not_le.mpr f.sideLine⟩
  have hblock : ¬ (fmt.isSb && decide (bits i.w 16 12 < 24)) = true := by
    simpa using fun hsb => (f.block hsb).2.1
  have hreserved := f.notReserved
  refine runsTo_issueRow rfl rfl h ((if_neg hnew).trans ?_)
  simp only [epAcc, f.shape, f.format, f.rounding, f.class_]
  generalize i.stat (bits i.w 46 44) = st at hreserved hbound
  cases st with
  | reserved => exact absurd rfl hreserved
  | none | slot | unbound =>
    exact (if_neg (Nat.not_lt.mpr f.act)).trans ((if_neg (f.registers_ok hxd)).trans ((if_neg hbound).trans
      ((if_neg hlines).trans (if_neg hblock))))

variable (o : EpiOperands i m n)
include o

/-- Good operands, and room for what goes into the tile store: `out` and `side` bytes of it. -/
theorem epiChecked_eq_epiOutput (hflips : s.eng.flips = []) {st : StatRef} {out side : Nat}
    (hlen : (if i.w.testBit 43 then 0 else m * n * fmt.bits / 8) = out)
    (hside : (if i.w.testBit 43 || !fmt.isSb then 0 else 2 * m) = side)
    (hplaceOut : 64 * bits i.w 57 48 + out ≤ 49152) (hplaceSide : 64 * bits i.w 67 58 + side ≤ 49152)
    (hwriteOut : i.core.canWrite (64 * bits i.w 57 48) out = true)
    (hwriteSide : i.core.canWrite (64 * bits i.w 67 58) side = true) :
    epiChecked s i m n int fmt rm st = epiOutput s i (epiOps s i m n int fmt rm) st := by
  subst hlen hside
  have hscale : ¬ (fmt.isSb && !scaleValid (i.core.x32 (bits i.w 72 68 + 1))) = true := by
    simpa using fun hsb => (f.block hsb).2.2
  have hplaces : ¬ (badVector (epiVector i.core (bits i.w 19 18) (bits i.w 72 68) m n) ||
      badVector (epiVector i.core (bits i.w 21 20) (bits i.w 77 73) m n) ||
      decide (tileBytes < 64 * bits i.w 57 48 + if i.w.testBit 43 then 0 else m * n * fmt.bits / 8) ||
      decide (tileBytes < 64 * bits i.w 67 58 + if i.w.testBit 43 || !fmt.isSb then 0 else 2 * m)) = true := by
    rw [o.scale, o.bias, decide_eq_false (p := tileBytes < _) (Nat.not_lt.mpr hplaceOut),
      decide_eq_false (p := tileBytes < _) (Nat.not_lt.mpr hplaceSide)]
    exact Bool.false_ne_true
  have hreadScale := canRead_vector (o.readable _ List.mem_cons_self)
  have hreadBias := canRead_vector (o.readable _ (List.mem_cons_of_mem _ List.mem_cons_self))
  unfold epiChecked
  refine (regs_of _ (free_of_none_busy o.free _)).trans ((if_neg hscale).trans ((if_neg hplaces).trans ?_))
  refine (reading_of _ ⟨hreadScale, hflips⟩).trans ((reading_of _ ⟨hreadBias, hflips⟩).trans ?_)
  exact (writing_of _ hwriteOut).trans (writing_of _ hwriteSide)

variable (hflips : s.eng.flips = []) (hrows : i.core.rows = []) (h : Issues s k 0x3 0x00 (fun _ => [(46, 12), (92, 48)]) i)
include hflips hrows h

/-- DEST 0: the output is in the tile store when the instruction completes. -/
theorem epi_store_leaves (hdest : i.w.testBit 43 = false)
    (hplaceOut : 64 * bits i.w 57 48 + m * n * fmt.bits / 8 ≤ 49152)
    (hplaceSide : 64 * bits i.w 67 58 + (if fmt.isSb then 2 * m else 0) ≤ 49152)
    (hwriteOut : i.core.canWrite (64 * bits i.w 57 48) (m * n * fmt.bits / 8) = true)
    (hwriteSide : i.core.canWrite (64 * bits i.w 67 58) (if fmt.isSb then 2 * m else 0) = true) :
    let ops := epiOps s i m n int fmt rm
    Leaves (.epi k) s k (epiFinish i ops (i.stat (bits i.w 46 44)) (epiStored i ops)).advance := by
  have hchecked := epi_checked f hrows h (fun hd => absurd (hd.symm.trans hdest) (by decide))
  have hlen : (if i.w.testBit 43 then 0 else m * n * fmt.bits / 8) = m * n * fmt.bits / 8 := by simp [hdest]
  have hside : (if i.w.testBit 43 || !fmt.isSb then 0 else 2 * m) = if fmt.isSb then 2 * m else 0 := by
    cases fmt.isSb <;> simp [hdest]
  rw [epiChecked_eq_epiOutput f o hflips hlen hside hplaceOut hplaceSide hwriteOut hwriteSide, epiOutput_store hdest] at hchecked
  exact leaves_done h.issue hchecked

/-- DEST 1: the rows leave one after the other, once all can go. -/
theorem epi_send_runsTo (hdest : i.w.testBit 43 = true) (hxd : bits i.w 92 88 + (if fmt.isSb then 3 else 1) ≤ 31)
    {ws : List RowOut} {s' : State} {x : Nat} (hresolve : resolveRows s i.ctx (epiRowsOut i (epiOps s i m n int fmt rm)) = .ok ws)
    (hcheck : s.checkRows i.ctx ws = (s', .ok (), x)) :
    RunsTo (.epi k) s
      ((s'.setCore k (epiFinish i (epiOps s i m n int fmt rm) (i.stat (bits i.w 46 44)) i.core)).sendRows i ws) := by
  obtain ⟨rfl, -, -⟩ := issue_core h.issue
  have hchecked := epi_checked f hrows h (fun _ => hxd)
  have hlen : (if i.w.testBit 43 then 0 else m * n * fmt.bits / 8) = 0 := if_pos hdest
  have hside : (if i.w.testBit 43 || !fmt.isSb then 0 else 2 * m) = 0 := if_pos (by simp [hdest])
  have hplaceOut : 64 * bits i.w 57 48 + 0 ≤ 49152 := by have := f.outLine; omega
  have hplaceSide : 64 * bits i.w 67 58 + 0 ≤ 49152 := by have := f.sideLine; omega
  rwa [epiChecked_eq_epiOutput f o hflips hlen hside hplaceOut hplaceSide (canWrite_zero _ _) (canWrite_zero _ _),
    epiOutput_send hdest hresolve hcheck] at hchecked

end

end

/-! ### Conversions (R156) -/

section
variable {s : State} {k : CoreRef} {i : Issue} {fs fd : Fmt} {rm : RM}

/-- The first of the registers that hold the destination's scale and side plane. -/
def cvtDestAux (i : Issue) (fs fd : Fmt) : Nat := if fs.isSb && fd.isSb then bits i.w 58 54 + 2 else bits i.w 58 54

def cvtCount (i : Issue) : Nat := (i.core.getX (bits i.w 43 39)).toNat
def cvtSource (i : Issue) : Nat := (i.core.getX (bits i.w 33 29)).toNat
def cvtDest (i : Issue) : Nat := (i.core.getX (bits i.w 38 34)).toNat
def cvtSourceSide (i : Issue) : Nat := (i.core.getX (bits i.w 58 54 + 1)).toNat
def cvtDestSide (i : Issue) (fs fd : Fmt) : Nat := (i.core.getX (cvtDestAux i fs fd + 1)).toNat

/-- The bytes of the side entries of the elements of a format. -/
def cvtSideLength (i : Issue) (f : Fmt) : Nat := if f.isSb then cvtCount i / 16 else 0

/-- The fields of a conversion from `fs` to `fd`. -/
def cvtOps (s : State) (i : Issue) (fs fd : Fmt) (rm : RM) : CvtOps :=
  ⟨fs, fd, rm.withGrad (i.w.testBit 24), i.w.testBit 22, i.w.testBit 23, s.srKey i (i.core.x32 (bits i.w 53 49)).toNat,
    (i.core.getX (bits i.w 48 44)).toNat, i.core.x32 (bits i.w 58 54), i.core.x32 (cvtDestAux i fs fd)⟩

/-- The converted elements. -/
def cvtResult (s : State) (i : Issue) (fs fd : Fmt) (rm : RM) : CvtOut :=
  convertRun (cvtOps s i fs fd rm) (codesOf fs.bits (memRead i.core.ts (cvtSource i) (planeBytes fs (cvtCount i))) (cvtCount i))
    (codesOf 16 (memRead i.core.ts (cvtSourceSide i) (cvtSideLength i fs)) (cvtSideLength i fs / 2))

/-- The core with the converted elements, and their side entries, in its tile store. -/
def cvtWritten (i : Issue) (fs fd : Fmt) (r : CvtOut) : CoreSt :=
  let c := i.core.tsWrite (cvtDest i) (packCodes fd.bits r.codes)
  if fd.isSb then c.tsWrite (cvtDestSide i fs fd) (sideBytes r.sides) else c

/-- The fields of a CVT from `fs` to `fd` are good (R156): a rounding mode, a slot, registers that exist and that no atomic is to
write; whole blocks for a scaled-block format, and a valid scale for one that is encoded. -/
structure CvtFields (i : Issue) (fs fd : Fmt) (rm : RM) : Prop where
  source : Fmt.ofCode (bits i.w 15 12) = some fs
  dest : Fmt.ofCode (bits i.w 19 16) = some fd
  rounding : RM.ofCode (bits i.w 21 20) = some rm
  notReserved : i.stat (bits i.w 27 25) ≠ .reserved
  bound : i.stat (bits i.w 27 25) ≠ .unbound
  free : ∀ r, i.core.xBusy r = false
  aux : (fs.isSb || fd.isSb) = true → bits i.w 58 54 + (if fs.isSb && fd.isSb then 3 else 1) ≤ 31
  blocks : (fs.isSb || fd.isSb) = true → cvtCount i % 32 = 0
  scale : fd.isSb = true → fs ≠ fd → scaleValid (i.core.x32 (cvtDestAux i fs fd)) = true

/-- The planes of a CVT lie inside the tile store, can be read, and can be written. -/
structure CvtPlaces (i : Issue) (fs fd : Fmt) : Prop where
  alignedSource : cvtSource i % 64 = 0
  alignedDest : cvtDest i % 64 = 0
  source : cvtSource i + planeBytes fs (cvtCount i) ≤ 49152
  dest : cvtDest i + planeBytes fd (cvtCount i) ≤ 49152
  sourceSide : fs.isSb = true → cvtSourceSide i + cvtCount i / 16 ≤ 49152
  destSide : fd.isSb = true → cvtDestSide i fs fd + cvtCount i / 16 ≤ 49152
  canRead : i.core.canRead (cvtSource i) (planeBytes fs (cvtCount i)) = true
  canReadSide : i.core.canRead (cvtSourceSide i) (cvtSideLength i fs) = true
  canWrite : i.core.canWrite (cvtDest i) (planeBytes fd (cvtCount i)) = true
  canWriteSide : i.core.canWrite (cvtDestSide i fs fd) (cvtSideLength i fd) = true

theorem CvtPlaces.inside (p : CvtPlaces i fs fd) :
    ¬ (cvtSource i % 64 ≠ 0 ∨ cvtDest i % 64 ≠ 0 ∨ tileBytes < cvtSource i + planeBytes fs (cvtCount i) ∨
      tileBytes < cvtDest i + planeBytes fd (cvtCount i) ∨ (fs.isSb = true ∧ tileBytes < cvtSourceSide i + cvtCount i / 16) ∨
      (fd.isSb = true ∧ tileBytes < cvtDestSide i fs fd + cvtCount i / 16)) := by
  rintro (hne | hne | hlt | hlt | ⟨hsb, hlt⟩ | ⟨hsb, hlt⟩)
  · exact hne p.alignedSource
  · exact hne p.alignedDest
  · exact Nat.not_lt.mpr p.source hlt
  · exact Nat.not_lt.mpr p.dest hlt
  · exact Nat.not_lt.mpr (p.sourceSide hsb) hlt
  · exact Nat.not_lt.mpr (p.destSide hsb) hlt

theorem cvt_leaves (hflips : s.eng.flips = []) (h : Issues s k 0x5 0x00 cvUsed i) (f : CvtFields i fs fd rm)
    (p : CvtPlaces i fs fd) :
    let r := cvtResult s i fs fd rm
    Leaves (.cvt k) s k ((i.stat (bits i.w 27 25)).count (cvtWritten i fs fd r) r.counted).advance := by
  have haux : ¬ ((fs.isSb || fd.isSb) && decide (31 < bits i.w 58 54 + (if fs.isSb && fd.isSb then 3 else 1))) = true := by
    rw [Bool.and_eq_true, decide_eq_true_eq]
    exact fun ⟨hsb, hlt⟩ => Nat.not_lt.mpr (f.aux hsb) hlt
  have hbound : ¬ (i.stat (bits i.w 27 25) == .unbound) = true := by simpa using f.bound
  have hblocks : ¬ ((fs.isSb || fd.isSb) && cvtCount i % 32 != 0) = true := by
    rw [Bool.and_eq_true, bne_iff_ne]
    exact fun ⟨hsb, hne⟩ => hne (f.blocks hsb)
  have hscale : ¬ (fd.isSb && fs != fd && !scaleValid (i.core.x32 (cvtDestAux i fs fd))) = true := by
    simpa using f.scale
  have hreserved := f.notReserved
  refine leaves_done h.issue (runsTo_issueRow rfl rfl h ?_)
  simp only [f.source, f.dest, f.rounding]
  generalize i.stat (bits i.w 27 25) = st at hreserved hbound
  cases st with
  | reserved => exact absurd rfl hreserved
  | none | slot | unbound =>
    refine (if_neg haux).trans ((if_neg hbound).trans ((regs_of _ (free_of_none_busy f.free _)).trans ?_))
    refine (if_neg hblocks).trans ((if_neg hscale).trans ((if_neg p.inside).trans ?_))
    refine (reading_of _ ⟨p.canRead, hflips⟩).trans ((reading_of _ ⟨p.canReadSide, hflips⟩).trans ?_)
    exact (writing_of _ p.canWrite).trans (writing_of _ p.canWriteSide)

end

/-! ### A cleared tile (R116) -/

@[simp] theorem setAcc_intQuarters (c : CoreSt) (p : Nat) (v : W32) : (c.setAcc p v).intQuarters = c.intQuarters := rfl

theorem getAcc_setAcc_self (c : CoreSt) (p : Nat) (v : W32) : (c.setAcc p v).getAcc p = v := by
  unfold CoreSt.setAcc CoreSt.getAcc
  split
  · next hzero => simp [mgetD, hzero]
  · exact mgetD_mset_self _ _ _ _

theorem getAcc_setAcc_ne (c : CoreSt) {p q : Nat} (v : W32) (h : q ≠ p) : (c.setAcc p v).getAcc q = c.getAcc q := by
  unfold CoreSt.setAcc CoreSt.getAcc
  split
  · simp [mgetD, mget_mdel_ne _ h]
  · exact mgetD_mset_ne _ _ _ h

/-- Places written with zero hold zero, and no others change. -/
theorem getAcc_foldl_setAcc_zero (at_ : Nat × Nat → Nat) (l : List (Nat × Nat)) (c : CoreSt) (q : Nat) :
    (l.foldl (fun c p => c.setAcc (at_ p) 0) c).getAcc q = if ∃ p ∈ l, at_ p = q then 0 else c.getAcc q := by
  induction l generalizing c with
  | nil => simp
  | cons p r ih =>
    rw [List.foldl_cons, ih]
    by_cases hq : at_ p = q
    · subst hq
      simp [getAcc_setAcc_self]
    · rw [getAcc_setAcc_ne c 0 (Ne.symm hq)]
      exact if_congr (by simp [hq]) rfl rfl

theorem mem_tileCells {m n r col : Nat} : (r, col) ∈ tileCells m n ↔ r < m ∧ col < n := by
  simp [tileCells]

theorem clearTile_getAcc (c : CoreSt) (a : Nat) {m n r col : Nat} (hr : r < m) (hcol : col < n) :
    (c.clearTile a m n).getAcc (accPlace a r col) = 0 := by
  rw [CoreSt.clearTile, getAcc_foldl_setAcc_zero (fun p => accPlace a p.1 p.2)]
  exact if_pos ⟨(r, col), mem_tileCells.mpr ⟨hr, hcol⟩, rfl⟩

theorem clearTile_intQuarters (c : CoreSt) (a m n : Nat) : (c.clearTile a m n).intQuarters = c.intQuarters := by
  unfold CoreSt.clearTile
  induction tileCells m n generalizing c with
  | nil => rfl
  | cons p r ih => exact (ih _).trans (setAcc_intQuarters c _ _)

/-- A multiply into a cleared tile adds to zero, as one with ZERO does. -/
theorem mmaTile_clearTile (c : CoreSt) (o : MmaOps) (a m n : Nat) :
    mmaTile (c.clearTile a m n) o a m n false = mmaTile (c.clearTile a m n) o a m n true := by
  unfold mmaTile
  apply List.foldl_ext
  intro d p hp
  obtain ⟨hr, hcol⟩ := mem_tileCells.mp hp
  simp [clearTile_getAcc c a hr hcol]

/-! ### Rows on their way (R114, R154, R262; log entry 66) -/

section
variable {s t : State} {i : Issue} {w : RowOut} {r : List RowOut}
  (hbefore : (s.core i.k).before (s.core i.k).nextOrd [(w.va, w.bytes.length)] = false)
include hbefore

theorem sendRows_written (hslot : vaSpace w.va = 0 ∨ (s.core i.k).xfers.length + s.epiOpen i.k < 8)
    (hwrite : s.writePiece (.epi i.k) i.core.pc i.ctx s.tier.nextRemote w.va w.bytes w.who 0 = (t, .ok ())) :
    s.sendRows i (w :: r) = (t.dropRows i.k).sendRows i r := by
  have hgo : ¬ ((s.core i.k).before (s.core i.k).nextOrd [(w.va, w.bytes.length)] ||
      (vaSpace w.va != 0 && decide (8 ≤ (s.core i.k).xfers.length + s.epiOpen i.k))) = true := by
    rw [hbefore]
    rcases hslot with h | h <;> simp [h]
  refine (if_neg hgo).trans ?_
  rw [hwrite]

theorem sendRows_requested (hslot : (s.core i.k).xfers.length + s.epiOpen i.k < 8) {c : Nat}
    (hwrite : s.writePiece (.epi i.k) i.core.pc i.ctx s.tier.nextRemote w.va w.bytes w.who 0 = (t, .wait c))
    (hsent : t.tier.nextRemote ≠ s.tier.nextRemote) : s.sendRows i (w :: r) = (t.dropRows i.k).sendRows i r := by
  have hgo : ¬ ((s.core i.k).before (s.core i.k).nextOrd [(w.va, w.bytes.length)] ||
      (vaSpace w.va != 0 && decide (8 ≤ (s.core i.k).xfers.length + s.epiOpen i.k))) = true := by
    simp [hbefore, hslot]
  refine (if_neg hgo).trans ?_
  rw [hwrite]
  exact if_neg hsent

end

/-- Settles O9: an epilogue and a conversion pass their checks to their output, a cleared tile reads zero everywhere, and a row
that nothing holds back leaves before the next. -/
theorem epilogueAndConvert : Obligations.EpilogueAndConvert := by
  unfold Obligations.EpilogueAndConvert
  refine ⟨?_, ?_, ?_⟩
  · intro s k i hflips w
    constructor
    · intro hrows h m n fmt rm int hshape hfmt hrm hclass hreserved hunbound hact hblock hxp hout hside hfree sv bv hsv hbv hreads
        o rows fin
      have fields : EpiFields i m n fmt rm int :=
        ⟨hshape, hfmt, hrm, hclass, hreserved, hunbound, hact, hblock, hxp, hout, hside⟩
      have operands : EpiOperands i m n := ⟨hfree, hsv, hbv, hreads⟩
      exact ⟨epi_store_leaves fields operands hflips hrows h, epi_send_runsTo fields operands hflips hrows h⟩
    · intro h fs fd rm hfs hfd hrm hreserved hunbound hfree both xaux dAux haux src dst n srcSide dstSide hblocks hscale halignS
        halignD hplaceS hplaceD hsideS hsideD sIn sOut hreadS hreadSide hwriteD hwriteSide o r
      exact cvt_leaves hflips h ⟨hfs, hfd, hrm, hreserved, hunbound, hfree, haux, hblocks, hscale⟩
        ⟨halignS, halignD, hplaceS, hplaceD, hsideS, hsideD, hreadS, hreadSide, hwriteD, hwriteSide⟩
  · intro c a m n _ d
    exact ⟨clearTile_intQuarters c a m n, fun r col => clearTile_getAcc c a, fun o => mmaTile_clearTile c o a m n⟩
  · intro s i
    refine ⟨rfl, ?_, ?_⟩
    · exact fun w r hbefore hslot t => sendRows_written hbefore hslot
    · exact fun w r hbefore hslot t c => sendRows_requested hbefore hslot

end Sys2Proof.Machine
end

section
/-! The load/store engine at issue: waits, the cluster buffer, credits and transfers (04_cores.md R120 to R123; 05_core_programs.md
R157 to R159; 08_tiers_and_streams.md R254, R256, R260, R261). -/

namespace Sys2Proof.Machine

/-! ### A cluster set beside a core -/

@[simp] theorem mset_mset {α : Type} (m : Map α) (k : Nat) (v w : α) : mset (mset m k v) k w = mset m k w := by
  induction m with
  | nil => simp [mset]
  | cons p r ih =>
    obtain ⟨a, x⟩ := p
    rcases Nat.lt_trichotomy k a with hlt | rfl | hgt
    · simp [mset, hlt]
    · simp [mset]
    · simp [mset, Nat.lt_asymm hgt, Nat.ne_of_lt hgt, ih]

@[simp] theorem setCluster_setCluster (s : State) (c : Nat) (x y : Cluster) :
    (s.setCluster c x).setCluster c y = s.setCluster c y := by
  simp [State.setCluster]

/-- A core reads the same where its cluster keeps its cores. -/
theorem core_setCluster_of_cores {s : State} {k : CoreRef} {x : Cluster} (h : x.cores = (s.cluster k.cluster.val).cores) :
    (s.setCluster k.cluster.val x).core k = s.core k := by
  simp only [State.core, cluster_setCluster_self, h]

theorem onlyCore_setCore (s : State) (k : CoreRef) (c : CoreSt) : OnlyCore s k (s.setCore k c) where
  rest := rfl
  clusters _ hd := cluster_setCluster_ne s _ hd
  cluster := by simp [State.setCore]
  cores n hn := by simp [State.setCore, mget_mset_ne _ _ hn]

/-- A cluster set to what it was is no other change. -/
theorem OnlyCore.setCluster_self {s t : State} {k : CoreRef} {x : Cluster} (h : OnlyCore s k t) (hx : x = t.cluster k.cluster.val) :
    OnlyCore s k (t.setCluster k.cluster.val x) where
  rest := by rw [State.setCluster, h.rest]
  clusters c hc := (cluster_setCluster_ne t x hc).trans (h.clusters c hc)
  cluster := by rw [cluster_setCluster_self, hx]; exact h.cluster
  cores n hn := by rw [cluster_setCluster_self, hx]; exact h.cores n hn

/-- What an instruction that changed only its core leaves of the rest of its cluster. -/
theorem OnlyCore.cluster_eq {s t : State} {k : CoreRef} {i : Issue} (h : OnlyCore s k t) (hi : s.issue? k = some i) :
    t.cluster k.cluster.val = { i.cl with cores := (t.cluster k.cluster.val).cores } := by
  obtain ⟨-, -, hcl⟩ := issue_core hi
  rw [hcl]
  exact h.cluster

section
variable {s : State} {k : CoreRef} {i : Issue}

/-! ### Waits (R157, R159, R256) -/

/-- A wait for all the transfers of a table, or for that of one tag, is over. -/
theorem not_outstanding {α : Type} {m : Map α} {all : Bool} {tag : Nat}
    (h : if all then m = [] else mget m tag = none) : ¬ (if all then !m.isEmpty else mhas m tag) = true := by
  cases all with
  | true => simpa using h
  | false => simpa [mhas] using h

theorem xwait_leaves (h : Issues s k 0x6 0x02 (fun _ => [(56, 56), (25, 22)]) i) (htag : bits i.w 25 22 < 8)
    (hdone : if i.w.testBit 56 then i.core.xfers = [] else mget i.core.xfers (bits i.w 25 22) = none) :
    Leaves (.xwait k) s k i.core.advance := by
  exact leaves_done h.issue (runsTo_issueRow rfl rfl h ((if_neg (Nat.not_le.mpr htag)).trans (if_neg (not_outstanding hdone))))

theorem dpWait_leaves (h : Issues s k 0x7 0x03 (fun _ => [(60, 60), (44, 41)]) i)
    (hdone : if i.w.testBit 60 then i.core.days = [] else mget i.core.days (bits i.w 44 41) = none) :
    Leaves (.dpWait k) s k i.core.advance := by
  exact leaves_done h.issue (runsTo_issueRow rfl rfl h (if_neg (not_outstanding hdone)))

theorem swait_leaves (h : Issues s k 0x6 0x06 (fun _ => [(36, 26)]) i) (hfree : i.free [bits i.w 36 32])
    (hlanded : ∀ x, mget i.cl.streams (bits i.w 31 26) = some x → (i.core.getX (bits i.w 36 32)).toNat ≤ x.landed) :
    Leaves (.swait k) s k i.core.advance := by
  refine leaves_done h.issue (runsTo_issueRow rfl rfl h ((regs_of _ hfree).trans ?_))
  simp only [xfSid]
  cases hx : mget i.cl.streams (bits i.w 31 26) with
  | none => rfl
  | some x => exact if_pos (hlanded x hx)

/-! ### The cluster buffer (R123, R157; log entry 114) -/

/-- Without flipped bits every line of the buffer reads well. -/
theorem bufferRead_clean (hflips : s.eng.flips = []) (c ctx : Nat) (l : List Nat) : s.bufferRead c ctx l = (s, true) := by
  induction l with
  | nil => rfl
  | cons line r ih => simp [State.bufferRead, sramRead_clean _ _ _ _ _ _ hflips, ih]

section
variable {cb n ts : Nat} (hcb : cb = (i.core.getX (bits i.w 41 37)).toNat) (hn : n = (i.core.getX (bits i.w 36 32)).toNat)
  (hts : ts = 64 * bits i.w 51 42) (hcbLine : cb % 64 = 0) (hnLine : n % 64 = 0) (hbuffer : cb + n ≤ 2097152)
  (hline : ts < 49152) (hstore : ts + n ≤ 49152)
include hcb hn hts hcbLine hnLine hbuffer hline hstore

theorem cbOperands_eq_ok : cbOperands i = .ok (cb, ts, n) := by
  subst hcb hn hts
  have hbuffer' : ¬ ((i.core.getX (bits i.w 41 37)).toNat % 64 ≠ 0 ∨ (i.core.getX (bits i.w 36 32)).toNat % 64 ≠ 0 ∨
      bufferBytes < (i.core.getX (bits i.w 41 37)).toNat + (i.core.getX (bits i.w 36 32)).toNat) := by
    simpa [hcbLine, hnLine, bufferBytes] using hbuffer
  have hstore' : ¬ (tileBytes ≤ 64 * bits i.w 51 42 ∨
      tileBytes < 64 * bits i.w 51 42 + (i.core.getX (bits i.w 36 32)).toNat) :=
    not_or.mpr ⟨Nat.not_le.mpr hline, Nat.not_lt.mpr hstore⟩
  exact (if_neg hbuffer').trans (if_neg hstore')

variable (hflips : s.eng.flips = []) (hfree : i.free [bits i.w 41 37, bits i.w 36 32])
include hflips hfree

theorem cbld_leaves (h : Issues s k 0x6 0x03 (fun _ => [(51, 32)]) i) (hwrite : i.core.canWrite ts n = true) :
    Leaves (.cbld k) s k
      ({ i.core with ts := memWrite i.core.ts ts (memRead (i.cl.bufOf k.core.val) cb n) } : CoreSt).advance := by
  refine leaves_done h.issue (runsTo_issueRow rfl rfl h ((regs_of _ hfree).trans ?_))
  simp only [cbOperands_eq_ok hcb hn hts hcbLine hnLine hbuffer hline hstore]
  refine (writing_of _ hwrite).trans ?_
  simp only [bufferRead_clean hflips, if_true]
  rfl

theorem cbst_runs (h : Issues s k 0x6 0x04 (fun _ => [(51, 32)]) i) (hread : i.core.canRead ts n = true) :
    Runs (.cbst k) s (fun t => t.core k = i.core.advance ∧
      (t.cluster k.cluster.val).hidden = i.cl.hidden ++ [⟨k.core.val, cb, memRead i.core.ts ts n⟩] ∧
      OnlyCore s k (t.setCluster k.cluster.val { t.cluster k.cluster.val with hidden := i.cl.hidden })) := by
  obtain ⟨rfl, -, -⟩ := issue_core h.issue
  obtain ⟨hcore, honly⟩ := done_only (i := i) (s := s) i.core
  have hcluster := honly.cluster_eq h.issue
  have hhidden : ((i.done s i.core).cluster i.k.cluster.val).hidden = i.cl.hidden := by rw [hcluster]
  have hrow : RunsTo (.cbst i.k) s ((i.done s i.core).setCluster i.k.cluster.val
      { (i.done s i.core).cluster i.k.cluster.val with
        hidden := ((i.done s i.core).cluster i.k.cluster.val).hidden ++ [⟨i.k.core.val, cb, i.core.tsRead ts n⟩] }) := by
    refine runsTo_issueRow rfl rfl h ((regs_of _ hfree).trans ?_)
    simp only [cbOperands_eq_ok hcb hn hts hcbLine hnLine hbuffer hline hstore]
    exact reading_of _ ⟨hread, hflips⟩
  refine ⟨_, hrow, ?_, ?_, ?_⟩
  · refine (core_setCluster_of_cores ?_).trans hcore
    rfl
  · rw [cluster_setCluster_self, hhidden]
    rfl
  · rw [setCluster_setCluster]
    refine honly.setCluster_self ?_
    rw [cluster_setCluster_self, ← hhidden]

end

/-! ### Credits (R123, R254; log entry 114) -/

theorem credit_runs (h : Issues s k 0x6 0x05 (fun _ => [(55, 52), (36, 32)]) i) (hfree : i.free [bits i.w 36 32]) {p : Pool}
    (hp : mget i.cl.pools (bits i.w 55 52) = some p)
    (hroom : p.credits + (i.core.getX (bits i.w 36 32)).toNat ≤ p.units) :
    Runs (.credit k) s (fun t => t.core k = i.core.advance ∧
      (t.cluster k.cluster.val).pools = mset i.cl.pools (bits i.w 55 52)
        { p with credits := p.credits + (i.core.getX (bits i.w 36 32)).toNat } ∧
      (t.cluster k.cluster.val).buf = (i.cl.publish (· == k.core.val)).buf ∧
      (t.cluster k.cluster.val).hidden = i.cl.hidden.filter (fun h => h.core != k.core.val) ∧
      OnlyCore s k (t.setCluster k.cluster.val
        { t.cluster k.cluster.val with pools := i.cl.pools, buf := i.cl.buf, hidden := i.cl.hidden })) := by
  obtain ⟨rfl, -, -⟩ := issue_core h.issue
  obtain ⟨hcore, honly⟩ := done_only (i := i) (s := s) i.core
  have hcluster := honly.cluster_eq h.issue
  have hrow : RunsTo (.credit i.k) s ((i.done s i.core).setCluster i.k.cluster.val
      { ((i.done s i.core).cluster i.k.cluster.val).publish (· == i.k.core.val) with
        pools := mset ((i.done s i.core).cluster i.k.cluster.val).pools (bits i.w 55 52)
          { p with credits := p.credits + (i.core.getX (bits i.w 36 32)).toNat } }) := by
    refine runsTo_issueRow rfl rfl h ((regs_of _ hfree).trans ?_)
    simp only [hp]
    refine (if_neg (Nat.not_lt.mpr hroom)).trans ?_
    simp only [State.publish, cluster_setCluster_self, setCluster_setCluster]
    rfl
  refine ⟨_, hrow, ?_, ?_, ?_, ?_, ?_⟩
  · refine (core_setCluster_of_cores ?_).trans hcore
    rfl
  · rw [cluster_setCluster_self, hcluster]
  · rw [cluster_setCluster_self, hcluster]
    rfl
  · rw [cluster_setCluster_self, hcluster]
    rfl
  · rw [setCluster_setCluster]
    refine honly.setCluster_self ?_
    rw [cluster_setCluster_self, hcluster]
    rfl

end

/-- Settles O10: each row passes its checks, and what it changes beside its core is its cluster's buffer or pools. -/
theorem waitsAndBuffer : Obligations.WaitsAndBuffer := by
  unfold Obligations.WaitsAndBuffer
  intro s k i hflips w x1
  refine ⟨xwait_leaves, dpWait_leaves, swait_leaves, ?_, ?_⟩
  · intro cb n ts hcb hn hts hcbLine hnLine hbuffer hline hstore hfree
    exact ⟨cbld_leaves hcb hn hts hcbLine hnLine hbuffer hline hstore hflips hfree,
      cbst_runs hcb hn hts hcbLine hnLine hbuffer hline hstore hflips hfree⟩
  · exact fun h hfree p => credit_runs h hfree

end Sys2Proof.Machine
end

section
/-! Transfers entered under their tags (05_core_programs.md R158, R159; 08_tiers_and_streams.md R260, R261). -/

namespace Sys2Proof.Machine

section
variable {s : State} {k : CoreRef} {i : Issue}

/-! ### XFER (R158, R260) -/

/-- The descriptor that an XFER names, as it stands in the tile store. -/
def xferBytes (i : Issue) : List Byte := i.core.tsRead (64 * xfLine i.w) 64

/-- An XFER entered: the stretches that it will reach, once they are known, and the cause that it waits under. -/
def xferEntered (k : CoreRef) (i : Issue) (u : State) (reach : Option (List (Nat × Nat))) (cause : Option Nat) : State :=
  (i.done u { i.core with
    xfers := mset i.core.xfers (bits i.w 25 22)
      ⟨i.core.pc, xferBytes i, (Desc.of (xferBytes i)).deadline, false, i.core.nextOrd, reach, false, cause⟩
    nextOrd := i.core.nextOrd + 1 }).xferLate k (bits i.w 25 22)

/-- An XFER can be entered: a free tag, a descriptor that can be read and is valid, a slot, and a stretch of the tile store that no
other transfer holds (R119, R122, R158). -/
structure XferReady (s : State) (k : CoreRef) (i : Issue) : Prop where
  tag : bits i.w 25 22 < 8
  line : 64 * bits i.w 21 12 < 49152
  tagFree : mget i.core.xfers (bits i.w 25 22) = none
  clean : i.clean s (64 * bits i.w 21 12) 64
  valid : (Desc.of (xferBytes i)).valid .xfer = true
  slot : i.core.xfers.length + s.epiOpen k < 8
  stretch : let d := Desc.of (xferBytes i)
    if d.scatter then i.core.canRead d.local_ d.bytes = true else i.core.canWrite d.local_ (64 * d.units) = true

theorem XferReady.stretch_free (r : XferReady s k i) :
    let d := Desc.of (xferBytes i)
    ¬ (if d.scatter then !i.core.canRead d.local_ d.bytes else !i.core.canWrite d.local_ (64 * d.units)) = true := by
  have hstretch := r.stretch
  dsimp only at hstretch ⊢
  split at hstretch
  · next hscatter => simp [hscatter, hstretch]
  · next hgather => simp [hgather, hstretch]

/-- The pieces of the transfer are translated; once they are known they are asked for. -/
theorem xfer_enters (h : Issues s k 0x6 0x00 (fun _ => [(25, 12)]) i) (r : XferReady s k i) :
    let d := Desc.of (xferBytes i)
    (∀ s' c x, s.xferPieces i.ctx d = (s', .wait c, x) → RunsTo (.xfer k) s (xferEntered k i s' none (some c))) ∧
    (∀ s' ps x s'' y, s.xferPieces i.ctx d = (s', .ok ps, x) →
      let asked := s'.askPieces (.xfer k (Fin.ofNat 8 (bits i.w 25 22))) i.core.pc i.ctx (.program false) d.noalloc d.scatter
        d.deadline ps
      (asked = (s'', .ok (), y) → RunsTo (.xfer k) s (xferEntered k i s'' (some (reachOf ps)) none)) ∧
      (∀ c, asked = (s'', .wait c, y) → RunsTo (.xfer k) s (xferEntered k i s'' (some (reachOf ps)) (some c)))) := by
  have htag : ¬ mhas i.core.xfers (bits i.w 25 22) = true := by simp [mhas, r.tagFree]
  have hvalid : ¬ (!(Desc.of (xferBytes i)).valid .xfer) = true := by simp [r.valid]
  refine ⟨fun s' c x hpieces => ?_, fun s' ps x s'' y hpieces => ⟨fun hasked => ?_, fun c hasked => ?_⟩⟩
  all_goals
    refine runsTo_issueRow rfl rfl h ((if_neg (Nat.not_le.mpr r.tag)).trans ((if_neg (Nat.not_le.mpr r.line)).trans ?_))
    refine (if_neg htag).trans ((reading_of _ r.clean).trans ((if_neg hvalid).trans ?_))
    refine (if_neg (Nat.not_le.mpr r.slot)).trans ((if_neg r.stretch_free).trans ?_)
    simp only [xferBytes] at hpieces
    simp only [hpieces]
  · rfl
  · simp only [xferBytes] at hasked
    simp only [xfTag, hasked]
    rfl
  · simp only [xferBytes] at hasked
    simp only [xfTag, hasked]
    rfl

/-! ### DP_GET and DP_PUT (R159, R261) -/

/-- A daypack transfer can be entered: a free tag, bytes inside one line of 256, and a stretch inside the tile store (R122,
R159). -/
structure DaypackReady (i : Issue) : Prop where
  free : i.free [bits i.w 16 12]
  inside : (i.core.getX (bits i.w 16 12)).toNat % 256 + (bits i.w 24 17 + 1) ≤ 256
  tagFree : mget i.core.days (bits i.w 44 41) = none
  place : bits i.w 40 25 + (bits i.w 24 17 + 1) ≤ 49152

/-- A daypack transfer entered, with the cause that it waits under. -/
def daypackEntered (i : Issue) (op : DayOp) (cause : Option Nat) (u : State) : State :=
  i.done u { i.core with
    days := mset i.core.days (bits i.w 44 41) ⟨i.core.pc, op, bits i.w 40 25, bits i.w 24 17 + 1,
      BitVec.ofNat 64 (i.core.getX (bits i.w 16 12)).toNat, i.core.nextOrd, false, cause⟩
    nextOrd := i.core.nextOrd + 1 }

theorem daypack_enters {row : Instr} {op : Nat} {put : Bool} {s' : State} {g : Got Unit} {cause : Option Nat}
    (hrow : exec row s = .next (daypack op put k s)) (hop : opDefined 0x7 op = true)
    (h : Issues s k 0x7 op (fun _ => [(44, 12)]) i) (r : DaypackReady i)
    (hstretch : if put then i.core.canRead (bits i.w 40 25) (bits i.w 24 17 + 1) = true
      else i.core.canWrite (bits i.w 40 25) (bits i.w 24 17 + 1) = true)
    (hask : s.askPiece (.daypack k (Fin.ofNat 16 (bits i.w 44 41))) i.core.pc i.ctx (.program false) false put 0
      ⟨0, (i.core.getX (bits i.w 16 12)).toNat, bits i.w 24 17 + 1⟩ = (s', g))
    (hcause : g = .ok () ∧ cause = none ∨ ∃ c, g = .wait c ∧ cause = some c) :
    RunsTo row s (daypackEntered i (if put then .put else .get) cause s') := by
  have htag : ¬ mhas i.core.days (bits i.w 44 41) = true := by simp [mhas, r.tagFree]
  have hfree : ¬ (if put then !i.core.canRead (bits i.w 40 25) (bits i.w 24 17 + 1)
      else !i.core.canWrite (bits i.w 40 25) (bits i.w 24 17 + 1)) = true := by
    cases put with
    | true => simpa using hstretch
    | false => simpa using hstretch
  refine runsTo_issueRow hrow hop h ((regs_of _ r.free).trans ((if_neg htag).trans ?_))
  refine (if_neg (Nat.not_lt.mpr r.inside)).trans ((if_neg (Nat.not_lt.mpr r.place)).trans ((if_neg hfree).trans ?_))
  simp only [dpTag, dpXaddr, dpLen, hask]
  rcases hcause with ⟨rfl, rfl⟩ | ⟨c, rfl, rfl⟩
  · rfl
  · rfl

end

/-- Settles O11: a transfer that can be entered is entered with what the translation and the requests of its pieces answer. -/
theorem transferIssue : Obligations.TransferIssue := by
  unfold Obligations.TransferIssue
  intro s k i w
  constructor
  · intro h htag hline htagFree hclean bs d hvalid hslot hstretch enter
    exact xfer_enters h ⟨htag, hline, htagFree, hclean, hvalid, hslot, hstretch⟩
  · intro hfree va n ts hinside htagFree hplace put s' g cause hask hcause enter
    have ready : DaypackReady i := ⟨hfree, hinside, htagFree, hplace⟩
    constructor
    · rintro rfl h hwrite
      exact daypack_enters (put := false) rfl rfl h ready hwrite hask hcause
    · rintro rfl h hread
      exact daypack_enters (put := true) rfl rfl h ready hread hask hcause

end Sys2Proof.Machine
end

section
/-! Scans of a cluster (04_cores.md R127 to R129; 05_core_programs.md R161). -/

namespace Sys2Proof.Machine

/-! ### Issuing a scan (R128, R161) -/

/-- A scan row is the shared meaning of its SOP, none of which is reserved. -/
theorem exec_scanRow {row : (CoreRef → Instr) × Nat} (hrow : row ∈ scanRows) (k : CoreRef) (s : State) :
    exec (row.1 k) s = .next (scanIssue row.2 k s) ∧ row.2 < 5 := by
  simp only [scanRows, List.mem_cons, List.not_mem_nil, or_false] at hrow
  rcases hrow with rfl | rfl | rfl | rfl | rfl <;> exact ⟨rfl, by decide⟩

/-- The scan that a core issues, with its registers. -/
def scanOf (i : Issue) (sop : Nat) : ScanIssue :=
  ⟨sop, i.w.testBit 36, i.w.testBit 37, bits i.w 20 16, bits i.w 25 21, bits i.w 30 26, bits i.w 35 31⟩

section
variable {s : State} {k : CoreRef} {i : Issue} {row : Instr} {sop : Nat}

theorem scanIssue_runsTo (hrow : exec row s = .next (scanIssue sop k s)) (hlt : sop < 5) (h : Issues s k 0x8 0x00 scanUsed i)
    (hsop : bits i.w 15 12 = sop) (hnone : ∀ c ∈ i.cl.cores, c.2.ended = false) :
    let t := s.setCore k { i.core with wait := some .scan }
    RunsTo row s (t.setCluster k.cluster.val { t.cluster k.cluster.val with
      scans := mset (t.cluster k.cluster.val).scans k.core.val (scanOf i sop) }) := by
  have hdefined : ¬ 5 ≤ bits i.w 15 12 := by omega
  have hrunning : ¬ (i.cl.cores.any (fun c => c.2.ended)) = true := by simpa using hnone
  exact runsTo_issueRow hrow rfl h ((if_neg hdefined).trans ((if_neg (not_not.mpr hsop)).trans (if_neg hrunning)))

theorem scanIssue_runs (hrow : exec row s = .next (scanIssue sop k s)) (hlt : sop < 5) (h : Issues s k 0x8 0x00 scanUsed i)
    (hsop : bits i.w 15 12 = sop) (hnone : ∀ c ∈ i.cl.cores, c.2.ended = false) :
    Runs row s (fun t => t.core k = { i.core with wait := some .scan } ∧
      mget (t.cluster k.cluster.val).scans k.core.val = some (scanOf i sop) ∧
      OnlyCore s k (t.setCluster k.cluster.val { t.cluster k.cluster.val with scans := i.cl.scans })) := by
  obtain ⟨-, -, hcl⟩ := issue_core h.issue
  refine ⟨_, scanIssue_runsTo hrow hlt h hsop hnone, ?_, ?_, ?_⟩
  · rw [core_setCluster_of_cores, core_setCore_self]
    rfl
  · rw [cluster_setCluster_self, mget_mset_self]
  · rw [setCluster_setCluster]
    refine (onlyCore_setCore s k _).setCluster_self ?_
    rw [cluster_setCluster_self, hcl, State.setCore, cluster_setCluster_self]

end

/-- Settles O14: the five rows share one meaning. -/
theorem scansIssued : Obligations.ScansIssued := by
  unfold Obligations.ScansIssued
  intro row hrow s k i h hsop hnone
  obtain ⟨hexec, hlt⟩ := exec_scanRow hrow k s
  exact scanIssue_runs hexec hlt h hsop hnone

/-! ### The chain (R127, R128) -/

/-- The value that a core sends on (R127). -/
def scanSent (h : List W32) (c : CoreSt) (x : ScanIssue) : List W32 :=
  if x.sop = 4 then h else (List.range 16).map (fun j =>
    scanOp x.sop x.sat (lane (c.getV x.va) j) (h.getD j 0) (lane (c.getV x.vb) j))

theorem chainCores_cons (h : List W32) (n : Nat) (c : CoreSt) (x : ScanIssue) (rest : List (Nat × CoreSt × ScanIssue)) :
    ∃ c', chainCores h ((n, c, x) :: rest) = (n, c') :: chainCores (scanSent h c x) rest ∧
      (x.sop = 4 → c' = ({ c with wait := none } : CoreSt).advance) ∧
      (x.sop ≠ 4 → c' =
        (({ c with wait := none } : CoreSt).setV x.vd (ofLanes (if x.excl then h else scanSent h c x))).advance) := by
  refine ⟨_, rfl, fun hbarrier => ?_, fun hscan => ?_⟩
  · rw [if_pos hbarrier]
  · rw [if_neg hscan]
    rfl

theorem scanChain_runsTo {s : State} {c : ClusterNo} (halive : s.alive = true) (hstate : (s.cluster c.val).state = .running)
    (hreset : s.inL0 ((s.cluster c.val).holder.getD 0) = false) (hall : (s.cluster c.val).scanning.length = 80)
    {n : Nat} {c0 : CoreSt} {x0 : ScanIssue} {rest : List (Nat × CoreSt × ScanIssue)}
    (hfirst : (s.cluster c.val).scanning = (n, c0, x0) :: rest)
    (hsame : ∀ p ∈ (s.cluster c.val).scanning, p.2.2.sop = x0.sop ∧ p.2.2.excl = x0.excl ∧ p.2.2.sat = x0.sat) :
    let chain := chainCores (lanes (c0.getV x0.vh)) (s.cluster c.val).scanning
    let seen := if x0.sop = 4 then (s.cluster c.val).publish (fun _ => true) else s.cluster c.val
    RunsTo (.scanChain c) s (chain.foldl (fun s p => s.engineProgress ⟨c, Fin.ofNat 80 p.1⟩ 1)
      (s.setCluster c.val { seen with
        scans := [], cores := chain.foldl (fun m p => mset m p.1 p.2) (s.cluster c.val).cores })) := by
  have hready : (s.alive && (s.cluster c.val).state == .running && (s.cluster c.val).scanning.length == Config.cores &&
      !s.inL0 ((s.cluster c.val).holder.getD 0)) = true := by
    simp [halive, hstate, hreset, hall, Config.cores]
  have hagree : (s.cluster c.val).scanning.filter
      (fun p => p.2.2.sop != x0.sop || p.2.2.excl != x0.excl || p.2.2.sat != x0.sat) = [] := by
    refine List.filter_eq_nil_iff.mpr fun p hp => ?_
    obtain ⟨hsop, hexcl, hsat⟩ := hsame p hp
    simp [hsop, hexcl, hsat]
  refine congrArg Host.Outcome.next ((if_pos hready).trans ?_)
  rw [hfirst] at hagree ⊢
  simp only [hagree]
  by_cases hbarrier : x0.sop = 4
  · simp only [if_pos hbarrier]
    rfl
  · simp only [if_neg hbarrier]

/-- Settles O15: a full chain whose cores agree runs, and each core of it takes its value and passes its own on. -/
theorem scanChains : Obligations.ScanChains := by
  unfold Obligations.ScanChains
  constructor
  · intro s c cl halive hstate hreset hall n c0 x0 rest hfirst hsame
    exact scanChain_runsTo halive hstate hreset hall hfirst hsame
  · rintro h l n c x rest rfl
    exact chainCores_cons h n c x rest

end Sys2Proof.Machine
end

section
/-! Launches and grants (04_cores.md R97, R134; 05_core_programs.md R144 to R150, R168). -/

namespace Sys2Proof.Machine

/-! ### What an event leaves of the engines, and one of a context of the time (R54 to R56) -/

@[simp] theorem State.toHost_eng (s : State) (o : HostOut) : (s.toHost o).eng = s.eng := by
  unfold State.toHost
  split <;> rfl

@[simp] theorem State.signalVector_eng (s : State) (v : Nat) : (s.signalVector v).eng = s.eng := by
  unfold State.signalVector
  dsimp only
  split
  · rfl
  · exact s.toHost_eng _

@[simp] theorem State.exportPut_eng (s : State) (g : CatRing) (h a : Nat) (r : Record) : (s.exportPut g h a r).eng = s.eng := by
  simp [State.exportPut]

@[simp] theorem State.exportOne_eng (s : State) (r : Record) : (s.exportOne r).eng = s.eng := by
  unfold State.exportOne
  split
  · rfl
  · dsimp only
    split
    · simp [State.free]
    · rfl

@[simp] theorem State.exportLost_eng (s : State) : s.exportLost.eng = s.eng := by
  unfold State.exportLost
  split
  · rfl
  · split
    · rfl
    · dsimp only
      split
      · rfl
      · simp [State.generate, State.free]

/-- A record of no context does not reach the engines. -/
@[simp] theorem State.raise_none_eng (s : State) (code src : Nat) (args : List Nat) : (s.raise code src none args).eng = s.eng := by
  simp only [State.raise, State.raiseWith, State.generate, Bool.false_eq_true, if_false]
  split <;> simp

@[simp] theorem State.ringRead_time (s : State) (ctx : Nat) (g : CatRing) : (s.ringRead ctx g).time = s.time := by
  unfold State.ringRead
  split
  · split <;> rfl
  · rfl

@[simp] theorem State.ringMismatch_time (s : State) (ctx va : Nat) : (s.ringMismatch ctx va).time = s.time := by
  unfold State.ringMismatch
  split
  · simp [State.generate]
  · rfl

@[simp] theorem State.toCtxRing_time (s : State) (ctx : Nat) (r : Record) : (s.toCtxRing ctx r).time = s.time := by
  unfold State.toCtxRing
  split
  · rfl
  · split
    · rfl
    · simp

@[simp] theorem State.forCtxRing_time (s : State) (ctx : Nat) (r : Record) : (s.forCtxRing ctx r).time = s.time := by
  unfold State.forCtxRing
  split
  · rfl
  · exact s.toCtxRing_time ctx r

@[simp] theorem State.ctxRingLost_time (s : State) (ctx : Nat) : (s.ctxRingLost ctx).time = s.time := by
  unfold State.ctxRingLost
  split
  · rfl
  · split
    · rfl
    · simp [State.generate]

theorem State.raise_time (s : State) (code src : Nat) (ctx : Option Nat) (args : List Nat) :
    (s.raise code src ctx args).time = s.time := by
  cases ctx with
  | none => exact (s.raise_none_time_regs code src args).1
  | some c =>
    simp only [State.raise, State.raiseWith, State.generate, Bool.false_eq_true, if_false]
    by_cases hdriver : c = 0
    · simp only [hdriver, if_true]
      split <;> simp
    · simp only [hdriver, if_false]
      split <;> simp

/-! ### What a completion leaves of the time (R402, R406 to R409) -/

@[simp] theorem State.signalRing_time (s : State) (ctx ring : Nat) : (s.signalRing ctx ring).time = s.time := by
  unfold State.signalRing
  split
  · rfl
  · simp

@[simp] theorem State.faultRing_time (s : State) (ctx ring status seq : Nat) : (s.faultRing ctx ring status seq).time = s.time := by
  unfold State.faultRing
  split
  · exact State.raise_time _ _ _ _ _
  · rfl

@[simp] theorem State.writeRecord_time (s : State) (ctx ring seq status r0 r1 : Nat) (irq : Bool) :
    (s.writeRecord ctx ring seq status r0 r1 irq).time = s.time := by
  unfold State.writeRecord
  split
  · rfl
  · simp [apply_ite State.time, State.cpProgress]

@[simp] theorem State.complete_time (s : State) (q : CmdRef) (status r0 r1 : Nat) : (s.complete q status r0 r1).time = s.time := by
  unfold State.complete
  split <;> simp

@[simp] theorem State.endLaunch_time (s : State) (q : CmdRef) (status r0 : Nat) (r1 : W64) :
    (s.endLaunch q status r0 r1).time = s.time := by
  simp [State.endLaunch]

/-! ### A program boundary of a cluster (R130, R461, R463) -/

theorem cluster_congr {s t : State} (h : s.eng = t.eng) (c : Nat) : s.cluster c = t.cluster c := by
  simp only [State.cluster, h]

@[simp] theorem State.repairCore_eng (s : State) (c l : Nat) : (s.repairCore c l).eng = s.eng := by
  unfold State.repairCore
  dsimp only
  split
  · rfl
  · split
    · rfl
    · simp

@[simp] theorem State.rotateSwap_eng (s : State) (c : Nat) : (s.rotateSwap c).eng = s.eng := by
  unfold State.rotateSwap
  split
  · split
    · rfl
    · dsimp only
      split
      · simp
      · simp
  · rfl

section
variable (s : State) {c d : Nat} (hne : d ≠ c)
include hne

theorem State.showOut_cluster_ne : (s.showOut c).cluster d = s.cluster d := by
  unfold State.showOut
  dsimp only
  split
  · exact cluster_setCluster_ne s _ hne
  · rfl

theorem State.outOfService_cluster_ne : (s.outOfService c).cluster d = s.cluster d := by
  unfold State.outOfService
  split
  · rfl
  · exact (State.showOut_cluster_ne _ hne).trans (cluster_congr (by simp) d)

theorem State.mapMet_cluster_ne : (s.mapMet c).cluster d = s.cluster d := by
  unfold State.mapMet
  dsimp only
  split
  · rfl
  · exact (State.outOfService_cluster_ne _ hne).trans (cluster_congr (by simp) d)

theorem State.boundary_cluster_ne : (s.boundary c).cluster d = s.cluster d := by
  have hrepairs : ∀ (l : List Nat) (t : State), (l.foldl (fun s j => s.repairCore c j) t).eng = t.eng := by
    intro l
    induction l with
    | nil => exact fun _ => rfl
    | cons j r ih => exact fun t => (ih _).trans (t.repairCore_eng c j)
  refine (cluster_congr ?_ d).trans (s.mapMet_cluster_ne hne)
  rw [State.boundary, State.rotateSwap_eng, hrepairs]

theorem State.startCluster_cluster_ne (q : CmdRef) (image : List W128) : (s.startCluster q image c).cluster d = s.cluster d :=
  (cluster_setCluster_ne _ _ hne).trans (s.boundary_cluster_ne hne)

end

/-- A cluster that starts runs its image, cleared (R97, R149). -/
theorem startCluster_cleared (s : State) (q : CmdRef) (image : List W128) (c : ClusterNo) (j : Fin 80) :
    let t := s.startCluster q image c.val
    (t.cluster c.val).state = .running ∧ (t.cluster c.val).image = image ∧ (t.cluster c.val).launch = some q ∧
    (t.cluster c.val).scans = [] ∧ (t.cluster c.val).pools = [] ∧ (t.cluster c.val).streams = [] ∧
    t.core ⟨c, j⟩ = .reset := by
  simp [State.startCluster, State.core, mgetD, mget]

/-! ### PROG_LAUNCH and LAUNCH_START (R144, R147 to R149) -/

/-- An image at an address, read as its header `h` and its body `b`, is good (R144). -/
structure GoodImage (s s1 s2 : State) (ctx va : Nat) (h b : List Byte) : Prop where
  align : va % 64 = 0
  space : vaSpace va = 0
  head : s.readVa ctx va 64 (.other false) false 0 = (s1, .ok h)
  magic : fld h 0 4 = 0x50470A10
  atLeastOne : 1 ≤ fld h 4 2
  atMost1024 : fld h 4 2 ≤ 1024
  reserved : fld h 6 2 = 0
  zero : zeroBytes h 12 64 = true
  body : s1.readVa ctx (va + 64) (16 * fld h 4 2) (.other false) false 0 = (s2, .ok b)
  crc : (crc32c b).toNat = fld h 8 4

/-- A good image is handed on as its words. -/
theorem withImage_of {s s1 s2 : State} {q : CmdRef} {va : Nat} {h b : List Byte} (f : State → List W128 → State)
    (g : GoodImage s s1 s2 q.ctx.val va h b) : s.withImage q va f = f s2 (imageWords b (fld h 4 2)) := by
  have hplace : ¬ (va % 64 ≠ 0 ∨ vaSpace va ≠ 0) := not_or.mpr ⟨not_not.mpr g.align, not_not.mpr g.space⟩
  have hheader : ¬ (fld h 4 2 = 0 ∨ 1024 < fld h 4 2 ∨ fld h 6 2 ≠ 0 ∨ (!zeroBytes h 12 64) = true) := by
    simpa [g.reserved, g.zero] using ⟨Nat.ne_of_gt g.atLeastOne, g.atMost1024⟩
  refine (if_neg hplace).trans ?_
  simp only [g.head]
  refine (if_neg (not_not.mpr g.magic)).trans ((if_neg hheader).trans ?_)
  simp only [g.body]
  exact if_neg (not_not.mpr g.crc)

/-- The launch that a PROG_LAUNCH enters. -/
def launchOf (q : CmdRef) (t : Taken) (image : List W128) : Launch :=
  { q := q, progVa := BitVec.ofNat 64 (fld t.packet 16 8), waitEn := (fld t.packet 24 2).testBit 0, waitPeg := fld t.packet 32 4
    waitValue := BitVec.ofNat 64 (fld t.packet 40 8), sigEn := (fld t.packet 24 2).testBit 1, sigPeg := fld t.packet 36 4
    sigAddend := BitVec.ofNat 64 (fld t.packet 48 8), step := BitVec.ofNat 32 (fld t.packet 28 4), set := clusterSet t.packet 64
    args := (List.range 8).map (fun j => BitVec.ofNat 64 (fld t.packet (128 + 8 * j) 8)), image := image, phase := .queued
    pegMet := false, started := 0, stop := none, result1 := 0 }

/-- A launch queued behind the others, which looks at once whether its peg condition is reached. -/
def State.enterLaunch (s : State) (q : CmdRef) (t : Taken) (image : List W128) : State :=
  let v := (s.startTaken q).stallOff (.cmd q)
  ({ v with eng := { v.eng with launches := v.eng.launches ++ [launchOf q t image] } } : State).launchPegs q.ctx.val q.ring.val 1

theorem progLaunch_runsTo {s w s1 s2 : State} {q : CmdRef} {t : Taken} {h b : List Byte} (hturn : Turn s q 0x0200 t)
    (hw : (clusterSet t.packet 64).foldl State.mapMet (s.begin q) = w)
    (hrefusal : w.launchRefusal q.ctx.val (clusterSet t.packet 64) = none)
    (hgood : GoodImage w s1 s2 q.ctx.val (fld t.packet 16 8) h b) :
    RunsTo (.progLaunch q) s (s2.enterLaunch q t (imageWords b (fld h 4 2))) := by
  refine runsTo_perform rfl hturn ?_
  simp only [hw, hrefusal]
  exact withImage_of _ hgood

/-- Every cluster of a launch started, and the launch with them, which is reported; the next launch of the ring looks at its own
peg condition. -/
def State.startLaunch (w : State) (q : CmdRef) (l : Launch) : State :=
  let v := l.set.foldl (fun s c => s.startCluster q l.image c) w
  let v := v.setLaunch q (fun l => { l with phase := .running, started := v.now })
  let v := v.raise 0x0221 (srcCp q.ctx.val q.ring.val) (some q.ctx.val) [q.seq.toNat, l.progVa.toNat, l.step.toNat, l.set.length]
  v.launchPegs q.ctx.val q.ring.val v.eng.launches.length

section
variable {s u w : State} {q : CmdRef} {l : Launch} (hu : s.launchPegs q.ctx.val q.ring.val 1 = u)
  (hw : l.set.foldl State.mapMet u = w)
include hu hw

theorem launchStart_runsTo (halive : s.alive = true) (hreset : s.inL0 q.ctx.val = false) (hknown : (s.launch? q).isSome)
    (hl : u.launch? q = some l) (hqueued : l.phase = .queued)
    (hfirst : ∃ f, u.firstQueued q.ctx.val q.ring.val = some f ∧ f.q = q) (hpeg : l.waitEn = true → l.pegMet = true)
    (hrefusal : w.launchRefusal q.ctx.val l.set = none)
    (hidle : ∀ c ∈ l.set, (w.cluster c).state = .idle ∨ (w.cluster c).state = .gated) (hpower : w.cur.power = .active) :
    RunsTo (.launchStart q) s (w.startLaunch q l) := by
  obtain ⟨l0, hl0⟩ := Option.isSome_iff_exists.mp hknown
  obtain ⟨f, hf, hfq⟩ := hfirst
  have hfound : (if s.alive && !s.inL0 q.ctx.val then s.launch? q else none) = some l0 := by
    rw [halive, hreset]
    exact hl0
  have hgo : ¬ (decide (l.phase ≠ .queued) || !(u.firstQueued q.ctx.val q.ring.val).any (fun f => f.q == q) ||
      (l.waitEn && !l.pegMet)) = true := by
    simpa [hqueued, hf, hfq] using hpeg
  have hall : ¬ (l.set.any (fun c => (w.cluster c).state != .idle && (w.cluster c).state != .gated)) = true := by
    simp only [List.any_eq_true, not_exists, not_and]
    intro c hc
    rcases hidle c hc with h | h <;> simp [h]
  refine congrArg Host.Outcome.next ?_
  simp only [hfound, hu, hl]
  refine (if_neg hgo).trans ?_
  simp only [hw, hrefusal]
  exact (if_neg hall).trans (if_neg (not_not.mpr hpower))

end

/-- Settles O21: a good image makes a queued launch, a launch that nothing holds back starts, and a start reaches one cluster
alone. -/
theorem launchAndStart : Obligations.LaunchAndStart := by
  unfold Obligations.LaunchAndStart
  refine ⟨?_, ?_⟩
  · intro s q
    constructor
    · intro t hturn set w hrefusal enter va halign hspace s1 h s2 b hhead hmagic hmin hmax hreserved hzero hbody hcrc
      exact progLaunch_runsTo hturn rfl hrefusal ⟨halign, hspace, hhead, hmagic, hmin, hmax, hreserved, hzero, hbody, hcrc⟩
    · intro halive hreset hknown u l hl hqueued hfirst hpeg w hrefusal hidle hpower
      exact launchStart_runsTo rfl rfl halive hreset hknown hl hqueued hfirst hpeg hrefusal hidle hpower
  · intro s q image c j t
    obtain ⟨hstate, himage, hlaunch, hscans, hpools, hstreams, hcore⟩ := startCluster_cleared s q image c j
    exact ⟨hstate, himage, hlaunch, hscans, hpools, hstreams, hcore, fun d hd => s.startCluster_cluster_ne hd q image⟩

/-! ### Aborts, grants and releases (R145, R168) -/

section
variable {s : State} {q : CmdRef} {t : Taken}

theorem progAbort_runsTo (h : Turn s q 0x0201 t) :
    let mine := s.eng.launches.filter (fun l => l.q.ctx == q.ctx && l.phase == .running && l.stop.isNone)
    RunsTo (.progAbort q) s
      ((mine.foldl (fun s l => s.stopLaunch l.q 0x0206 0) (s.begin q)).complete q stOk mine.length 0) :=
  runsTo_perform rfl h rfl

theorem clusterGrant_runsTo (h : Turn s q 0x0202 t) (hctx : mhas s.host.ctxs (fld t.packet 16 2) = true)
    (hheld : ∀ d ∈ clusterSet t.packet 24, ∀ c, (s.cluster d).holder = some c → c = fld t.packet 16 2) :
    RunsTo (.clusterGrant q) s (((clusterSet t.packet 24).foldl (fun s d =>
      s.setCluster d { s.cluster d with holder := some (fld t.packet 16 2) }) (s.begin q)).complete q stOk 0 0) := by
  have hctx' : ¬ (!mhas (s.begin q).host.ctxs (fld t.packet 16 2)) = true := by simpa using hctx
  have hfree : ¬ ((clusterSet t.packet 24).any
      (fun d => ((s.begin q).cluster d).holder.any (· != fld t.packet 16 2))) = true := by
    simp only [List.any_eq_true, Option.any_eq_true, bne_iff_ne, not_exists, not_and, not_not]
    exact hheld
  exact runsTo_perform rfl h ((if_neg hctx').trans (if_neg hfree))

theorem clusterRelease_runsTo (h : Turn s q 0x0203 t) (hctx : mhas s.host.ctxs (fld t.packet 16 2) = true) :
    let mine := (clusterSet t.packet 24).filter (fun d => (s.cluster d).holder == some (fld t.packet 16 2))
    RunsTo (.clusterRelease q) s ((mine.foldl (fun s d =>
      if (s.cluster d).busy then s.setCluster d { s.cluster d with releasing := true } else s.giveBack d) (s.begin q)).complete
        q stOk 0 0) := by
  have hctx' : ¬ (!mhas (s.begin q).host.ctxs (fld t.packet 16 2)) = true := by simpa using hctx
  exact runsTo_perform rfl h (if_neg hctx')

end

/-! ### The ends of programs and launches (R134, R150) -/

section
variable {s : State} {c : ClusterNo}

theorem clusterProgramEnd_runsTo (halive : s.alive = true) (hreset : s.inL0 ((s.cluster c.val).holder.getD 0) = false)
    (hrunning : (s.cluster c.val).state = .running) (hended : ∀ j : Fin 80, (s.core ⟨c, j⟩).ended = true) :
    RunsTo (.clusterProgramEnd c) s (s.setCluster c.val { s.cluster c.val with state := .draining }) := by
  have hall : (List.range Config.cores).all (fun k => (mgetD (s.cluster c.val).cores k .reset).ended) = true :=
    List.all_eq_true.mpr fun k hk => hended ⟨k, List.mem_range.mp hk⟩
  have hend : (s.alive && (s.cluster c.val).state == .running &&
      (List.range Config.cores).all (fun k => (mgetD (s.cluster c.val).cores k .reset).ended) &&
      !s.inL0 ((s.cluster c.val).holder.getD 0)) = true := by
    simp [halive, hrunning, hall, hreset]
  exact congrArg Host.Outcome.next (if_pos hend)

theorem clusterDrained_runsTo (halive : s.alive = true) (hreset : s.inL0 ((s.cluster c.val).holder.getD 0) = false)
    (hdraining : (s.cluster c.val).state = .draining) (hdrained : s.drained c = true) :
    RunsTo (.clusterDrained c) s (s.idleCluster c.val) := by
  have hend : (s.alive && (s.cluster c.val).state == .draining && s.drained c &&
      !s.inL0 ((s.cluster c.val).holder.getD 0)) = true := by
    simp [halive, hdraining, hdrained, hreset]
  exact congrArg Host.Outcome.next (if_pos hend)

theorem clusterGateTimeout_runsTo (halive : s.alive = true) (hidle : (s.cluster c.val).state = .idle)
    (hfree : (s.cluster c.val).holder = none) (hset : bits (s.reg rEnvelope) 63 32 ≠ 0)
    (hpassed : (s.cluster c.val).idleSince + 1000 * bits (s.reg rEnvelope) 63 32 ≤ s.local_) :
    RunsTo (.clusterGateTimeout c) s (s.setCluster c.val { s.cluster c.val with state := .gated, buf := [], hidden := [] }) := by
  have hgate : (s.alive && (s.cluster c.val).state == .idle && (s.cluster c.val).holder.isNone &&
      bits (s.reg rEnvelope) 63 32 != 0 &&
      decide ((s.cluster c.val).idleSince + 1000 * bits (s.reg rEnvelope) 63 32 ≤ s.local_)) = true := by
    simp [halive, hidle, hfree, hset, hpassed]
  exact congrArg Host.Outcome.next (if_pos hgate)

end

/-- A launch's completion record comes before its event, and leaves the time that the event names (R150). -/
theorem launchEnded_endLaunch (s : State) (q : CmdRef) (st started r0 : Nat) (r1 : W64) :
    (s.endLaunch q st r0 r1).launchEnded q st started =
      (s.endLaunch q st r0 r1).raise 0x0222 (srcCp q.ctx.val q.ring.val) (some q.ctx.val)
        [q.seq.toNat, st, s.time.ns - started, 0] := by
  rw [State.launchEnded, State.now, State.endLaunch_time]

theorem launchComplete_runsTo {s : State} {q : CmdRef} {l : Launch} (halive : s.alive = true) (hreset : s.inL0 q.ctx.val = false)
    (hl : s.launch? q = some l) (hrunning : l.phase = .running) (hleft : ∀ d ∈ l.set, (s.cluster d).launch ≠ some q) :
    let st := l.stop.getD 0
    let u := (s.endLaunch q st l.started l.result1).raise 0x0222 (srcCp q.ctx.val q.ring.val) (some q.ctx.val)
      [q.seq.toNat, st, s.time.ns - l.started, 0]
    RunsTo (.launchComplete q) s
      (if l.sigEn && st == 0 then u.completionSignal q.ctx.val l.sigPeg l.sigAddend (srcCp q.ctx.val q.ring.val) else u) := by
  intro st u
  have hfound : (if s.alive && !s.inL0 q.ctx.val then s.launch? q else none) = some l := by
    rw [halive, hreset]
    exact hl
  have hover : ¬ (decide (l.phase ≠ .running) || l.set.any (fun d => (s.cluster d).launch == some q)) = true := by
    simpa [hrunning] using hleft
  refine congrArg Host.Outcome.next ?_
  simp only [hfound]
  refine (if_neg hover).trans ?_
  rw [launchEnded_endLaunch]
  rfl

/-- Settles O22: each row finds nothing that holds it back, and does what it says. -/
theorem launchEnds : Obligations.LaunchEnds := by
  unfold Obligations.LaunchEnds
  intro s q c
  refine ⟨fun t => progAbort_runsTo, fun t => clusterGrant_runsTo, fun t => clusterRelease_runsTo, ?_, ?_, ?_⟩
  · intro halive hreset
    exact ⟨clusterProgramEnd_runsTo halive hreset, clusterDrained_runsTo halive hreset⟩
  · exact fun halive hreset l => launchComplete_runsTo halive hreset
  · rintro halive hidle hfree us rfl
    exact clusterGateTimeout_runsTo halive hidle hfree

end Sys2Proof.Machine
end

section
/-! Scalar instructions (05_core_programs.md R139, R142). -/

namespace Sys2Proof.Machine

/-! ### Results of two registers, as R139 words them -/

section
variable {n : Nat} (a b : BitVec n) (m : Nat)

theorem mul_eq_ofNat_mul : a * b = BitVec.ofNat n (a.toNat * b.toNat) := by
  rw [BitVec.ofNat_mul, BitVec.ofNat_toNat, BitVec.ofNat_toNat, BitVec.setWidth_eq, BitVec.setWidth_eq]

theorem shiftLeft_eq_ofNat_mul_pow : a <<< m = BitVec.ofNat n (a.toNat * 2 ^ m) := by
  apply BitVec.eq_of_toNat_eq
  rw [BitVec.toNat_shiftLeft, BitVec.toNat_ofNat, Nat.shiftLeft_eq]

theorem ushiftRight_eq_ofNat_div_pow : a >>> m = BitVec.ofNat n (a.toNat / 2 ^ m) := by
  apply BitVec.eq_of_toNat_eq
  have hlt : a.toNat / 2 ^ m < 2 ^ n := Nat.lt_of_le_of_lt (Nat.div_le_self _ _) a.isLt
  rw [BitVec.toNat_ushiftRight, BitVec.toNat_ofNat, Nat.shiftRight_eq_div_pow, Nat.mod_eq_of_lt hlt]

theorem sshiftRight_eq_ofInt_div_pow : a.sshiftRight m = BitVec.ofInt n (a.toInt / 2 ^ m) := by
  rw [BitVec.sshiftRight, Int.shiftRight_eq_div_pow]
  norm_cast

end

theorem sMin_eq_ofInt (a b : W64) : sMin a b = BitVec.ofInt 64 (min a.toInt b.toInt) := by
  simp only [sMin, BitVec.slt_iff_toInt_lt]
  split
  · next h => rw [min_eq_right (Int.le_of_lt h), BitVec.ofInt_toInt]
  · next h => rw [min_eq_left (Int.not_lt.mp h), BitVec.ofInt_toInt]

theorem sMax_eq_ofInt (a b : W64) : sMax a b = BitVec.ofInt 64 (max a.toInt b.toInt) := by
  simp only [sMax, BitVec.slt_iff_toInt_lt]
  split
  · next h => rw [max_eq_right (Int.le_of_lt h), BitVec.ofInt_toInt]
  · next h => rw [max_eq_left (Int.not_lt.mp h), BitVec.ofInt_toInt]

/-! ### ADD to MAX (R139) -/

/-- Two results that agree on all operands are one meaning. -/
theorem scalarOp_next_congr {f g : W64 → W64 → W64} (hfg : ∀ a b, f a b = g a b) (op : Nat) (k : CoreRef) (s : State) :
    (.next (scalarOp op f k s) : Host.Outcome State Fault Refusal) = .next (scalarOp op g k s) := by
  have hfg' : f = g := funext fun a => funext fun b => hfg a b
  rw [hfg']

/-- Every row of the table runs its operation on XA and B. -/
theorem exec_scalarRow {row : (CoreRef → Instr) × Nat × (W64 → W64 → W64)} (hrow : row ∈ scalarRows) (k : CoreRef)
    (s : State) : exec (row.1 k) s = .next (scalarOp row.2.1 row.2.2 k s) ∧ opDefined 0x0 row.2.1 = true := by
  simp only [scalarRows, List.mem_cons, List.not_mem_nil, or_false] at hrow
  rcases hrow with rfl | rfl | rfl | rfl | rfl | rfl | rfl | rfl | rfl | rfl | rfl
  · exact ⟨rfl, rfl⟩
  · exact ⟨rfl, rfl⟩
  · exact ⟨scalarOp_next_congr mul_eq_ofNat_mul _ k s, rfl⟩
  · exact ⟨rfl, rfl⟩
  · exact ⟨rfl, rfl⟩
  · exact ⟨rfl, rfl⟩
  · exact ⟨scalarOp_next_congr (fun a _ => shiftLeft_eq_ofNat_mul_pow a _) _ k s, rfl⟩
  · exact ⟨scalarOp_next_congr (fun a _ => ushiftRight_eq_ofNat_div_pow a _) _ k s, rfl⟩
  · exact ⟨scalarOp_next_congr (fun a _ => sshiftRight_eq_ofInt_div_pow a _) _ k s, rfl⟩
  · exact ⟨scalarOp_next_congr sMin_eq_ofInt _ k s, rfl⟩
  · exact ⟨scalarOp_next_congr sMax_eq_ofInt _ k s, rfl⟩

/-- Settles O1: the rows of the table are one shared operation. -/
theorem scalarOperations : Obligations.ScalarOperations := by
  unfold Obligations.ScalarOperations
  intro row hrow s k i h hfree b
  obtain ⟨hexec, hop⟩ := exec_scalarRow hrow k s
  exact leaves_done h.issue (runsTo_issueRow hexec hop h (regs_of _ hfree))

/-! ### LI, SLD, SST and SPR (R139, R142) -/

section
variable {s : State} {k : CoreRef} {i : Issue}

theorem li_leaves (h : Issues s k 0x0 0x0B (fun _ => [(16, 12), (127, 64)]) i) (hfree : i.free [bits i.w 16 12]) :
    Leaves (.li k) s k (i.core.setX (bits i.w 16 12) (BitVec.ofNat 64 (bits i.w 127 64))).advance :=
  leaves_done h.issue (runsTo_issueRow rfl rfl h (regs_of _ hfree))

/-- An operand of `n` bytes at a multiple of `n` inside the tile store is well placed. -/
theorem well_placed {a n : Nat} (halign : a % n = 0) (hinside : a + n ≤ 49152) : ¬ (a % n ≠ 0 ∨ tileBytes < a + n) :=
  not_or.mpr ⟨not_not.mpr halign, Nat.not_lt.mpr hinside⟩

section
variable (halign : scAddr i % 8 = 0) (hinside : scAddr i + 8 ≤ 49152)
include halign hinside

theorem sld_leaves (h : Issues s k 0x0 0x0C (fun _ => [(21, 12), (127, 64)]) i)
    (hfree : i.free [bits i.w 16 12, bits i.w 21 17]) (hclean : i.clean s (scAddr i) 8) :
    Leaves (.sld k) s k
      (i.core.setX (bits i.w 16 12) (BitVec.ofNat 64 (leNat (memRead i.core.ts (scAddr i) 8)))).advance := by
  refine leaves_done h.issue (runsTo_issueRow rfl rfl h ((regs_of _ hfree).trans ?_))
  exact (if_neg (well_placed halign hinside)).trans (reading_of _ hclean)

theorem sst_leaves (h : Issues s k 0x0 0x0D (fun _ => [(26, 17), (127, 64)]) i)
    (hfree : i.free [bits i.w 21 17, bits i.w 26 22]) (hwrite : i.core.canWrite (scAddr i) 8 = true) :
    Leaves (.sst k) s k
      ({ i.core with ts := memWrite i.core.ts (scAddr i) (leBytes 8 (i.core.getX (bits i.w 26 22)).toNat) } : CoreSt).advance := by
  refine leaves_done h.issue (runsTo_issueRow rfl rfl h ((regs_of _ hfree).trans ?_))
  exact (if_neg (well_placed halign hinside)).trans (writing_of _ hwrite)

end

theorem spr_leaves (h : Issues s k 0x0 0x0E (fun _ => [(16, 12), (127, 64)]) i) (hfree : i.free [bits i.w 16 12]) {v : W64}
    (hv : specialReg s k i.ctx (bits i.w 71 64) = some v) :
    Leaves (.spr k) s k (i.core.setX (bits i.w 16 12) v).advance := by
  refine leaves_done h.issue (runsTo_issueRow rfl rfl h ((regs_of _ hfree).trans ?_))
  simp only [hv]
  rfl

/-- The argument registers of a launch (R142). -/
theorem specialReg_argument {ctx code : Nat} (hlow : 0x10 ≤ code) (hhigh : code ≤ 0x17) {q : CmdRef} {l : Launch}
    (hq : (s.cluster k.cluster.val).launch = some q) (hl : s.launch? q = some l) :
    specialReg s k ctx code = some (l.args.getD (code - 0x10) 0) := by
  have hbound : (s.cluster k.cluster.val).launch.bind s.launch? = some l := by rw [hq]; exact hl
  interval_cases code <;> simp [specialReg, hbound]

end

/-- Settles O2: each row passes its checks, and SPR's codes are those of `specialReg`. -/
theorem scalarMoves : Obligations.ScalarMoves := by
  unfold Obligations.ScalarMoves
  intro s k i
  refine ⟨li_leaves, ?_, ?_, ?_⟩
  · rintro h hfree a rfl halign hinside hclean
    exact sld_leaves halign hinside h hfree hclean
  · rintro h hfree a rfl halign hinside hwrite
    exact sst_leaves halign hinside h hfree hwrite
  · intro h hfree code put n
    obtain ⟨-, -, hcl⟩ := issue_core h.issue
    have named : ∀ {c : Nat} {v : W64}, code = c → specialReg s k i.ctx c = some v → Leaves (.spr k) s k (put v) :=
      fun {_ _} hcode hv => spr_leaves h hfree ((congrArg (specialReg s k i.ctx) hcode).trans hv)
    refine ⟨fun hc => named hc rfl, fun hc => named hc rfl, fun hc => named hc rfl, fun hc => named hc rfl,
      fun hc => named hc rfl, fun hc => named hc rfl, fun hc => named hc ?_, ?_⟩
    · rw [hcl]
      rfl
    · intro hlow hhigh q l hq hl
      exact spr_leaves h hfree (specialReg_argument hlow hhigh (hcl ▸ hq) hl)

end Sys2Proof.Machine
end

section
/-! Moves between vector registers, scalar registers and the tile store (05_core_programs.md R155). -/

namespace Sys2Proof.Machine

section
variable {s : State} {k : CoreRef} {i : Issue} (hfree : i.free [bits i.w 36 32])
include hfree

section
variable (halign : i.vecAddr % 64 = 0) (hinside : i.vecAddr + 64 ≤ 49152)
include halign hinside

theorem vld_leaves (h : Issues s k 0x4 0x30 (fun _ => [(16, 12), (36, 32), (57, 42)]) i) (hclean : i.clean s i.vecAddr 64) :
    Leaves (.vld k) s k
      (i.core.setV (bits i.w 16 12) (BitVec.ofNat 512 (leNat (memRead i.core.ts i.vecAddr 64)))).advance := by
  refine leaves_done h.issue (runsTo_issueRow rfl rfl h ((regs_of _ hfree).trans ?_))
  exact (if_neg (well_placed halign hinside)).trans (reading_of _ hclean)

theorem vst_leaves (h : Issues s k 0x4 0x31 (fun _ => [(21, 17), (36, 32), (57, 42)]) i)
    (hwrite : i.core.canWrite i.vecAddr 64 = true) :
    Leaves (.vst k) s k
      ({ i.core with ts := memWrite i.core.ts i.vecAddr (leBytes 64 (i.core.getV (bits i.w 21 17)).toNat) } : CoreSt).advance := by
  refine leaves_done h.issue (runsTo_issueRow rfl rfl h ((regs_of _ hfree).trans ?_))
  exact (if_neg (well_placed halign hinside)).trans (writing_of _ hwrite)

end

theorem vmovx_leaves (h : Issues s k 0x4 0x32 (fun _ => [(16, 12), (36, 32)]) i) :
    Leaves (.vmovx k) s k (i.core.setV (bits i.w 16 12) (splat ((i.core.getX (bits i.w 36 32)).setWidth 32))).advance :=
  leaves_done h.issue (runsTo_issueRow rfl rfl h (regs_of _ hfree))

theorem vextr_leaves (h : Issues s k 0x4 0x33 (fun _ => [(21, 17), (36, 32), (57, 42)]) i) :
    Leaves (.vextr k) s k (i.core.setX (bits i.w 36 32)
      ((lane (i.core.getV (bits i.w 21 17)) (bits i.w 57 42 % 16)).setWidth 64)).advance :=
  leaves_done h.issue (runsTo_issueRow rfl rfl h (regs_of _ hfree))

end

/-- Settles O6: each row passes its checks. -/
theorem vectorMoves : Obligations.VectorMoves := by
  unfold Obligations.VectorMoves
  intro s k i hfree a
  exact ⟨fun h halign hinside => vld_leaves hfree halign hinside h,
    fun h halign hinside => vst_leaves hfree halign hinside h, vmovx_leaves hfree, vextr_leaves hfree⟩

end Sys2Proof.Machine
end

section
/-! The end of a core's program (04_cores.md R123; 05_core_programs.md R140, R141, R151). -/

namespace Sys2Proof.Machine

section
variable {s : State} {k : CoreRef} {i : Issue}

/-- END with nothing outstanding and no slot bound ends the core, and makes the core's writes to the cluster buffer visible (R123,
R140). -/
theorem endProgram_runsTo (h : Issues s k 0xA 0x03 (fun _ => []) i) (hxfers : i.core.xfers = []) (hdays : i.core.days = [])
    (hslots : i.core.slots = []) (hrows : ∀ r ∈ s.tier.remotes, r.2.owner ≠ .epi k) (hscans : i.cl.scans = []) :
    RunsTo (.endProgram k) s ((i.jumped s { i.core with ended := true }).publish k) := by
  obtain ⟨rfl, hcore, -⟩ := issue_core h.issue
  obtain ⟨-, honly⟩ := jumped_only (i := i) (s := s) { i.core with ended := true }
  have hnone : ¬ (!i.core.xfers.isEmpty || !i.core.days.isEmpty ||
      s.tier.remotes.any (fun r => r.2.owner == .epi i.k && !r.2.acked)) = true := by
    simpa [hxfers, hdays] using fun n r hr howner => absurd howner (hrows (n, r) hr)
  have hidle : (((i.jumped s { i.core with ended := true }).publish i.k).cluster i.k.cluster.val).scanning = [] := by
    rw [State.publish, cluster_setCluster_self, honly.cluster_eq h.issue, Cluster.scanning, Cluster.publish, hscans, List.map_nil]
  refine runsTo_issueRow rfl rfl h ((if_neg hnone).trans ?_)
  rw [hslots]
  simp only [State.flushSlots, Issue.outcome, ← hcore, hidle]

/-- What END leaves hidden of its cluster's writes: those of the other cores. -/
theorem endProgram_hidden (hi : s.issue? k = some i) :
    (((i.jumped s { i.core with ended := true }).publish k).cluster k.cluster.val).hidden =
      i.cl.hidden.filter (fun w => w.core != k.core.val) := by
  obtain ⟨rfl, -, -⟩ := issue_core hi
  obtain ⟨-, honly⟩ := jumped_only (i := i) (s := s) { i.core with ended := true }
  rw [State.publish, cluster_setCluster_self, honly.cluster_eq hi]
  rfl

end

/-- A running cluster whose core 0 stands at an END (0x03A), with a line that the core has written to the cluster buffer and that
no other core sees yet. -/
def endingCluster : Cluster :=
  { Cluster.reset with
    state := .running, holder := some 1, image := [0x03A], hidden := [⟨0, 0, List.replicate 64 1⟩], cores := [(0, .reset)] }

def endingState : State :=
  { State.reset with
    board := { BoardSt.reset with pwrGood := true }
    eng := { CoreSide.reset with clusters := [(0, endingCluster)] } }

def endingIssue : Issue := ⟨⟨0, 0⟩, endingCluster, .reset, 0x03A, 1⟩

theorem endingState_issues : Issues endingState ⟨0, 0⟩ 0xA 0x03 (fun _ => []) endingIssue where
  issue := rfl
  inImage := by decide
  isClass := rfl
  isOp := rfl
  clear := rfl
  reads := rfl

/-- Refutes O3: END also makes the core's writes to the cluster buffer visible to the other cores (R123; log entry 114), so more
than the core changes when the core has such writes. In `endingState` core 0 of cluster 0 has one. -/
theorem not_branchesAndLoops : ¬ Obligations.BranchesAndLoops := by
  unfold Obligations.BranchesAndLoops
  rintro ⟨hrows, -⟩
  obtain ⟨-, -, -, hend, -⟩ := hrows endingState ⟨0, 0⟩ endingIssue
  have hnoRemotes : ∀ r ∈ endingState.tier.remotes, r.2.owner ≠ .epi ⟨0, 0⟩ := fun r hr => nomatch hr
  obtain ⟨t, hclaimed, -, honly⟩ := hend endingState_issues rfl rfl rfl hnoRemotes rfl
  have hactual := endProgram_runsTo endingState_issues rfl rfl rfl hnoRemotes rfl
  have ht := Host.Outcome.next.inj (hclaimed.symm.trans hactual)
  have hkept : (t.cluster 0).hidden = endingCluster.hidden :=
    (congrArg Cluster.hidden honly.cluster).trans rfl
  have hleft : (t.cluster 0).hidden = [] := ht ▸ endProgram_hidden endingState_issues.issue
  exact absurd (hkept.symm.trans hleft) (List.cons_ne_nil _ _)

end Sys2Proof.Machine
end

section
/-! Transfers that complete (05_core_programs.md R159; 08_tiers_and_streams.md R260 to R262). -/

namespace Sys2Proof.Machine

/-! ### What a transfer finds when it completes -/

theorem cluster_of_eng_eq {s t : State} (h : t.eng = s.eng) (c : Nat) : t.cluster c = s.cluster c :=
  congrArg (fun e : CoreSide => mgetD e.clusters c .reset) h

theorem core_of_eng_eq {s t : State} (h : t.eng = s.eng) (k : CoreRef) : t.core k = s.core k := by
  rw [State.core, State.core, cluster_of_eng_eq h]

@[simp] theorem setCore_holder (s : State) (k : CoreRef) (c : CoreSt) :
    ((s.setCore k c).cluster k.cluster.val).holder = (s.cluster k.cluster.val).holder := by
  rw [(onlyCore_setCore s k c).cluster]

/-- Without flipped bits the bytes that an outgoing transfer takes read well, the first time and any other. -/
theorem sourceRead_clean {s : State} (hflips : s.eng.flips = []) (k : CoreRef) (sent : Bool) (off n ctx : Nat) :
    s.sourceRead k sent off n ctx = (s, true) := by
  cases sent with
  | true => rfl
  | false => exact sramRead_clean _ _ _ _ _ _ hflips

section
variable {s : State} {k : CoreRef}

theorem updXfer_of_some {tag : Nat} {x : Xfer} (hx : mget (s.core k).xfers tag = some x) (f : Xfer → Xfer) :
    s.updXfer k tag f = s.setCore k { s.core k with xfers := mset (s.core k).xfers tag (f x) } := by
  simp only [State.updXfer, hx]

/-- A transfer that is late already, or not due yet, is not marked. -/
theorem xferLate_of_not_due {tag : Nat} {x : Xfer} (hx : mget (s.core k).xfers tag = some x)
    (hdue : x.late = true ∨ s.timePassed x.deadline = false) : s.xferLate k tag = s := by
  have hmarked : (x.late || !s.timePassed x.deadline) = true := by simpa using hdue
  simp only [State.xferLate, hx, hmarked, if_true]

/-! ### TRANSFER_COMPLETE (R260, R262) -/

/-- The stretches that an outstanding transfer reaches, noted in its entry. -/
def xferReached (s : State) (k : CoreRef) (tag : Fin 8) (x : Xfer) (ps : List Piece) : State :=
  s.setCore k { s.core k with xfers := mset (s.core k).xfers tag.val { x with reach := some (reachOf ps) } }

section
variable {tag : Fin 8} {x : Xfer} {ps : List Piece}

/-- A transfer whose pieces are known, and whose lines nothing earlier is still to reach, moves its data. -/
theorem transferComplete_moves (hmoving : s.moving k.cluster.val = true) (hx : mget (s.core k).xfers tag.val = some x)
    (hdue : x.late = true ∨ s.timePassed x.deadline = false) {s1 : State} {y : Nat}
    (hpieces : s.xferPieces ((s.cluster k.cluster.val).holder.getD 0) (Desc.of x.desc) = (s1, .ok ps, y))
    (heng : s1.eng = s.eng) (hbefore : ((xferReached s1 k tag x ps).core k).before x.ord (reachOf ps) = false)
    (hrows : (xferReached s1 k tag x ps).rowsMeet k (reachOf ps) = false) :
    RunsTo (.transferComplete k tag) s ((xferReached s1 k tag x ps).xferMove k tag x ps) := by
  have hx1 : mget (s1.core k).xfers tag.val = some x := by rw [core_of_eng_eq heng, hx]
  have hfirst : ¬ (((xferReached s1 k tag x ps).core k).before x.ord (reachOf ps) ||
      (xferReached s1 k tag x ps).rowsMeet k (reachOf ps)) = true := by simp [hbefore, hrows]
  refine congrArg Host.Outcome.next ?_
  simp only [hmoving, if_true, hx, xferLate_of_not_due hx hdue, hpieces, State.lateOutcome, updXfer_of_some hx1]
  exact if_neg hfirst

theorem xferMove_gather {z : Nat} {t : State} {bs : List Byte} (hgather : (Desc.of x.desc).scatter = false)
    (hread : s.gatherPieces (.xfer k tag) x.pc ((s.cluster k.cluster.val).holder.getD 0) (.program false) (Desc.of x.desc).noalloc
      (Desc.of x.desc).deadline ps = (t, .ok bs, z)) :
    s.xferMove k tag x ps =
      (t.setCore k ((t.core k).tsWrite (Desc.of x.desc).local_ (bsub bs 0 (64 * (Desc.of x.desc).units)))).dropXfer k tag := by
  simp only [State.xferMove, hgather, hread, State.lateOutcome, Bool.false_eq_true, if_false]

theorem xferMove_scatter {z : Nat} {t : State} (hflips : s.eng.flips = []) (hscatter : (Desc.of x.desc).scatter = true)
    (hwrite : s.scatterPieces (.xfer k tag) x.pc ((s.cluster k.cluster.val).holder.getD 0) (.program false)
      (Desc.of x.desc).deadline (Desc.of x.desc).whole ps ((s.core k).tsRead (Desc.of x.desc).local_ (Desc.of x.desc).bytes) =
        (t, .ok (), z)) :
    s.xferMove k tag x ps =
      (if t.piecesSent (.xfer k tag) ps then t.updXfer k tag.val (fun x => { x with sent := true }) else t).dropXfer k tag := by
  simp only [State.xferMove, hscatter, sourceRead_clean hflips, hwrite, State.lateOutcome, if_true, Bool.not_true,
    Bool.false_eq_true, if_false]

end

/-! ### DAYPACK_COMPLETE (R159, R261, R262) -/

/-- The one piece of a daypack transfer. -/
def dayPieces (x : Day) : List Piece := [⟨0, x.va.toNat, x.len⟩]

section
variable {tag : Fin 16} {x : Day} (hmoving : s.moving k.cluster.val = true) (hx : mget (s.core k).days tag.val = some x)
include hmoving hx

theorem daypackComplete_atom {xret : Nat} {old : W64} (hop : x.op = .atom xret old) :
    RunsTo (.daypackComplete k tag) s ((s.setCore k ((s.core k).setX xret old)).dropDay k tag) := by
  refine congrArg Host.Outcome.next ?_
  simp only [hmoving, if_true, hx, hop]

/-- A daypack transfer whose line nothing earlier is still to reach is performed as its operation says. -/
theorem daypackComplete_moves (hflips : s.eng.flips = []) (hbefore : (s.core k).before x.ord (reachOf (dayPieces x)) = false)
    (hrows : s.rowsMeet k (reachOf (dayPieces x)) = false) :
    let ctx := (s.cluster k.cluster.val).holder.getD 0
    let o : Owner := .daypack k tag
    (∀ aop xret a b line, x.op = .held aop xret a b line → ∀ t old,
      s.tryAtom ctx aop x.len x.va.toNat a b line = (t, .ok old) →
      RunsTo (.daypackComplete k tag) s ((t.setCore k ((t.core k).setX xret old)).dropDay k tag)) ∧
    (x.op = .get → ∀ t bs z, s.gatherPieces o x.pc ctx (.program false) false 0 (dayPieces x) = (t, .ok bs, z) →
      RunsTo (.daypackComplete k tag) s ((t.setCore k ((t.core k).tsWrite x.ts bs)).dropDay k tag)) ∧
    (x.op = .put → ∀ t z,
      s.scatterPieces o x.pc ctx (.program false) 0 false (dayPieces x) ((s.core k).tsRead x.ts x.len) = (t, .ok (), z) →
      RunsTo (.daypackComplete k tag) s
        ((if t.piecesSent o (dayPieces x) then t.updDay k tag.val (fun x => { x with sent := true }) else t).dropDay k tag)) := by
  rw [dayPieces] at hbefore hrows ⊢
  dsimp only
  refine ⟨fun aop xret a b line hop t old htry => ?_, fun hop t bs z hread => ?_, fun hop t z hwrite => ?_⟩
  all_goals
    refine congrArg Host.Outcome.next ?_
    simp only [hmoving, if_true, hx, hop, hbefore, hrows, Bool.or_self, Bool.false_eq_true, if_false, State.lateOutcome]
  · simp only [htry]
  · simp only [hread]
  · simp only [sourceRead_clean hflips, Bool.not_true, Bool.false_eq_true, if_false, hwrite]

end

end

/-- Settles O12: a transfer that nothing holds back moves its data by the access that its operation names, and is dropped. -/
theorem transferCompletion : Obligations.TransferCompletion := by
  unfold Obligations.TransferCompletion
  intro s k hmoving hflips ctx
  constructor
  · intro tag x hx hdue d o free s1 ps y hpieces heng reach s2 hbefore hrows
    have hmoves : RunsTo (.transferComplete k tag) s (s2.xferMove k tag x ps) :=
      transferComplete_moves hmoving hx hdue hpieces heng hbefore hrows
    have hctx : (s2.cluster k.cluster.val).holder.getD 0 = ctx := by
      rw [setCore_holder, cluster_of_eng_eq heng]
    have hflips2 : s2.eng.flips = [] := (congrArg CoreSide.flips heng).trans hflips
    constructor
    · intro hgather s3 bs z hread
      rwa [xferMove_gather hgather (hctx ▸ hread)] at hmoves
    · intro hscatter s3 z hwrite
      rwa [xferMove_scatter hflips2 hscatter (hctx ▸ hwrite)] at hmoves
  · intro tag x hx o ps free
    exact ⟨fun xret old => daypackComplete_atom hmoving hx, daypackComplete_moves hmoving hx hflips⟩

end Sys2Proof.Machine
end

section
/-! Atomics (05_core_programs.md R160; 07_hbm.md R222; 08_tiers_and_streams.md R261, R262). -/

namespace Sys2Proof.Machine

/-! ### DP_ATOM of any operation -/

/-- The address of an atomic, the register that takes the old value, and the line of a LINE-ADD, by the operation code. -/
def atomVa (i : Issue) : Nat := (i.core.getX (bits i.w 16 12)).toNat
def atomReturn (aop : Nat) (i : Issue) : Nat := if aop == 0xD then 0 else bits i.w 59 55
def atomLine (aop : Nat) (i : Issue) : List Byte := if aop == 0xD then i.core.tsRead (bits i.w 40 25) 64 else []

/-- The atomic with its operands, to be applied later. -/
def atomHeld (aop : Nat) (i : Issue) : DayOp :=
  .held aop (atomReturn aop i) (i.core.getX (bits i.w 54 50)) (i.core.getX (bits i.w 54 50 + 1)) (atomLine aop i)

/-- An atomic outstanding under its tag. -/
def atomEntered (i : Issue) (u : State) (op : DayOp) (n : Nat) : State :=
  i.done u { i.core with
    days := mset i.core.days (bits i.w 44 41) ⟨i.core.pc, op, 0, n, BitVec.ofNat 64 (atomVa i), i.core.nextOrd, false, none⟩
    nextOrd := i.core.nextOrd + 1 }

/-- An earlier transfer of the core, or a row of its epilogue, is still to reach the bytes of the atomic (R262). -/
def atomLate (s : State) (k : CoreRef) (i : Issue) (n : Nat) : Bool :=
  i.core.before i.core.nextOrd [(atomVa i, n)] || s.rowsMeet k [(atomVa i, n)]

/-- A DP_ATOM passes its checks: its operation is defined, its registers exist and no atomic is to write them, its tag is free, its
local address is aligned, and the line of a LINE-ADD lies in the tile store and can be read (R121, R159, R160). -/
structure AtomReady (aop : Nat) (s : State) (i : Issue) : Prop where
  code : bits i.w 48 45 = aop
  defined : aop < 0xE
  compare : aop = 0xC → bits i.w 54 50 < 31
  free : ∀ r, i.core.xBusy r = false
  tagFree : mget i.core.days (bits i.w 44 41) = none
  aligned : atomVa i % atomBytes aop (i.w.testBit 49) = 0
  localSpace : vaSpace (atomVa i) = 0
  line : aop = 0xD → bits i.w 40 25 % 64 = 0 ∧ bits i.w 40 25 + 64 ≤ 49152 ∧ i.clean s (bits i.w 40 25) 64

/-- No word is read of an empty stretch, whatever bits are flipped. -/
theorem sramRead_zero (s : State) (c p m lo ctx : Nat) : s.sramRead c p m lo 0 ctx = (s, true) := by
  have hnone : s.eng.flips.filter (fun f =>
      f.cluster == c && f.core == p && f.memory == m && decide (lo ≤ f.word) && decide (f.word < lo + 0)) = [] := by
    refine List.filter_eq_nil_iff.mpr fun f _ hf => ?_
    simp only [Bool.and_eq_true, decide_eq_true_eq] at hf
    omega
  simp only [State.sramRead, hnone, List.find?_nil, List.foldl_nil]

theorem reading_zero (i : Issue) (s : State) (off : Nat) (f : State → State) : i.reading s off 0 f = f s := by
  simp [Issue.reading, sramRead_zero]

section
variable {aop : Nat} {s : State} {k : CoreRef} {i : Issue} (r : AtomReady aop s i)
include r

theorem AtomReady.placed : ¬ (atomVa i % atomBytes aop (i.w.testBit 49) ≠ 0 ∨
    ((aop == 0xD) = true ∧ (bits i.w 40 25 % 64 ≠ 0 ∨ tileBytes < bits i.w 40 25 + 64))) := by
  rintro (hva | ⟨hline, hplace⟩)
  · exact hva r.aligned
  · obtain ⟨halign, hinside, -⟩ := r.line (beq_iff_eq.mp hline)
    exact hplace.elim (fun h => h halign) (Nat.not_lt.mpr hinside)

theorem AtomReady.registers_exist : ¬ (aop == 0xC && decide (31 < bits i.w 54 50 + 1)) = true := by
  rw [Bool.and_eq_true, beq_iff_eq, decide_eq_true_eq]
  exact fun ⟨hcas, hlast⟩ => absurd (r.compare hcas) (by omega)

theorem AtomReady.reading (f : State → State) :
    i.reading s (if aop == 0xD then bits i.w 40 25 else 0) (if aop == 0xD then 64 else 0) f = f s := by
  by_cases hline : aop = 0xD
  · obtain ⟨-, -, hclean⟩ := r.line hline
    simpa only [hline, beq_self_eq_true, if_true] using reading_of f hclean
  · simpa only [beq_iff_eq, hline, if_false] using reading_zero i s 0 f

/-- An atomic that is ready is held where something earlier is still to reach its bytes, and is tried at its address elsewhere. -/
theorem daypackAtom_runsTo {row : Instr} (hrow : exec row s = .next (daypackAtom aop k s)) (h : Issues s k 0x7 0x02 atomFields i) :
    let n := atomBytes aop (i.w.testBit 49)
    (atomLate s k i n = true → RunsTo row s (atomEntered i s (atomHeld aop i) n)) ∧
    (atomLate s k i n = false → ∀ t old, s.tryAtom i.ctx aop n (atomVa i) (i.core.getX (bits i.w 54 50))
        (i.core.getX (bits i.w 54 50 + 1)) (atomLine aop i) = (t, .ok old) →
      RunsTo row s (if atomReturn aop i = 0 then i.done t i.core else atomEntered i t (.atom (atomReturn aop i) old) n)) := by
  have hdefined : ¬ 0xE ≤ bits i.w 48 45 := Nat.not_le.mpr (r.code ▸ r.defined)
  have htag : ¬ mhas i.core.days (bits i.w 44 41) = true := by simp [mhas, r.tagFree]
  refine ⟨fun hlate => ?_, fun hfirst t old htry => ?_⟩
  all_goals
    refine runsTo_issueRow hrow rfl h ((if_neg hdefined).trans ((if_neg (not_not.mpr r.code)).trans ?_))
    refine (if_neg r.registers_exist).trans ((regs_of _ (free_of_none_busy r.free _)).trans ((if_neg htag).trans ?_))
    refine (if_neg r.placed).trans ((if_neg (not_not.mpr r.localSpace)).trans ((r.reading _).trans ?_))
  · exact if_pos hlate
  · refine (if_neg (Bool.eq_false_iff.mp hfirst)).trans ?_
    simp only [atomVa, atomLine] at htry
    simp only [dpXaddr, dpTs, htry]
    rfl

end

/-- An atomic whose page can be written is applied at its place in memory. -/
theorem tryAtom_of_reach {s t : State} {ctx aop n va pa len : Nat} {more : List (Nat × Nat)} (x y : W64) (line : List Byte)
    (hreach : s.reachVa ctx va n (.program false) 0 = (t, .ok ((pa, len) :: more))) :
    s.tryAtom ctx aop n va x y line =
      ((t.applyAtom ctx aop n pa x y line).1, .ok (t.applyAtom ctx aop n pa x y line).2) := by
  simp only [State.tryAtom, hreach]

/-! ### The rows (R160, R222) -/

/-- Every row of the table is the shared operation of its code, on its number of bytes and with its result. -/
theorem atomRow_meaning {row : (CoreRef → Instr) × Nat × Nat × Nat × (Nat → W64 → W64 → W64 → W64)} (hrow : row ∈ atomRows)
    (k : CoreRef) (s : State) :
    exec (row.1 k) s = .next (daypackAtom row.2.1 k s) ∧ row.2.1 < 0xD ∧
    (∀ w64 : Bool, atomBytes row.2.1 w64 = if w64 = true ∧ row.2.1 ≥ 8 then row.2.2.2.1 else row.2.2.1) ∧
    ∀ n old x y, atomApply row.2.1 n old x y = row.2.2.2.2 n old x y := by
  simp only [atomRows, List.mem_cons, List.not_mem_nil, or_false] at hrow
  rcases hrow with rfl | rfl | rfl | rfl | rfl | rfl | rfl | rfl | rfl | rfl | rfl | rfl | rfl <;>
    exact ⟨rfl, by decide, by decide, fun _ _ _ _ => rfl⟩

/-- Settles O13: every row is the shared operation, held or tried at its address; one that is tried replaces the bytes there by its
result. -/
theorem atomics : Obligations.Atomics := by
  unfold Obligations.Atomics
  intro s k i h htag hfree w va xo xret hspace enter late
  constructor
  · intro row hrow hcode hcompare n halign
    obtain ⟨hexec, hlt, hbytes, happly⟩ := atomRow_meaning hrow k s
    have hn : atomBytes row.2.1 (i.w.testBit 49) = n := hbytes _
    have hline : row.2.1 ≠ 0xD := Nat.ne_of_lt hlt
    have ready : AtomReady row.2.1 s i :=
      ⟨hcode, by omega, hcompare, hfree, htag, by rw [hn]; exact halign, hspace, fun hd => absurd hd hline⟩
    obtain ⟨hheld, htried⟩ := daypackAtom_runsTo ready hexec h
    have hreturn : atomReturn row.2.1 i = xret := if_neg (by simpa using hline)
    have hnone : atomLine row.2.1 i = [] := if_neg (by simpa using hline)
    rw [atomHeld, hn, hreturn, hnone] at hheld
    rw [hn, hreturn, hnone] at htried
    refine ⟨hheld, fun hfirst t pa len more hreach => ?_⟩
    have happlied := htried (Bool.eq_false_iff.mpr hfirst) _ _ (tryAtom_of_reach _ _ _ hreach)
    simp only [State.applyAtom, if_neg hline, happly] at happlied
    exact happlied
  · intro hcode halign hplace hinside hclean line
    have ready : AtomReady 0xD s i :=
      ⟨hcode, by decide, fun hc => absurd hc (by decide), hfree, htag, halign, hspace, fun _ => ⟨hplace, hinside, hclean⟩⟩
    obtain ⟨hheld, htried⟩ := daypackAtom_runsTo (row := .dpAtomLineAdd k) (k := k) ready rfl h
    exact ⟨hheld, fun hfirst t pa len more hreach =>
      htried (Bool.eq_false_iff.mpr hfirst) _ _ (tryAtom_of_reach _ _ _ hreach)⟩

end Sys2Proof.Machine
end

section
/-! Statistics slots of core programs (05_core_programs.md R164; 06_scaling.md R179, R180). -/

namespace Sys2Proof.Machine

/-- The slot that an SBIND binds: empty, for the tensor and the record that its registers name. -/
def slotBound (i : Issue) : Slot := ⟨i.core.x32 (bits i.w 18 14), i.core.getX (bits i.w 23 19), .empty⟩

section
variable {s : State} {k : CoreRef} {i : Issue}

theorem sbind_leaves (h : Issues s k 0xB 0x00 (fun _ => [(23, 12)]) i) (hfree : i.free [bits i.w 18 14, bits i.w 23 19]) :
    Leaves (.sbind k) s k ({ i.core with slots := mset i.core.slots (bits i.w 13 12) (slotBound i) } : CoreSt).advance :=
  leaves_done h.issue (runsTo_issueRow rfl rfl h (regs_of _ hfree))

section
variable {t : Slot} (hbound : mget i.core.slots (bits i.w 13 12) = some t)
include hbound

theorem svec_leaves (h : Issues s k 0xB 0x02 (fun _ => [(13, 12), (28, 24)]) i) :
    Leaves (.svec k) s k ({ i.core with slots := mset i.core.slots (bits i.w 13 12) { t with
      stats := countAll t.stats ((lanes (i.core.getV (bits i.w 28 24))).map (fun v => (v, classF32 v))) } } : CoreSt).advance := by
  refine leaves_done h.issue (runsTo_issueRow rfl rfl h ?_)
  simp only [stSlot, hbound]
  rfl

theorem sflush_runsTo (h : Issues s k 0xB 0x01 (fun _ => [(13, 12)]) i) {s' : State}
    (hmerge : s.statMerge k.cluster.val i.ctx (s.clusterStep k.cluster.val) t = (s', .ok ())) :
    RunsTo (.sflush k) s (i.done s' { i.core with slots := mset i.core.slots (bits i.w 13 12) { t with stats := .empty } }) := by
  refine runsTo_issueRow rfl rfl h ?_
  simp only [stSlot, hbound, hmerge]
  rfl

end

end

/-- Settles O17: SBIND needs its registers alone, SVEC and SFLUSH a slot that is bound. -/
theorem statisticsSlots : Obligations.StatisticsSlots := by
  unfold Obligations.StatisticsSlots
  intro s k i n
  exact ⟨sbind_leaves, fun t hbound => ⟨svec_leaves hbound, fun h s' => sflush_runsTo hbound h⟩⟩

end Sys2Proof.Machine
end

section
/-! Streams handed to a cluster's stream engine (05_core_programs.md R158; 08_tiers_and_streams.md R251 to R255). -/

namespace Sys2Proof.Machine

section
variable {s : State} {k : CoreRef} {i : Issue}

/-- The descriptor that a STREAM names, as it stands in the tile store. -/
def streamBytes (i : Issue) : List Byte := i.core.tsRead (64 * bits i.w 21 12) 64

/-- The stream as it is entered: nothing issued or landed, its tag unread unless it has none. -/
def streamNew (k : CoreRef) (i : Issue) (pos lastTag : Nat) : Stream :=
  let d := Desc.of (streamBytes i)
  ⟨k.core.val, i.core.pc, streamBytes i, pos, 0, 0, [], d.deadline, !d.tag, false, lastTag, false, .start⟩

/-- A STREAM entered at a place of its ring: the instruction is complete, the core's writes to the cluster buffer are visible, the
tag is read and the deadline looked at (R123, R257, R259). -/
def streamEntered (k : CoreRef) (i : Issue) (u : State) (pos : Nat) : State :=
  let v := (i.done u i.core).publish k
  ((v.setStream k.cluster.val (bits i.w 31 26) (streamNew k i pos v.local_)).streamTag
    k.cluster (Fin.ofNat 64 (bits i.w 31 26))).streamLate k.cluster (Fin.ofNat 64 (bits i.w 31 26))

/-- A pool with the stream in its queue, and its units of the ring taken. -/
def poolQueued (i : Issue) (p : Pool) : Pool :=
  { p with
    pos := (p.pos + (Desc.of (streamBytes i)).units) % max 1 p.units
    queue := p.queue ++ [bits i.w 31 26] }

/-- A STREAM can be handed over: a free stream number, and a descriptor that can be read and is valid (R158, R253). -/
structure StreamReady (s : State) (i : Issue) : Prop where
  line : 64 * bits i.w 21 12 < 49152
  numberFree : mget i.cl.streams (bits i.w 31 26) = none
  clean : i.clean s (64 * bits i.w 21 12) 64
  valid : (Desc.of (streamBytes i)).valid .stream = true

/-- A stream that works on no pool starts at place 0; one on a pool takes its place in the pool's queue and its ring. -/
theorem stream_enters (h : Issues s k 0x6 0x01 (fun _ => [(31, 26), (21, 12)]) i) (r : StreamReady s i) :
    let d := Desc.of (streamBytes i)
    (d.lkind ≠ 0 → RunsTo (.stream k) s (streamEntered k i s 0)) ∧
    (d.lkind = 0 → ∀ p, poolFor i.cl d = some p →
      RunsTo (.stream k) s (streamEntered k i
        (s.setCluster k.cluster.val { i.cl with pools := mset i.cl.pools d.pool (poolQueued i p) }) p.pos)) := by
  have hnumber : ¬ mhas i.cl.streams (bits i.w 31 26) = true := by simp [mhas, r.numberFree]
  have hvalid : ¬ (!(Desc.of (streamBytes i)).valid .stream) = true := by simp [r.valid]
  refine ⟨fun hkind => ?_, fun hkind p hpool => ?_⟩
  all_goals
    refine runsTo_issueRow rfl rfl h ((if_neg (Nat.not_le.mpr r.line)).trans ((if_neg hnumber).trans ?_))
    refine (reading_of _ r.clean).trans ((if_neg hvalid).trans ?_)
  · exact if_pos hkind
  · obtain ⟨-, -, hcl⟩ := issue_core h.issue
    refine (if_neg (not_not.mpr hkind)).trans ?_
    simp only [streamBytes] at hpool
    simp only [xfLine, hpool, ← hcl]
    rfl

end

/-- Settles O18: a valid descriptor on a free stream number is handed over as its local side asks. -/
theorem streamIssue : Obligations.StreamIssue := by
  unfold Obligations.StreamIssue
  intro s k i h hline hnumber hclean sid bs d hvalid enter
  exact stream_enters h ⟨hline, hnumber, hclean, hvalid⟩

end Sys2Proof.Machine
end

section
/-! Statistics, gradient scales and pack tables (06_scaling.md R183, R188, R190; 09_pack_format.md R283): commands that write an
empty record, and commands that run a list. -/

namespace Sys2Proof.Machine

/-! ### The end of a list (R183, R188, R283) -/

/-- The end of a list of which no item was refused: the count of its items, and the packet's peg signalled when asked. -/
def State.listDone (v : State) (q : CmdRef) (t : Taken) (n : Nat) : State :=
  if (fld t.packet 36 2).testBit 0 then
    (v.complete q stOk n 0).completionSignal q.ctx.val (fld t.packet 32 4) (BitVec.ofNat 64 (fld t.packet 40 8))
      (srcCp q.ctx.val q.ring.val)
  else v.complete q stOk n 0

theorem listEnd_done (s0 v : State) (q : CmdRef) (t : Taken) (n : Nat) :
    s0.listEnd q t (v, .done, n, none) = v.listDone q t n := rfl

/-! ### Records written and lists run -/

section
variable {row : Instr} {s u : State} {q : CmdRef} {op bad : Nat} {t : Taken} (h : Turn s q op t)
include h

/-- A command that only writes the bytes its packet gives completes once they are written (R190, R283). -/
theorem recordWrite_runsTo {bytes : Taken → List Byte}
    (hrow : exec row s = .next (s.perform q op (fun s t =>
      s.cmdOutcome q bad (s.writeVa q.ctx.val (t.par 16 8) (bytes t) (.other false) 0) (fun s _ => s.complete q stOk 0 0))))
    (hwrite : (s.begin q).writeVa q.ctx.val (fld t.packet 16 8) (bytes t) (.other false) 0 = (u, .ok ())) :
    RunsTo row s (u.complete q stOk 0 0) :=
  runsTo_perform hrow h (cmdOutcome_ok hwrite)

/-- A command that reads a list of `each` bytes an item runs its items from the state that the read leaves, and ends as they did. -/
theorem listRun_runsTo {each n : Nat} {f : Taken → State → Nat → State × ItemEnd} {items : Taken → List Byte → List Nat}
    {b : List Byte} {v : State}
    (hrow : exec row s = .next (s.perform q op (fun s t =>
      s.cmdOutcome q bad (s.readVa q.ctx.val (t.par 16 8) (each * t.par 24 4) (.other false) false 0)
        (fun s1 b => s.listEnd q t (runItems (f t) s1 0 0 none (items t b))))))
    (hread : (s.begin q).readVa q.ctx.val (fld t.packet 16 8) (each * fld t.packet 24 4) (.other false) false 0 = (u, .ok b))
    (hrun : runItems (f t) u 0 0 none (items t b) = (v, .done, n, none)) :
    RunsTo row s (v.listDone q t n) := by
  have hend : (s.begin q).listEnd q t (runItems (f t) u 0 0 none (items t b)) = v.listDone q t n := by
    rw [hrun, listEnd_done]
  exact runsTo_perform hrow h ((cmdOutcome_ok hread).trans hend)

end

/-- Settles O23: each of the three rows is one write of the bytes that its packet gives. -/
theorem recordsInitialised : Obligations.RecordsInitialised := by
  unfold Obligations.RecordsInitialised
  intro s q t u va
  refine ⟨?_, ?_, ?_⟩
  · intro h c sc inv bytes hwrite
    exact recordWrite_runsTo h rfl hwrite
  · intro h k bytes hwrite
    exact recordWrite_runsTo h rfl hwrite
  · intro h bytes hwrite
    exact recordWrite_runsTo h rfl hwrite

/-- Settles O24: each of the three rows runs the list that it has read. -/
theorem listCommands : Obligations.ListCommands := by
  unfold Obligations.ListCommands
  intro s q t u b n step read items ends
  refine ⟨?_, ?_, ?_⟩
  all_goals
    intro h hread v hrun
    exact listRun_runsTo h rfl hread hrun

end Sys2Proof.Machine
end

section
/-! Protected registers written with their complement (07_hbm.md R215; 14_curator.md R422, R424; 15_recovery_and_test.md R448). -/

namespace Sys2Proof.Machine

/-! ### Matched writes (R8) -/

theorem toNat_rwpPair (x : W32) : (rwpPair x).toNat = x.toNat + (~~~x).toNat * 2 ^ 32 := by
  have hx := x.isLt
  have hnot := (~~~x).isLt
  rw [rwpPair, BitVec.toNat_ofNat]
  omega

theorem setWidth_rwpPair (x : W32) : (rwpPair x).setWidth 32 = x := by
  apply BitVec.eq_of_toNat_eq
  rw [BitVec.toNat_setWidth, toNat_rwpPair, Nat.add_mul_mod_self_right, Nat.mod_eq_of_lt x.isLt]

theorem setWidth_rwpPair_upper (x : W32) : (rwpPair x >>> 32).setWidth 32 = ~~~x := by
  apply BitVec.eq_of_toNat_eq
  rw [BitVec.toNat_setWidth, BitVec.toNat_ushiftRight, Nat.shiftRight_eq_div_pow, toNat_rwpPair,
    Nat.add_mul_div_right _ _ (by decide), Nat.div_eq_of_lt x.isLt, Nat.zero_add, Nat.mod_eq_of_lt (~~~x).isLt]

theorem State.rwp_of_matched (s : State) (off : Nat) {v : RegValue} {x : W32} (hv : Matched v x) :
    s.rwp off v = (s, some x) := by
  cases hv
  simp only [State.rwp, setWidth_rwpPair, setWidth_rwpPair_upper, if_true]

/-! ### The envelope (R422, R424) -/

theorem State.reg_setReg_ne (s : State) {off other : Nat} (v : W64) (h : other ≠ off) :
    (s.setReg off v).reg other = s.reg other := by
  simp [State.reg, mget_mset_ne _ _ h]

/-- What a matched write of an envelope register leaves, as R424 words it: the value in force, and the request clipped where it
differs from the value `asked` for. -/
theorem State.envelope_eq (s : State) (off written inForce asked : Nat) :
    s.envelope off written inForce (inForce != asked) =
      let u := s.setReg off (rwpPair (BitVec.ofNat 32 inForce))
      if inForce = asked then u
      else (u.setReg rCurStatus (BitVec.ofNat 64 (2 ^ 22))).raise 0x0B05 srcCur none [off, written, inForce, 0] := by
  by_cases h : inForce = asked <;> simp [State.envelope, h]

/-- The register itself keeps the value in force, whether or not the request was clipped. -/
theorem State.envelope_reg (s : State) {off : Nat} (written inForce : Nat) (clipped : Bool) (hoff : off ≠ rCurStatus) :
    (s.envelope off written inForce clipped).reg off = (rwpPair (BitVec.ofNat 32 inForce)).toNat := by
  cases clipped with
  | false => exact s.reg_setReg_self off _
  | true =>
    refine (State.reg_congr (State.raise_none_time_regs _ _ _ _).2 off).trans ?_
    rw [State.reg_setReg_ne _ _ hoff, State.reg_setReg_self]

/-- The operating point `i` is the fastest at or below a clock: no faster one is, and where none is it is the slowest. -/
theorem pointBelow_eq (i : Fin 8) {mhz : Nat} (hbelow : i.val = 7 ∨ 2250 - 150 * i.val ≤ mhz)
    (habove : i.val = 0 ∨ mhz < 2400 - 150 * i.val) : pointBelow mhz = i.val := by
  have hfaster : ∀ j < i.val, ¬ pointMhz j ≤ mhz := by
    intro j hj
    simp only [pointMhz]
    omega
  by_cases hi : pointMhz i.val ≤ mhz
  · have hfind : (List.range 8).find? (fun j => decide (pointMhz j ≤ mhz)) = some i.val :=
      List.find?_range_eq_some.mpr ⟨by simpa using hi, by simp [i.isLt], fun j hj => by simpa using hfaster j hj⟩
    simp [pointBelow, hfind]
  · have hlast : i.val = 7 := hbelow.resolve_right hi
    have hfind : (List.range 8).find? (fun j => decide (pointMhz j ≤ mhz)) = none := by
      refine List.find?_eq_none.mpr fun j hj => ?_
      have hj := List.mem_range.mp hj
      rcases Nat.lt_or_eq_of_le (by omega : j ≤ i.val) with h | rfl
      · simpa using hfaster j h
      · simpa using hi
    simp [pointBelow, hfind, hlast]

section
variable {s : State} {v : RegValue} {x : W32} (hup : s.hostUp = true) (hv : Matched v x)
include hup hv

theorem curPowerCapWrite_matched : RunsTo (.curPowerCapWrite v) s
    (s.envelope rPowerCap x.toNat (max 600 (min 2200 (x.toNat % 2 ^ 16)))
      (max 600 (min 2200 (x.toNat % 2 ^ 16)) != x.toNat % 2 ^ 16)) := by
  show execCurPowerCapWrite v s = _
  simp [execCurPowerCapWrite, hup, s.rwp_of_matched _ hv]

theorem curThrottlePointWrite_matched : RunsTo (.curThrottlePointWrite v) s
    (s.envelope rThrottlePoint x.toNat (pointMhz (pointBelow (x.toNat % 2 ^ 16)))
      (pointMhz (pointBelow (x.toNat % 2 ^ 16)) != x.toNat % 2 ^ 16)) := by
  show execCurThrottlePointWrite v s = _
  simp [execCurThrottlePointWrite, hup, s.rwp_of_matched _ hv]

theorem curClockLimitsWrite_matched {c f n : Nat} (hc : c = pointBelow (x.toNat / 2 ^ 16))
    (hf : f = max c (pointAbove (x.toNat % 2 ^ 16))) (hn : n = pointMhz c * 2 ^ 16 + pointMhz f) :
    RunsTo (.curClockLimitsWrite v) s
      (let u := s.envelope rClockLimits x.toNat n (n != x.toNat)
       { u with cur := { u.cur with loop := max c (min u.cur.loop f) } }) := by
  subst hc hf hn
  show execCurClockLimitsWrite v s = _
  simp only [execCurClockLimitsWrite, hup, s.rwp_of_matched _ hv]
  rfl

/-! ### A reset request (R448) -/

/-- The one meaning behind the three rows of RST_REQUEST: the value is read back, and its LEVEL says which reset starts. -/
theorem State.requestReset_matched (hclear : bits x.toNat 27 2 = 0) :
    s.requestReset v =
      let u := s.setReg rRstRequest (rwpPair x)
      if bits x.toNat 31 28 = 2 then u.startL2 (x.toNat % 4) 2 0 []
      else if bits x.toNat 31 28 = 3 then u.startL3 2 0
      else if bits x.toNat 31 28 = 4 && u.mayCycle then u.startL4 2 4 0
      else u := by
  simp [State.requestReset, hup, s.rwp_of_matched _ hv, hclear]

/-! ### A hard repair request (R215) -/

/-- A request with ACTION 0b01, while none is queued or running: at once out of mission or on a failed stack, else queued. -/
theorem memHpprWrite_matched (haction : bits x.toNat 31 30 = 1) (hqueued : s.hbm.hpprState ≠ 1) (hrunning : s.hbm.hpprState ≠ 2) :
    RunsTo (.memHpprWrite v) s
      (let u := s.setReg rHppr (rwpPair x)
       let target := x.toNat % 2 ^ 30
       if s.outOfMission (targetStack target) || (s.stack (targetStack target)).state == .failed then u.startHppr target
       else { u with hbm := { u.hbm with hpprQueued := some target, hpprState := 1, hpprCause := 0 } }) := by
  show execMemHpprWrite v s = _
  simp only [execMemHpprWrite, hup, s.rwp_of_matched _ hv, hqueued, hrunning, haction]
  rfl

end

/-- The stack field of MEM_HPPR lies below its ACTION. -/
theorem targetStack_mod (n : Nat) : targetStack (n % 2 ^ 30) = bits n 29 26 := by
  simp only [targetStack, bits, Nat.shiftRight_eq_div_pow]
  omega

theorem State.outOfMission_eq_true_iff (s : State) (n : Nat) :
    s.outOfMission n = true ↔ (s.stack n).trained = false ∨ (s.stack n).state = .loopback ∨ mhas s.rst.l2 (n / 4) = true := by
  simp [State.outOfMission, or_assoc]

theorem State.startHppr_failed {s : State} {x : Nat} (h : (s.stack (targetStack x)).state = .failed) :
    s.startHppr x = { s with hbm := { s.hbm with hpprQueued := none, hpprState := 4, hpprCause := 2 } } :=
  if_pos h

theorem State.startHppr_noSpare {s : State} {x : Nat} (h : (s.stack (targetStack x)).state ≠ .failed) (hspare : s.sparesLeft x = 0) :
    s.startHppr x = { s with hbm := { s.hbm with hpprQueued := none, hpprState := 4, hpprCause := 1, hpprSpares := 0 } } :=
  (if_neg h).trans (if_pos hspare)

theorem State.startHppr_runs {s : State} {x : Nat} (h : (s.stack (targetStack x)).state ≠ .failed) (hspare : 0 < s.sparesLeft x) :
    s.startHppr x = { s with hbm := { s.hbm with
      hpprQueued := none, hpprState := 2, hpprCause := 0
      repairs := s.hbm.repairs ++ [⟨none, true, x, s.time.localNs⟩] } } :=
  (if_neg h).trans (if_neg (Nat.ne_of_gt hspare))

/-- Settles O40: the envelope rows through `State.envelope`, the reset request through its LEVEL, and the hard repair request
through the three ends of `State.startHppr`. -/
theorem protectedWrites : Obligations.ProtectedWrites := by
  unfold Obligations.ProtectedWrites
  intro s v x hup hv clip n
  refine ⟨?_, ?_, ?_, ?_, ?_⟩
  · exact (curPowerCapWrite_matched hup hv).trans (congrArg _ (s.envelope_eq _ _ _ _))
  · intro i hbelow habove
    refine ⟨_, curThrottlePointWrite_matched hup hv, (s.envelope_reg _ _ _ (by decide)).trans ?_⟩
    rw [pointBelow_eq i hbelow habove]
    rfl
  · intro c f u
    refine (curClockLimitsWrite_matched hup hv rfl rfl rfl).trans ?_
    rw [s.envelope_eq]
    rfl
  · intro hclear u
    have hrequest := State.requestReset_matched hup hv hclear
    refine ⟨fun hl2 => ?_, fun hl3 => ?_, fun hl4 hserving => ?_⟩
    · exact congrArg Host.Outcome.next (hrequest.trans (if_pos hl2))
    · exact congrArg Host.Outcome.next (hrequest.trans ((if_neg (hl3.trans_ne (by decide))).trans (if_pos hl3)))
    · have hcycle : (decide (bits n 31 28 = 4) && u.mayCycle) = true := by
        rw [decide_eq_true hl4, State.mayCycle, show u.serving = true from hserving]
        rfl
      exact congrArg Host.Outcome.next (hrequest.trans
        ((if_neg (hl4.trans_ne (by decide))).trans ((if_neg (hl4.trans_ne (by decide))).trans (if_pos hcycle))))
  · intro haction hqueued hrunning stack u
    have hrequest := memHpprWrite_matched hup hv haction hqueued hrunning
    have hstack : targetStack (n % 2 ^ 30) = stack := targetStack_mod n
    have runs {t : State} (hnow : (s.outOfMission stack || (s.stack stack).state == .failed) = true)
        (ht : u.startHppr (n % 2 ^ 30) = t) : RunsTo (.memHpprWrite v) s t := by
      rw [← hstack] at hnow
      exact hrequest.trans (congrArg _ ((if_pos hnow).trans ht))
    refine ⟨fun hready htrained hheld => ?_, fun hout halive => ?_, fun hfailed => ?_⟩
    · have hmission : ¬ (s.outOfMission stack || (s.stack stack).state == .failed) = true := by
        simp [State.outOfMission, hready, htrained, hheld]
      rw [← hstack] at hmission
      exact hrequest.trans (congrArg _ (if_neg hmission))
    · have hnow : (s.outOfMission stack || (s.stack stack).state == .failed) = true := by
        rw [(s.outOfMission_eq_true_iff stack).mpr hout, Bool.true_or]
      rw [← hstack] at halive
      exact ⟨fun hspare => runs hnow (State.startHppr_runs halive hspare),
        fun hnone => runs hnow (State.startHppr_noSpare halive hnone)⟩
    · refine runs (by simp [hfailed]) (State.startHppr_failed ?_)
      rw [hstack]
      exact hfailed

end Sys2Proof.Machine
end

section
/-! The stacks (07_hbm.md R199, R205 to R217, R224 to R230): what an event and a completion leave of them, and the rows of their
commands and events. -/

namespace Sys2Proof.Machine

/-! ### What an event of no context leaves of the stacks, the contexts and the taken commands (R54 to R56) -/

@[simp] theorem State.toHost_hbm_ctxs_taken (s : State) (o : HostOut) :
    (s.toHost o).hbm = s.hbm ∧ (s.toHost o).host.ctxs = s.host.ctxs ∧ (s.toHost o).host.taken = s.host.taken := by
  unfold State.toHost
  split <;> exact ⟨rfl, rfl, rfl⟩

@[simp] theorem State.signalVector_hbm_ctxs_taken (s : State) (v : Nat) :
    (s.signalVector v).hbm = s.hbm ∧ (s.signalVector v).host.ctxs = s.host.ctxs ∧ (s.signalVector v).host.taken = s.host.taken := by
  unfold State.signalVector
  dsimp only
  split
  · exact ⟨rfl, rfl, rfl⟩
  · exact s.toHost_hbm_ctxs_taken _

@[simp] theorem State.exportPut_hbm_ctxs (s : State) (g : CatRing) (h a : Nat) (r : Record) :
    (s.exportPut g h a r).hbm = s.hbm ∧ (s.exportPut g h a r).host.ctxs = s.host.ctxs := by
  simp [State.exportPut]

@[simp] theorem State.exportOne_hbm_ctxs (s : State) (r : Record) :
    (s.exportOne r).hbm = s.hbm ∧ (s.exportOne r).host.ctxs = s.host.ctxs := by
  unfold State.exportOne
  split
  · exact ⟨rfl, rfl⟩
  · dsimp only
    split
    · simp [State.free]
    · exact ⟨rfl, rfl⟩

@[simp] theorem State.exportLost_hbm_ctxs (s : State) :
    s.exportLost.hbm = s.hbm ∧ s.exportLost.host.ctxs = s.host.ctxs := by
  unfold State.exportLost
  split
  · exact ⟨rfl, rfl⟩
  · split
    · exact ⟨rfl, rfl⟩
    · dsimp only
      split
      · exact ⟨rfl, rfl⟩
      · simp [State.generate, State.free]

/-- A record of no context reaches neither the stacks nor the contexts. -/
@[simp] theorem State.raise_none_hbm_ctxs (s : State) (code src : Nat) (args : List Nat) :
    (s.raise code src none args).hbm = s.hbm ∧ (s.raise code src none args).host.ctxs = s.host.ctxs := by
  simp only [State.raise, State.raiseWith, State.generate, Bool.false_eq_true, if_false]
  split <;> simp

/-! ### What a completion leaves of the stacks (R406, R407) -/

@[simp] theorem State.stallOff_hbm_host (s : State) (u : StallUnit) :
    (s.stallOff u).hbm = s.hbm ∧ (s.stallOff u).host = s.host := by
  rw [stallOff_eq]
  exact ⟨rfl, rfl⟩

@[simp] theorem State.signalRing_hbm_taken (s : State) (ctx ring : Nat) :
    (s.signalRing ctx ring).hbm = s.hbm ∧ (s.signalRing ctx ring).host.taken = s.host.taken := by
  unfold State.signalRing
  split
  · exact ⟨rfl, rfl⟩
  · simp

section
variable {status : Nat} (hprog : status ≠ stProgFault) (htorn : status ≠ stTornPacket)
include hprog htorn

/-- A status that faults no ring (R402) leaves the stacks and the taken commands. -/
theorem State.writeRecord_hbm_taken (s : State) (ctx ring seq r0 r1 : Nat) (irq : Bool) :
    (s.writeRecord ctx ring seq status r0 r1 irq).hbm = s.hbm ∧
      (s.writeRecord ctx ring seq status r0 r1 irq).host.taken = s.host.taken := by
  unfold State.writeRecord
  split
  · exact ⟨rfl, rfl⟩
  · simp [hprog, htorn, apply_ite State.hbm, apply_ite State.host, apply_ite HostSt.taken, State.cpProgress]

theorem State.complete_hbm (s : State) (q : CmdRef) (r0 r1 : Nat) : (s.complete q status r0 r1).hbm = s.hbm := by
  unfold State.complete
  split
  · rfl
  · simp [(State.writeRecord_hbm_taken hprog htorn _ _ _ _ _ _ _).1]

/-- A command that has completed is no longer taken. -/
theorem State.findTaken_complete (s : State) (q : CmdRef) (r0 r1 : Nat) : (s.complete q status r0 r1).findTaken q = none := by
  unfold State.complete
  split
  · assumption
  · rw [State.findTaken, (State.writeRecord_hbm_taken hprog htorn _ _ _ _ _ _ _).2]
    simp

end

/-! ### Interleave modes through a write (R199, R219 to R226) -/

@[simp] theorem HbmSt.useLine_dieLocal (h : HbmSt) (line : Nat) (u : CacheUse) : (h.useLine line u).1.dieLocal = h.dieLocal := by
  unfold HbmSt.useLine
  dsimp only
  split
  · rfl
  · rfl
  · split
    · split <;> rfl
    · split <;> rfl
  · rfl
  · split <;> rfl
  · rfl

@[simp] theorem HbmSt.combine_dieLocal (h : HbmSt) (ctx line off n now : Nat) :
    (h.combine ctx line off n now).dieLocal = h.dieLocal := by
  unfold HbmSt.combine
  dsimp only
  split
  · rfl
  · split
    · split <;> rfl
    · rfl

@[simp] theorem HbmSt.noteWrite_dieLocal (h : HbmSt) (ctx line now : Nat) : (h.noteWrite ctx line now).dieLocal = h.dieLocal := rfl

@[simp] theorem HbmSt.poke_dieLocal (h : HbmSt) (a : Nat) (bs : List Byte) : (h.poke a bs).dieLocal = h.dieLocal := rfl

theorem HbmSt.foldl_dieLocal {α : Type} {f : HbmSt → α → HbmSt} (hf : ∀ h x, (f h x).dieLocal = h.dieLocal) (l : List α)
    (h : HbmSt) : (l.foldl f h).dieLocal = h.dieLocal :=
  (List.foldl_hom HbmSt.dieLocal (g₂ := fun v _ => v) (fun h x => (hf h x).symm)).symm.trans (List.foldl_fixed _)

@[simp] theorem HbmSt.readLines_dieLocal (h : HbmSt) (pa n : Nat) (noalloc : Bool) :
    (h.readLines pa n noalloc).dieLocal = h.dieLocal := by
  unfold HbmSt.readLines
  exact HbmSt.foldl_dieLocal (fun h (l : Nat × Nat × Nat) => h.useLine_dieLocal l.1 (.read noalloc)) _ h

@[simp] theorem HbmSt.writeLine_dieLocal (h : HbmSt) (whole : Bool) (ctx now : Nat) (bs : List Byte) (l : Nat × Nat × Nat) (pa : Nat) :
    (h.writeLine whole ctx now bs l pa).dieLocal = h.dieLocal := by
  unfold HbmSt.writeLine
  simp [apply_ite HbmSt.dieLocal]

@[simp] theorem HbmSt.write_dieLocal (h : HbmSt) (ctx now pa : Nat) (bs : List Byte) :
    (h.write ctx now pa bs).dieLocal = h.dieLocal :=
  HbmSt.foldl_dieLocal (f := fun h l => h.writeLine false ctx now bs l pa) (fun h l => h.writeLine_dieLocal false ctx now bs l pa) _ h

/-! ### Interleave modes through an event (R54, R55, R200, R208) -/

@[simp] theorem State.leaveWc_dieLocal (s : State) (before : List WcEntry) : (s.leaveWc before).hbm.dieLocal = s.hbm.dieLocal := by
  unfold State.leaveWc
  exact HbmSt.foldl_dieLocal (f := fun h (e : WcEntry) => h.noteWrite e.ctx e.line s.local_)
    (fun h e => h.noteWrite_dieLocal e.ctx e.line _) _ _

@[simp] theorem State.ringRead_dieLocal (s : State) (ctx : Nat) (g : CatRing) :
    (s.ringRead ctx g).hbm.dieLocal = s.hbm.dieLocal := by
  unfold State.ringRead
  split
  · split <;> rfl
  · rfl

@[simp] theorem State.ringMismatch_hbm (s : State) (ctx va : Nat) : (s.ringMismatch ctx va).hbm = s.hbm := by
  unfold State.ringMismatch
  split
  · simp [State.generate]
  · rfl

@[simp] theorem State.toCtxRing_dieLocal (s : State) (ctx : Nat) (r : Record) :
    (s.toCtxRing ctx r).hbm.dieLocal = s.hbm.dieLocal := by
  unfold State.toCtxRing
  split
  · rfl
  · split
    · simp
    · simp

@[simp] theorem State.forCtxRing_dieLocal (s : State) (ctx : Nat) (r : Record) :
    (s.forCtxRing ctx r).hbm.dieLocal = s.hbm.dieLocal := by
  unfold State.forCtxRing
  split
  · rfl
  · exact s.toCtxRing_dieLocal ctx r

@[simp] theorem State.ctxRingLost_dieLocal (s : State) (ctx : Nat) : (s.ctxRingLost ctx).hbm.dieLocal = s.hbm.dieLocal := by
  unfold State.ctxRingLost
  split
  · rfl
  · split
    · rfl
    · simp [State.generate]

@[simp] theorem State.raise_dieLocal (s : State) (code src : Nat) (ctx : Option Nat) (args : List Nat) :
    (s.raise code src ctx args).hbm.dieLocal = s.hbm.dieLocal := by
  cases ctx with
  | none => exact congrArg HbmSt.dieLocal (s.raise_none_hbm_ctxs code src args).1
  | some c =>
    simp only [State.raise, State.raiseWith, State.generate, Bool.false_eq_true, if_false]
    by_cases hdriver : c = 0
    · simp only [hdriver, if_true]
      split <;> simp
    · simp only [hdriver, if_false]
      split <;> simp

@[simp] theorem State.startL0_hbm_host (s : State) (ctx cause : Nat) :
    (s.startL0 ctx cause).hbm = s.hbm ∧ (s.startL0 ctx cause).host = s.host := by
  unfold State.startL0
  split <;> exact ⟨rfl, rfl⟩

@[simp] theorem State.uncorrectable_dieLocal (s : State) (reader : Nat) (ctx : Option Nat) (line what : Nat) :
    (s.uncorrectable reader ctx line what).hbm.dieLocal = s.hbm.dieLocal := by
  unfold State.uncorrectable
  dsimp only
  split <;> simp

/-- Entries that leave the write-combining buffers, and the reads reported with them, change no group's mode. -/
@[simp] theorem State.settleWc_dieLocal (s : State) (before : List WcEntry) :
    (s.settleWc before).hbm.dieLocal = s.hbm.dieLocal := by
  unfold State.settleWc State.reportReads
  refine (foldl_view (view := fun u => u.hbm.dieLocal) (fun u x => ?_) _ _).trans (s.leaveWc_dieLocal before)
  split
  · rfl
  · exact u.uncorrectable_dieLocal _ _ _ _

/-! ### MEM_GROUP_MODE (R199, R224) -/

theorem HbmSt.isDieLocal_congr {h k : HbmSt} (e : h.dieLocal = k.dieLocal) (g : Nat) : h.isDieLocal g = k.isDieLocal g := by
  simp only [HbmSt.isDieLocal, e]

theorem HbmSt.isDieLocal_changeGroup (h : HbmSt) {g : Nat} (die : Bool) (tag : Nat) (hg : g < 32512) (other : Nat) :
    (h.changeGroup g die tag).isDieLocal other = if other = g then die else h.isDieLocal other := by
  cases die with
  | true => by_cases he : other = g <;> simp [HbmSt.changeGroup, HbmSt.makeUndef, HbmSt.isDieLocal, he, hg]
  | false => by_cases he : other = g <;> simp [HbmSt.changeGroup, HbmSt.makeUndef, HbmSt.isDieLocal, he]

/-- Some groups put into a mode one after the other, each with a fresh tag for its undefined contents. -/
def State.changeGroups (s : State) (die : Bool) (l : List Nat) : State :=
  l.foldl (fun s g => { s with freeCtr := s.freeCtr + 1, hbm := s.hbm.changeGroup g die s.freeCtr }) s

theorem State.isDieLocal_changeGroups (die : Bool) {l : List Nat} (hl : ∀ g ∈ l, g < 32512) (s : State) (g : Nat) :
    (s.changeGroups die l).hbm.isDieLocal g = if g ∈ l then die else s.hbm.isDieLocal g := by
  induction l generalizing s with
  | nil => rfl
  | cons a l ih =>
    obtain ⟨ha, hl⟩ := List.forall_mem_cons.mp hl
    refine (ih hl _).trans ?_
    rw [HbmSt.isDieLocal_changeGroup _ _ _ ha]
    by_cases hmem : g ∈ l <;> simp [hmem]

/-- The groups from `first` that are not in the mode asked for. -/
def State.groupsToChange (s : State) (first n : Nat) (die : Bool) : List Nat :=
  ((List.range n).map (first + ·)).filter (fun g => s.hbm.isDieLocal g != die)

theorem State.mem_groupsToChange {s : State} {first n : Nat} {die : Bool} {g : Nat} :
    g ∈ s.groupsToChange first n die ↔ (first ≤ g ∧ g < first + n) ∧ s.hbm.isDieLocal g ≠ die := by
  rw [State.groupsToChange, ← List.range'_eq_map_range]
  simp [List.mem_range'_1]

/-- The state in which MEM_GROUP_MODE finds the groups: their lines written back and their entries gone. -/
def State.groupsFlushed (s : State) (first n : Nat) : State :=
  ({ s with hbm := s.hbm.flushRange (first * 2 ^ 25) ((first + n) * 2 ^ 25) } : State).settleWc s.hbm.wc

theorem State.isDieLocal_groupsFlushed (s : State) (first n g : Nat) :
    (s.groupsFlushed first n).hbm.isDieLocal g = s.hbm.isDieLocal g :=
  HbmSt.isDieLocal_congr (State.settleWc_dieLocal _ _) g

section
variable {s : State} {q : CmdRef} {t : Taken}

theorem memGroupMode_runsTo (h : Turn s q 0x0180 t) (hrepairs : s.hbm.repairs = []) (hready : s.readyStacks.length = 16)
    {first n : Nat} {die : Bool} (hfirst : first = fld t.packet 16 4) (hn : n = fld t.packet 20 4)
    (hdie : die = (fld t.packet 24 1 == 1)) :
    RunsTo (.memGroupMode q) s
      (let u := (s.begin q).groupsFlushed first n
       let change := u.groupsToChange first n die
       (u.changeGroups die change).complete q stOk change.length 0) := by
  subst hfirst hn hdie
  have hgo : ¬ (!(s.begin q).hbm.repairs.isEmpty || decide ((s.begin q).readyStacks.length ≠ 16)) = true := by
    rw [show (s.begin q).hbm.repairs = [] from hrepairs, show (s.begin q).readyStacks.length = 16 from hready]
    decide
  exact runsTo_perform rfl h (if_neg hgo)

/-- A group that the command names is in the mode asked for after it, and any other in the mode it was in. -/
theorem memGroupMode_isDieLocal (u : State) {first n : Nat} (die : Bool) (hin : first + n ≤ 32512) (g : Nat) :
    (u.changeGroups die (u.groupsToChange first n die)).hbm.isDieLocal g =
      if first ≤ g ∧ g < first + n then die else u.hbm.isDieLocal g := by
  have hreal : ∀ g ∈ u.groupsToChange first n die, g < 32512 := by
    intro g hg
    obtain ⟨⟨-, hlt⟩, -⟩ := State.mem_groupsToChange.mp hg
    omega
  rw [State.isDieLocal_changeGroups die hreal, if_congr State.mem_groupsToChange rfl rfl]
  by_cases hnamed : first ≤ g ∧ g < first + n
  · by_cases hmode : u.hbm.isDieLocal g = die <;> simp [hnamed, hmode]
  · simp [hnamed]

/-! ### Row repair and loop-back started (R214 to R216) -/

/-- The target that a MEM_PPR packet names. -/
def packetTarget (t : Taken) : Nat :=
  pprTarget (fld t.packet 16 1) (fld t.packet 17 1) (fld t.packet 18 1) (fld t.packet 19 1) (fld t.packet 20 1) (fld t.packet 22 2)

theorem memPpr_starts (h : Turn s q 0x0181 t) (hready : (s.stack (targetStack (packetTarget t))).state = .ready)
    (hspare : 0 < s.sparesLeft (packetTarget t)) :
    RunsTo (.memPpr q) s (({ s.begin q with hbm := { (s.begin q).hbm with
      repairs := (s.begin q).hbm.repairs ++ [⟨some q, false, packetTarget t, s.time.localNs⟩] } } : State).startTaken q) := by
  exact runsTo_perform rfl h ((if_neg (not_not_intro hready)).trans (if_neg (Nat.ne_of_gt hspare)))

theorem memPpr_busy (h : Turn s q 0x0181 t) (hbusy : (s.stack (targetStack (packetTarget t))).state ≠ .ready) :
    RunsTo (.memPpr q) s ((s.begin q).complete q stMemStackBusy 0 0) := by
  exact runsTo_perform rfl h (if_pos hbusy)

theorem memPpr_noSpare (h : Turn s q 0x0181 t) (hready : (s.stack (targetStack (packetTarget t))).state = .ready)
    (hnone : s.sparesLeft (packetTarget t) = 0) :
    RunsTo (.memPpr q) s ((s.begin q).complete q stMemPprNoSpare 0 0) := by
  exact runsTo_perform rfl h ((if_neg (not_not_intro hready)).trans (if_pos hnone))

theorem memLoopback_starts (h : Turn s q 0x0182 t) (hfree : s.hbm.loop = none) {n : Nat} (hn : n = fld t.packet 16 1)
    (hout : s.outOfMission n = true) :
    RunsTo (.memLoopback q) s
      (let v := (s.begin q).setStack n { s.stack n with state := .loopback }
       ({ v with hbm := { v.hbm with loop := some ⟨q, n, fld t.packet 17 1, fld t.packet 18 1, BitVec.ofNat 64 (fld t.packet 24 8),
          s.time.localNs + 1000 * fld t.packet 20 4, (s.stack n).state⟩ } } : State).startTaken q) := by
  subst hn
  have hmission : ¬ (!(s.begin q).outOfMission (t.par 16 1)) = true := by
    rw [show (s.begin q).outOfMission (t.par 16 1) = true from hout]
    decide
  have hidle : ¬ (s.begin q).hbm.loop.isSome = true := by
    rw [show (s.begin q).hbm.loop = none from hfree]
    decide
  exact runsTo_perform rfl h ((if_neg hmission).trans (if_neg hidle))

theorem memLoopback_busy (h : Turn s q 0x0182 t) (hmission : s.outOfMission (fld t.packet 16 1) = false) :
    RunsTo (.memLoopback q) s ((s.begin q).completeBare q stMemStackBusy) := by
  have hbusy : (!(s.begin q).outOfMission (t.par 16 1)) = true := by
    rw [show (s.begin q).outOfMission (t.par 16 1) = false from hmission]
    rfl
  exact runsTo_perform rfl h (if_pos hbusy)

end

/-! ### The end of a repair and of a loop-back (R214 to R217) -/

/-- A stack after the end of a repair in one of its bank groups: a spare of the repair's kind is used, whether the row passed or not. -/
def Stack.repaired (k : Stack) (hard passed : Bool) (group : Nat) : Stack :=
  { k with
    sparesUsed := if hard then k.sparesUsed else mupd k.sparesUsed group 0 (· + 1)
    hardUsed := if hard then mupd k.hardUsed group 0 (· + 1) else k.hardUsed
    softPpr := if !hard && passed then satAdd 8 k.softPpr 1 else k.softPpr
    hardPpr := if hard && passed then satAdd 8 k.hardPpr 1 else k.hardPpr }

theorem Stack.repaired_sparesUsed (k : Stack) (hard passed : Bool) (group : Nat) :
    mgetD (k.repaired hard passed group).sparesUsed group 0 = mgetD k.sparesUsed group 0 + (if hard then 0 else 1) := by
  cases hard <;> simp [Stack.repaired, mupd]

theorem Stack.repaired_hardUsed (k : Stack) (hard passed : Bool) (group : Nat) :
    mgetD (k.repaired hard passed group).hardUsed group 0 = mgetD k.hardUsed group 0 + (if hard then 1 else 0) := by
  cases hard <;> simp [Stack.repaired, mupd]

/-- The state after the end of the repair `r`, its event raised and MEM_HPPR_STATUS set, before the command that asked completes. -/
def State.repairEnded (s : State) (passed : Bool) (r : RowRepair) : State :=
  let n := targetStack r.target
  let u := s.setStack n ((s.stack n).repaired r.hard passed (targetGroup r.target))
  let u := { u with hbm := { u.hbm with repairs := u.hbm.repairs.erase r } }
  let v := u.raise 0x0607 (srcStack n) none
    [r.target, bit01 r.hard, u.sparesLeft r.target, if passed then stOk else stMemPprFailed]
  if r.hard then { v with hbm := { v.hbm with
    hpprState := if passed then 3 else 4, hpprCause := if passed then 0 else 3, hpprSpares := u.sparesLeft r.target } }
  else v

theorem State.repairEnded_stack (s : State) (passed : Bool) (r : RowRepair) :
    (s.repairEnded passed r).stack (targetStack r.target) =
      (s.stack (targetStack r.target)).repaired r.hard passed (targetGroup r.target) := by
  unfold State.repairEnded State.stack
  cases r.hard <;> simp

theorem State.repairEnded_hbm (s : State) (passed : Bool) (r : RowRepair) :
    (s.repairEnded passed r).hbm.repairs = s.hbm.repairs.erase r ∧ (s.repairEnded passed r).hbm.mem = s.hbm.mem := by
  unfold State.repairEnded
  cases r.hard <;> simp

theorem State.repairEnded_hpprState (s : State) (passed : Bool) {r : RowRepair} (hhard : r.hard = true) :
    (s.repairEnded passed r).hbm.hpprState = if passed then 3 else 4 := by
  simp [State.repairEnded, hhard]

section
variable {s : State} (halive : s.alive = true)
include halive

theorem postPackageRepairComplete_hbm (passed : Bool) {r : RowRepair}
    (hr : s.hbm.repairs.find? (fun x => x.hard == r.hard) = some r) :
    Runs (.postPackageRepairComplete r.hard passed) s (fun t => t.hbm = (s.repairEnded passed r).hbm) := by
  have hfound : (if s.alive then s.hbm.repairs.find? (fun x => x.hard == r.hard) else none) = some r := by
    rw [halive]
    exact hr
  refine ⟨_, rfl, ?_⟩
  rw [hfound]
  show (match r.cmd with
    | some q => (s.repairEnded passed r).complete q (if passed then stOk else stMemPprFailed) _ 0
    | none => s.repairEnded passed r).hbm = _
  cases r.cmd with
  | none => rfl
  | some q => exact State.complete_hbm (by cases passed <;> decide) (by cases passed <;> decide) _ _ _ _

theorem loopbackDurationExpiry_hbm (failing : List Nat) {l : Loopback} (hl : s.hbm.loop = some l)
    (hend : l.until_ ≤ s.time.localNs) :
    Runs (.loopbackDurationExpiry failing) s (fun t => t.hbm = { s.hbm with
      stackList := mset s.hbm.stackList l.stack { s.stack l.stack with state := l.before }
      loop := none, lbFail := laneWords ((List.range 1536).filter (fun i => failing.contains i)) }) := by
  have hover : ¬ s.local_ < l.until_ := Nat.not_lt.mpr hend
  refine ⟨_, rfl, ?_⟩
  simp only [halive, if_true, hl, if_neg hover]
  rw [State.complete_hbm (by split <;> decide) (by split <;> decide)]
  simp

/-! ### Reads as they return (R206 to R208) -/

/-- Whether a re-issued read is of a response's reader, context and line. -/
def ofReader (x : HbmRead) (r : ReIssue) : Bool :=
  r.reader == x.reader.val && r.ctx == x.ctx.map (·.val) && r.line == x.pa.toNat / 64

section
variable {x : HbmRead} (hready : (s.stack (s.hbm.locate (64 * (x.pa.toNat / 64))).1).state = .ready) (hreport : x.report.val ≠ 1)
include hready hreport

theorem hbmReadResponse_sound (hfault : s.hbm.readFault x (x.pa.toNat / 64) = 0) (hnew : s.hbm.reissues.find? (ofReader x) = none) :
    RunsTo (.hbmReadResponse x) s s := by
  unfold ofReader at hnew
  show execHbmReadResponse x s = _
  simp only [execHbmReadResponse, halive, hready, if_neg hreport, hfault, hnew]
  rfl

theorem hbmReadResponse_reissued (hfault : s.hbm.readFault x (x.pa.toNat / 64) ≠ 0)
    (hnew : s.hbm.reissues.find? (ofReader x) = none) :
    RunsTo (.hbmReadResponse x) s (({ s with hbm := { s.hbm with
      reissues := s.hbm.reissues.filter (fun r => !ofReader x r) ++ [⟨x.reader.val, x.ctx.map (·.val), x.pa.toNat / 64, 1⟩] } } :
        State).reissueStall x (s.hbm.locate (64 * (x.pa.toNat / 64))).1 (x.pa.toNat / 64) true) := by
  unfold ofReader at hnew
  show execHbmReadResponse x s = _
  simp only [execHbmReadResponse, halive, hready, if_neg hreport, if_neg hfault, hnew]
  rfl

theorem hbmReadResponse_lost (hfault : s.hbm.readFault x (x.pa.toNat / 64) ≠ 0) {r : ReIssue}
    (hr : s.hbm.reissues.find? (ofReader x) = some r) (hlast : 2 ≤ r.attempts) :
    RunsTo (.hbmReadResponse x) s ((({ s with hbm := { s.hbm with
      reissues := s.hbm.reissues.filter (fun r => !ofReader x r) } } : State).reissueStall x
        (s.hbm.locate (64 * (x.pa.toNat / 64))).1 (x.pa.toNat / 64) false).readLost x.reader.val (x.ctx.map (·.val)) (x.pa.toNat / 64)
          (s.hbm.readFault x (x.pa.toNat / 64))) := by
  unfold ofReader at hr
  have htried : ¬ ((some r).map (·.attempts)).getD 0 < 2 := Nat.not_lt.mpr hlast
  show execHbmReadResponse x s = _
  simp only [execHbmReadResponse, halive, hready, if_neg hreport, if_neg hfault, hr, if_neg htried]
  rfl

end

/-! ### An error on command or address (R210) -/

/-- The contexts with a write in the last microsecond on a pseudo-channel, each once. -/
def State.recentWriters (s : State) (key : Nat) : List Nat :=
  ((s.hbm.recent.filter (fun e => e.2.1 == key && decide (s.time.localNs ≤ e.1 + 1000))).map (·.2.2)).eraseDups

omit halive in
theorem State.mem_recentWriters {key ctx at_ : Nat} (hwrite : (at_, key, ctx) ∈ s.hbm.recent) (hlate : s.time.localNs ≤ at_ + 1000) :
    ctx ∈ s.recentWriters key := by
  refine List.mem_eraseDups.mpr (List.mem_map.mpr ⟨(at_, key, ctx), List.mem_filter.mpr ⟨hwrite, ?_⟩, rfl⟩)
  simp [hlate]

/-- The reads that were issued again on a pseudo-channel have used one more attempt. -/
def State.attemptUsed (s : State) (stack pc : Nat) : State :=
  { s with hbm := { s.hbm with reissues := s.hbm.reissues.map (fun r =>
      if (s.hbm.locate (64 * r.line)).1 == stack && (s.hbm.locate (64 * r.line)).2.1 == pc then { r with attempts := r.attempts + 1 }
      else r) } }

omit halive in
theorem State.attemptUsed_of_none (h : s.hbm.reissues = []) (stack pc : Nat) : s.attemptUsed stack pc = s := by
  rw [State.attemptUsed, h, List.map_nil, ← h]

theorem caParityReport_runsTo (stack : Fin 16) (pc : Fin 32) :
    RunsTo (.caParityReport stack pc) s
      (let ctxs := s.recentWriters (32 * stack.val + pc.val)
       ctxs.foldl (fun s c => s.startL0 c 10)
         ((s.attemptUsed stack.val pc.val).raise 0x0604 (srcStack stack.val) none [stack.val, pc.val, ctxs.length, 0])) := by
  refine congrArg Host.Outcome.next (if_neg ?_)
  rw [halive]
  decide

omit halive in
/-- A context is in an L0 reset after the start of one, if it was before or if it is the one, and exists. -/
theorem State.inL0_startL0 {ctx other cause : Nat} (h : s.inL0 ctx = true ∨ (ctx = other ∧ mhas s.host.ctxs ctx = true)) :
    (s.startL0 other cause).inL0 ctx = true := by
  unfold State.startL0
  split
  · by_cases he : ctx = other
    · simp [State.inL0, he]
    · have hother := h.resolve_right fun h => he h.1
      simpa [State.inL0, mhas, mget_mset_ne _ _ he] using hother
  · rename_i hnot
    rcases h with h | ⟨rfl, hctx⟩
    · exact h
    · simpa [hctx] using hnot

omit halive in
theorem State.inL0_foldl_startL0 {ctx cause : Nat} (hctx : mhas s.host.ctxs ctx = true) {l : List Nat}
    (h : s.inL0 ctx = true ∨ ctx ∈ l) : (l.foldl (fun s c => s.startL0 c cause) s).inL0 ctx = true := by
  induction l generalizing s with
  | nil => exact h.resolve_right (List.not_mem_nil)
  | cons a l ih =>
    refine ih (by rw [(s.startL0_hbm_host a cause).2]; exact hctx) ?_
    rcases h with h | h
    · exact .inl (State.inL0_startL0 (.inl h))
    · rcases List.mem_cons.mp h with rfl | h
      · exact .inl (State.inL0_startL0 (.inr ⟨rfl, hctx⟩))
      · exact .inr h

/-- Every context with a write in flight on the pseudo-channel is reset at L0. -/
theorem caParityReport_resets (stack : Fin 16) (pc : Fin 32) {ctx at_ : Nat}
    (hwrite : (at_, 32 * stack.val + pc.val, ctx) ∈ s.hbm.recent) (hlate : s.time.localNs ≤ at_ + 1000)
    (hctx : mhas s.host.ctxs ctx = true) : Runs (.caParityReport stack pc) s (fun t => t.inL0 ctx = true) := by
  refine ⟨_, caParityReport_runsTo halive stack pc, State.inL0_foldl_startL0 ?_ (.inr (State.mem_recentWriters hwrite hlate))⟩
  rw [(State.raise_none_hbm_ctxs _ _ _ _).2]
  exact hctx

/-! ### The flush of a write-combining entry (R226) -/

theorem wcFlushTimeout_leaves {line : Nat} {e : WcEntry} (he : s.hbm.wc.find? (fun e => e.line == line) = some e)
    (hdue : e.since + s.flushNs ≤ s.time.localNs) (hready : s.hbm.stacksReady [(64 * line, 64)] = true) :
    RunsTo (.wcFlushTimeout line) s
      (({ s with hbm := { s.hbm with wc := s.hbm.wc.filter (fun x => x.line != line) } } : State).settleWc s.hbm.wc) := by
  have hgo : ¬ (decide (s.local_ < e.since + s.flushNs) || !s.hbm.stacksReady [(64 * line, 64)]) = true := by
    rw [decide_eq_false (show ¬ s.local_ < e.since + s.flushNs from Nat.not_lt.mpr hdue), hready]
    decide
  show execWcFlushTimeout line s = _
  simp only [execWcFlushTimeout, halive, if_true, he, if_neg hgo]

end

theorem laneWords_none {failing : List Nat} (h : ∀ i ∈ failing, 1536 ≤ i) :
    laneWords ((List.range 1536).filter (fun i => failing.contains i)) = [] := by
  have hnone : (List.range 1536).filter (fun i => failing.contains i) = [] := by
    refine List.filter_eq_nil_iff.mpr fun i hi hmem => ?_
    have hlow := List.mem_range.mp hi
    have hhigh := h i (by simpa using hmem)
    omega
  rw [hnone]
  rfl

/-- Settles O49: each command and event by the lemma above on its row. -/
theorem stackCommands : Obligations.StackCommands := by
  unfold Obligations.StackCommands
  intro s
  refine ⟨fun q t => ⟨?_, ?_, ?_⟩, fun x => rfl, fun halive => ⟨?_, ?_, ?_, ?_, ?_, ?_⟩⟩
  · intro h hin hrepairs hready
    have hmode := memGroupMode_isDieLocal ((s.begin q).groupsFlushed (fld t.packet 16 4) (fld t.packet 20 4))
      (fld t.packet 24 1 == 1) hin
    refine ⟨_, memGroupMode_runsTo h hrepairs hready rfl rfl rfl, fun g hlow hhigh => ?_, fun g hout => ?_,
      State.findTaken_complete (by decide) (by decide) _ _ _ _⟩
    · rw [State.complete_hbm (by decide) (by decide), hmode, if_pos ⟨hlow, hhigh⟩]
    · rw [State.complete_hbm (by decide) (by decide), hmode, if_neg (by omega), State.isDieLocal_groupsFlushed]
      rfl
  · intro h x
    exact ⟨memPpr_starts h, memPpr_busy h, memPpr_noSpare h⟩
  · intro h hfree n l
    exact ⟨memLoopback_starts h hfree rfl, memLoopback_busy h⟩
  · intro l failing hl hend
    obtain ⟨t, hrow, hhbm⟩ := loopbackDurationExpiry_hbm halive failing hl hend
    refine ⟨t, hrow, by rw [hhbm], ?_, fun hhigh => ?_⟩
    · rw [State.stack, hhbm, mgetD_mset_self]
    · rw [hhbm]
      dsimp only
      exact laneWords_none hhigh
  · intro x line ctx mine hready hreport
    exact ⟨hbmReadResponse_sound halive hready hreport, hbmReadResponse_reissued halive hready hreport,
      fun r hfault hr => hbmReadResponse_lost halive hready hreport hfault hr⟩
  · intro stack pc hrecent hreissues
    have hrow := caParityReport_runsTo halive stack pc
    have hnone : s.recentWriters (32 * stack.val + pc.val) = [] := by
      rw [State.recentWriters, hrecent]
      rfl
    rwa [hnone, State.attemptUsed_of_none hreissues] at hrow
  · intro stack pc c at_ hwrite hlate hctx
    exact caParityReport_resets halive stack pc hwrite hlate hctx
  · intro line e he hdue hready
    exact wcFlushTimeout_leaves halive he hdue hready
  · intro hard ok r hr
    have hkind : r.hard = hard := by simpa using List.find?_some hr
    subst hkind
    obtain ⟨t, hrow, hhbm⟩ := postPackageRepairComplete_hbm halive ok hr
    have hstack : t.stack (targetStack r.target) =
        (s.stack (targetStack r.target)).repaired r.hard ok (targetGroup r.target) := by
      rw [State.stack, hhbm]
      exact s.repairEnded_stack ok r
    obtain ⟨hrepairs, hmem⟩ := s.repairEnded_hbm ok r
    refine ⟨t, hrow, by rw [hhbm, hrepairs], by rw [hhbm, hmem], ⟨?_, ?_⟩, fun hhard => ?_⟩
    · exact (congrArg (fun k => mgetD k.sparesUsed (targetGroup r.target) 0) hstack).trans (Stack.repaired_sparesUsed _ _ _ _)
    · exact (congrArg (fun k => mgetD k.hardUsed (targetGroup r.target) 0) hstack).trans (Stack.repaired_hardUsed _ _ _ _)
    · rw [hhbm]
      exact s.repairEnded_hpprState ok hhard

end Sys2Proof.Machine
end

section
/-! Streams (08_tiers_and_streams.md R254 to R256, R258): a stream's next request, its units as they land, and its end. -/

namespace Sys2Proof.Machine

/-! ### The next request (R254, R255) -/

/-- What a stream's next unit leaves once it may be requested: one more unit issued, its data asked for. -/
def State.unitAsked (s : State) (m : Mover) (c : ClusterNo) (sid : Fin 64) (x : Stream) : State :=
  let d := Desc.of x.desc
  let s := (s.setStream c.val sid.val { x with issued := x.issued + 1 }).stallOff (.stream c sid)
  if d.scatter || d.pack then s
  else
    match s.dataPieces m.ctx d (m.who false) (64 * x.issued) (64 * x.issued + d.span x.issued (x.issued + 1))
        (64 * (x.issued / d.group * d.group)) with
    | (s, .ok ps, _) =>
      if d.whole then s
      else
        match s.askPieces m.owner m.pc m.ctx (m.who false) d.noalloc false d.deadline ps with
        | (s, .ok _, _) => s
        | (s, g, a) => s.streamBad c sid x g.toPack a
    | (s, g, a) => s.streamBad c sid x g.toPack a

/-- The pool of a stream from which its next unit has taken a credit: the last unit gives up the stream's place in the queue. -/
def Pool.taken (p : Pool) (x : Stream) : Pool :=
  { p with credits := p.credits - 1, queue := if x.issued + 1 = (Desc.of x.desc).units then p.queue.drop 1 else p.queue }

section
variable {s s1 : State} {m : Mover} {c : ClusterNo} {sid : Fin 64} {x : Stream}
  (hs1 : (s.setStream c.val sid.val { x with issued := x.issued + 1 }).stallOff (.stream c sid) = s1)
include hs1

theorem State.unitAsked_of_scatter_or_pack (h : (Desc.of x.desc).scatter = true ∨ (Desc.of x.desc).pack = true) :
    s.unitAsked m c sid x = s1 := by
  subst hs1
  exact if_pos (by simpa using h)

section
variable (hgather : (Desc.of x.desc).scatter = false) (hplain : (Desc.of x.desc).pack = false) {s2 : State} {ps : List Piece} {y : Nat}
  (hpieces : s1.dataPieces m.ctx (Desc.of x.desc) (m.who false) (64 * x.issued)
    (64 * x.issued + (Desc.of x.desc).span x.issued (x.issued + 1))
    (64 * (x.issued / (Desc.of x.desc).group * (Desc.of x.desc).group)) = (s2, .ok ps, y))
include hgather hplain hpieces

theorem State.unitAsked_of_whole (hwhole : (Desc.of x.desc).whole = true) : s.unitAsked m c sid x = s2 := by
  simp only [State.unitAsked, hs1, hgather, hplain, hpieces, hwhole, Bool.or_self, Bool.false_eq_true, if_false, if_true]

theorem State.unitAsked_of_asked (hpart : (Desc.of x.desc).whole = false) {s3 : State} {z : Nat}
    (hask : s2.askPieces m.owner m.pc m.ctx (m.who false) (Desc.of x.desc).noalloc false (Desc.of x.desc).deadline ps =
      (s3, .ok (), z)) : s.unitAsked m c sid x = s3 := by
  simp only [State.unitAsked, hs1, hgather, hplain, hpieces, hpart, hask, Bool.or_self, Bool.false_eq_true, if_false]

end

end

section
variable {s : State} {c : ClusterNo} {sid : Fin 64} {x : Stream} (hmoving : s.moving c.val = true)
  (hx : s.stream? c.val sid.val = some x)
include hmoving hx

/-- A stream of another LKIND needs no credit; one of LKIND 0 takes one as the head of its pool's queue. -/
theorem streamRequestIssue_runsTo (hmore : x.issued < (Desc.of x.desc).units) (htag : x.tagOk = true) {s0 : State}
    (hs0 : (Desc.of x.desc).lkind ≠ 0 ∧ s0 = s ∨ (Desc.of x.desc).lkind = 0 ∧ ∃ p,
      mget (s.cluster c.val).pools (Desc.of x.desc).pool = some p ∧ p.queue.head? = some sid.val ∧ 0 < p.credits ∧
      s0 = s.setCluster c.val { s.cluster c.val with
        pools := mset (s.cluster c.val).pools (Desc.of x.desc).pool (p.taken x) }) :
    RunsTo (.streamRequestIssue c sid) s (s0.unitAsked (s.streamMover c sid x) c sid x) := by
  have hleft : ¬ (Desc.of x.desc).units ≤ x.issued := Nat.not_le.mpr hmore
  have htagged : ¬ (!x.tagOk) = true := by simp [htag]
  show execStreamRequestIssue c sid s = _
  simp only [execStreamRequestIssue, hmoving, if_true, hx, if_neg hleft, if_neg htagged]
  rcases hs0 with ⟨hkind, rfl⟩ | ⟨hkind, p, hp, hhead, hcredit, rfl⟩
  · simp only [if_pos hkind]
    rfl
  · have hfirst : ¬ (p.queue.head? ≠ some sid.val ∨ p.credits = 0) := by simp [hhead, Nat.ne_of_gt hcredit]
    simp only [hkind, hp, if_neg hfirst, ne_eq, not_true_eq_false, if_false, beq_iff_eq]
    rfl

/-! ### Units that land (R256, R258) -/

theorem streamUnitLanded_of_all_landed (unit : Nat) (hall : (Desc.of x.desc).units ≤ x.landed) :
    RunsTo (.streamUnitLanded c sid unit) s (s.endStream c sid x) := by
  show execStreamUnitLanded c sid unit s = _
  simp only [execStreamUnitLanded, hmoving, if_true, hx, if_pos hall]

/-- A group that moved lands: its units count on the stream engine, and the last group ends the stream. -/
theorem streamUnitLanded_of_moved {unit lo hi : Nat} (hlo : lo = unit / (Desc.of x.desc).group * (Desc.of x.desc).group)
    (hhi : hi = min (lo + (Desc.of x.desc).group) (Desc.of x.desc).units) (hissued : hi ≤ x.issued) (hsome : lo < hi)
    (hnext : x.landed ≤ lo) (hnew : lo ∉ x.ahead) (horder : (Desc.of x.desc).scatter = true → lo = x.landed)
    (hmore : x.landed < (Desc.of x.desc).units) {s1 : State} {run : PackRun} {z : Nat}
    (hmoved : s.moveGroup (s.streamMover c sid x) (Desc.of x.desc) (s.ringSide c.val x) x.pack lo hi = (s1, run, .ok (), z)) :
    RunsTo (.streamUnitLanded c sid unit) s
      (let y := landUnits { x with pack := run } lo hi
       let s2 := s1.progress (unitKey (srcCluster c.val) 0xFF 3) (s.streamMover c sid x).ctx (hi - lo)
       if y.landed < (Desc.of x.desc).units then (s2.setStream c.val sid.val y).stallOff (.stream c sid)
       else s2.endStream c sid y) := by
  have hleft : ¬ (Desc.of x.desc).units ≤ x.landed := Nat.not_le.mpr hmore
  have hready : ¬ (x.issued < hi ∨ hi ≤ lo ∨ lo < x.landed ∨ x.ahead.contains lo = true ∨
      ((Desc.of x.desc).scatter = true ∧ lo ≠ x.landed)) := by
    simp only [List.contains_iff_mem, not_or, not_and, not_not]
    exact ⟨by omega, by omega, by omega, hnew, horder⟩
  subst hhi hlo
  show execStreamUnitLanded c sid unit s = _
  simp only [execStreamUnitLanded, hmoving, if_true, hx, if_neg hleft, if_neg hready, hmoved]

end

/-- A stream whose record is merged is dropped, and its peg signalled where it names one. -/
theorem State.endStream_of_merged {s s2 : State} {c : ClusterNo} {sid : Fin 64} {y : Stream}
    (hmerged : s.packMerge (s.streamMover c sid y).user y.pack (Desc.of y.desc) (Desc.of y.desc).deadline = (s2, .ok ())) :
    s.endStream c sid y =
      (let s3 := ((s2.setStream c.val sid.val y).streamLate c sid).dropStream c sid
       if (Desc.of y.desc).sigPeg = 0xFFFF then s3
       else s3.completionSignal (s.streamMover c sid y).ctx (Desc.of y.desc).sigPeg 1 (srcCluster c.val)) := by
  simp only [State.endStream, hmerged]

/-- Settles O19: a request that has its credit is asked for as `State.unitAsked` says, and a group lands with what is left of its
stream. -/
theorem streamProgress : Obligations.StreamProgress := by
  unfold Obligations.StreamProgress
  refine ⟨fun s c sid x hmoving hx => ⟨?_, ?_, ?_⟩, fun s c sid y s2 hmerged => State.endStream_of_merged hmerged⟩
  · intro hmore htag took s0 hs0 s1
    have hrow := streamRequestIssue_runsTo hmoving hx hmore htag hs0
    refine ⟨fun h => ?_, fun hgather hplain s2 ps y hpieces => ⟨fun hwhole => ?_, fun hpart s3 z hask => ?_⟩⟩
    · rwa [State.unitAsked_of_scatter_or_pack rfl h] at hrow
    · rwa [State.unitAsked_of_whole rfl hgather hplain hpieces hwhole] at hrow
    · rwa [State.unitAsked_of_asked rfl hgather hplain hpieces hpart hask] at hrow
  · intro unit lo hi hlo hhi hissued hsome hnext hnew horder s1 run z hmoved y s2
    have hrow := fun hmore => streamUnitLanded_of_moved hmoving hx hlo hhi hissued hsome hnext hnew horder hmore hmoved
    exact ⟨fun hmore hleft => (if_pos hleft ▸ hrow hmore :), fun hmore hdone => (if_neg (Nat.not_lt.mpr hdone) ▸ hrow hmore :)⟩
  · exact fun unit hall => streamUnitLanded_of_all_landed hmoving hx unit hall

end Sys2Proof.Machine
end

section
/-! Copies, tags, deadlines and stall reports (08_tiers_and_streams.md R257, R259, R263, R268). -/

namespace Sys2Proof.Machine

/-! ### Copies (R263) -/

theorem copy_runsTo {s : State} {q : CmdRef} {t : Taken} (h : Turn s q 0x0300 t)
    (hvalid : (Desc.of (bsub t.packet 64 64)).valid .copy = true) {u : State} (hu : (s.begin q).startTaken q = u) {x : Copy}
    (hx : x = ⟨q, bsub t.packet 64 64, BitVec.ofNat 32 (fld t.packet 16 4), (Desc.of (bsub t.packet 64 64)).deadline,
      !(Desc.of (bsub t.packet 64 64)).tag, false, false, u.local_, 0, .start⟩) :
    RunsTo (.copy q) s (({ u with tier := { u.tier with copies := u.tier.copies ++ [x] } }.copyTag q).copyLate q) := by
  subst hu hx
  have hgo : ¬ (!(Desc.of (bsub t.packet 64 64)).valid .copy) = true := by simp [hvalid]
  exact runsTo_perform rfl h (if_neg hgo)

section
variable {s : State} {q : CmdRef} {x : Copy} (halive : s.alive = true) (hreset : s.inL0 q.ctx.val = false)
  (hx : s.copy? q = some x)
include halive hreset

theorem alive_and_not_inL0 : (s.alive && !s.inL0 q.ctx.val) = true := by simp [halive, hreset]

theorem streamDeadlineExpiry_copy : RunsTo (.streamDeadlineExpiry (.copy q)) s (s.copyLate q) :=
  congrArg Host.Outcome.next (if_pos (alive_and_not_inL0 halive hreset))

include hx

/-- A copy whose tag has matched completes once its groups have all moved and its record is merged. -/
theorem copyComplete_runsTo (htag : x.tagOk = true) {s1 s2 : State} {y : Copy}
    (hmoved : (s.copyLate q).copyGroups { x with late := x.late || (s.copyLate q).timePassed x.deadline } (Desc.of x.desc).units =
      (s1, y, .ok ()))
    (hmerged : s1.packMerge y.mover.user y.pack (Desc.of y.desc) y.deadline = (s2, .ok ())) :
    RunsTo (.copyComplete q) s (s2.endCopy y stOk) := by
  have htagged : ¬ (!x.tagOk) = true := by simp [htag]
  show execCopyComplete q s = _
  simp only [execCopyComplete, if_pos (alive_and_not_inL0 halive hreset), hx, if_neg htagged, hmoved, hmerged]

theorem streamTagReread_copy (htag : x.tagOk = false) (hdue : x.lastTag + 1000 ≤ s.local_) :
    RunsTo (.streamTagReread (.copy q)) s (s.copyTag q) := by
  show execStreamTagReread (.copy q) s = _
  simp [execStreamTagReread, hx, halive, hreset, htag, hdue]

end

/-! ### Streams and transfers (R257, R259) -/

theorem streamTagReread_stream {s : State} {c : ClusterNo} {sid : Fin 64} {x : Stream} (hmoving : s.moving c.val = true)
    (hx : s.stream? c.val sid.val = some x) (htag : x.tagOk = false) (hdue : x.lastTag + 1000 ≤ s.local_) :
    RunsTo (.streamTagReread (.stream c sid)) s (s.streamTag c sid) := by
  show execStreamTagReread (.stream c sid) s = _
  simp [execStreamTagReread, hx, hmoving, htag, hdue]

theorem streamDeadlineExpiry_stream {s : State} {c : ClusterNo} (sid : Fin 64) (hmoving : s.moving c.val = true) :
    RunsTo (.streamDeadlineExpiry (.stream c sid)) s (s.streamLate c sid) :=
  congrArg Host.Outcome.next (if_pos hmoving)

theorem streamDeadlineExpiry_xfer {s : State} {k : CoreRef} (tag : Fin 8) (hmoving : s.moving k.cluster.val = true) :
    RunsTo (.streamDeadlineExpiry (.xfer k tag)) s (s.xferLate k tag.val) :=
  congrArg Host.Outcome.next (if_pos hmoving)

/-! ### Stall reports (R268) -/

/-- An episode that has lasted STALL_REPORT_US and is not reported yet is marked and raised. -/
theorem stallReportTimeout_runsTo {s : State} {c : Ctx} {unit : StallUnit} {e : Episode} (halive : s.alive = true)
    (he : s.tier.episodes.find? (fun e => e.unit == unit && e.ctx == c.val) = some e) (hnew : e.reported = false)
    (hon : s.stallReportUs ≠ 0) (hlong : 1000 * s.stallReportUs ≤ s.local_ - e.since) :
    RunsTo (.stallReportTimeout c unit) s
      (({ s with tier := { s.tier with
        episodes := replaceFirst (fun x => x == e) (fun x => { x with reported := true }) s.tier.episodes } } : State).raise
          0x040A (stallSource unit) (some e.ctx) [e.ctx, e.cause, s.local_ - e.since, stallSource unit]) := by
  have hdue : ¬ (e.reported || decide (s.stallReportUs = 0) || decide (s.local_ - e.since < 1000 * s.stallReportUs)) = true := by
    simp [hnew, hon, hlong]
  show execStallReportTimeout c unit s = _
  simp only [execStallReportTimeout, halive, if_true, he, if_neg hdue]

/-- Settles O20: each row by the lemma above that takes it past its guard. -/
theorem copiesAndDeadlines : Obligations.CopiesAndDeadlines := by
  unfold Obligations.CopiesAndDeadlines
  refine fun s q => ⟨fun t h hvalid => copy_runsTo h hvalid rfl rfl, fun x halive hreset hx => ⟨?_, ?_, ?_⟩,
    fun c sid x hmoving hx => ⟨streamTagReread_stream hmoving hx, streamDeadlineExpiry_stream sid hmoving⟩,
    fun k tag => streamDeadlineExpiry_xfer tag, fun c unit e halive he hnew hon hlong => ⟨_, ?_, rfl⟩⟩
  · exact fun htag s1 y s2 => copyComplete_runsTo halive hreset hx htag
  · exact streamTagReread_copy halive hreset hx
  · exact streamDeadlineExpiry_copy halive hreset
  · exact stallReportTimeout_runsTo halive he hnew hon hlong

end Sys2Proof.Machine
end

section
/-! Ages, evictions, returns and answers of the host (08_tiers_and_streams.md R241, R243, R244, R247). -/

namespace Sys2Proof.Machine

/-! ### An event leaves the tiers (R54 to R56) -/

@[simp] theorem State.toHost_tier (s : State) (o : HostOut) : (s.toHost o).tier = s.tier := by
  unfold State.toHost
  split <;> rfl

@[simp] theorem State.signalVector_tier (s : State) (v : Nat) : (s.signalVector v).tier = s.tier := by
  unfold State.signalVector
  dsimp only
  split
  · rfl
  · exact s.toHost_tier _

@[simp] theorem State.exportPut_tier (s : State) (g : CatRing) (h a : Nat) (r : Record) : (s.exportPut g h a r).tier = s.tier := by
  simp [State.exportPut]

@[simp] theorem State.exportOne_tier (s : State) (r : Record) : (s.exportOne r).tier = s.tier := by
  unfold State.exportOne
  split
  · rfl
  · dsimp only
    split
    · simp [State.free]
    · rfl

@[simp] theorem State.exportLost_tier (s : State) : s.exportLost.tier = s.tier := by
  unfold State.exportLost
  split
  · rfl
  · split
    · rfl
    · dsimp only
      split
      · rfl
      · simp [State.generate, State.free]

@[simp] theorem State.ringRead_tier (s : State) (ctx : Nat) (g : CatRing) : (s.ringRead ctx g).tier = s.tier := by
  unfold State.ringRead
  split
  · split <;> rfl
  · rfl

@[simp] theorem State.ringMismatch_tier (s : State) (ctx va : Nat) : (s.ringMismatch ctx va).tier = s.tier := by
  unfold State.ringMismatch
  split
  · simp [State.generate]
  · rfl

@[simp] theorem State.toCtxRing_tier (s : State) (ctx : Nat) (r : Record) : (s.toCtxRing ctx r).tier = s.tier := by
  unfold State.toCtxRing
  split
  · rfl
  · split
    · rfl
    · simp

@[simp] theorem State.forCtxRing_tier (s : State) (ctx : Nat) (r : Record) : (s.forCtxRing ctx r).tier = s.tier := by
  unfold State.forCtxRing
  split
  · rfl
  · exact s.toCtxRing_tier ctx r

@[simp] theorem State.ctxRingLost_tier (s : State) (ctx : Nat) : (s.ctxRingLost ctx).tier = s.tier := by
  unfold State.ctxRingLost
  split
  · rfl
  · split
    · rfl
    · simp [State.generate]

@[simp] theorem State.raise_tier (s : State) (code src : Nat) (ctx : Option Nat) (args : List Nat) :
    (s.raise code src ctx args).tier = s.tier := by
  cases ctx with
  | none =>
    simp only [State.raise, State.raiseWith, State.generate, Bool.false_eq_true, if_false]
    split <;> simp
  | some c =>
    simp only [State.raise, State.raiseWith, State.generate, Bool.false_eq_true, if_false]
    by_cases hdriver : c = 0
    · simp only [hdriver, if_true]
      split <;> simp
    · simp only [hdriver, if_false]
      split <;> simp

/-! ### Ages (R241) -/

theorem agingTick_runsTo {s : State} (halive : s.alive = true) (hdue : s.tier.lastAging + s.agingNs ≤ s.time.localNs) :
    RunsTo .agingTick s { s with tier := { s.tier with
      lastAging := s.time.localNs
      frames := s.tier.frames.map (fun x =>
        if (s.entry x.2.ctx x.2.page).any (fun v => pteState v == 0) then
          (x.1, { x.2 with age := if x.2.touched then 0 else min 255 (x.2.age + 1), touched := false })
        else x) } } := by
  have hlate : ¬ s.local_ < s.tier.lastAging + s.agingNs := Nat.not_lt.mpr hdue
  have hgo : ¬ (!s.alive || decide (s.local_ < s.tier.lastAging + s.agingNs)) = true := by
    simp [halive, hlate]
  exact congrArg Host.Outcome.next (if_neg hgo)

/-! ### Evictions (R243) -/

/-- A confirmed eviction frees its frame, leaves its page EVICTED in its slot, and is counted. -/
theorem State.endEvict_tier {s : State} {e : Eviction} {v : Nat} (hv : s.entry e.ctx e.page = some v) :
    (s.endEvict e).tier = { s.tier with
      ptes := mset s.tier.ptes (pteKey e.ctx e.page) (Pair64.of (movedPte v e.slot 2))
      frames := mdel s.tier.frames e.frame, evictions := s.tier.evictions.filter (fun x => x.frame != e.frame)
      evicted := wrapAdd 32 s.tier.evicted 1 } := by
  simp only [State.endEvict, hv, State.raise_tier, State.setTier, State.setEntry]
  split <;> rfl

section
variable {s : State} {frame : Nat} {e : Eviction} (halive : s.alive = true) (hlink : s.host.link.dlUp = true)
  (he : s.tier.evictions.find? (fun x => x.frame == frame) = some e) (hsent : e.sent = true)
include halive hlink he hsent

theorem evictionComplete_confirmed {v : Nat} (hv : s.entry e.ctx e.page = some v)
    (hmeta : s.hbm.metaGot (ptePack v) (metaAddr (frame * pageBytes)) (slotMetaAddr e.slot) = .ready) :
    RunsTo (.evictionComplete frame true) s (s.endEvict e) := by
  have hup : s.hostUp = true := by simp [State.hostUp, halive, hlink]
  show execEvictionComplete frame true s = _
  simp only [execEvictionComplete, hup, if_true, he, hsent, hv, Option.any_some, hmeta, Bool.not_true, Bool.false_eq_true, if_false]

theorem evictionComplete_unconfirmed (hready : s.hbm.frameReady frame = true) :
    RunsTo (.evictionComplete frame false) s (s.sendEviction e) := by
  have hup : s.hostUp = true := by simp [State.hostUp, halive, hlink]
  show execEvictionComplete frame false s = _
  simp only [execEvictionComplete, hup, if_true, he, hsent, hready, Bool.not_true, Bool.not_false, Bool.false_eq_true, if_false]

end

/-! ### Returns (R244) -/

/-- The first entry that meets a test, put in its own place. -/
theorem replaceFirst_of_find? {α : Type} {p : α → Bool} {l : List α} {a : α} (h : l.find? p = some a) :
    replaceFirst p (fun _ => a) l = l := by
  induction l with
  | nil => rfl
  | cons b l ih =>
    by_cases hb : p b = true
    · rw [List.find?_cons_of_pos hb] at h
      cases h
      exact if_pos hb
    · rw [List.find?_cons_of_neg hb] at h
      exact (if_neg hb).trans (congrArg (b :: ·) (ih h))

section
variable {s : State} {c : Ctx} {page : Nat} {r : Return}
  (hr : s.tier.returns.find? (fun r => r.ctx == c.val && r.page == page) = some r)
include hr

theorem return_of_find? : r.ctx = c.val ∧ r.page = page := by
  simpa using List.find?_some hr

/-- A return that is written over with itself changes nothing. -/
theorem State.setReturn_of_find? : s.setReturn r = s := by
  obtain ⟨hctx, hpage⟩ := return_of_find? hr
  have hsame : replaceFirst (fun x => x.ctx == r.ctx && x.page == r.page) (fun _ => r) s.tier.returns = s.tier.returns := by
    rw [hctx, hpage]
    exact replaceFirst_of_find? hr
  rw [State.setReturn, State.setTier, hsame]

section
variable {v : Nat} (halive : s.alive = true) (hv : s.entry c.val page = some v)
include halive hv

/-- The return that comes first, and that no event is due for, takes the frame that is found. -/
theorem pageReturnStart_runsTo (hframe : r.frame = none) (hmet : r.met = false) (hquota : s.quotaCorrupt c.val = false)
    (hfirst : ∀ x ∈ s.tier.returns, x.before r = false) {w : State} {f : Nat} {l : List Nat}
    (hgot : s.getFrames c.val 1 (s.returnKind r).1 (s.returnKind r).2 true = (w, .frames (f :: l))) :
    RunsTo (.pageReturnStart c page) s
      ((((w.setEntry c.val page (movedPte v r.slot 3)).setTier (fun t => { t with
        frames := mset t.frames f ⟨c.val, page, 0, false⟩ })).readSlot { r with frame := some f }).background) := by
  have hgo : ¬ (r.frame.isSome || s.tier.returns.any (fun x => x.before r && s.couldStart x)) = true := by
    simpa [hframe] using fun x hx hbefore => absurd hbefore (by simp [hfirst x hx])
  have hself : { r with met := false } = r := by rw [← hmet]
  have hquiet : s.quotaMet c.val = s := by simp [State.quotaMet, hquota]
  show execPageReturnStart c page s = _
  simp only [execPageReturnStart, halive, if_true, hr, hv, if_neg hgo, hmet, Bool.false_eq_true, if_false, hquiet, hquota, hself,
    State.setReturn_of_find? hr, hgot]

/-- A filled return whose metadata stands ready ends. -/
theorem pageReturnComplete_runsTo (hfilled : r.filled = true)
    (hmeta : s.hbm.metaGot (ptePack v) (slotMetaAddr r.slot) (metaAddr (r.frame.getD 0 * pageBytes)) = .ready) :
    RunsTo (.pageReturnComplete c page) s (s.endReturn r) := by
  have hfound : s.tier.returns.find? (fun r => r.ctx == c.val && r.page == page && r.filled) = some r := by
    obtain ⟨hself, before, after, hsplit, hnone⟩ := List.find?_eq_some_iff_append.mp hr
    refine List.find?_eq_some_iff_append.mpr ⟨by rw [hself, hfilled]; rfl, before, after, hsplit, fun x hx => ?_⟩
    rw [Bool.not_and, hnone x hx, Bool.true_or]
  show execPageReturnComplete c page s = _
  simp only [execPageReturnComplete, halive, if_true, hfound, hv, Option.any_some, hmeta]

end

end

/-- A return that ends, while no command waits for pages: its page is RESIDENT in its frame, its slot is free, and it is counted. -/
theorem State.endReturn_tier {s : State} {r : Return} {v : Nat} (hv : s.entry r.ctx r.page = some v)
    (hwaits : s.tier.pageWaits = []) : (s.endReturn r).tier = { s.tier with
      ptes := mset s.tier.ptes (pteKey r.ctx r.page) (Pair64.of (movedPte v (r.frame.getD 0) 0))
      slots := mdel s.tier.slots r.slot, storeFull := false, returned := wrapAdd 32 s.tier.returned 1
      returns := s.tier.returns.filter (fun x => !(x.ctx == r.ctx && x.page == r.page)) } := by
  simp only [State.endReturn, hv, State.setTier, State.setEntry]
  split <;> simp only [State.raise_tier, hwaits, List.foldl_nil]

/-! ### Answers of the host (R247) -/

theorem hostReadCompletion_fills {s : State} {id : Nat} {r : Remote} (cells : List (Nat × Byte)) (hup : s.hostUp = true)
    (hr : mget s.tier.remotes id = some r) (hread : r.write = false) (hhost : r.node = none) (hopen : r.data = none) :
    RunsTo (.hostReadCompletion id (some cells)) s
      { s with tier := { s.tier with remotes := mset s.tier.remotes id { r with data := some (answerBytes cells r.len) } } } := by
  have hasked : ¬ (r.write || r.node.isSome || r.data.isSome) = true := by simp [hread, hhost, hopen]
  show execHostReadCompletion id (some cells) s = _
  simp only [execHostReadCompletion, hup, Bool.not_true, Bool.false_eq_true, if_false, hr, if_neg hasked]
  rfl

/-- Settles O48: each row by the lemma above that takes it past its guard; what an eviction and a return leave of the tiers is
`State.endEvict_tier` and `State.endReturn_tier`. -/
theorem poolEvents : Obligations.PoolEvents := by
  unfold Obligations.PoolEvents
  refine fun s halive => ⟨agingTick_runsTo halive, fun e v frame hlink he hsent hv => ⟨fun hmeta => ?_, ?_⟩,
    fun c page r v hr hv => ⟨?_, fun f hfilled hframe hwaits hmeta => ?_⟩, fun id r cells hlink hr hread hhost hopen => ?_⟩
  · have hframe : e.frame = frame := by simpa using List.find?_some he
    refine ⟨_, evictionComplete_confirmed halive hlink he hsent hv hmeta, ?_⟩
    beta_reduce
    rw [State.endEvict_tier hv, hframe]
    exact ⟨mget_mdel_self _ _, fun x hx => by simpa using (List.mem_filter.mp hx).2, mget_mset_self _ _ _, rfl, rfl⟩
  · exact evictionComplete_unconfirmed halive hlink he hsent
  · exact fun hframe hmet hquota hfirst w f l => pageReturnStart_runsTo hr halive hv hframe hmet hquota hfirst
  · obtain ⟨hctx, hpage⟩ := return_of_find? hr
    refine ⟨_, pageReturnComplete_runsTo hr halive hv hfilled (by rw [hframe]; exact hmeta), ?_⟩
    beta_reduce
    rw [State.endReturn_tier (by rw [hctx, hpage]; exact hv) hwaits, hctx, hpage, hframe]
    exact ⟨mget_mset_self _ _ _, mget_mdel_self _ _, rfl, rfl⟩
  · exact hostReadCompletion_fills cells (by simp [State.hostUp, halive, hlink]) hr hread hhost hopen

end Sys2Proof.Machine
end

section
/-! Peers and connections (08_tiers_and_streams.md R249; 11_guylines.md R329, R330, R337, R338, R341, R342): requests and answers of
peers, acknowledgements of connections, and frames that arrive. -/

namespace Sys2Proof.Machine

/-! ### Requests of peers (R249, R329, R330) -/

section
variable {s : State} {p ty answer n : Nat} {write : Bool} {f : State → List Byte → Nat → State × Got (List Byte)} {b : InBlock}
  (h : Arrives s p ty b)
include h

/-- A request inside the window is performed there, and answered. -/
theorem State.peerRequest_of_ok {va : Nat} (hwindow : exportWindow s (blkCtx b.bytes) (blkAddr b.bytes)
      (if n = 0 then bits (blkArg b.bytes) 28 16 else (blkData b.bytes).length) write = .ok va)
    {v : State} {d : List Byte} (hdone : f s b.bytes va = (v, .ok d)) :
    s.peerRequest p ty answer n write f = (v.peerAnswer p b.bytes answer 0 d).delivered p b := by
  obtain ⟨halive, harrived⟩ := h
  simp only [State.peerRequest, halive, if_true, harrived, hwindow, hdone]

/-- A request that the window turns down is rejected, and answered with the code. -/
theorem State.peerRequest_of_error {code : Nat} (hwindow : exportWindow s (blkCtx b.bytes) (blkAddr b.bytes)
      (if n = 0 then bits (blkArg b.bytes) 28 16 else (blkData b.bytes).length) write = .error code) :
    s.peerRequest p ty answer n write f = ((s.peerReject p b.bytes code).peerAnswer p b.bytes answer code []).delivered p b := by
  obtain ⟨halive, harrived⟩ := h
  simp only [State.peerRequest, halive, if_true, harrived, hwindow]

end

section
variable {s : State} {p : Port} {b : InBlock}

theorem writeBlockReceived_performed (h : Arrives s p.val 1 b) {va : Nat} {v : State}
    (hwindow : exportWindow s (blkCtx b.bytes) (blkAddr b.bytes) (blkData b.bytes).length true = .ok va)
    (hwrite : s.writeVa (blkCtx b.bytes) va (blkData b.bytes) (.other false) 0 = (v, .ok ())) :
    RunsTo (.writeBlockReceived p) s ((v.peerAnswer p.val b.bytes 2 0 []).delivered p.val b) :=
  congrArg Host.Outcome.next (State.peerRequest_of_ok (n := 1) (write := true) h hwindow (by simp only [hwrite]))

theorem readReqReceived_performed (h : Arrives s p.val 3 b) {va : Nat} {v : State} {d : List Byte}
    (hwindow : exportWindow s (blkCtx b.bytes) (blkAddr b.bytes) (bits (blkArg b.bytes) 28 16) false = .ok va)
    (hread : s.readVa (blkCtx b.bytes) va (bits (blkArg b.bytes) 28 16) (.other false) false 0 = (v, .ok d)) :
    RunsTo (.readReqReceived p) s ((v.peerAnswer p.val b.bytes 4 0 d).delivered p.val b) :=
  congrArg Host.Outcome.next (State.peerRequest_of_ok (n := 0) (write := false) h hwindow hread)

/-! ### Answers of peers (R249, R330) -/

section
variable (hctx : mhas s.host.ctxs (blkCtx b.bytes) = true) (hcode : bits (blkArg b.bytes) 19 16 = 0) {k : Nat} {r : Remote}
include hctx hcode

theorem writeAckReceived_settles (h : Arrives s p.val 2 b) (hr : s.answered b.bytes true = some (k, r))
    (howner : ∀ e, r.owner ≠ .epi e) :
    RunsTo (.writeAckReceived p) s
      (({ s with tier := { s.tier with remotes := mset s.tier.remotes k { r with acked := true } } } : State).release.delivered p.val b) := by
  refine runsTo_deliver rfl h ?_
  simp only [hctx, Bool.not_true, Bool.false_eq_true, if_false, hr, hcode, if_true]

/-- A row of an epilogue is forgotten once it is acknowledged: its instruction has ended. -/
theorem writeAckReceived_forgets_row (h : Arrives s p.val 2 b) (hr : s.answered b.bytes true = some (k, r)) {e : CoreRef}
    (howner : r.owner = .epi e) :
    RunsTo (.writeAckReceived p) s
      (({ s with tier := { s.tier with remotes := mdel s.tier.remotes k } } : State).release.delivered p.val b) := by
  refine runsTo_deliver rfl h ?_
  simp only [hctx, Bool.not_true, Bool.false_eq_true, if_false, hr, hcode, if_true, howner]

theorem readRespReceived_runsTo (h : Arrives s p.val 4 b) (hr : s.answered b.bytes false = some (k, r)) :
    RunsTo (.readRespReceived p) s
      (({ s with tier := { s.tier with
        remotes := mset s.tier.remotes k { r with data := some (bsub (blkData b.bytes) 0 r.len) } } } : State).delivered p.val b) := by
  refine runsTo_deliver rfl h ?_
  simp only [hctx, Bool.not_true, Bool.false_eq_true, if_false, hr, hcode, if_true]

end

/-! ### Connections (R341, R342) -/

/-- An acknowledgement of the oldest block alone frees it. -/
theorem e2eAckReceived_frees_first (h : Arrives s p.val 8 b) {c : Sender} {u : Stored} {rest : List Stored}
    (hc : mget s.guy.senders (connKey (blkSrc b.bytes) (blkArg b.bytes % 8)) = some c) (hunacked : c.unacked = u :: rest)
    (hseq : blkSeq b.bytes = u.seq) (hlater : ∀ y ∈ rest, (u.seq + 2 ^ 32 - y.seq) % 2 ^ 32 ≥ 2 ^ 31) :
    RunsTo (.e2eAckReceived p) s
      (let c' : Sender := { c with unacked := rest, rto := 1000 * s.rtoUs, advanceAt := s.time.localNs, idleSince := s.time.localNs }
       ((({ s with guy := { s.guy with
         senders := mset s.guy.senders (connKey (blkSrc b.bytes) (blkArg b.bytes % 8)) c' } } : State).blocksAcked [u.id]).release).delivered
           p.val b) := by
  have hcovered : c.unacked.takeWhile (fun y => decide ((blkSeq b.bytes + 2 ^ 32 - y.seq) % 2 ^ 32 < 2 ^ 31)) = [u] := by
    have hself : decide ((blkSeq b.bytes + 2 ^ 32 - u.seq) % 2 ^ 32 < 2 ^ 31) = true := by
      rw [hseq, Nat.add_sub_cancel_left]
      rfl
    rw [hunacked, List.takeWhile_cons, if_pos hself]
    cases rest with
    | nil => rfl
    | cons y ys =>
      have hnext : ¬ decide ((blkSeq b.bytes + 2 ^ 32 - y.seq) % 2 ^ 32 < 2 ^ 31) = true := by
        rw [hseq, decide_eq_true_eq]
        exact Nat.not_lt.mpr (hlater y List.mem_cons_self)
      rw [List.takeWhile_cons, if_neg hnext]
  refine runsTo_deliver rfl h ?_
  simp only [hc, hcovered]
  rw [hunacked]
  rfl

theorem e2eNakReceived_runsTo (h : Arrives s p.val 9 b) : RunsTo (.e2eNakReceived p) s
    ((s.resend (blkSrc b.bytes) (blkArg b.bytes % 8) ((blkArg b.bytes).testBit 3)).delivered p.val b) :=
  runsTo_deliver rfl h rfl

end

/-! ### Frames (R337, R338) -/

theorem leNat_leBytes (n v : Nat) : leNat (leBytes n v) = v % 256 ^ n := by
  induction n generalizing v with
  | zero => simp [leBytes, leNat, Nat.mod_one]
  | succ n ih =>
    rw [leBytes, leNat, ih, BitVec.toNat_ofNat, show 256 ^ (n + 1) = 256 * 256 ^ n from Nat.pow_succ', Nat.mod_mul]

/-- The bytes that stand between two stretches. -/
theorem bsub_append {a m r : List Byte} {off n : Nat} (hoff : a.length = off) (hn : m.length = n) :
    bsub (a ++ (m ++ r)) off n = m := by
  subst hoff hn
  simp [bsub]

theorem State.length_mac (s : State) (node : Nat) : (s.mac node).length = 6 := by
  simp [State.mac, length_leBytes]

/-- A field of one byte. -/
theorem fld_append_byte {a r : List Byte} {off : Nat} (b : Byte) (hoff : a.length = off) : fld (a ++ ([b] ++ r)) off 1 = b.toNat := by
  rw [fld, bsub_append (m := [b]) (n := 1) hoff rfl]
  rfl

/-- The fields of an untagged frame (R337): destination, EtherType, and what follows it. -/
theorem untaggedFrame_fields {dest src : List Byte} (hdest : dest.length = 6) (hsrc : src.length = 6) {e : Nat} (he : e < 2 ^ 16)
    {r f : List Byte} (hf : f = dest ++ src ++ (leBytes 2 e).reverse ++ r) :
    bsub f 0 6 = dest ∧ fld f 12 1 * 256 + fld f 13 1 = e ∧ f.drop 14 = r := by
  have hprefix : (dest ++ src).length = 12 := by simp [hdest, hsrc]
  have hbytes : f = dest ++ src ++ ([BitVec.ofNat 8 (e / 256)] ++ ([BitVec.ofNat 8 e] ++ r)) := by
    rw [hf]
    simp [leBytes]
  refine ⟨?_, ?_, ?_⟩
  · rw [hbytes, List.append_assoc]
    exact bsub_append (a := []) rfl hdest
  · have hhigh := fld_append_byte (r := [BitVec.ofNat 8 e] ++ r) (BitVec.ofNat 8 (e / 256)) hprefix
    have hlow := fld_append_byte (a := dest ++ src ++ [BitVec.ofNat 8 (e / 256)]) (r := r) (BitVec.ofNat 8 e)
      (off := 13) (by simp [hdest, hsrc])
    rw [List.append_assoc] at hlow
    rw [hbytes, hhigh, hlow, BitVec.toNat_ofNat, BitVec.toNat_ofNat]
    omega
  · rw [hf]
    exact List.drop_left' (by simp [hdest, hsrc, length_leBytes])

/-- A frame to this node of the block's EtherType gives its blocks. -/
theorem frameReceived_runsTo {s : State} {p : Port} (body : List Byte) (halive : s.alive = true) (hmode : (s.port p.val).mode = 2)
    (husable : (s.port p.val).usable = true) (htype : s.etherType < 2 ^ 16) (huntagged : s.etherType ≠ 0x8100) {head : List Byte}
    (hhead : head = s.mac s.guy.node ++ s.mac 0 ++ (leBytes 2 s.etherType).reverse ++ body) :
    RunsTo (.frameReceived p (head ++ leBytes 4 (crc32 head).toNat)) s
      (((cutBlocks 256 body).1.foldl (fun s b => s.gotBlock p.val (blkCls b) b) s).pump p.val) := by
  obtain ⟨-, -, hbody⟩ := untaggedFrame_fields (s.length_mac _) (s.length_mac _) htype hhead
  obtain ⟨hdest, htyped, -⟩ := untaggedFrame_fields (f := head ++ leBytes 4 (crc32 head).toNat)
    (r := body ++ leBytes 4 (crc32 head).toNat) (s.length_mac s.guy.node) (s.length_mac 0) htype
    (by rw [← List.append_assoc, ← hhead])
  have hlength : (head ++ leBytes 4 (crc32 head).toNat).length - 4 = head.length := by simp [length_leBytes]
  have htake : (head ++ leBytes 4 (crc32 head).toNat).take head.length = head := List.take_left
  have hcrc : fld (head ++ leBytes 4 (crc32 head).toNat) head.length 4 = (crc32 head).toNat := by
    have hfld := bsub_append (a := head) (r := []) rfl (length_leBytes 4 (crc32 head).toNat)
    rw [List.append_nil] at hfld
    rw [fld, hfld, leNat_leBytes]
    exact Nat.mod_eq_of_lt (crc32 head).isLt
  have hgo : ¬ (!s.alive || !(s.port p.val).switched || !(s.port p.val).usable) = true := by
    simp [halive, PortSt.switched, hmode, husable]
  show execFrameReceived p _ s = _
  simp only [execFrameReceived, if_neg hgo, hlength, htake, hcrc, htyped, if_neg huntagged, hdest, hbody, ne_eq, not_true_eq_false,
    or_self, if_false]

/-- Settles O54: the requests through `State.peerRequest`, the blocks that answer and acknowledge as they are delivered, and a frame
by its fields. -/
theorem peerBlocks : Obligations.PeerBlocks := by
  unfold Obligations.PeerBlocks
  refine fun s p b => ⟨fun h va v => writeBlockReceived_performed h, fun h va v d => readReqReceived_performed h, ?_,
    fun hctx hcode => ⟨fun h k r hr => ?_, fun h k r => readRespReceived_runsTo hctx hcode h⟩, ?_, e2eNakReceived_runsTo, ?_⟩
  · rintro ty row (⟨rfl, rfl⟩ | ⟨rfl, rfl⟩) h c hwindow
    · exact congrArg Host.Outcome.next (State.peerRequest_of_error h hwindow)
    · exact congrArg Host.Outcome.next (State.peerRequest_of_error h hwindow)
  · exact ⟨writeAckReceived_settles hctx hcode h hr, fun e => writeAckReceived_forgets_row hctx hcode h hr⟩
  · exact fun h c u rest hc hunacked hseq _ hlater => e2eAckReceived_frees_first h hc hunacked hseq hlater
  · exact fun body halive hmode husable htype huntagged => frameReceived_runsTo body halive hmode husable htype huntagged rfl

end Sys2Proof.Machine
end

section
/-! The pages that a command of the pool looks at (08_tiers_and_streams.md R233, R234, R236, R249): PEER_EXPORT of a window so long that
its pages run past the end of the numbers of pages. -/

namespace Sys2Proof.Machine

/-! ### Completions leave the catalogue (R406 to R409) -/

@[simp] theorem State.toHost_cat (s : State) (o : HostOut) : (s.toHost o).cat = s.cat := by
  unfold State.toHost
  split <;> rfl

@[simp] theorem State.signalVector_cat (s : State) (v : Nat) : (s.signalVector v).cat = s.cat := by
  unfold State.signalVector
  dsimp only
  split
  · rfl
  · exact s.toHost_cat _

@[simp] theorem State.signalRing_cat (s : State) (ctx ring : Nat) : (s.signalRing ctx ring).cat = s.cat := by
  unfold State.signalRing
  split
  · rfl
  · simp

/-- A status that faults no ring (R402) makes no record. -/
theorem State.complete_cat {status : Nat} (hprog : status ≠ stProgFault) (htorn : status ≠ stTornPacket) (s : State) (q : CmdRef)
    (r0 r1 : Nat) : (s.complete q status r0 r1).cat = s.cat := by
  unfold State.complete State.writeRecord
  split
  · rfl
  · rw [stallOff_eq]
    split
    · rfl
    · simp [hprog, htorn, apply_ite State.cat, State.cpProgress]

/-! ### Walks of pages (R233, R236) -/

theorem walk_of_entry {s : State} {ctx p v : Nat} (h : s.entry ctx p = some v) : walk s ctx p = .entry v := by
  unfold State.entry at h
  split at h
  · next hwalk => rw [hwalk, Option.some.inj h]
  · exact absurd h (by simp)

section
variable {s : State} {ctx va : Nat}

theorem State.walkMet_of_entry {v : Nat} (h : s.entry ctx (vpnOf va) = some v) : s.walkMet ctx va = s := by
  unfold State.walkMet
  rw [walk_of_entry h]
  by_cases hlocal : (vaSpace va == 0 && vaMbz va) = true
  · rw [if_pos hlocal]
  · rw [if_neg hlocal]

theorem State.walkMet_of_not_local (h : ¬ (vaSpace va == 0 && vaMbz va) = true) : s.walkMet ctx va = s := by
  unfold State.walkMet
  rw [if_neg h]

theorem State.walkMet_of_corrupt {level : Nat} (hlocal : (vaSpace va == 0 && vaMbz va) = true)
    (h : walk s ctx (vpnOf va) = .corrupt level) :
    s.walkMet ctx va = s.raise 0x0405 (srcWalker ctx) (some ctx) [ctx, va, level] := by
  unfold State.walkMet
  rw [if_pos hlocal, h]

end

theorem vpnOf_mul_pageBytes {p : Nat} (hp : p < 2 ^ 27) : vpnOf (p * pageBytes) = p := by
  simp only [vpnOf, bits, pageBytes, Nat.shiftRight_eq_div_pow]
  omega

/-- Between the last page and 2^64 no number of a page gives an address of space 0. -/
theorem not_local_of_past_end {p : Nat} (hlow : 2 ^ 27 ≤ p) (hhigh : p < 2 ^ 43) :
    ¬ (vaSpace (p * pageBytes) == 0 && vaMbz (p * pageBytes)) = true := by
  intro h
  obtain ⟨hspace, hmbz⟩ := Bool.and_eq_true_iff.mp h
  have hspace := beq_iff_eq.mp hspace
  simp only [vaMbz, hspace, beq_iff_eq] at hmbz
  simp only [vaSpace, bits, pageBytes, Nat.shiftRight_eq_div_pow] at hspace hmbz
  omega

/-- At 2^64 the addresses of the pages begin again with page 0. -/
theorem local_of_wrapped : (vaSpace (2 ^ 43 * pageBytes) == 0 && vaMbz (2 ^ 43 * pageBytes)) = true ∧
    vpnOf (2 ^ 43 * pageBytes) = 0 := by
  simp [vaSpace, vaMbz, vpnOf, bits, pageBytes]

theorem foldl_eq_self {α β : Type} {f : α → β → α} {a : α} {l : List β} (h : ∀ b ∈ l, f a b = a) : l.foldl f a = a := by
  induction l with
  | nil => rfl
  | cons b l ih =>
    obtain ⟨hb, hl⟩ := List.forall_mem_cons.mp h
    rw [List.foldl_cons, hb, ih hl]

/-- A stretch from page 2 whose last page is the one at 2^64. -/
theorem State.entriesMet_wrapped {s : State} {q : CmdRef} {ctx va n level : Nat} (hquiet : s.tier.episodes = [])
    (hva : vpnOf va = 2) (hn : n + 2 = 2 ^ 43) (hentries : ∀ p, 2 ≤ p → p < 2 ^ 43 → ∃ v, s.entry ctx p = some v)
    (hcorrupt : walk s ctx 0 = .corrupt level) :
    s.entriesMet q ctx (pageList va (n + 1)) =
      s.raise 0x0405 (srcWalker ctx) (some ctx) [ctx, 2 ^ 43 * pageBytes, level] := by
  have hquiet' : ¬ s.tier.episodes.any (fun e => e.unit == .cmd q) = true := by simp [hquiet]
  have hbefore : ((List.range n).map (2 + ·)).foldl (fun s p => s.walkMet ctx (p * pageBytes)) s = s := by
    refine foldl_eq_self fun p hp => ?_
    obtain ⟨i, hi, rfl⟩ := List.mem_map.mp hp
    have hi := List.mem_range.mp hi
    by_cases hpage : 2 + i < 2 ^ 27
    · obtain ⟨v, hv⟩ := hentries (2 + i) (by omega) (by omega)
      exact State.walkMet_of_entry (by rwa [vpnOf_mul_pageBytes hpage])
    · exact State.walkMet_of_not_local (not_local_of_past_end (by omega) (by omega))
  rw [State.entriesMet, if_neg hquiet', pageList, hva, List.range_succ, List.map_append, List.foldl_append, hbefore, List.map_singleton,
    List.foldl_cons, List.foldl_nil, show 2 + n = 2 ^ 43 by omega]
  obtain ⟨hlocal, hpage⟩ := local_of_wrapped
  exact State.walkMet_of_corrupt hlocal (by rwa [hpage])

/-! ### PEER_EXPORT (R249) -/

/-- However it ends, the records that PEER_EXPORT makes are those of the entries that it looks at. -/
theorem peerExport_cat {s : State} {q : CmdRef} {t : Taken} (h : Turn s q 0x0109 t) : Runs (.peerExport q) s (fun u =>
    u.cat = ((s.begin q).entriesMet q q.ctx.val (pageList (fld t.packet 16 8) (fld t.packet 24 8 / pageBytes))).cat) := by
  refine ⟨_, runsTo_perform rfl h rfl, ?_⟩
  dsimp only
  split
  · exact State.complete_cat (by decide) (by decide) _ _ _ _
  · split
    · exact State.complete_cat (by decide) (by decide) _ _ _ _
    · exact State.complete_cat (by decide) (by decide) _ _ _ _

/-- An event of the driver's context is one record more, while nothing is exported. -/
theorem State.raise_driver_generated (s : State) (code src : Nat) (args : List Nat) (h : s.cat.exportRing = none) :
    (s.raise code src (some 0) args).cat.generated = s.cat.generated + 1 := by
  have hlost : s.exportLost = s := by simp only [State.exportLost, h]
  simp only [State.raise, State.raiseWith, hlost, State.generate, State.exportOne, h, if_true, Bool.false_eq_true, if_false]
  split <;> simp

/-- A table that holds one value at every key below `n`. -/
def uniformTable (n : Nat) (v : Pair64) : Map Pair64 := (List.range n).map (fun k => (k, v))

theorem mget_map_const {l : List Nat} {k : Nat} (v : Pair64) (h : k ∈ l) : mget (l.map (fun k => (k, v))) k = some v := by
  induction l with
  | nil => cases h
  | cons a l ih =>
    rw [List.map_cons, mget]
    split
    · rfl
    · next hne => exact ih ((List.mem_cons.mp h).resolve_left (Ne.symm hne))

theorem mget_uniformTable {n k : Nat} (v : Pair64) (h : k < n) : mget (uniformTable n v) k = some v :=
  mget_map_const v (List.mem_range.mpr h)

/-- PEER_EXPORT of the driver's context, from page 2 on, with SIZE 2^64 − 2^21. -/
def overlongExport : Taken :=
  ⟨⟨0, 0, 0⟩, leBytes 8 0x0109 ++ leBytes 8 0 ++ leBytes 8 0x400000 ++ leBytes 8 0xFFFFFFFFFFE00000, true, false⟩

/-- The command is taken; the entries numbered below `n` are RESIDENT, in frame 0, but for that of page 0 of context 0, which fails its
complement. -/
def overlongExportState (n : Nat) : State :=
  { State.reset with
    board := { BoardSt.reset with pwrGood := true }
    host := { HostSt.reset with taken := [overlongExport] }
    tier := { TierSt.reset with level1 := uniformTable n (Pair64.of 1), ptes := (0, ⟨0, 0⟩) :: uniformTable n (Pair64.of 1) } }

theorem overlongExportState_turn (n : Nat) : Turn (overlongExportState n) overlongExport.q 0x0109 overlongExport where
  taken := rfl
  alive := rfl
  isOpcode := by decide
  notStarted := rfl
  notInReset := rfl
  turn := .inl rfl

theorem overlongExportState_level1 {n p : Nat} (hn : p < n) :
    walkL1 (overlongExportState n).tier.level1 0 p = .entry 1 := by
  have hl1 : mget (overlongExportState n).tier.level1 (l1Key 0 p) = some (Pair64.of 1) := by
    rw [show l1Key 0 p = p / 8192 by simp [l1Key]]
    exact mget_uniformTable _ (by omega)
  rw [walkL1, hl1]
  rfl

theorem overlongExportState_entry {n p : Nat} (hp : 0 < p) (hn : p < n) : (overlongExportState n).entry 0 p = some 1 := by
  have hpte : mget (overlongExportState n).tier.ptes (pteKey 0 p) = some (Pair64.of 1) := by
    rw [show pteKey 0 p = p by simp [pteKey]]
    exact (if_neg (Nat.ne_of_lt hp)).trans (mget_uniformTable _ hn)
  rw [State.entry, walk, overlongExportState_level1 hn, hpte]
  rfl

theorem overlongExportState_corrupt {n : Nat} (hn : 0 < n) : walk (overlongExportState n) 0 0 = .corrupt 2 := by
  rw [walk, overlongExportState_level1 hn]
  rfl

theorem overlongExport_fields : vpnOf (fld overlongExport.packet 16 8) = 2 ∧
    fld overlongExport.packet 24 8 / pageBytes = 2 ^ 43 - 2 + 1 := by decide +kernel

/-- Every page of the window has its entry. -/
theorem overlongExport_pages {m : Nat} (hm : 2 ^ 43 < m) :
    ∀ p ∈ pageList (fld overlongExport.packet 16 8) (fld overlongExport.packet 24 8 / pageBytes),
      ((overlongExportState m).entry overlongExport.q.ctx.val p).isSome = true := by
  obtain ⟨hfirst, hsize⟩ := overlongExport_fields
  intro p hp
  rw [pageList, hfirst, hsize] at hp
  obtain ⟨i, hi, rfl⟩ := List.mem_map.mp hp
  have hi := List.mem_range.mp hi
  have hentry : (overlongExportState m).entry overlongExport.q.ctx.val (2 + i) = some 1 :=
    overlongExportState_entry (by omega) (by omega)
  rw [hentry, Option.isSome_some]

/-- Page 2^43, whose own entry stands in the table, is walked as page 0, and the corrupt entry there is reported. -/
theorem overlongExport_reports {m n : Nat} (hn : n + 2 = 2 ^ 43) (hm : 2 ^ 43 < m)
    (hsize : fld overlongExport.packet 24 8 / pageBytes = n + 1) :
    Runs (.peerExport overlongExport.q) (overlongExportState m) (fun u =>
      u.cat.generated = (overlongExportState m).cat.generated + 1) := by
  obtain ⟨u, hrow, hcat⟩ := peerExport_cat (overlongExportState_turn m)
  obtain ⟨hfirst, -⟩ := overlongExport_fields
  have hentries : ∀ p, 2 ≤ p → p < 2 ^ 43 → ∃ v, ((overlongExportState m).begin overlongExport.q).entry 0 p = some v :=
    fun p hlow hhigh => ⟨1, overlongExportState_entry (by omega) (by omega)⟩
  have hreported : ((overlongExportState m).begin overlongExport.q).entriesMet overlongExport.q 0
      (pageList (fld overlongExport.packet 16 8) (n + 1)) = _ :=
    State.entriesMet_wrapped rfl hfirst hn hentries (overlongExportState_corrupt (by omega))
  rw [hsize, show overlongExport.q.ctx.val = 0 from rfl, hreported] at hcat
  exact ⟨u, hrow, (congrArg CatSt.generated hcat).trans (State.raise_driver_generated _ _ _ _ rfl)⟩

/-- Refutes O47: its PEER_EXPORT may have any SIZE that the packet's field holds, also beyond the 2^40 bytes of R249 (`checkExport`
turns such a packet down before it is taken, and `Turn` does not ask for that). With SIZE 2^64 − 2^21 from page 2 on, the last of
the pages is the one at 2^64, whose address names page 0 of space 0. In `overlongExportState` every page of the window has its
entry, and that of page 0 is corrupt: the walk reports it (EV_PTE_CORRUPT, R236), and the state claimed has no record of it. -/
theorem not_poolCommands : ¬ Obligations.PoolCommands := by
  unfold Obligations.PoolCommands
  intro h
  obtain ⟨-, hsize⟩ := overlongExport_fields
  obtain ⟨-, -, -, -, -, -, -, -, -, hexport, -⟩ := h (overlongExportState (2 ^ 43 + 1)) overlongExport.q overlongExport 0
  obtain ⟨-, hwindow⟩ := hexport (overlongExportState_turn _)
  have claimed := hwindow (by decide +kernel) (overlongExport_pages (Nat.lt_succ_self _))
  obtain ⟨u, actual, hgenerated⟩ := overlongExport_reports (by norm_num) (Nat.lt_succ_self _) hsize
  rw [Host.Outcome.next.inj (actual.symm.trans claimed), State.complete_cat (by decide) (by decide)] at hgenerated
  exact Nat.succ_ne_self _ hgenerated.symm

end Sys2Proof.Machine
end

section
/-! What an event changes at most (R54 to R56), and what an access that is answered leaves of the conservators (R233, R244, R247,
R249, R262). -/

namespace Sys2Proof.Machine

/-! ### What an event changes at most (R54 to R56, R409) -/

/-- `t` is `s` but for what an event can change: the free values used, the catalogue, what is on its way to the host and the
interrupts, and the memory with its context's ring. -/
def OnlyEvents (s t : State) : Prop :=
  t = { s with freeCtr := t.freeCtr, cat := t.cat, host := t.host, hbm := t.hbm, hostOut := t.hostOut }

theorem OnlyEvents.trans {s t u : State} (h : OnlyEvents s t) (h' : OnlyEvents t u) : OnlyEvents s u := by
  refine Eq.trans h' ?_
  rw [h]

theorem OnlyEvents.cons {s t : State} (h : OnlyEvents s t) : t.cons = s.cons := by rw [h]

theorem State.toHost_onlyEvents (s : State) (o : HostOut) : OnlyEvents s (s.toHost o) := by
  unfold State.toHost
  split <;> rfl

theorem State.signalVector_onlyEvents (s : State) (v : Nat) : OnlyEvents s (s.signalVector v) := by
  unfold State.signalVector
  dsimp only
  split
  · rfl
  · exact s.toHost_onlyEvents _

theorem State.exportPut_onlyEvents (s : State) (g : CatRing) (h a : Nat) (r : Record) : OnlyEvents s (s.exportPut g h a r) :=
  ((s.toHost_onlyEvents _).trans (State.toHost_onlyEvents _ _)).trans rfl

theorem State.exportOne_onlyEvents (s : State) (r : Record) : OnlyEvents s (s.exportOne r) := by
  unfold State.exportOne
  split
  · rfl
  · dsimp only
    split
    · refine OnlyEvents.trans ?_ (State.exportPut_onlyEvents _ _ _ _ _)
      rfl
    · rfl

theorem State.exportLost_onlyEvents (s : State) : OnlyEvents s s.exportLost := by
  unfold State.exportLost
  split
  · rfl
  · split
    · rfl
    · dsimp only
      split
      · rfl
      · refine OnlyEvents.trans ?_ (State.exportPut_onlyEvents _ _ _ _ _)
        rfl

theorem State.ringRead_onlyEvents (s : State) (ctx : Nat) (g : CatRing) : OnlyEvents s (s.ringRead ctx g) := by
  unfold State.ringRead
  split
  · split <;> rfl
  · rfl

theorem State.ringMismatch_onlyEvents (s : State) (ctx va : Nat) : OnlyEvents s (s.ringMismatch ctx va) := by
  unfold State.ringMismatch
  split
  · refine OnlyEvents.trans ?_ (State.exportOne_onlyEvents _ _)
    rfl
  · rfl

theorem State.toCtxRing_onlyEvents (s : State) (ctx : Nat) (r : Record) : OnlyEvents s (s.toCtxRing ctx r) := by
  unfold State.toCtxRing
  split
  · rfl
  · next g _ =>
    split
    · rfl
    · exact (((s.ringRead_onlyEvents ctx g).trans (State.ringMismatch_onlyEvents _ _ _)).trans
        (State.ringMismatch_onlyEvents _ _ _)).trans rfl

theorem State.forCtxRing_onlyEvents (s : State) (ctx : Nat) (r : Record) : OnlyEvents s (s.forCtxRing ctx r) := by
  unfold State.forCtxRing
  split
  · rfl
  · exact s.toCtxRing_onlyEvents ctx r

theorem State.ctxRingLost_onlyEvents (s : State) (ctx : Nat) : OnlyEvents s (s.ctxRingLost ctx) := by
  unfold State.ctxRingLost
  split
  · rfl
  · split
    · rfl
    · refine OnlyEvents.trans (OnlyEvents.trans ?_ (State.toCtxRing_onlyEvents _ _ _)) (State.exportOne_onlyEvents _ _)
      rfl

theorem State.raise_onlyEvents (s : State) (code src : Nat) (ctx : Option Nat) (args : List Nat) :
    OnlyEvents s (s.raise code src ctx args) := by
  unfold State.raise State.raiseWith
  extract_lets lost u p v w old z
  have hlost : OnlyEvents s lost := s.exportLost_onlyEvents
  have hu : OnlyEvents lost u := by
    simp only [u]
    split
    · split
      · rfl
      · exact State.ctxRingLost_onlyEvents _ _
    · rfl
  have hp : OnlyEvents u p.2 := rfl
  have hv : OnlyEvents p.2 v := by
    simp only [v]
    split
    · split
      · rfl
      · exact State.forCtxRing_onlyEvents _ _ _
    · rfl
  have hz : OnlyEvents s z := (((hlost.trans hu).trans hp).trans hv).trans (State.exportOne_onlyEvents _ _)
  split
  · exact hz.trans (State.signalVector_onlyEvents _ _)
  · exact hz

@[simp] theorem State.raise_cons (s : State) (code src : Nat) (ctx : Option Nat) (args : List Nat) :
    (s.raise code src ctx args).cons = s.cons := (s.raise_onlyEvents code src ctx args).cons

@[simp] theorem State.toHost_cons (s : State) (o : HostOut) : (s.toHost o).cons = s.cons :=
  (s.toHost_onlyEvents o).cons

/-! ### An uncorrectable read leaves the conservators (R208, R226, R228) -/

@[simp] theorem State.startL0_cons (s : State) (ctx cause : Nat) : (s.startL0 ctx cause).cons = s.cons := by
  unfold State.startL0
  split <;> rfl

@[simp] theorem State.uncorrectable_cons (s : State) (reader : Nat) (ctx : Option Nat) (line what : Nat) :
    (s.uncorrectable reader ctx line what).cons = s.cons := by
  unfold State.uncorrectable
  dsimp only
  split <;> simp

@[simp] theorem State.settleWc_cons (s : State) (before : List WcEntry) : (s.settleWc before).cons = s.cons := by
  refine foldl_view (view := State.cons) (fun u x => ?_) _ _
  split <;> simp

@[simp] theorem State.stallOff_cons (s : State) (u : StallUnit) : (s.stallOff u).cons = s.cons := by
  rw [stallOff_eq]

/-! ### Reads that are answered (R233, R241) -/

/-- Pages touched change the tiers alone. -/
theorem State.touchAll_eq (s : State) (ctx : Nat) (parts : List (Nat × Nat)) :
    s.touchAll ctx parts = { s with tier := (s.touchAll ctx parts).tier } := by
  have htouch : ∀ (u : State) va, u.touch ctx va = { u with tier := (u.touch ctx va).tier } := by
    intro u va
    unfold State.touch
    split
    · split
      · split <;> rfl
      · rfl
    · rfl
  unfold State.touchAll
  induction parts generalizing s with
  | nil => rfl
  | cons p parts ih =>
    rw [List.foldl_cons, ih, htouch]

section
variable {s v : State} {ctx va n deadline : Nat} {who : Accessor}

theorem State.parts_ok {write : Bool} {l : List (Nat × Nat)} (h : s.parts ctx va n write who deadline = (v, .ok l)) :
    v = { s with tier := v.tier } := by
  unfold State.parts State.partsWhen at h
  dsimp only at h
  split at h
  · cases h
  · split at h
    · split at h
      · cases h
        exact s.touchAll_eq ctx _
      · cases h
    · cases h
    · cases h

/-- A read that is answered touches pages and passes the caches: beside the tiers and the stacks it changes nothing. -/
theorem State.readVa_ok {noalloc : Bool} {b : List Byte} (h : s.readVa ctx va n who noalloc deadline = (v, .ok b)) :
    v = { s with tier := v.tier, hbm := v.hbm } := by
  unfold State.readVa at h
  split at h
  · next u l hparts =>
    split at h
    · cases h
    · cases h
      rw [State.parts_ok hparts]
  · cases h
  · cases h
  · cases h

end

/-! ### Accesses that are answered leave the conservators -/

/-- If the access is answered, the conservators are as in `c` then. -/
def KeepsCons {α : Type} (c : ConsSt) (r : State × Got α) : Prop := ∀ v x, r = (v, .ok x) → v.cons = c

section
variable {α β : Type} {c : ConsSt} {s : State} (h : s.cons = c)

theorem keepsCons_of_not_ok {r : State × Got α} (h : ∀ x, r.2 ≠ .ok x) : KeepsCons c r :=
  fun _ x hr => absurd (congrArg Prod.snd hr) (h x)

theorem KeepsCons.andThen {r : State × Got α} {f : State → α → State × Got β} (hr : KeepsCons c r)
    (hf : ∀ v x, v.cons = c → KeepsCons c (f v x)) : KeepsCons c (State.andThen r f) := by
  obtain ⟨v, g⟩ := r
  cases g with
  | ok x => exact hf v x (hr v x rfl)
  | wait => exact keepsCons_of_not_ok nofun
  | fault => exact keepsCons_of_not_ok nofun
  | damaged => exact keepsCons_of_not_ok nofun

theorem keepsCons_ite {p : Prop} [Decidable p] {r r' : State × Got α} (hr : KeepsCons c r) (hr' : KeepsCons c r') :
    KeepsCons c (if p then r else r') := by
  split
  · exact hr
  · exact hr'

include h

theorem keepsCons_ok (x : α) : KeepsCons c (s, .ok x) := by
  rintro _ _ ⟨⟩
  exact h

theorem keepsCons_parts (ctx va n : Nat) (write : Bool) (who : Accessor) (deadline : Nat) :
    KeepsCons c (s.parts ctx va n write who deadline) := by
  intro v l hparts
  rw [State.parts_ok hparts, h]

theorem keepsCons_readVa (ctx va n : Nat) (who : Accessor) (noalloc : Bool) (deadline : Nat) :
    KeepsCons c (s.readVa ctx va n who noalloc deadline) := by
  intro v b hread
  rw [State.readVa_ok hread, h]

theorem keepsCons_writeVa (ctx va : Nat) (bs : List Byte) (who : Accessor) (deadline : Nat) (whole : Bool) :
    KeepsCons c (s.writeVa ctx va bs who deadline whole) := by
  intro v x hwrite
  unfold State.writeVa at hwrite
  split at hwrite
  · next u l hparts =>
    have hu := keepsCons_parts h _ _ _ _ _ _ _ _ hparts
    cases hwrite
    exact (State.settleWc_cons _ _).trans hu
  · cases hwrite
  · cases hwrite
  · cases hwrite

theorem keepsCons_allWritable (ctx : Nat) (l : List (Nat × Nat × Accessor)) :
    KeepsCons c (s.allWritable ctx l) := by
  induction l generalizing s with
  | nil => exact keepsCons_ok h ()
  | cons x l ih => exact (keepsCons_parts h _ _ _ _ _ _).andThen fun v _ hv => ih hv

theorem keepsCons_writeAll (ctx : Nat) (who : Accessor) (l : List (Nat × List Byte)) :
    KeepsCons c (s.writeAll ctx who l) := by
  induction l generalizing s with
  | nil => exact keepsCons_ok h ()
  | cons w l ih => exact (keepsCons_writeVa h _ _ _ _ _ _).andThen fun v _ hv => ih hv

/-! ### Pieces in any space -/

/-- A piece asked for is answered at once at the own window alone (R249). -/
theorem keepsCons_requestPiece (o : Owner) (pc ctx i va n : Nat) (noalloc : Bool) (deadline : Nat) :
    KeepsCons c (s.requestPiece o pc ctx i va n noalloc deadline) := by
  unfold State.requestPiece
  dsimp only
  split
  · split
    · split <;> exact keepsCons_of_not_ok nofun
    · exact keepsCons_of_not_ok nofun
  · split
    · split
      · split
        · exact keepsCons_of_not_ok nofun
        · exact keepsCons_readVa h _ _ _ _ _ _
      · exact keepsCons_of_not_ok nofun
    · split <;> exact keepsCons_of_not_ok nofun

theorem keepsCons_readPiece (o : Owner) (pc ctx i va n : Nat) (who : Accessor) (noalloc : Bool) (deadline : Nat) :
    KeepsCons c (s.readPiece o pc ctx i va n who noalloc deadline) := by
  unfold State.readPiece
  split
  · split
    · exact keepsCons_of_not_ok nofun
    · exact keepsCons_readVa h _ _ _ _ _ _
  · split
    · exact keepsCons_of_not_ok nofun
    · split
      · split
        · exact keepsCons_of_not_ok nofun
        · split
          · exact keepsCons_ok h _
          · exact keepsCons_of_not_ok nofun
      · split
        · exact keepsCons_of_not_ok nofun
        · exact keepsCons_requestPiece h _ _ _ _ _ _ _ _

theorem keepsCons_readPieces (o : Owner) (pc ctx : Nat) (who : Accessor) (noalloc : Bool) (deadline : Nat) (l : List Piece)
    : KeepsCons c (s.readPieces o pc ctx who noalloc deadline l) := by
  induction l generalizing s with
  | nil => exact keepsCons_ok h []
  | cons p l ih =>
    intro v bs hread
    unfold State.readPieces at hread
    split at hread
    · next u b hpiece =>
      have hu := keepsCons_readPiece h _ _ _ _ _ _ _ _ _ _ _ hpiece
      split at hread
      · next hrest =>
        cases hread
        exact ih hu _ _ hrest
      · exact ih hu _ _ hread
    · split at hread
      · cases hread
      · cases hread
      · next hnot _ => exact absurd hread (hnot _ _)
    · next hnot _ => exact absurd hread (hnot _ _)

/-- A piece sent is answered at once at the host tier or at the own window alone (R247, R249). -/
theorem keepsCons_sendPiece (o : Owner) (pc ctx i va : Nat) (bs : List Byte) (deadline : Nat) :
    KeepsCons c (s.sendPiece o pc ctx i va bs deadline) := by
  unfold State.sendPiece
  dsimp only
  split
  · split
    · split
      · intro v x hsent
        obtain ⟨rfl, -⟩ := Prod.mk.inj hsent
        exact (State.toHost_cons _ _).trans h
      · exact keepsCons_of_not_ok nofun
    · exact keepsCons_of_not_ok nofun
  · split
    · split
      · split
        · next hwrite =>
          have hu := keepsCons_writeVa h _ _ _ _ _ _ _ _ hwrite
          exact keepsCons_ok (s := State.addRemote _ _) hu ()
        · exact keepsCons_of_not_ok nofun
        · exact keepsCons_writeVa h _ _ _ _ _ _
      · exact keepsCons_of_not_ok nofun
    · repeat' split
      all_goals exact keepsCons_of_not_ok nofun

theorem keepsCons_writePiece (o : Owner) (pc ctx i va : Nat) (bs : List Byte) (who : Accessor) (deadline : Nat) (whole : Bool) :
    KeepsCons c (s.writePiece o pc ctx i va bs who deadline whole) := by
  unfold State.writePiece
  split
  · split
    · exact keepsCons_of_not_ok nofun
    · exact keepsCons_writeVa h _ _ _ _ _ _
  · split
    · exact keepsCons_of_not_ok nofun
    · split
      · split
        · exact keepsCons_of_not_ok nofun
        · split
          · exact keepsCons_ok h _
          · exact keepsCons_of_not_ok nofun
      · split
        · exact keepsCons_of_not_ok nofun
        · exact keepsCons_sendPiece h _ _ _ _ _ _ _

theorem keepsCons_checkWrites (ctx : Nat) (who : Accessor) (deadline : Nat) (l : List Piece) :
    KeepsCons c (s.checkWrites ctx who deadline l) := by
  induction l generalizing s with
  | nil => exact keepsCons_ok h ()
  | cons p l ih =>
    unfold State.checkWrites
    split
    · exact ih h
    · split
      · next hparts => exact ih (keepsCons_parts h _ _ _ _ _ _ _ _ hparts)
      · exact keepsCons_of_not_ok nofun
      · exact keepsCons_of_not_ok nofun
      · exact keepsCons_of_not_ok nofun

theorem keepsCons_writeEach (o : Owner) (pc ctx : Nat) (who : Accessor) (deadline : Nat) (whole : Bool) (l : List Piece)
    (bs : List Byte) : KeepsCons c (s.writeEach o pc ctx who deadline whole l bs) := by
  induction l generalizing s bs with
  | nil => exact keepsCons_ok h ()
  | cons p l ih =>
    intro v x hwrite
    unfold State.writeEach at hwrite
    split at hwrite
    · next hpiece => exact ih (keepsCons_writePiece h _ _ _ _ _ _ _ _ _ _ _ hpiece) _ _ _ hwrite
    · split at hwrite
      · cases hwrite
      · cases hwrite
      · next hnot _ => exact absurd hwrite (hnot _ _)
    · next hnot _ => exact absurd hwrite (hnot _ _)

theorem keepsCons_writePieces (o : Owner) (pc ctx : Nat) (who : Accessor) (deadline : Nat) (l : List Piece) (bs : List Byte) :
    KeepsCons c (s.writePieces o pc ctx who deadline l bs) := by
  intro v x hwrite
  unfold State.writePieces at hwrite
  split at hwrite
  · next hcheck => exact keepsCons_writeEach (keepsCons_checkWrites h _ _ _ _ _ _ hcheck) _ _ _ _ _ _ _ _ _ _ hwrite
  · next hnot => exact absurd hwrite (hnot _ _)

end

/-! ### A shard's inputs and writes (R303, R309, R322) -/

section
variable {c : ConsSt} {s : State} (h : s.cons = c)
include h

theorem keepsCons_readShard (ctx : Nat) (d : Shard) : KeepsCons c (s.readShard ctx d) :=
  (keepsCons_readVa h _ _ _ _ _ _).andThen fun _ _ h => (keepsCons_readVa h _ _ _ _ _ _).andThen fun _ _ h =>
    (keepsCons_readVa h _ _ _ _ _ _).andThen fun _ _ h => keepsCons_ok h _

/-- The inputs one after another; the clip list and the gradient only where they are needed. -/
theorem keepsCons_updInputs (ctx : Nat) (d : Shard) (t : Taken) : KeepsCons c (s.updInputs ctx d t) := by
  unfold State.updInputs
  refine (keepsCons_readVa h _ _ _ _ _ _).andThen fun s _ h => ?_
  refine (keepsCons_readVa h _ _ _ _ _ _).andThen fun s _ h => ?_
  refine (keepsCons_readVa h _ _ _ _ _ _).andThen fun s _ h => ?_
  refine (keepsCons_ite (keepsCons_ok h _) (keepsCons_readVa h _ _ _ _ _ _)).andThen fun s _ h => ?_
  refine (keepsCons_readVa h _ _ _ _ _ _).andThen fun s _ h => ?_
  refine (keepsCons_readVa h _ _ _ _ _ _).andThen fun s _ h => ?_
  refine (keepsCons_readVa h _ _ _ _ _ _).andThen fun s _ h => ?_
  exact (keepsCons_ite (keepsCons_readVa h _ _ _ _ _ _) (keepsCons_ok h _)).andThen fun s _ h => keepsCons_ok h _

/-- Places tried, then records and working values written. -/
theorem keepsCons_writes (ctx : Nat) (targets : List (Nat × Nat × Accessor)) (recs wks : List (Nat × List Byte)) :
    KeepsCons c (State.andThen (s.allWritable ctx targets) (fun s _ =>
      State.andThen (s.writeAll ctx .conservator recs) (fun s _ => s.writeAll ctx (.other false) wks))) :=
  (keepsCons_allWritable h _ _).andThen fun _ _ h => (keepsCons_writeAll h _ _ _).andThen fun _ _ h => keepsCons_writeAll h _ _ _

end

end Sys2Proof.Machine
end

section
/-! The conservators' commands (10_conservators.md R289, R291, R298, R303 to R310, R316 to R323): what a run leaves to the completion, the
start in ring order and the wait for earlier commands, and the completion. -/

namespace Sys2Proof.Machine

/-! ### The list of commands and the commands taken -/

/-- The first entry that meets a test, after a change that leaves it meeting the test. -/
theorem find?_replaceFirst {α : Type} {p : α → Bool} {f : α → α} (hf : ∀ a, p a = true → p (f a) = true) (l : List α) :
    (replaceFirst p f l).find? p = (l.find? p).map f := by
  induction l with
  | nil => rfl
  | cons a l ih =>
    by_cases ha : p a = true
    · simp [replaceFirst, ha, hf a ha]
    · simp [replaceFirst, ha, ih]

theorem State.findTaken_begin (s : State) (q : CmdRef) :
    (s.begin q).findTaken q = (s.findTaken q).map (fun t => { t with begun := true }) := by
  refine find?_replaceFirst (fun t ht => ?_) s.host.taken
  exact ht

theorem State.findTaken_startTaken (s : State) (q : CmdRef) :
    (s.startTaken q).findTaken q = (s.findTaken q).map (fun t => { t with started := true }) := by
  refine find?_replaceFirst (fun t ht => ?_) s.host.taken
  exact ht

/-- A command of the list is the one that its reference finds. -/
theorem State.q_of_consCmd? {s : State} {q : CmdRef} {x : ConsCmd} (h : s.consCmd? q = some x) : x.q = q := by
  simpa using List.find?_some h

/-- An end noted for a command of the list is found there. -/
theorem State.consCmd?_setConsCmd {s : State} {x y : ConsCmd} (h : s.consCmd? x.q = some y) : (s.setConsCmd x).consCmd? x.q = some x := by
  have hfind : s.cons.cmds.find? (fun c => c.q == x.q) = some y := h
  have hset := find?_replaceFirst (p := fun c : ConsCmd => c.q == x.q) (f := fun _ => x) (fun _ _ => beq_self_eq_true x.q) s.cons.cmds
  rw [hfind] at hset
  exact hset

@[simp] theorem State.consProgress_cons (s : State) (x : ConsCmd) : (s.consProgress x).cons = s.cons := by
  unfold State.consProgress
  split <;> rfl

@[simp] theorem State.consRead_cons (s : State) (x : ConsCmd) (opcode : Nat) : (s.consRead x opcode).cons = s.cons := by
  unfold State.consRead
  split <;> simp

@[simp] theorem State.consRead_hbm (s : State) (x : ConsCmd) (opcode : Nat) : (s.consRead x opcode).hbm = s.hbm := by
  unfold State.consRead State.consProgress
  split
  · split <;> rfl
  · rfl

@[simp] theorem State.countRecords_cmds (s : State) (ctx : Nat) (vas : List Nat) :
    (s.countRecords ctx vas).cons.cmds = s.cons.cmds := by
  unfold State.countRecords
  refine foldl_view (view := fun u : State => u.cons.cmds) (fun u va => ?_) vas s
  rfl

@[simp] theorem State.countRecords_hbm (s : State) (ctx : Nat) (vas : List Nat) : (s.countRecords ctx vas).hbm = s.hbm := by
  unfold State.countRecords
  refine foldl_view (view := State.hbm) (fun u va => ?_) vas s
  rfl

@[simp] theorem State.reportRecords_cmds (s : State) (ctx base step : Nat) (l : List (Nat × Nat × Nat)) :
    (s.reportRecords ctx base step l).cons.cmds = s.cons.cmds := by
  unfold State.reportRecords
  dsimp only
  split <;> split <;> simp

/-! ### What a run leaves to its completion -/

/-- `u` notes the end `e` for the command `x`, and is beside that a state with the commands of `s` and the memory `m`. -/
def LeavesEnd (s : State) (x : ConsCmd) (e : ConsEnd) (m : HbmSt) (u : State) : Prop :=
  ∃ v : State, v.cons.cmds = s.cons.cmds ∧ v.hbm = m ∧ u = v.setConsCmd { x with ran := some e }

theorem LeavesEnd.found {s u : State} {x : ConsCmd} {e : ConsEnd} {m : HbmSt} (h : LeavesEnd s x e m u) (hx : s.consCmd? x.q = some x)
    (opcode : Nat) :
    (u.consRead x opcode).consCmd? x.q = some { x with ran := some e } ∧ (u.consRead x opcode).hbm = m := by
  obtain ⟨v, hcmds, hm, rfl⟩ := h
  have hv : v.consCmd? x.q = some x := by rw [State.consCmd?, hcmds]; exact hx
  refine ⟨?_, ?_⟩
  · rw [State.consCmd?, State.consRead_cons]
    exact State.consCmd?_setConsCmd (x := { x with ran := some e }) hv
  · rw [State.consRead_hbm]
    exact hm

theorem LeavesEnd.after {s a u : State} {x : ConsCmd} {e : ConsEnd} {m : HbmSt} (h : LeavesEnd a x e m u) (ha : a.cons = s.cons) :
    LeavesEnd s x e m u := by
  obtain ⟨v, hcmds, hrest⟩ := h
  exact ⟨v, by rw [hcmds, ha], hrest⟩

theorem State.andThen_ok {α β : Type} {s : State} {a : α} (f : State → α → State × Got β) :
    State.andThen (s, .ok a) f = f s a := rfl

theorem State.consOutcome_ok {α : Type} {s v : State} {q : CmdRef} {a : α} {f : State → α → State} {r : State × Got α}
    (h : r = (v, .ok a)) : s.consOutcome q r f = f v a := by
  rw [h]
  rfl

section
variable {s a b c z : State} {x : ConsCmd} {t : Taken} {d : Shard}

/-- UPD_NORM (R321). -/
theorem State.normRun_leaves {g grads : List Byte} {k : Int} {ps : List (Nat × Nat)}
    (hscale : s.readVa x.q.ctx.val (t.par 40 8) 64 (.other false) false 0 = (a, .ok g))
    (hgrads : a.readVa x.q.ctx.val (t.par 32 8) d.gradBytes (.other false) false 0 = (b, .ok grads))
    (hplace : b.parts x.q.ctx.val (t.par 48 8) 4 true (.other false) 0 = (c, .ok ps)) (hk : gscaleK g (t.par 16 4) = some k) :
    let n := sumSquares ((gradValues d grads).map (fun z => F32.mul z (gradFactor d k)))
    LeavesEnd s x ⟨stOk, n.toNat, 0, [(t.par 48 8, leBytes 4 n.toNat)], [], false, none⟩ c.hbm (s.normRun x t d) := by
  have hcons : c.cons = s.cons := keepsCons_parts (keepsCons_readVa (keepsCons_readVa rfl _ _ _ _ _ _ _ _ hscale) _ _ _ _ _ _ _ _ hgrads)
    _ _ _ _ _ _ _ _ hplace
  refine ⟨c, by rw [hcons], rfl, ?_⟩
  unfold State.normRun
  dsimp only
  rw [hscale, State.andThen_ok, hgrads, State.andThen_ok, hplace, State.andThen_ok, State.consOutcome_ok rfl]
  simp only [hk]

/-- A shard written whole (R322). -/
theorem State.shardRun_leaves {tag : Nat} {recs : List (List Byte)} {sc : W32 × W32} (header : List Byte)
    (hwrites : shardWrites s x.q.ctx.val d recs sc = (c, .ok ())) :
    LeavesEnd s x ⟨stOk, d.count, 0, [(d.hdr, header), (d.commit, commitLine d tag)], [], true, none⟩ c.hbm
      (s.shardRun x d tag recs sc header) := by
  have hcons : c.cons = s.cons := keepsCons_writes rfl _ _ _ _ _ _ hwrites
  refine ⟨c.countRecords x.q.ctx.val ((recs.zipIdx.map (fun r => (d.recs + 256 * r.2, r.1))).map (·.1)), ?_, ?_, ?_⟩
  · rw [State.countRecords_cmds, hcons]
  · exact State.countRecords_hbm _ _ _
  · unfold State.shardRun
    exact State.consOutcome_ok hwrites

/-- The largest magnitude among the finite masters. -/
def initAmax (vals : List W32) : W32 := (finiteOf vals).foldl (fun m v => F32.maxNum m (F32.abs v)) 0

/-- The masters that REC_INIT reads. -/
def initValues (d : Shard) (b : List Byte) : List W32 := (List.range d.nparam).map (fun j => BitVec.ofNat 32 (fld b (4 * j) 4))

/-- S and INV_S of the working copy that REC_INIT writes, from the masters and the header that stands (R307, R322). -/
def initScale (d : Shard) (vals header : List Byte) : W32 × W32 :=
  nextScale d (initAmax (initValues d vals)) (BitVec.ofNat 32 (fld header 8 4)) (BitVec.ofNat 32 (fld header 12 4))

/-- The records that REC_INIT writes. -/
def initRecords (d : Shard) (tag : Nat) (vals : List Byte) : List (List Byte) :=
  (List.range d.count).map (fun r => freshRecord d tag (((initValues d vals).drop (d.params * r)).take d.params))

/-- REC_INIT (R322). -/
theorem State.initRun_leaves {vals h : List Byte}
    (hvals : s.readPieces (.cons x.q 0) 0 x.q.ctx.val (.other false) false 0 (chunks (t.par 32 8) (4 * d.nparam)) = (a, .ok vals))
    (hheader : a.readVa x.q.ctx.val d.hdr 64 (.other false) false 0 = (b, .ok h))
    (hwrites : shardWrites b x.q.ctx.val d (initRecords d (t.par 16 4) vals) (initScale d vals h) = (c, .ok ())) :
    LeavesEnd s x ⟨stOk, d.count, 0, [(d.hdr, shardHeader d (t.par 16 4) (initScale d vals h).1 (initScale d vals h).2
      (initAmax (initValues d vals))), (d.commit, commitLine d (t.par 16 4))], [], true, none⟩ c.hbm (s.initRun x t d) := by
  have hcons : b.cons = s.cons := keepsCons_readVa (keepsCons_readPieces rfl _ _ _ _ _ _ _ _ _ hvals) _ _ _ _ _ _ _ _ hheader
  unfold State.initRun
  dsimp only
  rw [hvals, State.andThen_ok, hheader, State.andThen_ok, State.consOutcome_ok rfl]
  exact (State.shardRun_leaves _ hwrites).after hcons

/-- A copy is sound when its commit line, its header and its records are at the tag (R322). -/
theorem copyFailure_eq_none {tag : Nat} {commit header : List Byte} {rs : List (List Byte)} (hcommit : tagOf commit = some tag)
    (hheader : tagOf header = some tag) (hrecs : failing d [tag] rs = []) : copyFailure d tag commit header rs = none := by
  simp [copyFailure, hcommit, hheader, hrecs]

/-- A record taken over from a copy: the importing shard's owner and role, the copy's flags SKIPPED and CLIPPED (R322). -/
def importedRecord (d : Shard) (r : List Byte) : List Byte :=
  bsub r 0 11 ++ leBytes 1 (fld r 11 1 % 4 + 4 * bit01 d.shadow) ++ leBytes 2 d.owner ++ bsub r 14 242

/-- REC_IMPORT (R322). -/
theorem State.importRun_leaves {copy : List Byte}
    (hcopy : s.readPieces (.cons x.q 0) 0 x.q.ctx.val (.other false) false 0 (chunks (t.par 32 8) (128 + 256 * d.count)) = (a, .ok copy))
    (hcommit : tagOf (bsub copy 0 64) = some (t.par 16 4)) (hheader : tagOf (bsub copy 64 64) = some (t.par 16 4))
    (hrecs : failing d [t.par 16 4] (recordsOf (copy.drop 128) d.count) = [])
    (hwrites : shardWrites a x.q.ctx.val d ((recordsOf (copy.drop 128) d.count).map (importedRecord d))
      (BitVec.ofNat 32 (fld copy 72 4), BitVec.ofNat 32 (fld copy 76 4)) = (c, .ok ())) :
    LeavesEnd s x ⟨stOk, d.count, 0, [(d.hdr, bsub copy 64 64), (d.commit, commitLine d (t.par 16 4))], [], true, none⟩ c.hbm
      (s.importRun x t d) := by
  have hcons : a.cons = s.cons := keepsCons_readPieces rfl _ _ _ _ _ _ _ _ _ hcopy
  unfold State.importRun
  dsimp only
  rw [State.consOutcome_ok hcopy]
  simp only [copyFailure_eq_none hcommit hheader hrecs]
  exact (State.shardRun_leaves _ hwrites).after hcons

/-- REC_EXPORT (R322). -/
theorem State.exportRun_leaves {shard : List Byte} (hshard : s.readShard x.q.ctx.val d = (a, .ok shard))
    (hcommit : tagOf (bsub shard 0 64) = some (t.par 16 4)) (hheader : tagOf (bsub shard 64 64) = some (t.par 16 4))
    (hrecs : failing d [t.par 16 4] (recordsOf (shard.drop 128) d.count) = [])
    (hsent : a.writePieces (.cons x.q x.unit) 0 x.q.ctx.val (.other false) 0 (chunks (t.par 32 8) (128 + 256 * d.count)) shard =
      (c, .ok ())) :
    LeavesEnd s x ⟨stOk, 128 + 256 * d.count, 0, [], [], false, none⟩ c.hbm (s.exportRun x t d) := by
  have hcons : c.cons = s.cons := keepsCons_writePieces (keepsCons_readShard rfl _ _ _ _ hshard) _ _ _ _ _ _ _ _ _ hsent
  refine ⟨c, by rw [hcons], rfl, ?_⟩
  unfold State.exportRun
  dsimp only
  rw [State.consOutcome_ok hshard]
  simp only [copyFailure_eq_none hcommit hheader hrecs, hsent]

end

/-! ### A sound shard (R308, R318) -/

/-- No record fails: each is present and at one of the tags. -/
theorem failing_eq_nil_iff {d : Shard} {tags : List Nat} {rs : List (List Byte)} :
    failing d tags rs = [] ↔ ∀ r ∈ rs, recordCause d r = 0 ∧ fld r 0 4 ∈ tags := by
  unfold failing
  rw [List.filterMap_eq_nil_iff]
  constructor
  · intro h r hr
    obtain ⟨i, hi⟩ := List.getElem?_of_mem hr
    have := h (r, i) (List.mem_zipIdx_iff_getElem?.mpr hi)
    dsimp only at this
    split at this
    · cases this
    · split at this
      · next hcause htag => exact ⟨not_not.mp hcause, List.contains_iff_mem.mp htag⟩
      · cases this
  · rintro h ⟨r, i⟩ hr
    obtain ⟨hcause, htag⟩ := h r (List.fst_mem_of_mem_zipIdx hr)
    simp [hcause, htag]

/-- With no tag asked for, the failing records of a sound shard are none that is absent. -/
theorem filter_failing_nil {d : Shard} {rs : List (List Byte)} (h : ∀ r ∈ rs, recordCause d r = 0) :
    (failing d [] rs).filter (fun f => f.2.1 != 0) = [] := by
  rw [List.filter_eq_nil_iff]
  intro f hf
  obtain ⟨⟨r, i⟩, hr, hfail⟩ := List.mem_filterMap.mp hf
  have hcause := h r (List.fst_mem_of_mem_zipIdx hr)
  simp only [hcause, ne_eq, not_true_eq_false, if_false, List.contains_nil, Bool.false_eq_true, Option.some.injEq] at hfail
  simp [← hfail]

theorem differing_self (l : List Nat) (ok : Nat → Bool) : differing l l ok = [] := by
  unfold differing
  rw [List.filterMap_eq_nil_iff]
  rintro ⟨⟨a, b⟩, i⟩ hmem
  have hpair : (a, b) ∈ l.zip l := List.fst_mem_of_mem_zipIdx hmem
  have hab : a = b := by
    obtain ⟨j, hj⟩ := List.getElem?_of_mem hpair
    obtain ⟨ha, hb⟩ := List.getElem?_zip_eq_some.mp hj
    exact Option.some.inj (ha.symm.trans hb)
  simp [hab]

@[simp] theorem State.reportRecords_nil_hbm (s : State) (ctx base step : Nat) : (s.reportRecords ctx base step []).hbm = s.hbm := rfl

/-- The working copy that follows from a shard as it stands: commit line, header, records (R306). -/
def shardWorking (d : Shard) (shard : List Byte) : Working :=
  working d (BitVec.ofNat 32 (fld shard 72 4)) (BitVec.ofNat 32 (fld shard 76 4))
    ((recordsOf (shard.drop 128) d.count).flatMap (recordWide d))

/-- What CONS_SWEEP writes of a sound shard of which `n` values were compared (R318). -/
def soundSweep (n step : Nat) : List Byte :=
  leBytes 8 n ++ leBytes 8 0 ++ leBytes 8 (2 ^ 64 - 1) ++ leBytes 8 0 ++ leBytes 8 0 ++ leBytes 4 step ++ leBytes 4 step ++
    List.replicate 16 0

/-- CONS_SWEEP of a sound shard (R318). -/
theorem State.sweepRun_leaves {s a p y z : State} {x : ConsCmd} {t : Taken} {d : Shard} {shard plane side : List Byte}
    {ps : List (Nat × Nat)} (hshard : s.readShard x.q.ctx.val d = (a, .ok shard))
    (hcommit : tagOf (bsub shard 0 64) = some (t.par 16 4)) (hheader : tagOf (bsub shard 64 64) = some (t.par 16 4))
    (hrecs : failing d [t.par 16 4] (recordsOf (shard.drop 128) d.count) = [])
    (hplane : (if (t.par 20 4).testBit 0 then a.readVa x.q.ctx.val d.wc d.planeBytes (.other false) false 0 else (a, .ok [])) =
      (p, .ok plane))
    (hside : (if (t.par 20 4).testBit 0 && d.isSb then p.readVa x.q.ctx.val d.side d.sideBytes (.other false) false 0 else (p, .ok [])) =
      (y, .ok side))
    (hplace : y.parts x.q.ctx.val (t.par 32 8) 64 true (.other false) 0 = (z, .ok ps))
    (hcodes : (t.par 20 4).testBit 0 = true → planeCodes d.fmt.bits plane d.nparam = (shardWorking d shard).codes.map (·.1))
    (hentries : (t.par 20 4).testBit 0 = true → d.isSb = true → planeCodes 16 side (d.nparam / 32) = (shardWorking d shard).side) :
    ∃ n ≤ d.nparam,
      LeavesEnd s x ⟨stOk, 0, 0, [(t.par 32 8, soundSweep n (t.par 16 4))], [], false, some 0⟩ z.hbm (s.sweepRun x t d) := by
  have hcons : z.cons = s.cons := by
    have ha : a.cons = s.cons := keepsCons_readShard rfl _ _ _ _ hshard
    have hp : p.cons = s.cons := keepsCons_ite (keepsCons_readVa ha _ _ _ _ _ _) (keepsCons_ok ha _) _ _ hplane
    have hy : y.cons = s.cons := keepsCons_ite (keepsCons_readVa hp _ _ _ _ _ _) (keepsCons_ok hp _) _ _ hside
    exact keepsCons_parts hy _ _ _ _ _ _ _ _ hplace
  have hsound := failing_eq_nil_iff.mp hrecs
  unfold State.sweepRun
  dsimp only
  rw [hshard, State.andThen_ok, hplane, State.andThen_ok, hside, State.andThen_ok, hplace, State.andThen_ok, State.consOutcome_ok rfl]
  dsimp only
  have hbad := filter_failing_nil fun r hr => (hsound r hr).1
  have hothers : (recordsOf (shard.drop 128) d.count).filter (fun r => recordCause d r == 0 && fld r 0 4 != t.par 16 4) = [] := by
    rw [List.filter_eq_nil_iff]
    intro r hr
    obtain ⟨-, htag⟩ := hsound r hr
    simp [List.mem_singleton.mp htag]
  have helems : ∀ ok, (if (t.par 20 4).testBit 0 then differing (planeCodes d.fmt.bits plane d.nparam)
      ((shardWorking d shard).codes.map (·.1)) ok else []) = [] := by
    intro ok
    split
    · next hderive => rw [hcodes hderive, differing_self]
    · rfl
  have hsides : ∀ ok, (if (t.par 20 4).testBit 0 && d.isSb then differing (planeCodes 16 side (d.nparam / 32))
      (shardWorking d shard).side ok else []) = [] := by
    intro ok
    split
    · next hderive =>
      obtain ⟨hderive, hsb⟩ := Bool.and_eq_true_iff.mp hderive
      rw [hentries hderive hsb, differing_self]
    · rfl
  unfold shardWorking at helems hsides
  simp only [hbad, hothers, helems, hsides, hcommit, hheader, hrecs, bne_self_eq_false, Bool.or_self, Bool.false_eq_true, if_false,
    List.length_nil, List.isEmpty_nil, Bool.not_true]
  refine ⟨_, ?_, z.reportRecords x.q.ctx.val d.recs (t.par 16 4) [], ?_, ?_, rfl⟩
  · split
    · exact (List.length_filter_le _ _).trans_eq List.length_range
    · exact Nat.zero_le _
  · rw [State.reportRecords_cmds, hcons]
  · exact State.reportRecords_nil_hbm _ _ _ _

/-! ### UPD_APPLY (R303 to R310) -/

section
variable (d : Shard) (t : Taken) (i : UpdInputs) (k : Int) (c : W32)

/-- How the records of an update stand. -/
def updStands : List Nat := (recordsOf i.recs d.count).map (recordStand d (t.par 16 4))

/-- A health word skips the update (R309). -/
def updSkip : Bool := (skipWords t i.health).any (fun n => n != 0)

/-- How many records stand at `v`: 1 are those that the update changes, 2 those that it has changed already. -/
def updCount (v : Nat) : Nat := ((updStands d t i).filter (fun w => w == v)).length

/-- A repeated update that finds all done (R310). -/
def updDone : Bool := tagOf i.commit == some ((t.par 16 4 + 1) % 2 ^ 32) && updCount d t i 1 == 0

/-- The wide masters after the update. -/
def updWide : List FVal := (updated d t i k c).flatMap (recordWide d)

/-- AMAX of the shard's header after the update. -/
def updAmax : W32 := if updSkip t i || updDone d t i then BitVec.ofNat 32 (fld i.header 16 4) else amaxOf (updWide d t i k c)

/-- S and INV_S of the working copy after the update (R307). -/
def updScale : W32 × W32 :=
  if updSkip t i || updDone d t i then (BitVec.ofNat 32 (fld i.header 8 4), BitVec.ofNat 32 (fld i.header 12 4))
  else nextScale d (BitVec.ofNat 32 (fld i.header 16 4)) (BitVec.ofNat 32 (fld i.header 8 4)) (BitVec.ofNat 32 (fld i.header 12 4))

/-- The records that the update writes. -/
def updRecords : List (Nat × List Byte) :=
  ((updated d t i k c).zipIdx.filter (fun r => (updStands d t i).getD r.2 0 == 1)).map (fun r => (d.recs + 256 * r.2, r.1))

/-- The working values that the update writes. -/
def updWorking : List (Nat × List Byte) :=
  workingWrites d (working d (updScale d t i).1 (updScale d t i).2 (updWide d t i k c))
    ((updStands d t i).map (fun v => !updSkip t i && (v == 1 || (v == 2 && tagOf i.commit != some ((t.par 16 4 + 1) % 2 ^ 32)))))

/-- Every place that the update writes, its statistics record, header and commit line among them (R310). -/
def updTargets : List (Nat × Nat × Accessor) :=
  (updRecords d t i k c).map (fun w => (w.1, 256, .conservator)) ++ (updWorking d t i k c).map (fun w => (w.1, w.2.length, .other false)) ++
    [(d.lstat, 64, .other false), (d.hdr, 64, .other false), (d.commit, 64, .conservator)]

/-- The places tried, then records and working values written. -/
def updWrites (s : State) (ctx : Nat) : State × Got Unit :=
  State.andThen (s.allWritable ctx (updTargets d t i k c)) (fun s _ =>
    State.andThen (s.writeAll ctx .conservator (updRecords d t i k c)) (fun s _ => s.writeAll ctx (.other false) (updWorking d t i k c)))

/-- What the update makes of a record, with the parameters that it computes for it (R305, R309). -/
def updOut (r : List Byte × Nat) : List Byte × List ParamUpd :=
  if !((updStands d t i).map (fun v => v == 1)).getD r.2 false then (r.1, [])
  else if updSkip t i then (recordHeader d ((t.par 16 4 + 1) % 2 ^ 32) true false ++ bsub r.1 16 240, [])
  else
    let ps := updateRecord d (updConst d i.sched (t.par 16 4) k) c r.1 (((gradValues d i.grads).drop (d.params * r.2)).take d.params)
    (recordHeader d ((t.par 16 4 + 1) % 2 ^ 32) false (F32.lt c F32.one) ++ recordBody d ps, ps)

/-- What it makes of every record of the shard. -/
def updOuts : List (List Byte × List ParamUpd) := (recordsOf i.recs d.count).zipIdx.map (updOut d t i k c)

theorem getD_map_beq (l : List Nat) (v n : Nat) (hv : v ≠ 0) : (l.map (fun w => w == v)).getD n false = (l.getD n 0 == v) := by
  rw [show false = ((0 : Nat) == v) from (beq_eq_false_iff_ne.mpr hv.symm).symm]
  exact List.getD_map ..

theorem map_fst_updOuts : (updOuts d t i k c).map (·.1) = updated d t i k c := by
  unfold updOuts updated
  rw [List.map_map]
  refine List.map_congr_left fun r hr => ?_
  have hstand : (updStands d t i).getD r.2 0 = recordStand d (t.par 16 4) r.1 := by
    rw [List.getD_eq_getElem?_getD, updStands, List.getElem?_map, List.mem_zipIdx_iff_getElem?.mp hr]
    rfl
  simp only [Function.comp_apply, updOut, getD_map_beq _ 1 _ one_ne_zero, hstand, updSkip, Taken.par]
  by_cases h1 : recordStand d (fld t.packet 16 4) r.1 = 1
  · simp only [h1, beq_self_eq_true, Bool.not_true, Bool.false_eq_true, if_false, ne_eq, not_true_eq_false]
    exact apply_ite Prod.fst _ _ _
  · simp [h1]

theorem length_filter_map_beq (l : List Nat) (v : Nat) :
    ((l.map (fun w => w == v)).filter (fun b => b)).length = (l.filter (fun w => w == v)).length := by
  rw [List.filter_map, List.length_map]
  rfl

theorem updRecords_eq : ((updOuts d t i k c).zipIdx.filter (fun o => ((updStands d t i).map (fun v => v == 1)).getD o.2 false)).map
    (fun o => (d.recs + 256 * o.2, o.1.1)) = updRecords d t i k c := by
  unfold updRecords
  rw [← map_fst_updOuts, List.zipIdx_map, List.filter_map, List.map_map]
  simp only [getD_map_beq _ 1 _ one_ne_zero]
  rfl

theorem updWide_eq : ((updOuts d t i k c).map (fun o => recordWide d o.1)).flatten = updWide d t i k c := by
  unfold updWide
  rw [← map_fst_updOuts, List.flatMap_map, List.flatMap_def]

end

/-- An update whose records all stand well: it leaves its statistics record and, unless all was done, header and commit line. -/
theorem State.applyRun_leaves {s b : State} {x : ConsCmd} {t : Taken} {d : Shard} {i : UpdInputs} {k : Int} {c : W32}
    (hbad : failing d [t.par 16 4, (t.par 16 4 + 1) % 2 ^ 32] (recordsOf i.recs d.count) = [])
    (hwrites : updWrites d t i k c s x.q.ctx.val = (b, .ok ())) :
    ∃ e m, LeavesEnd s x e m (s.applyRun x t d i k c) ∧ e.status = stOk ∧ e.r0 = updCount d t i 1 ∧
      e.r1 = updCount d t i 2 + 2 ^ 32 * 0xFFFFFFFF ∧ e.committed = !updDone d t i ∧ e.swept = none ∧
      ∃ stats, e.writes = (d.lstat, stats) :: (if updDone d t i then [] else
        [(d.hdr, shardHeader d ((t.par 16 4 + 1) % 2 ^ 32) (updScale d t i).1 (updScale d t i).2 (updAmax d t i k c)),
          (d.commit, commitLine d ((t.par 16 4 + 1) % 2 ^ 32))]) := by
  have hcons : b.cons = s.cons := keepsCons_writes rfl _ _ _ _ _ _ hwrites
  unfold State.applyRun
  extract_lets ctx step next words skip con rs grads committed stands upd bad clipped outs count already done ws ps newWs hs hinv oldAmax
    sc amax wk live sats nonfin g2 d2 w2 ratio hi lo recovered isClip stats recWrites wkWrites targets src r1
  have hbad' : bad = [] := hbad
  have hcount : count = updCount d t i 1 := length_filter_map_beq _ 1
  have hdone : done = updDone d t i := by
    simp only [done, hbad', hcount]
    simp [updDone, committed, next, step]
  have hwide : ws.flatten = updWide d t i k c := updWide_eq d t i k c
  have hsc : sc = updScale d t i := by simp only [sc, hdone]; rfl
  have hamax : amax = updAmax d t i k c := by simp only [amax, hdone, hwide]; rfl
  have hrecs : recWrites = updRecords d t i k c := updRecords_eq d t i k c
  have hwks : wkWrites = updWorking d t i k c := by simp only [wkWrites, wk, hsc, hwide]; rfl
  have htargets : targets = updTargets d t i k c := by simp only [targets, hrecs, hwks]; rfl
  rw [State.consOutcome_ok (v := b) (a := ()) (by rw [htargets, hrecs, hwks]; exact hwrites)]
  simp only [hbad']
  refine ⟨_, _, ⟨_, ?_, rfl, rfl⟩, rfl, hcount, ?_, by rw [hdone], rfl, stats, ?_⟩
  · simp only [apply_ite (fun u : State => u.cons.cmds), State.raise_cons, State.reportRecords_cmds, State.countRecords_cmds, ite_self,
      hcons]
  · simp only [r1, hbad']; rfl
  · rw [← hdone, ← hsc, ← hamax]
    rfl

/-- An update whose inputs pass its checks runs (R303, R304, R309). -/
theorem State.applyStart_of_checked {s a : State} {x : ConsCmd} {t : Taken} {d : Shard} {i : UpdInputs} {k : Int} {c : W32}
    (hread : s.updInputs x.q.ctx.val d t = (a, .ok i)) (hsched : d.sched % 16 = 0) (hvalid : scheduleValid i.sched = true)
    (hk : gscaleK i.gscale (t.par 16 4) = some k)
    (hclip : clipFactor d ((List.range (t.par 60 4)).map (fun j => BitVec.ofNat 32 (fld i.clip (4 * j) 4))) = some c)
    (hhealth : ∀ j, j < t.par 56 4 → fld i.health (16 * j) 4 = t.par 16 4) : s.applyStart x t d = a.applyRun x t d i k c := by
  have hsteps : ¬ (List.range (t.par 56 4)).any (fun j => fld i.health (16 * j) 4 != t.par 16 4) = true := by
    simpa using hhealth
  unfold State.applyStart
  dsimp only
  rw [State.consOutcome_ok hread]
  simp only [hsched, hvalid, hk, hclip, ne_eq, not_true_eq_false, Bool.not_true, Bool.false_eq_true, or_self, if_false, if_neg hsteps]

/-! ### The run of a command (R291) -/

/-- The work of a command, by its opcode. -/
def State.consWork (s : State) (x : ConsCmd) (t : Taken) (d : Shard) : State :=
  match t.opcode with
  | 0x0500 => s.applyStart x t d
  | 0x0501 => s.normRun x t d
  | 0x0502 => s.initRun x t d
  | 0x0503 => s.exportRun x t d
  | 0x0504 => s.importRun x t d
  | _ => s.sweepRun x t d

/-- What `consRun` says of a command's run holds of its work. -/
theorem consRun_of_consWork {s : State} {x : ConsCmd} {t : Taken} {d : Shard} {goal : (ConsEnd → State → Prop) → Prop}
    (hx : s.consCmd? x.q = some x)
    (hgoal : ∀ made, (∃ e, (((s.consWork x t d).consRead x t.opcode).consCmd? x.q = some { x with ran := some e }) ∧
      made e ((s.consWork x t d).consRead x t.opcode)) → goal made) : consRun s x t d goal := by
  have hended : ∀ {made e m}, LeavesEnd s x e m (s.consWork x t d) → (∀ u : State, u.hbm = m → made e u) → goal made := by
    intro made e m hleaves hmade
    obtain ⟨hfound, hm⟩ := hleaves.found hx t.opcode
    exact hgoal made ⟨e, hfound, hmade _ hm⟩
  unfold consRun
  refine ⟨?_, ?_, ?_, ?_, ?_, ?_⟩
  · intro hop a i k c b hread hsched hvalid hk hclip hhealth next stands skip n done recs wide amax sc recWrites wkWrites hbad hwrites
    obtain ⟨e, m, hleaves, hend⟩ := State.applyRun_leaves (x := x) hbad hwrites
    have hcons : a.cons = s.cons := keepsCons_updInputs rfl _ _ _ _ _ hread
    refine hended (e := e) (m := m) ?_ fun u _ => hend
    rw [State.consWork, hop]
    show LeavesEnd s x e m (s.applyStart x t d)
    rw [State.applyStart_of_checked hread hsched hvalid hk hclip hhealth]
    exact hleaves.after hcons
  · intro hop a b c g grads k ps hscale hgrads hplace hk
    refine hended (m := c.hbm) ?_ fun u hu => ⟨rfl, hu⟩
    rw [State.consWork, hop]
    exact State.normRun_leaves hscale hgrads hplace hk
  · intro hop a b c vals h hvals hheader v recs amax sc hwrites
    refine hended (m := c.hbm) ?_ fun u hu => ⟨hu, rfl⟩
    rw [State.consWork, hop]
    exact State.initRun_leaves hvals hheader hwrites
  · intro hop a b c hshard hcommit hheader hrecs hsent
    refine hended (m := c.hbm) ?_ fun u hu => ⟨hu, rfl⟩
    rw [State.consWork, hop]
    exact State.exportRun_leaves hshard hcommit hheader hrecs hsent
  · intro hop a b c hcopy hcommit hheader hrecs recs hwrites
    refine hended (m := c.hbm) ?_ fun u hu => ⟨hu, rfl⟩
    rw [State.consWork, hop]
    exact State.importRun_leaves hcopy hcommit hheader hrecs hwrites
  · intro hop a b p w y side z ps derive_ wk hshard hcommit hheader hrecs hplane hside hplace hcodes hentries
    obtain ⟨n, hn, hleaves⟩ := State.sweepRun_leaves (x := x) hshard hcommit hheader hrecs hplane hside hplace hcodes hentries
    refine hended (m := z.hbm) ?_ fun u hu => ⟨hu, n, hn, rfl⟩
    rw [State.consWork, hop]
    exact hleaves

/-! ### Waiting for earlier commands (R291) -/

/-- An earlier command of the context holds a record of `x`. -/
def State.holdsRecords (s : State) (x : ConsCmd) : Prop :=
  ∃ y ∈ s.cons.cmds.takeWhile (fun c => c.q != x.q), y.q.ctx = x.q.ctx ∧ y.lo < x.hi ∧ x.lo < y.hi

theorem State.consBlocked_iff (s : State) (x : ConsCmd) : s.consBlocked x = true ↔ s.holdsRecords x := by
  simp only [State.consBlocked, State.holdsRecords, List.any_eq_true, Bool.and_eq_true, beq_iff_eq, decide_eq_true_eq, and_assoc]

section
variable {s : State} {x : ConsCmd} (hx : s.consCmd? x.q = some x)
include hx

theorem State.consTry_stays (hstay : x.ran.isSome = true ∨ s.holdsRecords x) : s.consTry x.q = s := by
  unfold State.consTry
  rw [hx]
  split
  · next y t hy ht =>
    cases hy
    rw [← s.consBlocked_iff, ← Bool.or_eq_true] at hstay
    exact if_pos (by simp [hstay])
  · rfl

theorem State.consTry_of_ran {e : ConsEnd} (hran : x.ran = some e) : s.consTry x.q = s :=
  State.consTry_stays hx (.inl (by simp [hran]))

theorem State.consTry_of_held (hheld : s.holdsRecords x) : s.consTry x.q = s := State.consTry_stays hx (.inr hheld)

/-- A listed command that nothing holds back does its work. -/
theorem State.consTry_of_free {t : Taken} (ht : s.findTaken x.q = some t) (hran : x.ran = none) (hfree : ¬ s.holdsRecords x)
    (hl0 : s.inL0 x.q.ctx.val = false) {r : State} {b : List Byte}
    (hread : s.readVa x.q.ctx.val (t.par 24 8) 128 (.other false) false 0 = (r, .ok b)) (hvalid : Shard.valid b (t.par 16 4) = true)
    (hpages : r.shardPages x.q.ctx.val (Shard.of b) = true) :
    s.consTry x.q = ((r.stallOff (.cmd x.q)).consWork x t (Shard.of b)).consRead x t.opcode := by
  have hgo : ¬ (x.ran.isSome || s.consBlocked x || s.inL0 x.q.ctx.val) = true := by
    simp [hran, hl0, (s.consBlocked_iff x).not.mpr hfree]
  unfold State.consTry
  rw [hx, ht]
  simp only [if_neg hgo, State.consOutcome_ok hread, hvalid, hpages, Bool.not_true, Bool.false_eq_true, if_false]
  rfl

/-- The run of a listed command that nothing holds back, for any row that tries it. -/
theorem consRun_of_free {t : Taken} (ht : s.findTaken x.q = some t) (hran : x.ran = none) (hfree : ¬ s.holdsRecords x)
    (hl0 : s.inL0 x.q.ctx.val = false) {r : State} {b : List Byte}
    (hread : s.readVa x.q.ctx.val (t.par 24 8) 128 (.other false) false 0 = (r, .ok b)) (hvalid : Shard.valid b (t.par 16 4) = true)
    (hpages : r.shardPages x.q.ctx.val (Shard.of b) = true) {row : Instr} {s₀ : State} (hrow : exec row s₀ = .next (s.consTry x.q)) :
    consRun (r.stallOff (.cmd x.q)) x t (Shard.of b) (fun made =>
      Runs row s₀ (fun u => ∃ e, u.consCmd? x.q = some { x with ran := some e } ∧ made e u)) := by
  have hlisted : (r.stallOff (.cmd x.q)).consCmd? x.q = some x := by
    rw [State.consCmd?, State.stallOff_cons, keepsCons_readVa rfl _ _ _ _ _ _ _ _ hread]
    exact hx
  refine consRun_of_consWork hlisted fun made hmade => ⟨_, hrow, ?_⟩
  rw [State.consTry_of_free hx ht hran hfree hl0 hread hvalid hpages]
  exact hmade

end

/-! ### The start in ring order (R289, R291, R298) -/

/-- Beside its opcode a run looks at nothing but the packet of what was taken. -/
theorem consRun_marked (s : State) (x : ConsCmd) (t : Taken) (begun started : Bool) (d : Shard)
    (goal : (ConsEnd → State → Prop) → Prop) :
    consRun s x { t with begun := begun, started := started } d goal ↔ consRun s x t d goal := Iff.rfl

theorem exec_conservatorRow {q : CmdRef} {row : Instr × Nat} (h : row ∈ conservatorRows q) (s : State) :
    exec row.1 s = .next (s.consStart q row.2) := by
  simp only [conservatorRows, List.mem_cons, List.not_mem_nil, or_false] at h
  rcases h with rfl | rfl | rfl | rfl | rfl | rfl <;> rfl

/-- The entry of a command that starts (R289, R291). -/
def State.consEntry (v : State) (q : CmdRef) (opcode : Nat) (d : Shard) : ConsCmd :=
  ⟨q, d.recs, if opcode = 0x0501 then d.recs else d.recs + 256 * d.count, (v.startTaken q).consOf q.ctx.val d.recs, none⟩

/-- The state with a command entered in the list. -/
def State.enterCons (v : State) (x : ConsCmd) : State :=
  { v.startTaken x.q with cons := { v.cons with cmds := v.cons.cmds ++ [x] } }

theorem State.consCmd?_enterCons {v : State} {x : ConsCmd} (h : v.consCmd? x.q = none) : (v.enterCons x).consCmd? x.q = some x := by
  have hnone : v.cons.cmds.find? (fun c => c.q == x.q) = none := h
  simp [State.consCmd?, State.enterCons, hnone]

section
variable {s v : State} {q : CmdRef} {t : Taken} {b : List Byte} {row : Instr × Nat}
  (hrow : row ∈ conservatorRows q) (hturn : Turn s q row.2 t)
  (hread : (s.begin q).readVa q.ctx.val (fld t.packet 24 8) 128 (.other false) false 0 = (v, .ok b))
include hrow hturn hread

theorem conservatorRow_invalid (hvalid : Shard.valid b (fld t.packet 16 4) = false) : RunsTo row.1 s (v.refuseCons q 0x0301) := by
  refine runsTo_perform (exec_conservatorRow hrow s) hturn ((State.consOutcome_ok hread).trans ?_)
  exact if_pos (by simp [Taken.par, hvalid])

theorem conservatorRow_badPages (hvalid : Shard.valid b (fld t.packet 16 4) = true) (hpages : v.shardPages q.ctx.val (Shard.of b) = false) :
    RunsTo row.1 s ((v.walksMet q.ctx.val (Shard.of b).stretches).refuseCons q 0x0301) := by
  refine runsTo_perform (exec_conservatorRow hrow s) hturn ((State.consOutcome_ok hread).trans ?_)
  exact (if_neg (by simp [Taken.par, hvalid])).trans (if_pos (by simp [hpages]))

variable (hvalid : Shard.valid b (fld t.packet 16 4) = true) (hpages : v.shardPages q.ctx.val (Shard.of b) = true)
include hvalid hpages

/-- A valid command enters the list and is tried. -/
theorem conservatorRow_enters : RunsTo row.1 s ((v.enterCons (v.consEntry q row.2 (Shard.of b))).consTry q) := by
  refine runsTo_perform (exec_conservatorRow hrow s) hturn ((State.consOutcome_ok hread).trans ?_)
  exact (if_neg (by simp [Taken.par, hvalid])).trans (if_neg (by simp [hpages]))

variable (hnew : s.consCmd? q = none)
include hnew

omit hrow hturn hvalid hpages in
theorem consEntry_listed : (v.enterCons (v.consEntry q row.2 (Shard.of b))).consCmd? q = some (v.consEntry q row.2 (Shard.of b)) := by
  refine State.consCmd?_enterCons (x := v.consEntry q row.2 (Shard.of b)) ?_
  rw [State.consCmd?, State.readVa_ok hread]
  exact hnew

theorem conservatorRow_held (hheld : (v.enterCons (v.consEntry q row.2 (Shard.of b))).holdsRecords (v.consEntry q row.2 (Shard.of b))) :
    RunsTo row.1 s (v.enterCons (v.consEntry q row.2 (Shard.of b))) := by
  have hrun := conservatorRow_enters hrow hturn hread hvalid hpages
  have hstays : (v.enterCons (v.consEntry q row.2 (Shard.of b))).consTry q = v.enterCons (v.consEntry q row.2 (Shard.of b)) :=
    State.consTry_of_held (x := v.consEntry q row.2 (Shard.of b)) (consEntry_listed hread hnew) hheld
  rwa [hstays] at hrun

theorem conservatorRow_runs (hfree : ¬ (v.enterCons (v.consEntry q row.2 (Shard.of b))).holdsRecords (v.consEntry q row.2 (Shard.of b)))
    {r : State} (hagain : (v.enterCons (v.consEntry q row.2 (Shard.of b))).readVa q.ctx.val (fld t.packet 24 8) 128 (.other false) false 0 =
      (r, .ok b)) (hstill : r.shardPages q.ctx.val (Shard.of b) = true) :
    consRun (r.stallOff (.cmd q)) (v.consEntry q row.2 (Shard.of b)) t (Shard.of b) (fun made =>
      Runs row.1 s (fun u => ∃ e, u.consCmd? q = some { v.consEntry q row.2 (Shard.of b) with ran := some e } ∧ made e u)) := by
  have hbeside := State.readVa_ok hread
  have htaken : (v.enterCons (v.consEntry q row.2 (Shard.of b))).findTaken q = some { t with begun := true, started := true } := by
    show (v.startTaken q).findTaken q = _
    have hv : v.findTaken q = (s.begin q).findTaken q := by rw [hbeside]; rfl
    rw [State.findTaken_startTaken, hv, State.findTaken_begin, hturn.taken]
    rfl
  have hl0 : (v.enterCons (v.consEntry q row.2 (Shard.of b))).inL0 q.ctx.val = false := by
    show v.inL0 q.ctx.val = false
    rw [hbeside]
    exact hturn.notInReset
  exact (consRun_marked _ _ t true true _ _).mp (consRun_of_free (x := v.consEntry q row.2 (Shard.of b))
    (consEntry_listed hread hnew) htaken rfl hfree hl0 hagain hvalid hstill (conservatorRow_enters hrow hturn hread hvalid hpages))

end

/-! ### The completion (R310, R316) -/

/-- The counts of a command that completes: commit lines written, sweeps and their mismatches. -/
def State.countEnd (v : State) (e : ConsEnd) : State :=
  { v with cons := { v.cons with
    committed := if e.committed then (v.cons.committed + 1) % 2 ^ 32 else v.cons.committed
    sweeps := if e.swept.isSome then (v.cons.sweeps + 1) % 2 ^ 32 else v.cons.sweeps
    mismatches := min (2 ^ 32 - 1) (v.cons.mismatches + e.swept.getD 0) } }

/-- The counts, the progress of records written (R437), the completion and the events of a command whose writes have left `v`. -/
def State.recordEnd (v : State) (x : ConsCmd) (t : Taken) (e : ConsEnd) : State :=
  let w := v.countEnd e
  let w := if e.status = stOk ∧ (t.opcode = 0x0500 ∨ t.opcode = 0x0502 ∨ t.opcode = 0x0504) then w.consProgress x else w
  e.events.foldl (fun s y => s.raise y.1 (srcCons x.unit) (some x.q.ctx.val) y.2) (w.endCons x.q e.status e.r0 e.r1)

/-- The completion signal that the packet of UPD_APPLY or of UPD_NORM asks for, where the command ends well (R310, R321, R512). -/
def State.signalEnd (r : State) (x : ConsCmd) (t : Taken) (e : ConsEnd) : State :=
  let signal := fun (at_ : Nat) => r.completionSignal x.q.ctx.val (fld t.packet at_ 4) (BitVec.ofNat 64 (fld t.packet (at_ + 8) 8))
    (srcCons x.unit)
  if e.status = stOk ∧ t.opcode = 0x0500 ∧ (fld t.packet 76 2).testBit 0 = true then signal 72
  else if e.status = stOk ∧ t.opcode = 0x0501 ∧ (fld t.packet 60 2).testBit 0 = true then signal 56
  else r

section
variable {r : State} {x : ConsCmd} {t : Taken} {e : ConsEnd}

theorem State.signalEnd_apply (hok : e.status = stOk) (happly : t.opcode = 0x0500) (hbit : (fld t.packet 76 2).testBit 0 = true) :
    r.signalEnd x t e = r.completionSignal x.q.ctx.val (fld t.packet 72 4) (BitVec.ofNat 64 (fld t.packet 80 8)) (srcCons x.unit) :=
  if_pos ⟨hok, happly, hbit⟩

theorem State.signalEnd_norm (hok : e.status = stOk) (hnorm : t.opcode = 0x0501) (hbit : (fld t.packet 60 2).testBit 0 = true) :
    r.signalEnd x t e = r.completionSignal x.q.ctx.val (fld t.packet 56 4) (BitVec.ofNat 64 (fld t.packet 64 8)) (srcCons x.unit) :=
  (if_neg (by omega)).trans (if_pos ⟨hok, hnorm, hbit⟩)

theorem State.signalEnd_silent (h : e.status ≠ stOk ∨ 0x0502 ≤ t.opcode ∨ (t.opcode = 0x0500 ∧ (fld t.packet 76 2).testBit 0 = false) ∨
    (t.opcode = 0x0501 ∧ (fld t.packet 60 2).testBit 0 = false)) : r.signalEnd x t e = r := by
  have happly : ¬ (e.status = stOk ∧ t.opcode = 0x0500 ∧ (fld t.packet 76 2).testBit 0 = true) := by
    rintro ⟨hok, happly, hbit⟩
    simp [hok, happly, hbit] at h
  have hnorm : ¬ (e.status = stOk ∧ t.opcode = 0x0501 ∧ (fld t.packet 60 2).testBit 0 = true) := by
    rintro ⟨hok, hnorm, hbit⟩
    simp [hok, hnorm, hbit] at h
  exact (if_neg happly).trans (if_neg hnorm)

end

section
variable {s v : State} {x : ConsCmd} {t : Taken} {e : ConsEnd} (hx : s.consCmd? x.q = some x) (hran : x.ran = some e)
  (hwrites : s.writeAll x.q.ctx.val .conservator e.writes = (v, .ok ())) (ht : v.findTaken x.q = some t)
include hx hran hwrites ht

/-- A completion whose writes go through. -/
theorem State.consFinish_signals : s.consFinish x.q = (v.recordEnd x t e).signalEnd x t e := by
  obtain ⟨q, lo, hi, unit, ran⟩ := x
  cases hran
  unfold State.consFinish
  rw [hx]
  refine (State.consOutcome_ok hwrites).trans ?_
  extract_lets old u unit' t' wrote ended r
  have ht' : t' = some t := ht
  have hr : r = v.recordEnd ⟨q, lo, hi, unit, some e⟩ t e := by
    have hwrote : (wrote = true) = (e.status = stOk ∧ (t.opcode = 0x0500 ∨ t.opcode = 0x0502 ∨ t.opcode = 0x0504)) := by
      simp [wrote, ht', or_assoc]
    simp only [r, ended, hwrote]
    rfl
  rw [ht', hr]
  unfold State.signalEnd
  by_cases hstatus : e.status = stOk
  · by_cases happly : t.opcode = 0x0500
    · simp [hstatus, happly, State.consFinish.consSignal, Taken.par, unit']
    · by_cases hnorm : t.opcode = 0x0501
      · simp [hstatus, hnorm, State.consFinish.consSignal, Taken.par, unit']
      · simp [hstatus, happly, hnorm]
  · simp [hstatus]

end

/-- The row that completes a command: UPDATE_COMMIT an update, CONSERVATOR_COMMAND_COMPLETE any other (R310, R316). -/
theorem completion_runsTo {s v : State} {x : ConsCmd} {t : Taken} {e : ConsEnd} {row : Instr} (halive : s.alive = true)
    (hl0 : s.inL0 x.q.ctx.val = false) (hs : s.findTaken x.q = some t) (hx : s.consCmd? x.q = some x) (hran : x.ran = some e)
    (hrow : t.opcode = 0x0500 ∧ row = .updateCommit x.q ∨
      (0x0501 ≤ t.opcode ∧ t.opcode ≤ 0x0505) ∧ row = .conservatorCommandComplete x.q)
    (hwrites : s.writeAll x.q.ctx.val .conservator e.writes = (v, .ok ())) (ht : v.findTaken x.q = some t) :
    RunsTo row s ((v.recordEnd x t e).signalEnd x t e) := by
  have hend : ∀ ops : Nat → Bool, ops t.opcode = true → s.consEnd x.q ops = (v.recordEnd x t e).signalEnd x t e := by
    intro ops hops
    simp only [State.consEnd, hs, halive, hl0, hops, Bool.not_false, Bool.and_self, if_true]
    rw [State.consTry_of_ran hx hran, State.consFinish_signals hx hran hwrites ht]
  rcases hrow with ⟨hop, rfl⟩ | ⟨⟨hlow, hhigh⟩, rfl⟩
  · exact congrArg Host.Outcome.next (hend _ (by simp [hop]))
  · exact congrArg Host.Outcome.next (hend _ (by simp [hlow, hhigh]))

theorem consCommandStart_tries {s : State} {q : CmdRef} (halive : s.alive = true) (hl0 : s.inL0 q.ctx.val = false) :
    RunsTo (.consCommandStart q) s (s.consTry q) :=
  congrArg Host.Outcome.next (if_pos (by simp [halive, hl0]))

/-- Settles O50: a row of a new command refuses it, or enters it and tries it, as the lemmas on `conservatorRows` say; a later try
stays while an earlier command holds its records, and runs it otherwise; the completion is `recordEnd`, and `signalEnd` after it. -/
theorem conservatorCommands : Obligations.ConservatorCommands := by
  unfold Obligations.ConservatorCommands
  intro s q t ctx held
  constructor
  · intro row hrow hturn v b hread
    refine ⟨conservatorRow_invalid hrow hturn hread, fun hvalid => ?_⟩
    refine ⟨conservatorRow_badPages hrow hturn hread hvalid, fun hpages hnew => ?_⟩
    exact ⟨conservatorRow_held hrow hturn hread hvalid hpages hnew,
      fun hfree r => conservatorRow_runs hrow hturn hread hvalid hpages hnew hfree⟩
  · intro halive hl0 ht x hx
    obtain rfl := State.q_of_consCmd? hx
    have htries := consCommandStart_tries halive hl0
    refine ⟨fun e hran => ?_, fun _ hheld => ?_, fun hran hfree _ _ r b hread hvalid hpages => ?_,
      fun e v row hran hrow hwrites hv => ?_⟩
    · rwa [State.consTry_of_ran hx hran] at htries
    · rwa [State.consTry_of_held hx hheld] at htries
    · exact consRun_of_free hx ht hran hfree hl0 hread hvalid hpages htries
    · have hrun := completion_runsTo halive hl0 ht hx hran hrow hwrites hv
      refine ⟨fun hsilent => ?_, fun hok happly hbit => ?_, fun hok hnorm hbit => ?_⟩
      · rwa [State.signalEnd_silent hsilent] at hrun
      · rwa [State.signalEnd_apply hok happly hbit] at hrun
      · rwa [State.signalEnd_norm hok hnorm hbit] at hrun

end Sys2Proof.Machine
end

section
/-! Links and ports (11_guylines.md R332 to R335, R341, R342, R348, R349, R351): flits and replay, training and loss of a port, the
timers of connections, and the commands of routes and ports. -/

namespace Sys2Proof.Machine

/-! ### Reading a port back -/

@[simp] theorem State.setPort_setPort (s : State) (p : Nat) (x y : PortSt) : (s.setPort p x).setPort p y = s.setPort p y := by
  simp [State.setPort]

@[simp] theorem State.port_begin (s : State) (q : CmdRef) (p : Nat) : (s.begin q).port p = s.port p := rfl

/-- An event reaches no port. -/
@[simp] theorem State.port_raise (s : State) (code src : Nat) (ctx : Option Nat) (args : List Nat) (p : Nat) :
    (s.raise code src ctx args).port p = s.port p := by
  rw [s.raise_onlyEvents code src ctx args]
  rfl

theorem PortSt.direct_of_mode {x : PortSt} (h : x.mode = 1) : x.direct = true ∧ x.switched = false := by
  simp [PortSt.direct, PortSt.switched, h]

theorem PortSt.switched_of_mode {x : PortSt} (h : x.mode = 2) : x.direct = false ∧ x.switched = true := by
  simp [PortSt.direct, PortSt.switched, h]

/-! ### Flits (R332 to R335, R349) -/

section
variable {s : State} {p : Nat} {f : List Byte} {type : Nat} {g : State → State} (halive : s.alive = true)
  (hmode : (s.port p).mode = 1) (husable : (s.port p).usable = true)
include halive hmode husable

theorem flitRow_taken : ¬ (!s.alive || !(s.port p).direct || !(s.port p).usable) = true := by
  simp [halive, PortSt.direct_of_mode hmode, husable]

theorem State.flitRow_of_ok (hok : flitOk f = true) (htype : flitType f = type) :
    s.flitRow p f type g = ((g (s.flitHeader p f)).release).pump p :=
  (if_neg (flitRow_taken halive hmode husable)).trans ((if_neg (by simp [hok])).trans (if_neg (not_not.mpr htype)))

/-- Whatever row it was, a flit that fails its CRC is counted and owed a NAK. -/
theorem State.flitRow_of_bad (hbad : flitOk f = false) : s.flitRow p f type g =
    ((s.setPort p { s.port p with crcErrors := min (2 ^ 16 - 1) ((s.port p).crcErrors + 1) }).owesNak p).pump p :=
  (if_neg (flitRow_taken halive hmode husable)).trans (if_pos (by simp [hbad]))

/-- A row of flits whose meaning is `State.flitRow`, by both ends of the CRC check. -/
theorem runsTo_flitRow {row : Instr} (hrow : exec row s = .next (s.flitRow p f type g)) :
    (flitOk f = true → flitType f = type → RunsTo row s ((g (s.flitHeader p f)).release.pump p)) ∧
    (flitOk f = false → RunsTo row s
      (((s.setPort p { s.port p with crcErrors := min (2 ^ 16 - 1) ((s.port p).crcErrors + 1) }).owesNak p).pump p)) :=
  ⟨fun hok htype => hrow.trans (congrArg Host.Outcome.next (State.flitRow_of_ok halive hmode husable hok htype)),
    fun hbad => hrow.trans (congrArg Host.Outcome.next (State.flitRow_of_bad halive hmode husable hbad))⟩

end

theorem State.flitData_out_of_order {s : State} {p : Nat} {f : List Byte} (h : bits (fld f 0 2) 11 0 ≠ (s.port p).rxNext) :
    s.flitData p f = s.setPort p { s.port p with nakDue := (s.port p).nakDue || !(s.port p).nakSent, nakSent := true } :=
  if_pos h

/-! ### Replay (R334, R335) -/

/-- A replay that is not the sixteenth in a row only starts the unacknowledged flits again. -/
theorem State.replay_of_few {s : State} {p : Nat} (h : (s.port p).replayRuns < 15) :
    s.replay p = s.setPort p { s.port p with
      resent := 0, replays := min (2 ^ 32 - 1) ((s.port p).replays + 1), replayRuns := (s.port p).replayRuns + 1
      advanceAt := s.time.localNs } :=
  if_neg (by simp only; omega)

theorem replayTimeout_runsTo {s : State} {p : Port} (halive : s.alive = true) (hmode : (s.port p.val).mode = 1)
    (husable : (s.port p.val).usable = true) (hunacked : (s.port p.val).unacked ≠ [])
    (hdue : (s.port p.val).advanceAt + s.replayNs p.val ≤ s.time.localNs) :
    RunsTo (.replayTimeout p) s ((s.replay p.val).pump p.val) :=
  congrArg Host.Outcome.next (if_pos (by
    simp [halive, PortSt.direct_of_mode hmode, husable, hunacked, State.local_, hdue]))

/-! ### Training and loss (R348) -/

theorem State.port_portDown (s : State) (p cause : Nat) (next : PortState) : (s.portDown p cause next).port p =
    { s.port p with state := next, neighbour := 0xFFFF, nbSlot := 0, nbPort := 0, lpiSent := false, lpiHeard := false } := by
  simp [State.portDown]

theorem State.portDown_hbm (s : State) (p cause : Nat) (next : PortState) : (s.portDown p cause next).hbm = s.hbm := by
  simp [State.portDown]

section
variable {s : State} {p : Port} (halive : s.alive = true)
include halive

theorem signalDetected_runsTo (hdown : (s.port p.val).state = .down) (hmode : (s.port p.val).mode = 1) :
    RunsTo (.signalDetected p) s (s.setPort p.val { s.port p.val with state := .training }) :=
  congrArg Host.Outcome.next (if_pos (by simp [halive, hdown, PortSt.direct_of_mode hmode]))

/-- A port that is lost keeps its sequence and what it has not been acknowledged. -/
theorem linkLoss_runs (husable : (s.port p.val).usable = true) :
    Runs (.linkLoss p) s (fun t => (t.port p.val).state = .down ∧ (t.port p.val).unacked = (s.port p.val).unacked ∧
      (t.port p.val).rxNext = (s.port p.val).rxNext ∧ t.hbm = s.hbm) := by
  refine ⟨s.portDown p.val 1 .down, congrArg Host.Outcome.next (if_pos (by simp [halive, husable])), ?_⟩
  simp [State.port_portDown, State.portDown_hbm]

section
variable {e : TrainEnd} (htraining : (s.port p.val).state = .training)
include htraining

theorem trainingAttemptEnd_passes : ¬ (!s.alive || (s.port p.val).state != .training) = true := by
  simp [halive, htraining]

theorem trainingAttemptEnd_abandoned (he : e.result = .abandoned) :
    RunsTo (.trainingAttemptEnd p e) s (s.setPort p.val { s.port p.val with state := .down }) := by
  refine congrArg Host.Outcome.next ((if_neg (trainingAttemptEnd_passes halive htraining)).trans ?_)
  rw [he]

/-- The third attempt that fails is the last. -/
theorem trainingAttemptEnd_failed (he : e.result = .failed) :
    RunsTo (.trainingAttemptEnd p e) s (s.setPort p.val { s.port p.val with
      fails := min 15 ((s.port p.val).fails + 1), state := if 2 ≤ (s.port p.val).fails then .failed else .training }) := by
  refine congrArg Host.Outcome.next ((if_neg (trainingAttemptEnd_passes halive htraining)).trans ?_)
  rw [he]
  simp only [Nat.succ_le_succ_iff]

theorem trainingAttemptEnd_bad_mac (he : e.result = .up) (hmode : (s.port p.val).mode = 2) (hmac : s.macOk = false) :
    RunsTo (.trainingAttemptEnd p e) s (s.setPort p.val { s.port p.val with state := .down }) := by
  refine congrArg Host.Outcome.next ((if_neg (trainingAttemptEnd_passes halive htraining)).trans ?_)
  rw [he]
  exact if_pos (by simp [PortSt.switched_of_mode hmode, hmac])

/-- A switched port has no neighbour of its own. -/
theorem trainingAttemptEnd_switched (he : e.result = .up) (hmode : (s.port p.val).mode = 2) (hmac : s.macOk = true)
    (hfirst : (s.port p.val).trained = false) :
    RunsTo (.trainingAttemptEnd p e) s
      ((((s.setPort p.val { s.port p.val with
        state := .up, fails := 0, trained := true, rtt := e.rttNs.toNat, neighbour := 0xFFFF, nbSlot := 0, nbPort := 0
        replayRuns := 0, advanceAt := s.time.localNs }).blocksAcked []).raise 0x0801 (srcPort p.val) none
          [p.val, 2, 0xFFFF, e.rttNs.toNat]).release.pump p.val) := by
  refine congrArg Host.Outcome.next ((if_neg (trainingAttemptEnd_passes halive htraining)).trans ?_)
  rw [he]
  simp [PortSt.switched_of_mode hmode, hmac, hfirst, hmode, State.local_]

/-- Beside the neighbour that the wiring names, a port comes up; what that neighbour has seen is acknowledged. -/
theorem trainingAttemptEnd_direct (he : e.result = .up) (hmode : (s.port p.val).mode = 1)
    (hwiring : wiring s.guy.boardSize s.guy.slot p.val = some (e.slot.toNat, e.port.toNat))
    (hsize : e.boardSize.toNat = s.guy.boardSize) (hfirst : (s.port p.val).trained = false) :
    RunsTo (.trainingAttemptEnd p e) s
      (let seen := (s.port p.val).unacked.takeWhile (fun f => f.seq != e.expects.toNat)
       (((s.setPort p.val { s.port p.val with
         state := .up, fails := 0, trained := true, rtt := e.rttNs.toNat, neighbour := e.neighbour.toNat
         nbSlot := e.slot.toNat, nbPort := e.port.toNat, unacked := (s.port p.val).unacked.drop seen.length, resent := 0
         replayRuns := 0, advanceAt := s.time.localNs }).blocksAcked (seen.flatMap (·.ends))).raise 0x0801 (srcPort p.val) none
           [p.val, 1, e.neighbour.toNat, e.rttNs.toNat]).release.pump p.val) := by
  have hwired : s.wired p.val e = true := by simp [State.wired, hwiring, hsize]
  refine congrArg Host.Outcome.next ((if_neg (trainingAttemptEnd_passes halive htraining)).trans ?_)
  rw [he]
  simp [PortSt.direct_of_mode hmode, hwired, hfirst, hmode, State.local_]

/-- Beside any other neighbour it fails at once, and an event names both. -/
theorem trainingAttemptEnd_miswired (he : e.result = .up) (hmode : (s.port p.val).mode = 1)
    (hwiring : wiring s.guy.boardSize s.guy.slot p.val ≠ some (e.slot.toNat, e.port.toNat)) :
    RunsTo (.trainingAttemptEnd p e) s
      (let w := (wiring s.guy.boardSize s.guy.slot p.val).getD (0, 0)
       (s.setPort p.val { s.port p.val with state := .failed, fails := min 15 ((s.port p.val).fails + 1) }).raise 0x0803
         (srcPort p.val) none
         [p.val, e.neighbour.toNat + e.slot.toNat * 2 ^ 16 + e.port.toNat * 2 ^ 19 + e.boardSize.toNat * 2 ^ 23, w.1, w.2]) := by
  have hwired : s.wired p.val e = false := by simp [State.wired, hwiring]
  obtain ⟨hdirect, hswitched⟩ := PortSt.direct_of_mode hmode
  refine congrArg Host.Outcome.next ((if_neg (trainingAttemptEnd_passes halive htraining)).trans ?_)
  rw [he]
  exact (if_neg (by simp [hswitched])).trans (if_pos (by simp [hdirect, hwired]))

end

end

/-! ### Timers of connections (R341, R342) -/

section
variable {s : State} {node : BitVec 16} {tc : Fin 8} (halive : s.alive = true)
include halive

section
variable {c : Receiver} (hc : mget s.guy.receivers (connKey node.toNat tc.val) = some c)
include hc

theorem e2eAckTimer_runsTo (hdue : 0 < c.due) (htime : c.dueSince + s.ackNs ≤ s.time.localNs) :
    RunsTo (.e2eAckTimer node tc) s (s.sendE2eAck c.port node.toNat tc.val) := by
  show execE2eAckTimer node tc s = _
  simp only [execE2eAckTimer, halive, if_true, hc, hdue, State.local_, htime, and_self]

theorem receiverIdleExpiry_runsTo (htime : c.idleSince + 1000000 * s.idleMs ≤ s.time.localNs) :
    RunsTo (.connectionIdleExpiry false node tc) s
      ({ s with guy := { s.guy with receivers := mdel s.guy.receivers (connKey node.toNat tc.val) } } : State).takeHeld := by
  show execConnectionIdleExpiry false node tc s = _
  simp [execConnectionIdleExpiry, halive, hc, State.local_, htime]

end

section
variable {c : Sender} (hc : mget s.guy.senders (connKey node.toNat tc.val) = some c)
include hc

theorem e2eResendTimeout_runsTo (hunacked : c.unacked ≠ []) (htime : c.advanceAt + c.rto ≤ s.time.localNs) :
    RunsTo (.e2eResendTimeout node tc) s (s.resend node.toNat tc.val false) := by
  show execE2eResendTimeout node tc s = _
  simp [execE2eResendTimeout, halive, hc, hunacked, State.local_, htime]

theorem senderIdleExpiry_runsTo (hacked : c.unacked = []) (htime : c.idleSince + 2 * (1000000 * s.idleMs) ≤ s.time.localNs) :
    RunsTo (.connectionIdleExpiry true node tc) s
      ({ s with guy := { s.guy with senders := mdel s.guy.senders (connKey node.toNat tc.val) } } : State).release := by
  show execConnectionIdleExpiry true node tc s = _
  simp [execConnectionIdleExpiry, halive, hc, hacked, State.local_, htime]

end

end

/-! ### Commands of routes and ports (R351) -/

theorem glRouteWrite_runsTo {s v : State} {q : CmdRef} {t : Taken} {b : List Byte} (h : Turn s q 0x0760 t)
    (hread : (s.begin q).readVa q.ctx.val (fld t.packet 16 8) (16 * fld t.packet 24 4) (.other false) false 0 = (v, .ok b))
    (hitems : ∀ i ∈ (List.range (fld t.packet 24 4)).map (fun i => bsub b (16 * i) 16), routeItemBad i = false) :
    RunsTo (.glRouteWrite q) s
      (({ v with guy := { v.guy with
        routes := ((List.range (fld t.packet 24 4)).map (fun i => bsub b (16 * i) 16)).foldl (fun m x =>
          mset m (fld x 0 2) (BitVec.ofNat 32 (fld x 8 4), BitVec.ofNat 32 (fld x 12 4))) v.guy.routes } } : State).release.complete
            q stOk (fld t.packet 24 4) 0) := by
  have hnone := List.findIdx?_eq_none_iff.mpr hitems
  refine runsTo_perform rfl h ((cmdOutcome_ok hread).trans ?_)
  simp only [Taken.par, hnone]

/-- A row of GL_PORT_CTRL finds the action that it is the row of. -/
theorem portCtrl_of_action {s : State} {q : CmdRef} {t : Taken} (h : Turn s q 0x0761 t) {action : Nat}
    (haction : fld t.packet 17 1 = action) :
    ¬ (s.findTaken q).all (fun t => t.par 17 1 != action) = true := by
  simp [h.taken, Taken.par, haction]

theorem PortSt.placed_of_mode {x : PortSt} (h : x.mode = 1 ∨ x.mode = 2) : ¬ (!x.direct && !x.switched) = true := by
  rcases h with h | h
  · simp [PortSt.direct_of_mode h]
  · simp [PortSt.switched_of_mode h]

section
variable {s : State} {q : CmdRef} {t : Taken} {p : Nat} (h : Turn s q 0x0761 t) (hport : fld t.packet 16 1 = p)
  (hmode : (s.port p).mode = 1 ∨ (s.port p).mode = 2)
include h hport hmode

theorem glPortRetrain_runsTo (haction : fld t.packet 17 1 = 1) (hfailed : (s.port p).state = .failed) :
    RunsTo (.glPortRetrain q) s
      (((s.begin q).setPort p { s.port p with fails := 0, state := .down }).complete q stOk 1 0) := by
  subst hport
  refine runsTo_perform (congrArg Host.Outcome.next (if_neg (portCtrl_of_action h haction))) h
    ((if_neg (PortSt.placed_of_mode hmode)).trans ?_)
  simp [Taken.par, hfailed, PortSt.usable, PortState.code]

theorem glPortDisable_runsTo (haction : fld t.packet 17 1 = 2) (hunused : (s.port p).usable = false) :
    RunsTo (.glPortDisable q) s (((s.begin q).setPort p { s.port p with state := .disabled }).complete q stOk 0 0) := by
  subst hport
  refine runsTo_perform (congrArg Host.Outcome.next (if_neg (portCtrl_of_action h haction))) h
    ((if_neg (PortSt.placed_of_mode hmode)).trans ?_)
  simp [Taken.par, hunused, PortState.code]

theorem glPortEnable_runsTo (haction : fld t.packet 17 1 = 3) (hdisabled : (s.port p).state = .disabled) :
    RunsTo (.glPortEnable q) s
      (((s.begin q).setPort p { s.port p with fails := 0, state := .down }).complete q stOk 1 0) := by
  subst hport
  refine runsTo_perform (congrArg Host.Outcome.next (if_neg (portCtrl_of_action h haction))) h
    ((if_neg (PortSt.placed_of_mode hmode)).trans ?_)
  simp [Taken.par, hdisabled, PortState.code]

end

/-- Settles O53: the four rows of flits through `State.flitRow`, and every other row by the lemma above that takes it past its
guard. -/
theorem linksAndPorts : Obligations.LinksAndPorts := by
  unfold Obligations.LinksAndPorts
  intro s p halive x
  refine ⟨fun hmode husable f row hrow => ?flits, fun f => State.flitData_out_of_order, ?replay, signalDetected_runsTo halive,
    ?training, linkLoss_runs halive, ?timers, fun q t => ⟨?routes, ?ports⟩⟩
  case flits =>
    simp only [List.mem_cons, List.not_mem_nil, or_false] at hrow
    rcases hrow with rfl | rfl | rfl | rfl
    · exact runsTo_flitRow halive hmode husable rfl
    · exact runsTo_flitRow halive hmode husable rfl
    · refine runsTo_flitRow halive hmode husable ?_
      simp only [← List.isEmpty_iff]
      rfl
    · exact runsTo_flitRow halive hmode husable rfl
  case replay =>
    intro hmode husable hunacked hdue hfew
    have hrun := replayTimeout_runsTo halive hmode husable hunacked hdue
    rwa [State.replay_of_few hfew] at hrun
  case training =>
    intro htraining e
    exact ⟨trainingAttemptEnd_abandoned halive htraining, trainingAttemptEnd_failed halive htraining,
      trainingAttemptEnd_bad_mac halive htraining, trainingAttemptEnd_switched halive htraining,
      trainingAttemptEnd_direct halive htraining, fun he hmode hwiring =>
        ⟨_, trainingAttemptEnd_miswired halive htraining he hmode hwiring, by simp⟩⟩
  case timers =>
    intro node tc key
    exact ⟨fun c hc => ⟨e2eAckTimer_runsTo halive hc, receiverIdleExpiry_runsTo halive hc⟩,
      fun c hc => ⟨e2eResendTimeout_runsTo halive hc, senderIdleExpiry_runsTo halive hc⟩⟩
  case routes => exact fun h v b hread => glRouteWrite_runsTo h hread
  case ports =>
    exact fun h hport hmode => ⟨glPortRetrain_runsTo h hport hmode, glPortDisable_runsTo h hport hmode,
      glPortEnable_runsTo h hport hmode⟩

end Sys2Proof.Machine
end

section
/-! What the operations of the other parts leave of the collectives (02_fabric_time.md R54 to R56; 08_tiers_and_streams.md R233, R241;
11_guylines.md R332 to R345; 13_host_link.md R402 to R409): events, accesses, completions and blocks on their way touch none of them. -/

namespace Sys2Proof.Machine

/-! ### Events, stalls and memory (R54 to R56, R208, R233, R241, R267) -/

theorem OnlyEvents.coll {s t : State} (h : OnlyEvents s t) : t.coll = s.coll := by rw [h]

@[simp] theorem State.toHost_coll (s : State) (o : HostOut) : (s.toHost o).coll = s.coll := (s.toHost_onlyEvents o).coll

@[simp] theorem State.signalVector_coll (s : State) (v : Nat) : (s.signalVector v).coll = s.coll :=
  (s.signalVector_onlyEvents v).coll

@[simp] theorem State.raise_coll (s : State) (code src : Nat) (ctx : Option Nat) (args : List Nat) :
    (s.raise code src ctx args).coll = s.coll := (s.raise_onlyEvents code src ctx args).coll

@[simp] theorem State.stallOff_coll (s : State) (u : StallUnit) : (s.stallOff u).coll = s.coll := by rw [stallOff_eq]

@[simp] theorem State.stallOn_coll (s : State) (u : StallUnit) (ctx cause : Nat) : (s.stallOn u ctx cause).coll = s.coll := by
  rw [stallOn_eq]

@[simp] theorem State.uncorrectable_coll (s : State) (reader : Nat) (ctx : Option Nat) (line what : Nat) :
    (s.uncorrectable reader ctx line what).coll = s.coll := by
  have hstart : ∀ (u : State) ctx cause, (u.startL0 ctx cause).coll = u.coll := by
    intro u ctx cause
    unfold State.startL0
    split <;> rfl
  unfold State.uncorrectable
  dsimp only
  split <;> simp [hstart]

@[simp] theorem State.settleWc_coll (s : State) (before : List WcEntry) : (s.settleWc before).coll = s.coll := by
  refine foldl_view (view := State.coll) (fun u x => ?_) _ _
  split <;> simp

@[simp] theorem State.undefineVa_coll (s : State) (ctx va n : Nat) : (s.undefineVa ctx va n).coll = s.coll := by
  refine foldl_view (view := State.coll) (fun u p => ?_) _ _
  split
  · split <;> rfl
  · rfl

@[simp] theorem State.missAll_coll (s : State) (ctx deadline : Nat) (parts : List (Nat × Nat)) :
    (s.missAll ctx deadline parts).coll = s.coll := by
  refine foldl_view (view := State.coll) (fun u p => ?_) _ _
  unfold State.miss
  split
  · split
    · rfl
    · split <;> rfl
  · unfold State.walkMet
    split <;> simp

@[simp] theorem State.parts_coll (s : State) (ctx va n : Nat) (write : Bool) (who : Accessor) (deadline : Nat) :
    (s.parts ctx va n write who deadline).1.coll = s.coll := by
  unfold State.parts State.partsWhen
  dsimp only
  split
  · rfl
  · split
    · split
      · rw [State.touchAll_eq]
      · rfl
    · simp
    · simp

@[simp] theorem State.readVa_coll (s : State) (ctx va n : Nat) (who : Accessor) (noalloc : Bool) (deadline : Nat) :
    (s.readVa ctx va n who noalloc deadline).1.coll = s.coll := by
  have hparts := s.parts_coll ctx va n false who deadline
  unfold State.readVa
  split <;> rename_i heq <;> rw [heq] at hparts
  · split <;> exact hparts
  all_goals exact hparts

@[simp] theorem State.writeVa_coll (s : State) (ctx va : Nat) (bs : List Byte) (who : Accessor) (deadline : Nat) (whole : Bool) :
    (s.writeVa ctx va bs who deadline whole).1.coll = s.coll := by
  have hparts := s.parts_coll ctx va bs.length true who deadline
  unfold State.writeVa
  split <;> rename_i heq <;> rw [heq] at hparts
  · simpa using hparts
  all_goals exact hparts

/-! ### Completions (R402, R406 to R409) -/

@[simp] theorem State.signalRing_coll (s : State) (ctx ring : Nat) : (s.signalRing ctx ring).coll = s.coll := by
  unfold State.signalRing
  split <;> simp

@[simp] theorem State.faultRing_coll (s : State) (ctx ring status seq : Nat) :
    (s.faultRing ctx ring status seq).coll = s.coll := by
  unfold State.faultRing
  split <;> simp

@[simp] theorem State.writeRecord_coll (s : State) (ctx ring seq status r0 r1 : Nat) (irq : Bool) :
    (s.writeRecord ctx ring seq status r0 r1 irq).coll = s.coll := by
  unfold State.writeRecord
  split
  · rfl
  · simp [State.cpProgress, apply_ite State.coll]

@[simp] theorem State.complete_coll (s : State) (q : CmdRef) (status r0 r1 : Nat) : (s.complete q status r0 r1).coll = s.coll := by
  unfold State.complete
  split <;> simp

/-! ### Blocks on their way (R332 to R345) -/

@[simp] theorem State.sent_coll (s : State) (p : Nat) (x : PortSt) (cls n : Nat) (o : GuyOut) :
    (s.sent p x cls n o).coll = s.coll := rfl

@[simp] theorem State.enqueue_coll (s : State) (p cls : Nat) (q : Queued) : (s.enqueue p cls q).coll = s.coll := rfl

@[simp] theorem State.slotStalls_coll (s : State) (p : Nat) (x : PortSt) (waits : List Nat) :
    (s.slotStalls p x waits).coll = s.coll := by
  unfold State.slotStalls
  split
  · rfl
  · refine foldl_view (view := State.coll) (fun s c => ?_) _ s
    dsimp only
    split <;> simp

@[simp] theorem State.pumpIdle_coll (s : State) (p : Nat) (x : PortSt) : (s.pumpIdle p x).coll = s.coll := by
  unfold State.pumpIdle
  split
  · dsimp only
    split <;> simp
  · split <;> simp

@[simp] theorem State.sendUnit_coll (s : State) (p : Nat) (x : PortSt) (c : Nat) : (s.sendUnit p x c).coll = s.coll := by
  have hleft : ∀ (u : State) m, (u.ptpLeft p m).coll = u.coll := by
    intro u m
    unfold State.ptpLeft
    split <;> rfl
  unfold State.sendUnit
  split
  · simp [apply_ite State.coll]
  · split
    · rfl
    · dsimp only
      split <;> simp [hleft]

@[simp] theorem State.pump_coll (s : State) (p : Nat) : (s.pump p).coll = s.coll := by
  unfold State.pump
  dsimp only
  split
  · rfl
  · split
    · rfl
    · split <;> simp

@[simp] theorem State.assign_coll (s : State) (b : TxBlock) (p : Nat) : (s.assign b p).coll = s.coll := by
  simp [State.assign, State.free, apply_ite State.coll]

@[simp] theorem State.noRoute_coll (s : State) (unit dest : Nat) (bytes : List Byte) (r : Route) :
    (s.noRoute unit dest bytes r).coll = s.coll := by
  unfold State.noRoute
  dsimp only
  split <;> simp

@[simp] theorem State.misroute_coll (s : State) (p : Nat) (b : List Byte) (cause : Nat) : (s.misroute p b cause).coll = s.coll :=
  State.raise_coll _ _ _ _ _

/-! ### A request turned down stops its program (R165, R166, R344) -/

@[simp] theorem State.undefineTarget_coll (s : State) (ctx : Nat) (d : Desc) (who : Accessor) (units : List Nat) :
    (s.undefineTarget ctx d who units).coll = s.coll := by
  unfold State.undefineTarget
  split
  · refine foldl_view (view := State.coll) (fun u x => foldl_view (view := State.coll) (fun v n => ?_) _ _) _ _
    split <;> simp
  · split
    · exact foldl_view (view := State.coll) (fun _ _ => State.undefineVa_coll _ _ _ _) _ _
    · rfl

@[simp] theorem State.stopStreams_coll (s : State) (ctx c : Nat) : (s.stopStreams ctx c).coll = s.coll :=
  foldl_view (view := State.coll) (fun _ _ => State.undefineTarget_coll _ _ _ _ _) _ _

@[simp] theorem State.stopLaunch_coll (s : State) (q : CmdRef) (status : Nat) (result1 : W64) :
    (s.stopLaunch q status result1).coll = s.coll := by
  unfold State.stopLaunch
  split
  · rfl
  · split
    · refine foldl_view (view := State.coll) (fun u c => ?_) _ _
      simp [apply_ite State.coll]
    · rfl

@[simp] theorem State.requestLost_coll (s : State) (b : TxBlock) : (s.requestLost b).coll = s.coll := by
  have hfault : ∀ (u : State) k code pc addr, (u.lateFault k code pc addr).coll = u.coll := by
    intro u k code pc addr
    unfold State.lateFault State.progFault
    dsimp only
    split
    · split <;> simp
    · rfl
  unfold State.requestLost
  dsimp only
  split
  · split
    · rfl
    · split <;> simp [hfault]
  · rfl

/-! ### A block handed to the ports (R344, R345) -/

@[simp] theorem State.senderStalls_coll (s : State) : s.senderStalls.coll = s.coll := by
  refine (foldl_view (view := State.coll) (fun u x => ?_) _ _).trans
    (foldl_view (view := State.coll) (fun u x => State.stallOff_coll u x) _ _)
  split <;> simp

@[simp] theorem State.release_coll (s : State) : s.release.coll = s.coll := by
  have hpump : ∀ u : State, u.pumpAll.coll = u.coll :=
    fun u => foldl_view (view := State.coll) (fun v p => v.pump_coll p) _ _
  unfold State.release
  dsimp only
  rw [hpump, State.senderStalls_coll]
  refine List.foldlRecOn (motive := fun acc : State × List TxBlock => acc.1.coll = s.coll) _ _ rfl (fun acc h b _ => ?_)
  split
  · exact h
  · split
    · split <;> simp [h]
    · split <;> simp [h]

@[simp] theorem State.sendBlock_coll (s : State) (unit dest cls : Nat) (relay peg : Bool) (bytes : List Byte) :
    (s.sendBlock unit dest cls relay peg bytes).1.coll = s.coll := by
  unfold State.sendBlock
  split <;> simp

end Sys2Proof.Machine
end

section
/-! The COLL_STARTs that wait (12_collectives.md R381): whatever a running collective does, they stay as they are; a start takes its own
away and no other. -/

namespace Sys2Proof.Machine

/-! ### The queue through the actions of a collective (R360 to R382) -/

section
variable {l : List CollQueued} {s0 s : State}

theorem collGot_queued {α : Type} {c : Coll} {r : State × Got α} {f : State → α → State × Coll × CollDo}
    (h0 : s0.coll.queued = l) (hr : r.1.coll.queued = l) (hf : ∀ u x, u.coll.queued = l → (f u x).1.coll.queued = l) :
    (collGot s0 c r f).1.coll.queued = l := by
  obtain ⟨u, g⟩ := r
  cases g with
  | ok x => exact hf u x hr
  | wait => exact h0
  | fault => exact hr
  | damaged => exact hr

theorem queued_ite {p : Prop} [Decidable p] {r r' : State × Coll × CollDo} (h : r.1.coll.queued = l) (h' : r'.1.coll.queued = l) :
    (if p then r else r').1.coll.queued = l := by
  split
  · exact h
  · exact h'

theorem queued_of_coll {t : State} (h : t.coll = s.coll) (hs : s.coll.queued = l) : t.coll.queued = l := by rw [h, hs]

@[simp] theorem State.collOwn_coll (s : State) (c : Coll) (i : Nat) : (s.collOwn c i).1.coll = s.coll := by
  have hread := s.readVa_coll c.ctx (c.g.srcVa i) (c.g.len i * c.d.srcBytes) (.other false) false c.endDeadline
  unfold State.collOwn
  split <;> rename_i heq <;> rw [heq] at hread <;> exact hread

@[simp] theorem State.collSource_coll (s : State) (c : Coll) (stage i : Nat) : (s.collSource c stage i).1.coll = s.coll := by
  have hread := s.readVa_coll c.ctx (c.g.srcVa i) (c.g.len i * c.d.srcBytes) (.other false) false c.endDeadline
  unfold State.collSource
  split <;> rename_i heq <;> rw [heq] at hread <;> exact hread

@[simp] theorem State.collSend_coll (s : State) (c : Coll) (peer cls stage stripe kind arg : Nat) (data : List Byte) :
    (s.collSend c peer cls stage stripe kind arg data).1.coll = s.coll := State.sendBlock_coll _ _ _ _ _ _ _

@[simp] theorem State.sendChunk_coll (s : State) (c : Coll) (f : Flow) (i : Nat) (w : ChunkWire) :
    (s.sendChunk c f i w).1.coll = s.coll := by
  unfold State.sendChunk
  split
  · simp
  · split
    · dsimp only
      split <;> simp
    · simp

@[simp] theorem State.sendSummary_coll (s : State) (c : Coll) (stage : Nat) (h : HealthW) (peers : List Nat) :
    (s.sendSummary c stage h peers).1.coll = s.coll := by
  induction peers generalizing s with
  | nil => rfl
  | cons p peers ih =>
    unfold State.sendSummary
    dsimp only
    split <;> simp [ih]

@[simp] theorem State.collEnter_coll (s : State) (c : Coll) (stage : Nat) : (s.collEnter c stage).1.coll = s.coll := by
  unfold State.collEnter
  split <;> simp

@[simp] theorem State.collProgress_coll (s : State) (c : Coll) : (s.collProgress c).coll = s.coll := rfl

@[simp] theorem State.collNext_coll (s : State) (c : Coll) (f : Flow) (i : Nat) : (s.collNext c f i).1.coll = s.coll := by
  unfold State.collNext
  extract_lets g ofGot ofVal
  have hgot : ∀ r, r.1.coll = s.coll → (ofGot r).1.coll = s.coll := by
    rintro ⟨u, g⟩ hu
    cases g <;> exact hu
  have hsource : ∀ stage, (ofGot (s.collSource c stage i)).1.coll = s.coll := fun stage => hgot _ (s.collSource_coll c stage i)
  have hval : ∀ k, (ofVal k).1.coll = s.coll := by
    intro k
    simp only [ofVal]
    split <;> rfl
  split
  · split
    · exact hval i
    · split
      · exact hsource 0
      · split
        · split
          · exact hval i
          · exact hsource f.stage
        · exact hval _
  · split
    · exact hsource f.stage
    · split
      · split
        · rfl
        · split
          · rfl
          · next va _ =>
            have hread := s.readVa_coll c.ctx (va + i % max 1 g.unitChunks * 4096) 4096 (.other false) false c.endDeadline
            refine hgot _ ?_
            split <;> rename_i heq <;> exact (congrArg (fun r => r.1.coll) heq).symm.trans hread
      · split <;> rfl

section
variable (h0 : s0.coll.queued = l) (h : s.coll.queued = l)
include h0 h

theorem State.collWrite_queued (c0 c : Coll) (va key : Nat) (w : HealthW) (bs : List Byte) :
    (s0.collWrite s c0 c va key w bs).1.coll.queued = l :=
  collGot_queued h0 (by simpa using h) fun _ _ hu => hu

theorem State.collDeliver_queued (c0 c : Coll) (from_ i : Nat) (w : ChunkWire) :
    (s0.collDeliver s c0 c from_ i w).1.coll.queued = l := State.collWrite_queued h0 h _ _ _ _ _ _

theorem State.collFinish_queued (c0 c : Coll) (i : Nat) (v : ChunkVal) : (s0.collFinish s c0 c i v).1.coll.queued = l := by
  unfold State.collFinish
  dsimp only
  split
  · exact State.collDeliver_queued h0 h _ _ _ _ _
  · exact State.collWrite_queued h0 h _ _ _ _ _ _

theorem State.collCarry_queued (c0 c : Coll) (i : Nat) (v : ChunkVal) {f : State → ChunkVal → State × Coll × CollDo}
    (hf : ∀ u x, u.coll.queued = l → (f u x).1.coll.queued = l) : (s0.collCarry s c0 c i v f).1.coll.queued = l :=
  queued_ite (hf s v h) (collGot_queued h0 (queued_of_coll (State.readVa_coll _ _ _ _ _ _ _) h) fun _ _ hu =>
    collGot_queued h0 (queued_of_coll (State.writeVa_coll _ _ _ _ _ _ _) hu) fun u' _ hu' => hf u' _ hu')

end

/-- An action leaves the COLL_STARTs that wait as they are. -/
def KeepsQueue (a : CollTry) : Prop := ∀ (s : State) (c : Coll), (a s c).1.coll.queued = s.coll.queued

theorem collFold_keepsQueue (order : List Nat) (weight : Nat → Nat) (i : Nat) : KeepsQueue (State.collFold order weight i) := by
  intro s c
  unfold State.collFold
  refine queued_ite rfl (collGot_queued rfl (queued_of_coll (s.collOwn_coll c i) rfl) fun u x hu => ?_)
  extract_lets _ _ _ _ _
  refine State.collCarry_queued rfl hu _ _ _ _ fun u' v' hu' => ?_
  extract_lets
  have hprogress := queued_of_coll (u'.collProgress_coll c) hu'
  exact queued_ite (State.collFinish_queued rfl hprogress _ _ _ _) hprogress

theorem collHop_keepsQueue (f : Flow) : KeepsQueue (State.collHop f) := by
  intro s c
  unfold State.collHop
  extract_lets g
  split
  · rfl
  · split
    · rfl
    · extract_lets own
      have hown : own.1.coll.queued = s.coll.queued := by
        simp only [own]
        split
        · rfl
        · exact queued_of_coll (s.collOwn_coll c _) rfl
      refine collGot_queued rfl hown fun u x hu => ?_
      extract_lets
      have hprogress := queued_of_coll (u.collProgress_coll c) hu
      exact queued_ite (State.collFinish_queued rfl hprogress _ _ _ _) hprogress

theorem State.unitCopy_queued (s : State) (c0 : Coll) (from_ target : Nat) (c : Coll) :
    (s.unitCopy c0 from_ target c).1.coll.queued = s.coll.queued :=
  collGot_queued rfl (by simp) fun _ _ hu => collGot_queued rfl (by simpa using hu) fun _ _ hu' => hu'

theorem collPark_keepsQueue (j : Nat) (m : Move) : KeepsQueue (State.collPark j m) := by
  intro s c
  unfold State.collPark
  split
  · rfl
  · exact s.unitCopy_queued _ _ _ _

theorem collLocal_keepsQueue (j : Nat) (m : Move) : KeepsQueue (State.collLocal j m) := by
  intro s c
  unfold State.collLocal
  split
  · rfl
  · split
    · rfl
    · exact s.unitCopy_queued _ _ _ _

theorem collPush_keepsQueue (k : Nat) : KeepsQueue (State.collPush k) := by
  intro s c
  unfold State.collPush
  split
  · rfl
  · split
    · rfl
    · split
      · rfl
      · next f _ _ i _ _ u got hnext =>
        have hu := s.collNext_coll c f i
        rw [hnext] at hu
        refine collGot_queued rfl (congrArg CollSt.queued hu) fun u' wc hu' => ?_
        have hsent := fun c' => queued_of_coll (((u'.collEnter wc.2 f.stage).1.sendChunk_coll c' f i wc.1).trans
          (u'.collEnter_coll wc.2 f.stage)) hu'
        extract_lets e c1 c2 sent
        exact queued_ite (queued_of_coll (State.collProgress_coll _ c) (hsent c2)) (hsent c2)

theorem collTake_keepsQueue (f : Flow) : KeepsQueue (State.collTake f) := by
  intro s c
  unfold State.collTake
  split
  · rfl
  · split
    · rfl
    · dsimp only
      split
      · split
        · rfl
        · exact State.collWrite_queued rfl rfl _ _ _ _ _ _
      · exact State.collDeliver_queued rfl rfl _ _ _ _ _

theorem collSelf_keepsQueue (i : Nat) : KeepsQueue (State.collSelf i) := by
  intro s c
  unfold State.collSelf
  split
  · rfl
  · exact collGot_queued rfl (by simp) fun _ _ hu => State.collDeliver_queued rfl hu _ _ _ _ _

theorem collHeaderOut_keepsQueue (peer : Nat) : KeepsQueue (State.collHeaderOut peer) := by
  intro s c
  unfold State.collHeaderOut
  dsimp only
  split <;> simp

theorem collHeaderIn_keepsQueue (rank : Nat) : KeepsQueue (State.collHeaderIn rank) := by
  intro s c
  unfold State.collHeaderIn
  split
  · rfl
  · exact queued_ite rfl (collGot_queued rfl (by simp) fun _ _ hu => hu)

theorem collSum_keepsQueue : KeepsQueue State.collSum := by
  intro s c
  unfold State.collSum
  dsimp only
  split
  · rfl
  · split
    · rfl
    · split <;> simp

theorem collHealth_keepsQueue : KeepsQueue State.collHealth := by
  intro s c
  unfold State.collHealth
  split
  · rfl
  · split
    · rfl
    · exact collGot_queued rfl (by simp) fun _ _ hu => hu

theorem Coll.folds_keepQueue (c : Coll) : ∀ a ∈ c.folds, KeepsQueue a := by
  unfold Coll.folds
  dsimp only
  split
  · simp
  · split <;> simp [collFold_keepsQueue]

theorem Coll.actions_keepQueue (c : Coll) : ∀ a ∈ c.actions, KeepsQueue a := by
  intro a ha
  simp only [Coll.actions, List.mem_append, List.mem_map, List.mem_flatMap, List.mem_cons, List.not_mem_nil, or_false] at ha
  rcases ha with ((((((⟨f, -, rfl⟩ | hfold) | ⟨f, -, rfl⟩) | ⟨i, -, rfl⟩) | ⟨x, -, rfl | rfl⟩) | ⟨k, -, rfl⟩) | hheader) | rfl | rfl
  · exact collTake_keepsQueue f
  · exact c.folds_keepQueue a hfold
  · exact collHop_keepsQueue f
  · exact collSelf_keepsQueue i
  · exact collPark_keepsQueue _ _
  · exact collLocal_keepsQueue _ _
  · exact collPush_keepsQueue k
  · split at hheader
    · simp only [List.mem_flatMap, List.mem_cons, List.not_mem_nil, or_false] at hheader
      obtain ⟨r, -, rfl | rfl⟩ := hheader
      · exact collHeaderOut_keepsQueue r
      · exact collHeaderIn_keepsQueue r
    · cases hheader
  · exact collSum_keepsQueue
  · exact collHealth_keepsQueue

theorem tryActions_queued (s : State) (c : Coll) {as : List CollTry} (h : ∀ a ∈ as, KeepsQueue a) :
    (tryActions s c as).1.coll.queued = s.coll.queued := by
  induction as generalizing s c with
  | nil => rfl
  | cons a as ih =>
    have ha := h a List.mem_cons_self s c
    unfold tryActions
    split
    · next u c' heq =>
      rw [heq] at ha
      exact (ih u c' fun b hb => h b (List.mem_cons_of_mem _ hb)).trans ha
    · exact ha

theorem collLoop_queued (s : State) (c : Coll) (n : Nat) : (collLoop s c n).1.coll.queued = s.coll.queued := by
  induction n generalizing s c with
  | zero => rfl
  | succ n ih =>
    have htry := tryActions_queued s c c.actions_keepQueue
    unfold collLoop
    split
    · next u c' heq =>
      rw [heq] at htry
      exact (ih u c').trans htry
    · exact htry

@[simp] theorem State.collGrants_coll (s : State) (c : Coll) (ks : List Nat) : (s.collGrants c ks).1.coll = s.coll := by
  induction ks generalizing s c with
  | nil => rfl
  | cons k ks ih =>
    unfold State.collGrants
    split
    · exact ih s c
    · dsimp only
      split
      · exact ih s c
      · split <;> simp [ih]

/-! ### The queue through a collective's work, its end and its start -/

@[simp] theorem State.collUndef_coll (s : State) (c : Coll) : (s.collUndef c).coll = s.coll := by
  unfold State.collUndef
  dsimp only
  split
  · exact (foldl_view (view := State.coll) (fun _ _ => State.undefineVa_coll _ _ _ _) _ _).trans (State.undefineVa_coll _ _ _ _)
  · simp

@[simp] theorem State.endColl_queued (s : State) (c : Coll) (status rank : Nat) :
    (s.endColl c status rank).coll.queued = s.coll.queued := by
  simp [State.endColl, State.dropColl, apply_ite State.coll]

@[simp] theorem State.deadlineColl_queued (s : State) (c : Coll) : (s.deadlineColl c).coll.queued = s.coll.queued := by
  simp [State.deadlineColl]

theorem State.collStall_coll (s : State) (c : Coll) : (s.collStall c).coll = s.coll := by
  unfold State.collStall
  split <;> simp

theorem collSettle_queued (r : State × Coll × CollDo) : (collSettle r).coll.queued = r.1.coll.queued := by
  unfold collSettle
  split
  · simp
  · simp
  · next s c d _ _ =>
    have hgrants := ((s.collStall c).collGrants_coll c (List.range c.flows.length)).trans (s.collStall_coll c)
    split <;> rename_i heq <;> rw [heq] at hgrants <;> simp [← hgrants]

@[simp] theorem State.collWork_queued (s : State) (c : Coll) : (s.collWork c).coll.queued = s.coll.queued := by
  unfold State.collWork
  split
  · rfl
  · split
    · simp
    · rw [collSettle_queued, collLoop_queued]

@[simp] theorem State.collTag_queued (s : State) (c : Coll) : (s.collTag c).coll.queued = s.coll.queued := by
  have hread := s.readVa_coll c.ctx c.d.tagVa 64 (.other false) false c.endDeadline
  unfold State.collTag
  split
  · rfl
  · split <;> rename_i heq <;> rw [heq] at hread <;> dsimp only at hread <;> simp [hread, apply_ite State.coll]

theorem State.beginColl_queued (s : State) (q : CmdRef) (t : Taken) (g : CollG) (desc : List Byte) (ranks : List Nat)
    (plan : List Move) : (s.beginColl q t g desc ranks plan).coll.queued = s.coll.queued.filter (fun c => c.q != q) := by
  unfold State.beginColl
  extract_lets d c dropped wins old entered begun stage
  have hbegun : begun.coll.queued = s.coll.queued.filter (fun c => c.q != q) := by
    simp [begun, entered, old, dropped]
  have hstage : stage.1.coll.queued = s.coll.queued.filter (fun c => c.q != q) :=
    queued_of_coll (State.collEnter_coll _ _ _) hbegun
  split
  · exact (State.deadlineColl_queued _ _).trans hbegun
  · split
    · dsimp only
      split <;> simp [hstage]
    · exact (State.collWork_queued _ _).trans hstage

/-! ### Blocks that came before their collective (log entry 101) -/

@[simp] theorem State.stray_queued (s : State) (b : List Byte) (cause engine : Nat) :
    (s.stray b cause engine).coll.queued = s.coll.queued := by
  simp [State.stray]

theorem State.collHeld_queued (s : State) (group : Nat) (b : List Byte) : (s.collHeld group b).coll.queued = s.coll.queued := by
  unfold State.collHeld
  split
  · rfl
  · exact s.stray_queued b 1 group

theorem State.collReady_queued (s : State) (group : Nat) (b : List Byte) : (s.collReady group b).coll.queued = s.coll.queued := by
  unfold State.collReady
  split
  · dsimp only
    split
    · rfl
    · split
      · rfl
      · exact s.collWork_queued _
  · rfl
  · exact s.collHeld_queued group b

theorem State.collSummary_queued (s : State) (group : Nat) (b : List Byte) :
    (s.collSummary group b).coll.queued = s.coll.queued := by
  unfold State.collSummary
  split
  · extract_lets rank h sent
    split
    · exact s.stray_queued _ _ _
    · split
      · exact s.collWork_queued _
      · split <;> simp [sent]
  · rfl
  · exact s.collHeld_queued group b

@[simp] theorem State.collEarly_queued (s : State) (q : CmdRef) : (s.collEarly q).coll.queued = s.coll.queued := by
  unfold State.collEarly
  split
  · rfl
  · refine foldl_view (view := fun s => s.coll.queued) (fun u b => ?_) _ _
    split
    · exact u.collReady_queued _ b
    · exact u.collSummary_queued _ b

end

end Sys2Proof.Machine
end

section
/-! The collectives' commands and timers (12_collectives.md R354 to R359, R370, R374 to R378, R381, R382). -/

namespace Sys2Proof.Machine

/-! ### The peg condition of a ring's first COLL_START (R381) -/

section
variable {s : State} {ctx ring : Nat}

theorem State.collPegs_of_empty (hempty : s.coll.queued = []) (n : Nat) : s.collPegs ctx ring n = s := by
  cases n with
  | zero => rfl
  | succ n => simp [State.collPegs, hempty]

theorem State.collPegs_of_no_condition {x : CollQueued} {t : Taken}
    (hfirst : s.coll.queued.find? (fun c => c.q.ctx.val == ctx && c.q.ring.val == ring) = some x)
    (ht : s.findTaken x.q = some t) (hnone : (t.par 40 2).testBit 0 = false) (n : Nat) : s.collPegs ctx ring n = s := by
  cases n with
  | zero => rfl
  | succ n => simp [State.collPegs, hfirst, ht, hnone]

end

/-! ### COLL_START and COLL_CANCEL (R354, R355, R378, R381) -/

section
variable {s : State} {q : CmdRef} {t : Taken}

theorem collStart_runsTo (h : Turn s q 0x0400 t) (hempty : s.coll.queued = []) (hnone : (fld t.packet 40 2).testBit 0 = false) :
    let u := (s.begin q).startTaken q
    RunsTo (.collStart q) s { u with coll := { u.coll with queued := [⟨q, false⟩] } } := by
  intro u
  have hqueue : u.coll.queued ++ [⟨q, false⟩] = [⟨q, false⟩] := by simp [u, hempty]
  have htaken : u.findTaken q = some { t with begun := true, started := true } := by
    rw [State.findTaken_startTaken, State.findTaken_begin, h.taken]
    rfl
  refine runsTo_perform rfl h ?_
  show State.collPegs { u with coll := { u.coll with queued := u.coll.queued ++ [⟨q, false⟩] } } q.ctx.val q.ring.val 1 = _
  rw [hqueue]
  have hfirst : [(⟨q, false⟩ : CollQueued)].find? (fun c => c.q.ctx.val == q.ctx.val && c.q.ring.val == q.ring.val) =
      some ⟨q, false⟩ := by simp
  exact State.collPegs_of_no_condition (t := { t with begun := true, started := true }) hfirst htaken hnone 1

/-- The state in which COLL_CANCEL looks for the collective it names: its late window is closed, its early blocks are dropped. -/
def State.cancelling (s : State) (q : CmdRef) (t : Taken) : State :=
  let u := s.begin q
  { u with coll := { u.coll with
      windows := u.coll.windows.filter (fun w => !(w.coll.q.ctx.val == q.ctx.val && w.coll.d.tag == fld t.packet 16 4))
      early := u.coll.early.filter (fun b => !ofTag q.ctx.val (fld t.packet 16 4) b) } }

theorem collCancel_of_none (h : Turn s q 0x0401 t)
    (hnone : s.coll.running.find? (fun c => c.q.ctx.val == q.ctx.val && c.d.tag == fld t.packet 16 4) = none) :
    RunsTo (.collCancel q) s ((s.cancelling q t).complete q stOk 0 0) := by
  refine runsTo_perform rfl h ?_
  extract_lets
  split
  · next _ hd => cases hnone.symm.trans hd
  · rfl

theorem collCancel_of_running (h : Turn s q 0x0401 t) {c : Coll}
    (hc : s.coll.running.find? (fun c => c.q.ctx.val == q.ctx.val && c.d.tag == fld t.packet 16 4) = some c) :
    RunsTo (.collCancel q) s (((s.cancelling q t).endColl c 0x0404 0xFFFFFFFF).complete q stOk 1 0) := by
  refine runsTo_perform rfl h ?_
  extract_lets
  split
  · next _ hd =>
    cases hc.symm.trans hd
    rfl
  · next hd => cases hc.symm.trans hd

/-! ### A collective begins (R356, R359, R370, R374) -/

/-- What a start reads touches no collective. -/
@[simp] theorem State.collRead_coll (s : State) (ctx va own : Nat) : (s.collRead ctx va own).1.coll = s.coll := by
  unfold State.collRead
  extract_lets o go
  have hgo : ∀ {α : Type} (r : State × Got (List Byte)) (f : State → List Byte → State × Got α), r.1.coll = s.coll →
      (∀ u b, u.coll = s.coll → (f u b).1.coll = s.coll) → (go r f).1.coll = s.coll := by
    rintro α ⟨u, g⟩ f hu hf
    cases g with
    | ok b => exact hf u b hu
    | wait => exact hu
    | fault => exact hu
    | damaged => exact hu
  split
  · rfl
  · refine hgo _ _ (by simp) fun u b hu => ?_
    split
    · exact hu
    · refine hgo _ _ (by simp [hu]) fun u h hu => ?_
      refine hgo _ _ (by split <;> simp [hu]) fun u e hu => ?_
      dsimp only
      split
      · exact hu
      · exact hgo _ _ (by split <;> simp [hu]) fun _ _ hu => hu

/-- The only COLL_START that waits has left the queue once its collective has begun: no other comes to its peg condition then. -/
theorem State.begun_queued {v : State} {va own : Nat} {x : List Byte × Option (Except (Option Nat) (List Nat × Nat)) × List Byte}
    (hread : s.collRead q.ctx.val va own = (v, .ok x)) (hqueued : s.coll.queued = [⟨q, false⟩]) (g : CollG) (b : List Byte)
    (ranks : List Nat) (plan : List Move) : ((v.beginColl q t g b ranks plan).collEarly q).coll.queued = [] := by
  have hv : v.coll = s.coll := (congrArg (fun r => r.1.coll) hread).symm.trans (s.collRead_coll _ _ _)
  rw [State.collEarly_queued, State.beginColl_queued, hv, hqueued]
  simp

theorem collectiveStart_runsTo {v : State} {b : List Byte} {ranks : List Nat} {inner : Nat} (halive : s.alive = true)
    (hl0 : s.inL0 q.ctx.val = false) (ht : s.findTaken q = some t) (hqueued : s.coll.queued = [⟨q, false⟩])
    (hnone : (fld t.packet 40 2).testBit 0 = false)
    (hroom : (s.coll.running.filter (fun x => x.engine == fld t.packet 20 1)).length < 256)
    (hread : s.collRead q.ctx.val (fld t.packet 24 8) s.guy.node = (v, .ok (b, some (.ok (ranks, inner)), [])))
    (hop : (CollD.of b).op ≠ 7) :
    let g : CollG := ⟨CollD.of b, ranks.length, inner, ranks.idxOf s.guy.node⟩
    v.coll.running.any (fun x => x.ctx == q.ctx.val && x.d.tag == (CollD.of b).tag) = false →
    g.ok (g.flows.filter (fun f => !f.out)).length = true → v.collPages q.ctx.val g 0 = (true, false) →
    RunsTo (.collectiveStart q) s (((v.beginColl q t g b ranks
      (permutePlan [] ((CollD.of b).scratchSize / (CollD.of b).unit))).collEarly q).collPegs q.ctx.val q.ring.val 1) := by
  intro g hfree hok hpages
  have hpegs : s.collPegs q.ctx.val q.ring.val 1 = s :=
    State.collPegs_of_no_condition (x := ⟨q, false⟩) (by simp [hqueued]) ht hnone 1
  have hbegun := State.begun_queued (t := t) hread hqueued g b ranks (permutePlan [] ((CollD.of b).scratchSize / (CollD.of b).unit))
  show execCollectiveStart q s = _
  unfold execCollectiveStart
  have hidle : ¬ (!s.alive || s.inL0 q.ctx.val) = true := by simp [halive, hl0]
  rw [if_neg hidle, hpegs]
  extract_lets u first _ ctx
  have hfirst : first = some ⟨q, false⟩ := by simp [first, u, hqueued]
  rw [hfirst, show u.findTaken q = some t from ht]
  dsimp only
  have hfull : decide (256 ≤ (u.coll.running.filter (fun x => x.engine == t.par 20 1)).length) = false :=
    decide_eq_false (Nat.not_le.mpr hroom)
  have hbit : (t.par 40 2).testBit 0 = false := hnone
  have hgo : ¬ (decide (256 ≤ (u.coll.running.filter (fun x => x.engine == t.par 20 1)).length) ||
      (t.par 40 2).testBit 0 && !false) = true := by
    simp [hfull, hbit]
  rw [if_neg hgo, show u.collRead ctx (t.par 24 8) u.guy.node = _ from hread]
  dsimp only
  rw [if_neg hop]
  refine congrArg Host.Outcome.next ((if_neg ?free).trans ((if_neg ?valid).trans ((if_neg ?present).trans ?begins)))
  case free => exact Bool.eq_false_iff.mp hfree
  case valid =>
    show ¬ (!g.ok (g.flows.filter (fun f => !f.out)).length || _ || (v.collPages q.ctx.val g 0).2) = true
    simp [hok, hop, hpages]
  case present =>
    show ¬ (!(v.collPages q.ctx.val g 0).1) = true
    simp [hpages]
  case begins => exact (State.collPegs_of_empty hbegun _).trans (State.collPegs_of_empty hbegun _).symm

end

/-! ### A collective at work (R370, R374, R375, R377, R382) -/

section
variable {s : State} {q : CmdRef} {c : Coll} (halive : s.alive = true) (hl0 : s.inL0 q.ctx.val = false) (hc : s.coll? q = some c)
include halive hl0 hc

theorem State.collAtWork : (if s.alive && !s.inL0 q.ctx.val then s.coll? q else none) = some c := by
  simp [halive, hl0, hc]

theorem collTagReread_runsTo {v : State} {b : List Byte} (htagged : c.d.tagged = true) (hunread : c.tagOk = false)
    (hdue : c.lastTag + 1000 ≤ s.time.localNs)
    (hread : s.readVa c.q.ctx.val c.d.tagVa 64 (.other false) false c.endDeadline = (v, .ok b)) (hstep : fld b 0 4 = c.step)
    (htwin : fld b 4 4 + c.step = 2 ^ 32 - 1) :
    RunsTo (.collTagReread q) s ((v.stallOff (.cmd c.q)).collWork
      { c with tagOk := true, header := b, lastTag := (v.stallOff (.cmd c.q)).time.localNs }) := by
  have htag : s.collTag c = (v.stallOff (.cmd c.q)).collWork
      { c with tagOk := true, header := b, lastTag := (v.stallOff (.cmd c.q)).time.localNs } := by
    unfold State.collTag
    rw [if_neg (by simp [hunread]), show s.readVa c.ctx _ _ _ _ _ = _ from hread]
    simp [hstep, htwin, State.local_]
  show execCollTagReread q s = _
  unfold execCollTagReread
  rw [State.collAtWork halive hl0 hc]
  dsimp only
  rw [if_pos (by simp [htagged, hunread, State.local_, hdue]), htag]

theorem collDeadlineExpiry_runsTo (hmode : c.d.fmode ≠ 0) (hlive : c.dead = false) (hpassed : s.timePassed c.deadline = true) :
    RunsTo (.collDeadlineExpiry q) s (s.collWork { c with dead := true, late := c.owing }) := by
  show execCollDeadlineExpiry q s = _
  unfold execCollDeadlineExpiry
  rw [State.collAtWork halive hl0 hc]
  dsimp only
  rw [if_neg (by simp [hmode, hlive, hpassed])]

theorem collEndDeadlineExpiry_runsTo (hpassed : s.timePassed c.endDeadline = true) :
    RunsTo (.collEndDeadlineExpiry q) s (s.deadlineColl c) := by
  show execCollEndDeadlineExpiry q s = _
  unfold execCollEndDeadlineExpiry
  rw [State.collAtWork halive hl0 hc]
  dsimp only
  rw [if_pos hpassed]

section
variable {d : Coll} (hd : (s.collWork c).coll? q = some d)
include hd

theorem collectiveComplete_of_finished {t : Taken} (hfinished : d.finished = true) (hmissing : d.missing = 0)
    (hmode : d.d.fmode = 0) (ht : (s.collWork c).findTaken q = some t) :
    RunsTo (.collectiveComplete q) s
      (if (fld t.packet 40 2).testBit 1 then
        ((s.collWork c).endColl d stOk 0xFFFFFFFF).completionSignal d.q.ctx.val (fld t.packet 36 4)
          (BitVec.ofNat 64 (fld t.packet 56 8)) (srcColl d.engine)
      else (s.collWork c).endColl d stOk 0xFFFFFFFF) := by
  show execCollectiveComplete q s = _
  unfold execCollectiveComplete
  rw [State.collAtWork halive hl0 hc]
  dsimp only
  rw [hd, ht]
  simp only [hfinished, hmissing, hmode, Bool.not_true, Bool.false_eq_true, if_true, if_false]
  rfl

theorem collectiveComplete_of_unfinished (hunfinished : d.finished = false) :
    RunsTo (.collectiveComplete q) s (s.collWork c) := by
  show execCollectiveComplete q s = _
  unfold execCollectiveComplete
  rw [State.collAtWork halive hl0 hc]
  dsimp only
  rw [hd]
  simp only [hunfinished, Bool.not_false, if_true]

end

end

theorem lateWindowExpiry_runsTo {s : State} (halive : s.alive = true) (ctx : Ctx) (tag : W32) :
    RunsTo (.lateWindowExpiry ctx tag) s { s with coll := { s.coll with
      windows := s.coll.windows.filter (fun w =>
        !(w.coll.q.ctx.val == ctx.val && w.coll.d.tag == tag.toNat && decide (w.closes ≤ s.time.ns))) } } :=
  congrArg Host.Outcome.next (if_pos halive)

/-- Settles O51: each command and timer by its lemma above. The start turns on `State.begun_queued`: the work that follows it leaves no
COLL_START whose peg condition could be looked at next. -/
theorem collectiveCommands : Obligations.CollectiveCommands := by
  unfold Obligations.CollectiveCommands
  intro s q t
  refine ⟨collStart_runsTo, fun h => ⟨collCancel_of_none h, fun c => collCancel_of_running h⟩, fun halive hl0 => ⟨?starts, ?works⟩,
    fun halive => lateWindowExpiry_runsTo halive⟩
  case starts =>
    intro b ranks inner v ht hqueued hnone hroom hread hop g hfree hok hpages
    exact collectiveStart_runsTo halive hl0 ht hqueued hnone hroom hread hop hfree hok hpages
  case works =>
    intro c hc
    refine ⟨fun v b => collTagReread_runsTo halive hl0 hc, collDeadlineExpiry_runsTo halive hl0 hc,
      collEndDeadlineExpiry_runsTo halive hl0 hc, fun d hd hfinished hmissing hmode ht => ?_,
      fun d hd => collectiveComplete_of_unfinished halive hl0 hc hd⟩
    have hrun := collectiveComplete_of_finished halive hl0 hc hd hfinished hmissing hmode ht
    constructor
    · intro hsilent
      rwa [if_neg (by simp [hsilent])] at hrun
    · intro hsignal
      rwa [if_pos hsignal] at hrun

end Sys2Proof.Machine
end

section
/-! The collectives' blocks (12_collectives.md R360 to R362, R370, R373; log entry 101). -/

namespace Sys2Proof.Machine

/-! ### Delivery of a collective's block (R330, R350, R360, R374) -/

section
variable {row : Instr} {s t : State} {p : Port} {kind : Nat} {b : InBlock} {f : State → Nat → List Byte → Option State}
  (hrow : exec row s = .next (s.deliverColl p.val kind f)) (ht : f s (p.val / 4) b.bytes = some t)
include hrow ht

theorem runsTo_deliverColl_of_none (halive : s.alive = true) (hb : firstOfKind kind (s.port p.val).inbox [] = some b)
    (hnone : s.collOf b.bytes = none) : RunsTo row s (t.delivered p.val b) := by
  have hdue : s.collDue b.bytes = s := by simp [State.collDue, hnone]
  have hclear : s.collReserved b.bytes = false := by simp [State.collReserved, hnone]
  refine hrow.trans (congrArg Host.Outcome.next ?_)
  simp [State.deliverColl, halive, hb, hdue, hclear, ht]

theorem runsTo_deliverColl {c : Coll} (h : CollArrives s p.val kind b c) : RunsTo row s (t.delivered p.val b) := by
  have hdue : s.collDue b.bytes = s := by simp [State.collDue, h.names, h.inTime]
  refine hrow.trans (congrArg Host.Outcome.next ?_)
  simp [State.deliverColl, h.alive, h.first, hdue, h.reserved, ht]

end

/-! ### Blocks of no collective (R361; log entry 101) -/

section
variable {s : State} {b : List Byte} (hnone : s.collOf b = none) (group : Nat)
include hnone

theorem State.collData_of_none : s.collData group b = some (s.stray b 1 group) := by simp [State.collData, hnone]

theorem State.collHeader_of_none : s.collHeader group b = s.stray b 1 group := by simp [State.collHeader, hnone]

theorem State.collReady_of_none : s.collReady group b = s.collHeld group b := by simp [State.collReady, hnone]

theorem State.collSummary_of_none : s.collSummary group b = s.collHeld group b := by simp [State.collSummary, hnone]

end

/-! ### Blocks of a running collective (R361, R362, R370, R373) -/

section
variable {s : State} {c : Coll} {k : Nat} {f : Flow}

/-- A whole chunk that is not late moves its flow on and joins what has arrived. -/
theorem State.takeChunk_whole {stage rank i : Nat} {w : ChunkWire} (hstage : f.stage = stage)
    (hwhole : c.g.payloadLen i ≤ w.payload.length) :
    s.takeChunk c false false k f rank i w = some (s.collWork { c with
      flows := c.flows.set k { f with pos := f.pos + 1 }
      parts := mset c.parts (partKey stage rank i) w }) := by
  subst hstage
  exact (if_neg (Nat.not_lt.mpr hwhole)).trans (if_neg Bool.false_ne_true)

/-- The RAW block of the chunk that its stream expects next, which no word of the collective's deadlines holds off, is taken. -/
theorem State.collChunk_of_next {b : List Byte} {i rank stage : Nat} (hraw : c.d.raw = true) (hstep : blkArg b / 2 ^ 32 = c.step)
    (hlate : c.late = []) (hi : blkArg b % 2 ^ 32 = i) (hrank : c.ranks.idxOf (blkSrc b) = rank) (hstage : collStage b = stage)
    (hk : c.flows.findIdx? (fun f => !f.out && f.stage == stage && f.stripe == collStripe b && f.peer == rank) = some k)
    (hf : c.flows[k]? = some f) (hnext : f.chunks[f.pos]? = some i) (hcredit : f.pos < f.credit)
    (hnew : mget c.parts (partKey stage rank i) = none) (hentered : c.stages.contains stage = true)
    (hmem : s.takesWrites c.ctx (c.landing f i) = true) :
    s.collChunk c false b = s.takeChunk c false false k f rank i (c.gathered none (blkData b) i) := by
  have henter : s.collEnter c stage = (s, c) := if_pos hentered
  simp [State.collChunk, -Nat.reducePow, hraw, hstep, hlate, hi, hrank, hstage, hk, hf, hnext, Nat.not_le.mpr hcredit, hnew, hmem, henter]

/-- The flow at the place that a search found meets the search's test. -/
theorem getElem?_of_findIdx? {α : Type} {l : List α} {test : α → Bool} {k : Nat} {a : α} (hk : l.findIdx? test = some k)
    (ha : l[k]? = some a) : test a = true := by
  obtain ⟨hlt, htest, -⟩ := List.findIdx?_eq_some_iff_getElem.mp hk
  rw [List.getElem?_eq_getElem hlt] at ha
  cases ha
  exact htest

theorem State.collData_of_running {b : List Byte} (group : Nat) (hb : s.collOf b = some (c, false))
    (hdeadline : s.timePassed c.deadline = false) : s.collData group b = s.collChunk c false b := by
  have hlate : s.collLate c = c := if_pos (by simp [hdeadline])
  simp [State.collData, hb, hlate]

theorem State.collReady_of_running {b : List Byte} (group : Nat) (hb : s.collOf b = some (c, false))
    (hk : c.flows.findIdx? (fun f => f.out && f.stage == collStage b && f.stripe == collStripe b &&
      f.peer == c.ranks.idxOf (blkSrc b)) = some k) (hf : c.flows[k]? = some f) :
    s.collReady group b = s.collWork (c.setFlow k { f with credit := max f.credit (blkArg b % 2 ^ 32) }) := by
  simp [State.collReady, hb, hk, hf]

theorem State.collSummary_of_partial {b : List Byte} (group : Nat) (hb : s.collOf b = some (c, false))
    (hstep : fld (blkData b) 0 4 = c.step) (hstage : collStage b = 0) :
    s.collSummary group b = s.collWork { c with
      sumIn := mset c.sumIn (c.ranks.idxOf (blkSrc b)) (HealthW.of (blkData b)) } := by
  simp [State.collSummary, hb, hstep, hstage]

theorem State.collHeader_of_running {b : List Byte} (group : Nat) (hb : s.collOf b = some (c, false))
    (hstep : blkArg b / 2 ^ 32 = c.step) :
    s.collHeader group b = s.collWork { c with
      headersIn := mset c.headersIn (c.ranks.idxOf (blkSrc b)) (bsub (blkData b) 0 64) } := by
  simp [State.collHeader, -Nat.reducePow, hb, hstep]

end

/-- Settles O52: `runsTo_deliverColl_of_none` and `runsTo_deliverColl` bring each row to its kind's meaning, and the lemma above about
that kind says what becomes of the block. -/
theorem collectiveBlocks : Obligations.CollectiveBlocks := by
  unfold Obligations.CollectiveBlocks
  intro s p b
  refine ⟨fun row hrow halive hb hnone => ?stray, fun row hrow halive hb hnone => ?held, fun c k f h => ?data, fun c k f h => ?ready,
    fun c h => ?summary, fun c h => ?header⟩
  case stray =>
    simp only [List.mem_cons, List.not_mem_nil, or_false] at hrow
    rcases hrow with rfl | rfl
    · exact runsTo_deliverColl_of_none rfl (State.collData_of_none hnone _) halive hb hnone
    · exact runsTo_deliverColl_of_none rfl (congrArg some (State.collHeader_of_none hnone _)) halive hb hnone
  case held =>
    simp only [List.mem_cons, List.not_mem_nil, or_false] at hrow
    rcases hrow with rfl | rfl
    · exact runsTo_deliverColl_of_none rfl (congrArg some (State.collReady_of_none hnone _)) halive hb hnone
    · exact runsTo_deliverColl_of_none rfl (congrArg some (State.collSummary_of_none hnone _)) halive hb hnone
  case data =>
    intro hraw hstep hlate hdeadline i rank stage hk hf hnext hcredit hnew w hwhole hentered hmem
    have hgathered : c.gathered none (blkData b.bytes) i = w := if_pos hraw
    have hflow := getElem?_of_findIdx? hk hf
    simp only [Bool.and_eq_true, beq_iff_eq] at hflow
    have hstage : f.stage = stage := hflow.1.1.2
    have htaken := (State.collData_of_running (p.val / 4) h.names hdeadline).trans
      (State.collChunk_of_next hraw hstep hlate rfl rfl rfl hk hf hnext hcredit hnew hentered hmem)
    rw [hgathered] at htaken
    exact runsTo_deliverColl rfl (htaken.trans (State.takeChunk_whole hstage hwhole)) h
  case ready => exact fun hk hf => runsTo_deliverColl rfl (congrArg some (State.collReady_of_running _ h.names hk hf)) h
  case summary =>
    exact fun hstep hstage => runsTo_deliverColl rfl (congrArg some (State.collSummary_of_partial _ h.names hstep hstage)) h
  case header => exact fun hstep => runsTo_deliverColl rfl (congrArg some (State.collHeader_of_running _ h.names hstep)) h

end Sys2Proof.Machine
end

section
/-! The queue and the anti-rollback fuses (16_boot_and_identity.md R474; 95_what_each_step_holds.md): what each row leaves of them, the
one row that burns fuses, and the step. -/

namespace Sys2Proof.Machine

/-! ### Every row but GLB_ROLLBACK -/

/-- The lemmas of `Laws/Kept*` gathered over the arms of `exec`. -/
theorem exec_kept {r s : State} (c : Instr) (hrow : ∀ v, c ≠ .glbRollbackWrite v) (h : Kept r s) : KeptE r (exec c s) :=
  match c with
  | .glbRollbackWrite v => absurd rfl (hrow v)
  | .pwrGoodRise .. => execPwrGoodRise_kept _ _ s h | .pwrGoodFall => execPwrGoodFall_kept s h
  | .perstNRelease .. => execPerstNRelease_kept _ _ _ s h | .perstNAssert => execPerstNAssert_kept s h
  | .functionLevelReset => execFunctionLevelReset_kept s h | .dlDown .. => execDlDown_kept _ s h
  | .dlUp .. => execDlUp_kept _ _ _ s h | .holdTimeExpiry => execHoldTimeExpiry_kept s h
  | .fastThrottleAssert => execFastThrottleAssert_kept s h | .fastThrottleRelease => execFastThrottleRelease_kept s h
  | .throttleHoldExpiry => execThrottleHoldExpiry_kept s h | .timePpsEdge .. => execTimePpsEdge_kept _ s h
  | .testTokenPulse => execTestTokenPulse_kept s h | .tokenRegenTimeout => execTokenRegenTimeout_kept s h
  | .analogueComparatorTrip .. => execAnalogueComparatorTrip_kept _ _ s h
  | .doorbellSqTailWrite .. => execDoorbellSqTailWrite_kept _ _ _ s h
  | .doorbellCqHeadWrite .. => execDoorbellCqHeadWrite_kept _ _ _ s h | .packetTake .. => execPacketTake_kept _ _ s h
  | .packetHeaderRepoll .. => execPacketHeaderRepoll_kept _ _ s h | .tornPacketTimeout .. => execTornPacketTimeout_kept _ _ s h
  | .interruptCoalesceTimeout .. => execInterruptCoalesceTimeout_kept _ _ s h
  | .msixVectorUnmask .. => execMsixVectorUnmask_kept _ s h | .apertureWrite .. => execApertureWrite_kept _ _ _ s h
  | .apertureRead .. => execApertureRead_kept _ _ _ s h | .placementWrite .. => execPlacementWrite_kept _ _ _ s h
  | .placementRead q a n => execPlacementRead_kept q a n s h | .commandWindowWrite .. => execCommandWindowWrite_kept _ _ s h
  | .hlCtx0EnableWrite .. => execHlCtx0EnableWrite_kept _ s h | .hlCtx0ResumeWrite .. => execHlCtx0ResumeWrite_kept _ s h
  | .timeCtrlWrite .. => execTimeCtrlWrite_kept _ s h | .reqClippedClear .. => execReqClippedClear_kept _ s h
  | .registerWrite .. => execRegisterWrite_kept _ s h | .curClockLimitsWrite .. => execCurClockLimitsWrite_kept _ s h
  | .curPowerCapWrite .. => execCurPowerCapWrite_kept _ s h | .curThrottlePointWrite .. => execCurThrottlePointWrite_kept _ s h
  | .rstRequestL2 .. => execRstRequestL2_kept _ s h | .rstRequestL3 .. => execRstRequestL3_kept _ s h
  | .rstRequestL4 .. => execRstRequestL4_kept _ s h | .memHpprWrite .. => execMemHpprWrite_kept _ s h
  | .glbStageWindowWrite .. => execGlbStageWindowWrite_kept _ _ s h | .glbStageGo .. => execGlbStageGo_kept _ s h
  | .getVersion .. => execGetVersion_kept _ s h | .getCapabilities .. => execGetCapabilities_kept _ s h
  | .negotiateAlgorithms .. => execNegotiateAlgorithms_kept _ _ _ s h | .getDigests .. => execGetDigests_kept _ s h
  | .getCertificate .. => execGetCertificate_kept _ _ _ _ s h | .challenge .. => execChallenge_kept _ _ _ s h
  | .getMeasurements .. => execGetMeasurements_kept _ _ _ s h | .pldmSensorRead .. => execPldmSensorRead_kept _ s h
  | .nop .. => execNop_kept _ s h | .apertureBind .. => execApertureBind_kept _ s h
  | .apertureUnbind .. => execApertureUnbind_kept _ s h | .placeSet .. => execPlaceSet_kept _ s h
  | .poolQuotaSet .. => execPoolQuotaSet_kept _ s h | .memMap .. => execMemMap_kept _ s h
  | .memUnmap .. => execMemUnmap_kept _ s h | .memPin .. => execMemPin_kept _ s h | .memUnpin .. => execMemUnpin_kept _ s h
  | .memPrefetch .. => execMemPrefetch_kept _ s h | .poolEvictStore .. => execPoolEvictStore_kept _ s h
  | .hostMap .. => execHostMap_kept _ s h | .hostUnmap .. => execHostUnmap_kept _ s h
  | .peerExport .. => execPeerExport_kept _ s h | .stallRead .. => execStallRead_kept _ s h
  | .memGroupMode .. => execMemGroupMode_kept _ s h | .memPpr .. => execMemPpr_kept _ s h
  | .memLoopback .. => execMemLoopback_kept _ s h | .loopbackDurationExpiry .. => execLoopbackDurationExpiry_kept _ s h
  | .progLaunch .. => execProgLaunch_kept _ s h | .progAbort .. => execProgAbort_kept _ s h
  | .clusterGrant .. => execClusterGrant_kept _ s h | .clusterRelease .. => execClusterRelease_kept _ s h
  | .copy .. => execCopy_kept _ s h | .copyComplete .. => execCopyComplete_kept _ s h
  | .packTableInit .. => execPackTableInit_kept _ s h | .packTableAdvance .. => execPackTableAdvance_kept _ s h
  | .collStart .. => execCollStart_kept _ s h | .collCancel .. => execCollCancel_kept _ s h
  | .updApply .. => execUpdApply_kept _ s h | .updNorm .. => execUpdNorm_kept _ s h | .recInit .. => execRecInit_kept _ s h
  | .recExport .. => execRecExport_kept _ s h | .recImport .. => execRecImport_kept _ s h
  | .consSweep .. => execConsSweep_kept _ s h | .consCommandStart .. => execConsCommandStart_kept _ s h
  | .updateCommit .. => execUpdateCommit_kept _ s h | .timeSet .. => execTimeSet_kept _ s h
  | .timeMark .. => execTimeMark_kept _ s h | .pegQuotaSet .. => execPegQuotaSet_kept _ s h
  | .pegAlloc .. => execPegAlloc_kept _ s h | .pegFree .. => execPegFree_kept _ s h | .pegSignal .. => execPegSignal_kept _ s h
  | .pegSet .. => execPegSet_kept _ s h | .pegWaitGe .. => execPegWaitGe_kept _ s h | .pegWaitEq .. => execPegWaitEq_kept _ s h
  | .pegWaitTimeout => execPegWaitTimeout_kept s h | .catRingBind .. => execCatRingBind_kept _ s h
  | .catExportBind .. => execCatExportBind_kept _ s h | .ctxCreate .. => execCtxCreate_kept _ s h
  | .ctxDestroy .. => execCtxDestroy_kept _ s h | .ringCreate .. => execRingCreate_kept _ s h
  | .ringDestroy .. => execRingDestroy_kept _ s h | .ringResume .. => execRingResume_kept _ s h
  | .rstContext .. => execRstContext_kept _ s h | .rstUnit .. => execRstUnit_kept _ s h | .testRun .. => execTestRun_kept _ s h
  | .repairMapRead .. => execRepairMapRead_kept _ s h | .repairFuse .. => execRepairFuse_kept _ s h
  | .curPowerState .. => execCurPowerState_kept _ s h | .curSensorRead .. => execCurSensorRead_kept _ s h
  | .curPatchActivate .. => execCurPatchActivate_kept _ _ s h | .glRouteWrite .. => execGlRouteWrite_kept _ s h
  | .glPortRetrain .. => execGlPortRetrain_kept _ s h | .glPortDisable .. => execGlPortDisable_kept _ s h
  | .glPortEnable .. => execGlPortEnable_kept _ s h | .fwStage .. => execFwStage_kept _ s h
  | .cfgStage .. => execCfgStage_kept _ s h | .cfgCommit .. => execCfgCommit_kept _ s h
  | .processorRestartComplete => execProcessorRestartComplete_kept s h | .statInit .. => execStatInit_kept _ s h
  | .statClose .. => execStatClose_kept _ s h | .gscaleInit .. => execGscaleInit_kept _ s h
  | .gscaleAdvance .. => execGscaleAdvance_kept _ s h | .launchStart .. => execLaunchStart_kept _ s h
  | .clusterProgramEnd .. => execClusterProgramEnd_kept _ s h | .clusterDrained .. => execClusterDrained_kept _ s h
  | .launchComplete .. => execLaunchComplete_kept _ s h | .clusterGateTimeout .. => execClusterGateTimeout_kept _ s h
  | .add .. => execAdd_kept _ s h | .sub .. => execSub_kept _ s h | .mul .. => execMul_kept _ s h
  | .and64 .. => execAnd64_kept _ s h | .or64 .. => execOr64_kept _ s h | .xor64 .. => execXor64_kept _ s h
  | .shl .. => execShl_kept _ s h | .shr .. => execShr_kept _ s h | .sar .. => execSar_kept _ s h | .min .. => execMin_kept _ s h
  | .max .. => execMax_kept _ s h | .li .. => execLi_kept _ s h | .sld .. => execSld_kept _ s h | .sst .. => execSst_kept _ s h
  | .spr .. => execSpr_kept _ s h | .br .. => execBr_kept _ s h | .brc .. => execBrc_kept _ s h | .loop .. => execLoop_kept _ s h
  | .endProgram .. => execEndProgram_kept _ s h | .branchNop .. => execBranchNop_kept _ s h | .mma .. => execMma_kept _ s h
  | .epi .. => execEpi_kept _ s h | .accRead .. => execAccRead_kept _ s h | .accWrite .. => execAccWrite_kept _ s h
  | .accZero .. => execAccZero_kept _ s h | .vadd .. => execVadd_kept _ s h | .vsub .. => execVsub_kept _ s h
  | .vmul .. => execVmul_kept _ s h | .vfma .. => execVfma_kept _ s h | .vmin .. => execVmin_kept _ s h
  | .vmax .. => execVmax_kept _ s h | .vdiv .. => execVdiv_kept _ s h | .vsqrt .. => execVsqrt_kept _ s h
  | .vcmp .. => execVcmp_kept _ s h | .vsel .. => execVsel_kept _ s h | .vradd .. => execVradd_kept _ s h
  | .vrmax .. => execVrmax_kept _ s h | .vrmin .. => execVrmin_kept _ s h | .viadd .. => execViadd_kept _ s h
  | .visub .. => execVisub_kept _ s h | .vimul .. => execVimul_kept _ s h | .vand .. => execVand_kept _ s h
  | .vor .. => execVor_kept _ s h | .vxor .. => execVxor_kept _ s h | .vshl .. => execVshl_kept _ s h
  | .vshr .. => execVshr_kept _ s h | .vsar .. => execVsar_kept _ s h | .vimin .. => execVimin_kept _ s h
  | .vimax .. => execVimax_kept _ s h | .vexp2 .. => execVexp2_kept _ s h | .vexp .. => execVexp_kept _ s h
  | .vlog2 .. => execVlog2_kept _ s h | .vlog .. => execVlog_kept _ s h | .vrcp .. => execVrcp_kept _ s h
  | .vrsqrt .. => execVrsqrt_kept _ s h | .vsin .. => execVsin_kept _ s h | .vcos .. => execVcos_kept _ s h
  | .vtanh .. => execVtanh_kept _ s h | .vsigmoid .. => execVsigmoid_kept _ s h | .verf .. => execVerf_kept _ s h
  | .vld .. => execVld_kept _ s h | .vst .. => execVst_kept _ s h | .vmovx .. => execVmovx_kept _ s h
  | .vextr .. => execVextr_kept _ s h | .cvt .. => execCvt_kept _ s h | .xfer .. => execXfer_kept _ s h
  | .stream .. => execStream_kept _ s h | .xwait .. => execXwait_kept _ s h | .cbld .. => execCbld_kept _ s h
  | .cbst .. => execCbst_kept _ s h | .credit .. => execCredit_kept _ s h | .swait .. => execSwait_kept _ s h
  | .dpGet .. => execDpGet_kept _ s h | .dpPut .. => execDpPut_kept _ s h | .dpWait .. => execDpWait_kept _ s h
  | .dpAtomAddFp32 .. => execDpAtomAddFp32_kept _ s h | .dpAtomAddBf16 .. => execDpAtomAddBf16_kept _ s h
  | .dpAtomAddInt32 .. => execDpAtomAddInt32_kept _ s h | .dpAtomAddInt64 .. => execDpAtomAddInt64_kept _ s h
  | .dpAtomMinFp32 .. => execDpAtomMinFp32_kept _ s h | .dpAtomMinBf16 .. => execDpAtomMinBf16_kept _ s h
  | .dpAtomMaxFp32 .. => execDpAtomMaxFp32_kept _ s h | .dpAtomMaxBf16 .. => execDpAtomMaxBf16_kept _ s h
  | .dpAtomAnd .. => execDpAtomAnd_kept _ s h | .dpAtomOr .. => execDpAtomOr_kept _ s h
  | .dpAtomXor .. => execDpAtomXor_kept _ s h | .dpAtomExchange .. => execDpAtomExchange_kept _ s h
  | .dpAtomCompareExchange .. => execDpAtomCompareExchange_kept _ s h | .dpAtomLineAdd .. => execDpAtomLineAdd_kept _ s h
  | .scanAffine .. => execScanAffine_kept _ s h | .scanAddF32 .. => execScanAddF32_kept _ s h
  | .scanAddI32 .. => execScanAddI32_kept _ s h | .scanMaxF32 .. => execScanMaxF32_kept _ s h
  | .scanBarrier .. => execScanBarrier_kept _ s h | .scanChain .. => execScanChain_kept _ s h | .psig .. => execPsig_kept _ s h
  | .pset .. => execPset_kept _ s h | .pwge .. => execPwge_kept _ s h | .pweq .. => execPweq_kept _ s h
  | .sbind .. => execSbind_kept _ s h | .sflush .. => execSflush_kept _ s h | .svec .. => execSvec_kept _ s h
  | .streamRequestIssue .. => execStreamRequestIssue_kept _ _ s h | .streamUnitLanded .. => execStreamUnitLanded_kept _ _ _ s h
  | .transferComplete .. => execTransferComplete_kept _ _ s h | .daypackComplete .. => execDaypackComplete_kept _ _ s h
  | .streamTagReread .. => execStreamTagReread_kept _ s h | .streamDeadlineExpiry .. => execStreamDeadlineExpiry_kept _ s h
  | .stallReportTimeout .. => execStallReportTimeout_kept _ _ s h | .agingTick => execAgingTick_kept s h
  | .evictionComplete .. => execEvictionComplete_kept _ _ s h | .pageReturnStart .. => execPageReturnStart_kept _ _ s h
  | .pageReturnComplete .. => execPageReturnComplete_kept _ _ s h | .hostReadCompletion .. => execHostReadCompletion_kept _ _ s h
  | .hbmReadResponse .. => execHbmReadResponse_kept _ s h | .caParityReport .. => execCaParityReport_kept _ _ s h
  | .refreshInterval n => execRefreshInterval_kept n s h | .wcFlushTimeout .. => execWcFlushTimeout_kept _ s h
  | .stackTrainingComplete .. => execStackTrainingComplete_kept _ s h | .flitReceived .. => execFlitReceived_kept _ _ s h
  | .nakFlitReceived .. => execNakFlitReceived_kept _ _ s h | .idleFlitReceived .. => execIdleFlitReceived_kept _ _ s h
  | .lpiFlitReceived .. => execLpiFlitReceived_kept _ _ s h | .replayTimeout .. => execReplayTimeout_kept _ s h
  | .frameReceived .. => execFrameReceived_kept _ _ s h | .writeBlockReceived .. => execWriteBlockReceived_kept _ s h
  | .writeAckReceived .. => execWriteAckReceived_kept _ s h | .readReqReceived .. => execReadReqReceived_kept _ s h
  | .readRespReceived .. => execReadRespReceived_kept _ s h | .pegBlockReceived .. => execPegBlockReceived_kept _ s h
  | .collDataReceived .. => execCollDataReceived_kept _ s h | .collReadyReceived .. => execCollReadyReceived_kept _ s h
  | .collSummaryReceived .. => execCollSummaryReceived_kept _ s h | .collHeaderReceived .. => execCollHeaderReceived_kept _ s h
  | .beaconRequestReceived .. => execBeaconRequestReceived_kept _ s h
  | .beaconReplyReceived .. => execBeaconReplyReceived_kept _ s h | .beaconIntervalTick => execBeaconIntervalTick_kept s h
  | .ptpMessageReceived .. => execPtpMessageReceived_kept _ _ s h | .ptpSyncInterval => execPtpSyncInterval_kept s h
  | .measurementLossTimeout => execMeasurementLossTimeout_kept s h
  | .slotPlanPeriodBoundary .. => execSlotPlanPeriodBoundary_kept _ s h | .e2eAckTimer .. => execE2eAckTimer_kept _ _ s h
  | .e2eAckReceived .. => execE2eAckReceived_kept _ s h | .e2eNakReceived .. => execE2eNakReceived_kept _ s h
  | .e2eResendTimeout .. => execE2eResendTimeout_kept _ _ s h
  | .connectionIdleExpiry .. => execConnectionIdleExpiry_kept _ _ _ s h | .signalDetected .. => execSignalDetected_kept _ s h
  | .trainingAttemptEnd .. => execTrainingAttemptEnd_kept _ _ s h | .linkLoss .. => execLinkLoss_kept _ s h
  | .collectiveStart .. => execCollectiveStart_kept _ s h | .collTagReread .. => execCollTagReread_kept _ s h
  | .collDeadlineExpiry .. => execCollDeadlineExpiry_kept _ s h
  | .collEndDeadlineExpiry .. => execCollEndDeadlineExpiry_kept _ s h
  | .collectiveComplete .. => execCollectiveComplete_kept _ s h | .lateWindowExpiry .. => execLateWindowExpiry_kept _ _ s h
  | .thermalSample .. => execThermalSample_kept _ s h | .voltageSample .. => execVoltageSample_kept _ s h
  | .currentSample .. => execCurrentSample_kept _ _ s h | .powerLoopTick => execPowerLoopTick_kept s h
  | .voltageSettled => execVoltageSettled_kept s h | .idleEntryTimeout => execIdleEntryTimeout_kept s h
  | .curatorWatchdogExpiry => execCuratorWatchdogExpiry_kept s h | .curatorRestartComplete => execCuratorRestartComplete_kept s h
  | .thermalSensorCheck .. => execThermalSensorCheck_kept _ s h | .voltageMonitorCheck .. => execVoltageMonitorCheck_kept _ s h
  | .watchdogExpiry .. => execWatchdogExpiry_kept _ s h | .quiesceComplete .. => execQuiesceComplete_kept _ s h
  | .quiesceTimeout .. => execQuiesceTimeout_kept _ _ _ _ s h | .heartbeatTimeout .. => execHeartbeatTimeout_kept _ s h
  | .unitBistComplete .. => execUnitBistComplete_kept _ _ _ _ s h | .testConditionCheck .. => execTestConditionCheck_kept _ s h
  | .coldBistRetry => execColdBistRetry_kept s h | .bistBatchComplete .. => execBistBatchComplete_kept _ s h
  | .coldBistPhaseComplete .. => execColdBistPhaseComplete_kept _ s h | .rotationInterval .. => execRotationInterval_kept _ s h
  | .rotationTestComplete .. => execRotationTestComplete_kept _ _ s h | .timePpsOutPulse => execTimePpsOutPulse_kept s h
  | .postPackageRepairComplete .. => execPostPackageRepairComplete_kept _ _ s h | .wakeComplete => execWakeComplete_kept s h
  | .conservatorCommandComplete .. => execConservatorCommandComplete_kept _ s h
  | .platformEventMessageCollect => execPlatformEventMessageCollect_kept s h
  | .endpointIdAssignment .. => execEndpointIdAssignment_kept _ s h | .tapOperation .. => execTapOperation_kept _ s h
  | .configurationRequest .. => execConfigurationRequest_kept _ _ s h | .bootBringupComplete => execBootBringupComplete_kept s h

/-! ### GLB_ROLLBACK (R474) -/

/-- When a matched write of `n` burns fuses. -/
def State.burnsTo (s : State) (n : Nat) : Prop := s.board.rollback < n ∧ n ≤ s.board.svn ∧ n ≤ 64

section
variable {s : State} {v : RegValue} {x : W32} (hup : s.hostUp = true) (hv : Matched v x)
include hup hv

theorem glbRollbackWrite_burns (h : s.burnsTo x.toNat) : RunsTo (.glbRollbackWrite v) s
    ((s.setBoard (fun b => { b with rollback := x.toNat })).raise 0x0E06 srcBoot none [s.board.rollback, x.toNat, 1, 0]) := by
  obtain ⟨habove, hsvn, hfits⟩ := h
  show execGlbRollbackWrite v s = _
  simp [execGlbRollbackWrite, hup, s.rwp_of_matched _ hv, habove, hsvn, hfits]

theorem glbRollbackWrite_burns_nothing (h : ¬ s.burnsTo x.toNat) : RunsTo (.glbRollbackWrite v) s
    (s.raise 0x0E06 srcBoot none [s.board.rollback, x.toNat, 2, 0]) := by
  show execGlbRollbackWrite v s = _
  simp [execGlbRollbackWrite, hup, s.rwp_of_matched _ hv, show ¬ (s.board.rollback < x.toNat ∧ _) from h]

end

/-- What the fuses may become in one row: they stay, or burn up to a number within the 64 bits. -/
structure FusesBurn (r t : State) : Prop where
  pending : t.pending = r.pending
  burnt : t.board.rollback = r.board.rollback ∨ r.burnsTo t.board.rollback

theorem FusesBurn.of_kept {r t : State} (h : Kept r t) : FusesBurn r t := ⟨h.1, .inl h.2⟩

theorem glbRollbackWrite_fuses {s t : State} {v : RegValue} (h : exec (.glbRollbackWrite v) s = .next t) : FusesBurn s t := by
  by_cases hup : s.hostUp = true
  · by_cases hv : ∃ x, Matched v x
    · obtain ⟨x, hx⟩ := hv
      by_cases hburns : s.burnsTo x.toNat
      · cases h.symm.trans (glbRollbackWrite_burns hup hx hburns)
        obtain ⟨hpending, hrollback⟩ := State.raise_kept (s.setBoard fun b => { b with rollback := x.toNat }) 0x0E06 srcBoot none
          [s.board.rollback, x.toNat, 1, 0] (Kept.refl _)
        exact ⟨hpending, .inr (hrollback ▸ hburns)⟩
      · cases h.symm.trans (glbRollbackWrite_burns_nothing hup hx hburns)
        exact .of_kept (State.raise_kept s _ _ _ _ (Kept.refl s))
    · cases h.symm.trans (glbRollbackWrite_rejected hup fun x hx => hv ⟨x, hx⟩)
      exact ⟨rfl, .inl rfl⟩
  · have hstays : exec (.glbRollbackWrite v) s = .next s := by
      show execGlbRollbackWrite v s = _
      simp [execGlbRollbackWrite, hup]
    cases h.symm.trans hstays
    exact .of_kept (Kept.refl s)

/-! ### The step -/

theorem exec_fuses {s t : State} {c : Instr} (h : exec c s = .next t) : FusesBurn s t := by
  by_cases hrow : ∃ v, c = .glbRollbackWrite v
  · obtain ⟨v, rfl⟩ := hrow
    exact glbRollbackWrite_fuses h
  · exact .of_kept ((exec_kept c (fun v hc => hrow ⟨v, hc⟩) (Kept.refl s)).kept t h)

theorem step_of_front {s : State} {c : Instr} {rest : List Instr} (h : s.pending = c :: rest) :
    step s = exec c { s with pending := rest } := by
  simp only [step, h]

theorem step_of_empty {s : State} (h : s.pending = []) : step s = .next s.tick := by
  simp only [step, h]

/-- A step takes at most the front command, and burns fuses only as GLB_ROLLBACK may. -/
theorem step_fuses {s t : State} (h : step s = .next t) :
    t.pending = s.pending.tail ∧ (t.board.rollback = s.board.rollback ∨ s.burnsTo t.board.rollback) := by
  cases hpending : s.pending with
  | nil =>
    cases h.symm.trans (step_of_empty hpending)
    obtain ⟨hkept, hrollback⟩ := State.tick_kept s (Kept.refl s)
    exact ⟨hkept.trans hpending, .inl hrollback⟩
  | cons c rest =>
    obtain ⟨hkept, hburnt⟩ := exec_fuses ((step_of_front hpending).symm.trans h)
    exact ⟨hkept, hburnt⟩

/-- Settles O57: the two lemmas about a matched write, and `step_fuses` for every step. -/
theorem rollbackFuses : Obligations.RollbackFuses := by
  unfold Obligations.RollbackFuses
  refine ⟨fun s v x hup hv => ⟨fun habove hsvn hfits => glbRollbackWrite_burns hup hv ⟨habove, hsvn, hfits⟩,
    fun h => glbRollbackWrite_burns_nothing hup hv h⟩, fun s t h => ?_⟩
  obtain hsame | hburns := (step_fuses h).2
  · exact hsame.ge
  · exact hburns.1.le

/-- Settles O60: `step_fuses`, a burn going no further than the 64 bits. -/
theorem queueAndFusesKept : Obligations.QueueAndFusesKept := by
  unfold Obligations.QueueAndFusesKept
  intro s t h
  obtain ⟨hpending, hburnt⟩ := step_fuses h
  refine ⟨hpending, fun hwf => ?_⟩
  obtain hsame | hburns := hburnt
  · exact hsame.trans_le hwf
  · exact hburns.2.2

end Sys2Proof.Machine
end

section
/-! The tick of an empty queue (95_what_each_step_holds.md; log entry 9). -/

namespace Sys2Proof.Machine

/-- Nothing waits for a stack: no training to begin, no record, read, eviction or return held back (R196, R208, R224). -/
structure State.NothingWaits (s : State) : Prop where
  training : s.hbm.training = []
  records : s.cat.waiting = []
  reads : s.hbm.unreported = []
  evictions : s.tier.evictions = []
  returns : s.tier.returns = []

theorem State.flushRings_of_nil {s : State} (h : s.cat.waiting = []) : s.flushRings = s := by
  unfold State.flushRings
  rw [h, List.foldl_nil, ← h]

theorem State.reportReads_of_nil {s : State} (h : s.hbm.unreported = []) : s.reportReads = s := by
  unfold State.reportReads
  rw [h, List.foldl_nil, ← h]

theorem State.stacksGoOn_of_nothing_waits {s : State} (h : s.NothingWaits) : s.stacksGoOn = s := by
  have htraining : s.beginTraining = s := by simp [State.beginTraining, h.training]
  have hevictions : s.pushEvictions = s := by simp [State.pushEvictions, h.evictions]
  have hreturns : s.fillReturns = s := by simp [State.fillReturns, h.returns]
  unfold State.stacksGoOn
  rw [htraining, State.flushRings_of_nil h.records, State.reportReads_of_nil h.reads, hevictions, hreturns]

theorem State.pumpAll_of_no_ports {s : State} (h : s.guy.ports = []) : s.pumpAll = s := by simp [State.pumpAll, h]

/-- Fabric time is neither corrected nor at another rate, and no pulse is out (R27, R33, R37). -/
structure TimeSt.Plain (t : TimeSt) : Prop where
  slew : t.slew = 0
  rate : t.rate = 0
  frac : t.frac < 2 ^ 32
  pulse : t.ppsOutUntil = none

/-- The state one nanosecond later, where only the counts move on. -/
def State.later (s : State) : State :=
  { s with
    time := { s.time with localNs := s.time.localNs + 1, ns := (s.time.ns + 1) % 2 ^ 64 }
    cur := { s.cur with clock := s.cur.clock + (if s.cur.power = .rest then 0 else s.mhz) } }

theorem State.tick_of_plain {s : State} (halive : s.alive = true) (hports : s.guy.ports = []) (htime : s.time.Plain)
    (hwaits : s.NothingWaits) : s.tick = s.later := by
  obtain ⟨hslew, hrate, hfrac, hpulse⟩ := htime
  have hrun : s.time.runRate = 0 := by simp [TimeSt.runRate, hrate]
  have htotal : ((s.time.frac : Int) + 2 ^ 32 + s.time.runRate + slewStep s.time.slew).toNat = s.time.frac + 2 ^ 32 := by
    rw [hrun, hslew, show slewStep 0 = 0 from rfl]
    omega
  have hwhole : (s.time.frac + 2 ^ 32) / 2 ^ 32 = 1 := by omega
  have hpart : (s.time.frac + 2 ^ 32) % 2 ^ 32 = s.time.frac := by omega
  have hmoved : s.later.stacksGoOn.pumpAll = s.later := by
    rw [State.stacksGoOn_of_nothing_waits (s := s.later)
      ⟨hwaits.training, hwaits.records, hwaits.reads, hwaits.evictions, hwaits.returns⟩]
    exact State.pumpAll_of_no_ports hports
  simp only [State.tick, halive, if_true, htotal, hwhole, hpart]
  rw [show s.time.slew - slewStep s.time.slew = s.time.slew by rw [hslew]; rfl,
    show s.time.ppsOutUntil.filter (fun t => decide (s.time.localNs + 1 < t)) = s.time.ppsOutUntil by rw [hpulse]; rfl]
  by_cases hrest : s.cur.power = .rest
  · simpa only [State.later, if_pos hrest, Nat.add_zero] using hmoved
  · simp only [State.later, if_neg hrest] at hmoved ⊢
    exact hmoved

/-- Settles O58. -/
theorem stepRunsFront : Obligations.StepRunsFront := by
  unfold Obligations.StepRunsFront
  refine ⟨fun c s rest h => step_of_front h, fun s h => ⟨s.tick, step_of_empty h, ?_, ?_⟩⟩
  · exact (State.tick_kept s (Kept.refl s)).1.trans h
  · intro halive hports hslew hrate hfrac hpulse htraining hrecords hreads hevictions hreturns
    exact State.tick_of_plain halive hports ⟨hslew, hrate, hfrac, hpulse⟩ ⟨htraining, hrecords, hreads, hevictions, hreturns⟩

end Sys2Proof.Machine
end

section
/-! Doorbells, completion records and interrupts (13_host_link.md R397, R406, R407, R409). -/

namespace Sys2Proof.Machine

/-! ### Rows whose next state is written out -/

/-- A row whose meaning is a next state runs to the state that it is shown to be. -/
theorem runsTo_of_next {row : Instr} {s t u : State} (hrow : exec row s = .next t) (h : t = u) : RunsTo row s u :=
  hrow.trans (congrArg Host.Outcome.next h)

theorem runs_of_next {row : Instr} {s t : State} {P : State → Prop} (hrow : exec row s = .next t) (h : P t) : Runs row s P :=
  ⟨t, hrow, h⟩

theorem State.alive_of_hostUp {s : State} (h : s.hostUp = true) : s.alive = true := (Bool.and_eq_true_iff.mp h).1
theorem State.dlUp_of_hostUp {s : State} (h : s.hostUp = true) : s.host.link.dlUp = true := (Bool.and_eq_true_iff.mp h).2

/-! ### Doorbells (R397) -/

@[simp] theorem State.ring_beginWake (s : State) (ctx ring : Nat) : s.beginWake.ring? ctx ring = s.ring? ctx ring := by
  unfold State.beginWake
  split <;> rfl

section
variable {s : State} (c : Ctx) (r : RingNo) (v : W32) (hup : s.hostUp = true)
include hup

theorem doorbellSqTailWrite_of_none (hr : s.ring? c.val r.val = none) :
    RunsTo (.doorbellSqTailWrite c r v) s (s.beginWake.badDoorbell c r v 1) := by
  show execDoorbellSqTailWrite c r v s = _
  simp [execDoorbellSqTailWrite, hup, hr]

theorem doorbellCqHeadWrite_of_none (hr : s.ring? c.val r.val = none) :
    RunsTo (.doorbellCqHeadWrite c r v) s (s.beginWake.badDoorbell c r v 2) := by
  show execDoorbellCqHeadWrite c r v s = _
  simp [execDoorbellCqHeadWrite, hup, hr]

variable {x : Ring} (hr : s.ring? c.val r.val = some x)
include hr

theorem doorbellSqTailWrite_of_ring : RunsTo (.doorbellSqTailWrite c r v) s
    (if (v - x.head).toNat ≤ 1024 ∧ x.ready ≤ (v - x.head).toNat then s.beginWake.setRing c.val r.val { x with tail := v }
     else s.beginWake.badDoorbell c r v 1) := by
  show execDoorbellSqTailWrite c r v s = _
  simp [execDoorbellSqTailWrite, hup, hr]

theorem doorbellCqHeadWrite_of_ring : RunsTo (.doorbellCqHeadWrite c r v) s
    (if (v - x.cqHead).toNat ≤ x.unread then s.beginWake.setRing c.val r.val { x with cqHead := v }
     else s.beginWake.badDoorbell c r v 2) := by
  show execDoorbellCqHeadWrite c r v s = _
  simp [execDoorbellCqHeadWrite, hup, hr]

end

/-- Settles O31: a doorbell of a ring is kept or counted by the test of its row; one of no ring is counted. -/
theorem doorbells : Obligations.Doorbells := by
  unfold Obligations.Doorbells
  intro s c r v hup
  refine ⟨fun x hr => ⟨fun hfree hmoves => ?_, fun hbad => ?_, fun hunread => ?_, fun hbeyond => ?_⟩, fun hr =>
    ⟨doorbellSqTailWrite_of_none c r v hup hr, doorbellCqHeadWrite_of_none c r v hup hr⟩⟩
  · simpa only [if_pos (And.intro hfree (show x.ready ≤ _ from hmoves))] using doorbellSqTailWrite_of_ring c r v hup hr
  · have hout : ¬ ((v - x.head).toNat ≤ 1024 ∧ x.ready ≤ (v - x.head).toNat) := by
      unfold Ring.ready
      omega
    simpa only [if_neg hout] using doorbellSqTailWrite_of_ring c r v hup hr
  · simpa only [if_pos (show _ ≤ x.unread from hunread)] using doorbellCqHeadWrite_of_ring c r v hup hr
  · simpa only [if_neg (show ¬ _ ≤ x.unread from hbeyond.not_ge)] using doorbellCqHeadWrite_of_ring c r v hup hr

/-! ### Completion records (R406, R407) -/

theorem State.toHost_of_up {s : State} (h : s.host.link.dlUp = true) (o : HostOut) : s.toHost o = { s with hostOut := s.hostOut ++ [o] } :=
  if_pos h

theorem State.toHost_toHost_of_up {s : State} (h : s.host.link.dlUp = true) (o o' : HostOut) :
    (s.toHost o).toHost o' = { s with hostOut := s.hostOut ++ [o, o'] } := by
  rw [State.toHost_of_up h, State.toHost_of_up (by exact h), List.append_assoc]
  rfl

/-- The state once a record that asks for no interrupt has left in its two writes. -/
def State.recorded (s : State) (ctx ring : Nat) (r : Ring) (b : List Byte) : State :=
  let n := r.cqTail.toNat
  let iova := r.cqIova + 32 * (n % r.cqEntries)
  State.cpProgress { s.setRing ctx ring { r with cqTail := r.cqTail + 1 } with
    hostOut := s.hostOut ++ [.completion ctx ring n iova (b.take 24), .completion ctx ring n (iova + 24) (b.drop 24)] } ctx ring

theorem State.writeRecord_silent {s : State} {ctx ring : Nat} {r : Ring} {status : Nat} (seq r0 r1 : Nat) (hr : s.ring? ctx ring = some r)
    (hup : s.host.link.dlUp = true) (hprog : status ≠ stProgFault) (htorn : status ≠ stTornPacket) :
    s.writeRecord ctx ring seq status r0 r1 false =
      s.recorded ctx ring r (completionBytes r.cqTail.toNat r.cqEntries seq status r0 r1 s.time.ns) := by
  simp only [State.writeRecord, hr]
  rw [if_neg (by simp [hprog, htorn]), if_neg (by simp), State.toHost_toHost_of_up (by exact hup)]
  rfl

/-- A command that completes with a silent record: taken out, its stall ended, the record written. -/
theorem State.complete_silent {s : State} {q : CmdRef} {t : Taken} {r : Ring} {status : Nat} (r0 r1 : Nat) (ht : s.findTaken q = some t)
    (hr : s.ring? q.ctx.val q.ring.val = some r) (hup : s.host.link.dlUp = true) (hirq : pkIrq t.header = false)
    (hprog : status ≠ stProgFault) (htorn : status ≠ stTornPacket) :
    s.complete q status r0 r1 = ((s.dropTaken q).stallOff (.cmd q)).recorded q.ctx.val q.ring.val r
      (completionBytes r.cqTail.toNat r.cqEntries q.seq.toNat status r0 r1 s.time.ns) := by
  have hhost := (State.stallOff_hbm_host (s.dropTaken q) (.cmd q)).2
  simp only [State.complete, ht, hirq]
  rw [State.writeRecord_silent _ _ _ (by rw [State.ring?, hhost]; exact hr) (by rw [hhost]; exact hup) hprog htorn, State.stallOff_time]
  rfl

/-- Settles O33: the silent record of `State.complete_silent`, read field by field. -/
theorem completionRecord : Obligations.CompletionRecord := by
  unfold Obligations.CompletionRecord
  intro s q t r status r0 r1 ht hr hup hirq hprog htorn n phase word record u iova
  have hu : u = ((s.dropTaken q).stallOff (.cmd q)).recorded q.ctx.val q.ring.val r record := by
    have hseq : q.seq.toNat % 2 ^ 22 = q.seq.toNat := Nat.mod_eq_of_lt q.seq.isLt
    have hbytes : completionBytes n r.cqEntries q.seq.toNat status r0 r1 s.time.ns = record := by
      simp only [completionBytes, hseq]
      rfl
    exact (State.complete_silent r0 r1 ht hr hup hirq hprog htorn).trans (by rw [← hbytes])
  rw [hu, stallOff_eq]
  exact ⟨rfl, rfl, rfl, rfl, rfl, rfl, mget_mset_self _ _ _⟩

/-! ### Interrupts (R409) -/

theorem interruptCoalesceTimeout_runsTo {s : State} {c : Ctx} {r : RingNo} {x : Ring} {t : Nat} (halive : s.alive = true)
    (hr : s.ring? c.val r.val = some x) (hsince : x.irqSince = some t) (htimer : x.coalNs ≠ 0) (hdue : t + x.coalNs ≤ s.time.localNs) :
    RunsTo (.interruptCoalesceTimeout c r) s ((s.setRing c.val r.val { x with irqPending := 0, irqSince := none }).signalVector x.vector) := by
  show execInterruptCoalesceTimeout c r s = _
  simp [execInterruptCoalesceTimeout, halive, hr, hsince, htimer, State.local_, hdue, State.signalRing]

theorem msixVectorUnmask_runsTo {s : State} {v : Fin 2048} {e : MsixEntry} (hup : s.hostUp = true)
    (he : mget s.host.msix v.val = some e) (hpending : e.pending = true) : RunsTo (.msixVectorUnmask v) s
    { s with
      host := { s.host with msix := mset s.host.msix v.val { e with masked := false, pending := false } }
      hostOut := s.hostOut ++ [.msix v.val] } := by
  show execMsixVectorUnmask v s = _
  simp only [execMsixVectorUnmask, hup, if_true, State.msixUnmask, mgetD, he, Option.getD_some, hpending]
  exact congrArg Host.Outcome.next (State.toHost_of_up (by exact State.dlUp_of_hostUp hup) _)

/-- Settles O34. -/
theorem interrupts : Obligations.Interrupts := by
  unfold Obligations.Interrupts
  exact fun s => ⟨fun c r x t => interruptCoalesceTimeout_runsTo, fun v e => msixVectorUnmask_runsTo⟩

end Sys2Proof.Machine
end

section
/-! Taking packets (13_host_link.md R399, R401, R402): a packet taken, a header read again, a torn packet. -/

namespace Sys2Proof.Machine

theorem takeHeaderOk_iff (ctx : Nat) (r : Ring) (h g : Nat) : takeHeaderOk ctx r (h, g) = true ↔
    (g = 2 ^ 64 - 1 - h ∧ bits h 63 42 = r.nextSeq.toNat ∧ bits h 41 32 = ctx ∧ 1 ≤ bits h 23 16) := by
  simp only [takeHeaderOk, Bool.and_eq_true, beq_iff_eq, decide_eq_true_eq, and_assoc]
  rfl

section
variable {s : State} {c : Ctx} {r : RingNo} {x : Ring}

theorem State.headerRead_of_undamaged {f : State → State} (h : s.hbm.damagedIn (unitPa c.val r.val x 0) 64 = none) :
    s.headerRead c r x f = f { s with hbm := s.hbm.readLines (unitPa c.val r.val x 0) 64 true } := by
  simp only [State.headerRead, h]

/-- The state once a packet of `n` units has been taken from the memory `m`, before its checks (R399). -/
def State.packetTaken (s : State) (m : HbmSt) (c : Ctx) (r : RingNo) (x : Ring) (n : Nat) : State :=
  let parts := unitParts c.val r.val x n
  let u := ({ s with hbm := readPartsDir m parts true } : State).setRing c.val r.val
    { x with head := x.head + BitVec.ofNat 32 n, nextSeq := x.nextSeq + 1 }
  (u.setHost (fun h => { h with
    taken := h.taken ++ [⟨⟨c, r, x.nextSeq⟩, peekParts m parts, false, false⟩], lastRing := some (ringKey c.val r.val) })).cpProgress
      c.val r.val

/-- What the checks of R402 make of a packet that was taken. -/
def State.packetChecked (s : State) (q : CmdRef) (packet : List Byte) : State :=
  match packetFault q.ctx.val packet with
  | none => s
  | some e => if pkOpcode (fld packet 0 8) = 0x0200 then s.endLaunch q e 0 0 else s.completeBare q e

theorem State.packetChecked_of_none {u : State} {q : CmdRef} {packet : List Byte} (h : packetFault q.ctx.val packet = none) :
    u.packetChecked q packet = u := by
  simp only [State.packetChecked, h]

theorem State.packetChecked_of_some {u : State} {q : CmdRef} {packet : List Byte} {e : Nat} (h : packetFault q.ctx.val packet = some e) :
    u.packetChecked q packet = if pkOpcode (fld packet 0 8) = 0x0200 then u.endLaunch q e 0 0 else u.completeBare q e := by
  simp only [State.packetChecked, h]

theorem State.takePacket_of_undamaged {n : Nat} (hn : n = pkLength (s.headerAt c.val r.val x).1)
    (h : (unitParts c.val r.val x n).findSome? (fun p => s.hbm.damagedIn p.1 p.2) = none) :
    s.takePacket c r x =
      (s.packetTaken s.hbm c r x n).packetChecked ⟨c, r, x.nextSeq⟩ (peekParts s.hbm (unitParts c.val r.val x n)) := by
  subst hn
  simp only [State.takePacket, h]
  rfl

variable (htaking : s.taking = true) (hr : s.ring? c.val r.val = some x) (hopen : s.ringOpen c.val r.val x = true)
  (hready : s.hbm.stacksReady (unitParts c.val r.val x 1) = true)
include htaking hr hopen hready

theorem packetTake_taken (hpoll : x.pollSince = none) (hok : takeHeaderOk c.val x (s.headerAt c.val r.val x) = true)
    (hturn : s.turnRing = some (4 * c.val + r.val)) {n : Nat} (hn : n = pkLength (s.headerAt c.val r.val x).1)
    (hunits : s.hbm.stacksReady (unitParts c.val r.val x n) = true)
    (hsound : (unitParts c.val r.val x n).findSome? (fun p => s.hbm.damagedIn p.1 p.2) = none) :
    RunsTo (.packetTake c r) s (((s.stallOff (.ring c r)).packetTaken s.hbm c r x n).packetChecked ⟨c, r, x.nextSeq⟩
      (peekParts s.hbm (unitParts c.val r.val x n))) := by
  have hhbm := (State.stallOff_hbm_host s (.ring c r)).1
  have htake := State.takePacket_of_undamaged (s := s.stallOff (.ring c r)) (c := c) (r := r) (x := x) (n := n)
    (by rw [State.headerAt, hhbm]; exact hn) (by rw [hhbm]; exact hsound)
  rw [hhbm] at htake
  subst hn
  show execPacketTake c r s = _
  simp [execPacketTake, htaking, hr, hopen, hpoll, hready, hok, hturn, ringKey, hunits, htake]

theorem packetTake_polls (hpoll : x.pollSince = none) (hbad : takeHeaderOk c.val x (s.headerAt c.val r.val x) = false)
    (hsound : s.hbm.damagedIn (unitPa c.val r.val x 0) 64 = none) : RunsTo (.packetTake c r) s
    (({ s.stallOff (.ring c r) with hbm := s.hbm.readLines (unitPa c.val r.val x 0) 64 true } : State).setRing c.val r.val
      { x with pollSince := some s.time.localNs, lastPoll := s.time.localNs }) := by
  show execPacketTake c r s = _
  simp [execPacketTake, htaking, hr, hopen, hpoll, hready, hbad, State.headerRead_of_undamaged, hsound, State.local_]

variable {since : Nat} (hpoll : x.pollSince = some since) (hsound : s.hbm.damagedIn (unitPa c.val r.val x 0) 64 = none)
include hpoll hsound

theorem packetHeaderRepoll_runsTo (hdue : x.lastPoll + 1000 ≤ s.local_) {w : State}
    (hw : w = { s with hbm := s.hbm.readLines (unitPa c.val r.val x 0) 64 true }) : RunsTo (.packetHeaderRepoll c r) s
    (if takeHeaderOk c.val x (w.headerAt c.val r.val x) then w.setRing c.val r.val { x with pollSince := none }
     else w.setRing c.val r.val { x with lastPoll := s.time.localNs }) := by
  subst hw
  show execPacketHeaderRepoll c r s = _
  simp [execPacketHeaderRepoll, htaking, hr, hopen, hpoll, hready, hdue.not_gt, State.headerRead_of_undamaged, hsound]
  rfl

theorem tornPacketTimeout_runsTo {h : Nat × Nat} (hh : h = s.headerAt c.val r.val x) (hbad : takeHeaderOk c.val x h = false)
    (hdue : since + 1000 * s.tornUs ≤ s.local_) : RunsTo (.tornPacketTimeout c r) s
    ((((({ s with hbm := s.hbm.readLines (unitPa c.val r.val x 0) 64 true } : State).setRing c.val r.val
      { x with pollSince := none }).raise 0x0202 (srcCp c.val r.val) (some c.val)
        [c.val, x.head.toNat + x.nextSeq.toNat * 2 ^ 32, h.1, h.2]).writeRecord c.val r.val x.nextSeq.toNat stTornPacket h.1 h.2 false)) := by
  subst hh
  show execTornPacketTimeout c r s = _
  simp [execTornPacketTimeout, htaking, hr, hopen, hpoll, hready, hbad, hdue.not_gt, State.headerRead_of_undamaged, hsound]

end

/-- Settles O32. -/
theorem packetTaking : Obligations.PacketTaking := by
  unfold Obligations.PacketTaking
  refine ⟨fun s c r x htaking hr => ⟨?take, ?again⟩, takeHeaderOk_iff⟩
  case take =>
    intro hopen hpoll hok hturn hready hunits hsound
    have htaken := packetTake_taken htaking hr hopen hready hpoll hok hturn rfl hunits hsound
    refine ⟨fun hfault => ?_, fun e hfault => ?_⟩
    · rw [State.packetChecked_of_none hfault] at htaken
      exact htaken
    · rw [State.packetChecked_of_some hfault] at htaken
      exact htaken
  case again =>
    intro hready hsound w
    refine ⟨fun hopen hpoll hbad => packetTake_polls htaking hr hopen hready hpoll hbad hsound, fun since hpoll hopen =>
      ⟨fun hok hdue => ?_, fun hbad hdue => ?_, fun hbad hdue => ?_⟩⟩
    · simpa only [hok, if_true] using packetHeaderRepoll_runsTo htaking hr hopen hready hpoll hsound hdue (w := w) rfl
    · simpa only [hbad, Bool.false_eq_true, if_false] using
        packetHeaderRepoll_runsTo htaking hr hopen hready hpoll hsound hdue (w := w) rfl
    · exact tornPacketTimeout_runsTo htaking hr hopen hready hpoll hsound rfl hbad hdue

end Sys2Proof.Machine
end

section
/-! Accesses of the host and of placement requesters (13_host_link.md R391, R392, R396, R411). -/

namespace Sys2Proof.Machine

/-! ### The end of a placement write (R411) -/

/-- The state once a placement write has been performed, before its peg is signalled. -/
def State.placed (u : State) (p : Placement) (l : List (Nat × Nat)) (data : List Byte) : State :=
  ({ u with hbm := writeParts u.hbm p.ctx u.local_ l data } : State).settleWc u.hbm.wc

/-- The peg of a placement signalled by a write up to `hi`, where that is its end. -/
def State.placementSignal (v : State) (p : Placement) (hi : Nat) : State :=
  match p.sigPeg with
  | some g => if hi = p.offset + p.length then v.completionSignal p.ctx g 1 srcPcie else v
  | none => v

theorem State.placementSignal_of_none {v : State} {p : Placement} (hi : Nat) (h : p.sigPeg = none) : v.placementSignal p hi = v := by
  simp only [State.placementSignal, h]

theorem State.placementSignal_of_last {v : State} {p : Placement} {hi g : Nat} (h : p.sigPeg = some g) (hlast : hi = p.offset + p.length) :
    v.placementSignal p hi = v.completionSignal p.ctx g 1 srcPcie := by
  simp only [State.placementSignal, h, if_pos hlast]

theorem State.placementSignal_of_not_last {v : State} {p : Placement} {hi : Nat} (hmore : hi ≠ p.offset + p.length) :
    v.placementSignal p hi = v := by
  unfold State.placementSignal
  split
  · exact if_neg hmore
  · rfl

section
variable {s u : State} {l : List (Nat × Nat)} (hup : s.hostUp = true)
include hup

/-! ### Apertures (R391, R392) -/

theorem apertureWrite_runsTo {a : Fin 16} {off : W32} {data : List Byte} {b : Aperture} (hb : mget s.host.apertures a.val = some b)
    (hwrite : b.write = true) (haccess : s.hostAccess b.ctx (b.va + off.toNat) data.length true = (u, .parts l)) :
    RunsTo (.apertureWrite a off data) s (({ u with hbm := writeParts u.hbm b.ctx u.local_ l data } : State).settleWc u.hbm.wc) := by
  show execApertureWrite a off data s = _
  simp [execApertureWrite, hup, hb, hwrite, haccess]

theorem apertureRead_runsTo {a : Fin 16} {off : W32} {len : Nat} {b : Aperture} (hb : mget s.host.apertures a.val = some b)
    (hread : b.read = true) (haccess : s.hostAccess b.ctx (b.va + off.toNat) len false = (u, .parts l))
    (hsound : l.findSome? (fun p => u.hbm.damagedIn p.1 p.2) = none) :
    RunsTo (.apertureRead a off len) s (({ u with hbm := readPartsDir u.hbm l false } : State).answer (.data (peekParts u.hbm l))) := by
  show execApertureRead a off len s = _
  simp only [execApertureRead, hup, hb, hread, haccess, hsound]
  rfl

/-! ### Direct placement (R411) -/

theorem placementWrite_runsTo {requester : BitVec 16} {off : BitVec 36} {data : List Byte} {i : Nat} {p : Placement}
    (hplacer : s.isPlacer requester.toNat = true)
    (hp : s.host.placements.find? (fun p => p.2.requester == requester.toNat && decide (p.2.offset ≤ off.toNat) &&
      decide (off.toNat + data.length ≤ p.2.offset + p.2.length)) = some (i, p))
    (haccess : s.hostAccess p.ctx (p.va + (off.toNat - p.offset)) data.length true = (u, .parts l)) :
    RunsTo (.placementWrite requester off data) s
      ((u.placed p l data).placementSignal p (off.toNat + data.length)) := by
  show execPlacementWrite requester off data s = _
  simp only [execPlacementWrite, hup, hplacer, hp, haccess]
  rfl

theorem placementRead_runsTo {requester : BitVec 16} (off : BitVec 36) (len : Nat) (hplacer : s.isPlacer requester.toNat = true) :
    RunsTo (.placementRead requester off len) s { s with answers := s.answers ++ [.unsupported] } := by
  show execPlacementRead requester off len s = _
  simp only [execPlacementRead, hup, hplacer]
  rfl

/-! ### The command window (R396) -/

theorem commandWindowWrite_runsTo {off : BitVec 28} {data : List Byte} (hdata : data ≠ [])
    (hone : off.toNat / 0x10000 = (off.toNat + data.length - 1) / 0x10000)
    (hdown : s.hbm.stackDown [(0xFFD0000000 + off.toNat, data.length)] = false)
    (hready : s.hbm.stacksReady [(0xFFD0000000 + off.toNat, data.length)] = true) :
    RunsTo (.commandWindowWrite off data) s (s.windowPart off.toNat data) := by
  have hlength : 0 < data.length := List.length_pos_iff.mpr hdata
  have hparts : (off.toNat + data.length + 0xFFFF) / 0x10000 - off.toNat / 0x10000 = 1 := by omega
  have hlo : max off.toNat ((off.toNat / 0x10000 + 0) * 0x10000) = off.toNat := by omega
  have hhi : min (off.toNat + data.length) ((off.toNat / 0x10000 + 0 + 1) * 0x10000) - off.toNat = data.length := by omega
  show execCommandWindowWrite off data s = _
  simp only [execCommandWindowWrite, hup, hdown, hready, hparts, List.range_one, List.foldl_cons, List.foldl_nil, hlo, hhi]
  simp [bsub]

end

/-- Settles O35. -/
theorem hostAccesses : Obligations.HostAccesses := by
  unfold Obligations.HostAccesses
  refine fun s hup => ⟨fun a off data b u l hb hwrite => apertureWrite_runsTo hup hb hwrite,
    fun a off len b u l hb hread => apertureRead_runsTo hup hb hread, fun requester off data i p u l hplacer hp haccess => ?place,
    fun requester off len => placementRead_runsTo hup off len, fun off data hdata hone hdown hready => ?window⟩
  case place =>
    have hwritten := placementWrite_runsTo hup hplacer hp haccess
    refine ⟨fun hsilent => ?_, fun g hg hlast => ?_, fun hmore => ?_⟩
    · exact runsTo_of_next hwritten (State.placementSignal_of_none _ hsilent)
    · exact runsTo_of_next hwritten (State.placementSignal_of_last hg hlast)
    · exact runsTo_of_next hwritten (State.placementSignal_of_not_last hmore)
  case window =>
    have hwritten := commandWindowWrite_runsTo hup hdata hone hdown hready
    refine ⟨fun hring => ?_, fun hring => ?_⟩
    · rwa [State.windowPart, if_pos hring] at hwritten
    · rwa [State.windowPart, if_neg (by simp [hring])] at hwritten

end Sys2Proof.Machine
end

section
/-! The host link (13_host_link.md R388, R412, R413; 16_boot_and_identity.md R480): it goes down, comes up and is lost, and configuration
requests. -/

namespace Sys2Proof.Machine

theorem State.hostUp_eq_true {s : State} (halive : s.alive = true) (hup : s.host.link.dlUp = true) : s.hostUp = true := by
  simp [State.hostUp, halive, hup]

theorem State.mayTrain_of_form {s : State} {rate width : Nat} {flit : Bool} (hwidth : width = 4 ∨ width = 8 ∨ width = 16)
    (hlow : 1 ≤ rate) (hhigh : rate ≤ 7) (hflit : 6 ≤ rate → flit = true) (hlane : s.host.link.laneOut = true → width ≠ 16) :
    s.mayTrain rate width flit = true := by
  have hmode : (flit || decide (rate < 6)) = true := by
    by_cases h : 6 ≤ rate
    · simp [hflit h]
    · simp [Nat.lt_of_not_le h]
  have hlanes : (!s.host.link.laneOut || width != 16) = true := by
    cases h : s.host.link.laneOut
    · rfl
    · simpa using hlane h
  simp [State.mayTrain, linkForms, hwidth, hlow, hhigh, hmode, hlanes]

/-- PERST_N low and the link down; `up` says whether it was up. -/
def State.perstLow (s : State) (up : Bool) : State :=
  (s.setHost (fun h => { h with perstN := false })).setLink (fun l => { l with
    dlUp := false, downs := if up then satAdd 16 l.downs 1 else l.downs, rate := 0, width := 0, flit := false, downSince := none })

theorem State.perstLow_eq (s : State) (up : Bool) : (s.perstLow up).host.perstN = false ∧ (s.perstLow up).host.link.dlUp = false ∧
    (s.perstLow up).board = s.board ∧ (s.perstLow up).hbm = s.hbm ∧ (s.perstLow up).eng = s.eng := ⟨rfl, rfl, rfl, rfl, rfl⟩

section
variable {s : State} (halive : s.alive = true)
include halive

/-! ### Up and down (R388, R412) -/

theorem dlDown_runsTo (hup : s.host.link.dlUp = true) (n : Nat) : RunsTo (.dlDown n) s
    ((({ s with hostOut := (takeWrites n s.hostOut.reverse).1.reverse } : State).setLink (fun l => { l with
        dlUp := false, rate := 0, width := 0, flit := false, downs := satAdd 16 l.downs 1, downSince := some s.local_
        lost := (takeWrites n s.hostOut.reverse).2 })).raise 0x0102 srcPcie none
      [(takeWrites n s.hostOut.reverse).2.length, lostRecords (takeWrites n s.hostOut.reverse).2,
        (tierContexts (takeWrites n s.hostOut.reverse).2).length, 0]) := by
  show execDlDown n s = _
  simp only [execDlDown, State.hostUp_eq_true halive hup]
  rfl

/-- DL_Up of a link that is down and can be trained: by how long it was down. -/
theorem dlUp_runsTo {rate width : Nat} {flit : Bool} (htrain : s.mayTrain rate width flit = true)
    (hdown : s.host.link.dlUp = false) (hperst : s.host.perstN = true) :
    (s.host.link.downSince = none → RunsTo (.dlUp rate width flit) s (s.linkUp rate width flit)) ∧
    (∀ t, s.host.link.downSince = some t → s.local_ ≤ t + 1000000 * s.holdMs → RunsTo (.dlUp rate width flit) s
      (s.host.link.waiting.foldl State.flushOne (s.host.link.lost.foldl State.repeatLost
        ((s.setLink (fun l => { l with lost := [], waiting := [] })).linkUp rate width flit)))) ∧
    (∀ t, s.host.link.downSince = some t → t + 1000000 * s.holdMs < s.local_ →
      RunsTo (.dlUp rate width flit) s ((s.hostLoss 1).linkUp rate width flit)) := by
  refine ⟨fun hsince => ?_, fun t hsince hheld => ?_, fun t hsince hover => ?_⟩ <;> show execDlUp rate width flit s = _
  · simp [execDlUp, halive, hdown, hperst, htrain, hsince]
  · simp [execDlUp, halive, hdown, hperst, htrain, hsince, hheld.not_gt]
  · simp [execDlUp, halive, hdown, hperst, htrain, hsince, hover]

theorem perstNRelease_runsTo {rate width : Nat} {flit : Bool} (htrain : s.mayTrain rate width flit = true)
    (hperst : s.host.perstN = false) :
    RunsTo (.perstNRelease rate width flit) s ((s.setHost (fun h => { h with perstN := true })).linkUp rate width flit) := by
  have htrain' : (s.setHost (fun h => { h with perstN := true })).mayTrain rate width flit = true := htrain
  show execPerstNRelease rate width flit s = _
  simp [execPerstNRelease, halive, hperst, htrain']

/-! ### Loss of the host (R413) -/

theorem holdTimeExpiry_runsTo {t : Nat} (hsince : s.host.link.downSince = some t) (hover : t + 1000000 * s.holdMs ≤ s.local_) :
    RunsTo .holdTimeExpiry s (s.hostLoss 1) := by
  show execHoldTimeExpiry s = _
  simp [execHoldTimeExpiry, halive, hsince, hover]

theorem functionLevelReset_runsTo (hup : s.host.link.dlUp = true) (hready : s.board.functionReady = true) :
    RunsTo .functionLevelReset s (s.hostLoss 2) := by
  show execFunctionLevelReset s = _
  simp [execFunctionLevelReset, State.hostUp_eq_true halive hup, hready]

theorem perstNAssert_serving (hperst : s.host.perstN = true) (hserving : s.serving = true) : Runs .perstNAssert s (fun t =>
    t.host.perstN = false ∧ t.host.link.dlUp = false ∧ t.board = (s.hostLoss 3).board ∧ t.hbm = (s.hostLoss 3).hbm ∧
    t.eng = (s.hostLoss 3).eng) := by
  refine runs_of_next (t := (s.hostLoss 3).perstLow s.host.link.dlUp) ?_ (State.perstLow_eq _ _)
  show execPerstNAssert s = _
  simp [execPerstNAssert, halive, hperst, hserving, State.perstLow]

/-! ### Configuration requests (R480) -/

variable (hup : s.host.link.dlUp = true) (off : BitVec 12)
include hup

theorem configurationRequest_retried (hready : s.board.functionReady = false) (w : Option W32) :
    RunsTo (.configurationRequest off w) s (s.answer .retry) := by
  show execConfigurationRequest off w s = _
  simp [execConfigurationRequest, State.hostUp_eq_true halive hup, hready]

variable (hready : s.board.functionReady = true)
include hready

theorem configurationRequest_write (v : W32) : RunsTo (.configurationRequest off (some v)) s
    (s.setHost (fun h => { h with config := mset h.config (off.toNat / 4 * 4) v })) := by
  show execConfigurationRequest off (some v) s = _
  simp [execConfigurationRequest, State.hostUp_eq_true halive hup, hready]

theorem configurationRequest_read : RunsTo (.configurationRequest off none) s
    (s.answer (.config (s.configRead (off.toNat / 4 * 4)))) := by
  show execConfigurationRequest off none s = _
  simp [execConfigurationRequest, State.hostUp_eq_true halive hup, hready]

end

/-- Settles O36. -/
theorem hostLink : Obligations.HostLink := by
  unfold Obligations.HostLink
  refine fun s halive => ⟨fun hup n => dlDown_runsTo halive hup n, fun rate width flit hwidth hlow hhigh hflit hlane => ?train,
    fun t hsince hover => holdTimeExpiry_runsTo halive hsince hover, fun hup hready => functionLevelReset_runsTo halive hup hready,
    fun hperst hserving => perstNAssert_serving halive hperst hserving, fun hup off =>
      ⟨fun hready w => configurationRequest_retried halive hup off hready w,
        fun hready v => configurationRequest_write halive hup off hready v,
        fun hready => ⟨_, configurationRequest_read halive hup off hready, _, rfl⟩⟩⟩
  case train =>
    have htrain := State.mayTrain_of_form hwidth hlow hhigh hflit hlane
    exact ⟨fun hdown hperst => dlUp_runsTo halive htrain hdown hperst, fun hperst => perstNRelease_runsTo halive htrain hperst⟩

end Sys2Proof.Machine
end

section
/-! The host link's commands and the registers of context 0 (13_host_link.md R391, R393 to R396, R403, R411, R415). -/

namespace Sys2Proof.Machine

/-! ### The taken commands once a turn has come -/

theorem any_replaceFirst {α : Type} {p r : α → Bool} {f : α → α} (hf : ∀ a, p (f a) = p a) (l : List α) :
    (replaceFirst r f l).any p = l.any p := by
  induction l with
  | nil => rfl
  | cons a l ih =>
    unfold replaceFirst
    split <;> simp [hf, ih]

theorem State.begin_taken_any (s : State) (q : CmdRef) (p : CmdRef → Bool) :
    (s.begin q).host.taken.any (fun x => p x.q) = s.host.taken.any (fun x => p x.q) :=
  any_replaceFirst (p := fun x : Taken => p x.q) (f := fun t => { t with begun := true }) (fun _ => rfl) s.host.taken

section
variable {s : State} {q : CmdRef} {t : Taken}

/-! ### Apertures and placements (R391, R411) -/

/-- The aperture that an APERTURE_BIND binds. -/
def apertureOf (t : Taken) : Aperture :=
  ⟨fld t.packet 20 2, fld t.packet 24 8, (fld t.packet 17 1).testBit 0, (fld t.packet 17 1).testBit 1⟩

theorem apertureBind_runsTo (h : Turn s q 0x0010 t) (hctx : mhas s.host.ctxs (fld t.packet 20 2) = true) : RunsTo (.apertureBind q) s
    (((s.begin q).setHost (fun h => { h with apertures := mset h.apertures (fld t.packet 16 1) (apertureOf t) })).complete q stOk 0 0) :=
  runsTo_perform rfl h (if_neg (by show ¬ (!mhas s.host.ctxs (fld t.packet 20 2)) = true; simp [hctx]))

theorem placeSet_clears (h : Turn s q 0x0012 t) (hinvalid : (fld t.packet 17 1).testBit 0 = false) : RunsTo (.placeSet q) s
    (((s.begin q).setHost (fun h => { h with placements := mdel h.placements (fld t.packet 16 1) })).complete q stOk 0 0) :=
  runsTo_perform rfl h (if_pos (by show (!(fld t.packet 17 1).testBit 0) = true; simp [hinvalid]))

/-- The placement entry that a PLACE_SET writes. -/
def placementOf (t : Taken) : Placement :=
  ⟨fld t.packet 18 2, fld t.packet 20 2, fld t.packet 24 8, fld t.packet 32 8, fld t.packet 40 8,
    if (fld t.packet 17 1).testBit 1 then some (fld t.packet 48 4) else none⟩

theorem placeSet_enters (h : Turn s q 0x0012 t) (hvalid : (fld t.packet 17 1).testBit 0 = true)
    (hctx : mhas s.host.ctxs (fld t.packet 20 2) = true)
    (hpeg : (fld t.packet 17 1).testBit 1 = true → fld t.packet 48 4 < pegCount ∧ s.pegOwned (fld t.packet 20 2) (fld t.packet 48 4) = true)
    (hapart : ∀ p ∈ s.host.placements, p.1 ≠ fld t.packet 16 1 → p.2.overlaps (placementOf t) = false) : RunsTo (.placeSet q) s
    (((s.begin q).setHost (fun h => { h with placements := mset h.placements (fld t.packet 16 1) (placementOf t) })).complete q stOk 0 0) := by
  have hvalid' : ¬ (!(fld t.packet 17 1).testBit 0) = true := by simp [hvalid]
  have hsignal : ((fld t.packet 17 1).testBit 1 && !(decide (fld t.packet 48 4 < pegCount) &&
      s.pegOwned (fld t.packet 20 2) (fld t.packet 48 4))) = false := by
    cases hsig : (fld t.packet 17 1).testBit 1
    · rfl
    · simp [hpeg hsig]
  have hfree : s.host.placements.any (fun p => p.1 != fld t.packet 16 1 && p.2.overlaps (placementOf t)) = false := by
    simpa [List.any_eq_false] using fun a b hp hne => hapart (a, b) hp hne
  refine runsTo_perform rfl h ((if_neg hvalid').trans (if_neg ?_))
  show ¬ (!mhas s.host.ctxs (fld t.packet 20 2) || _ || s.host.placements.any (fun p => p.1 != fld t.packet 16 1 &&
    p.2.overlaps (placementOf t))) = true
  rw [hfree, hctx]
  exact Bool.eq_false_iff.mp ((Bool.or_false _).trans hsignal)

/-! ### Contexts (R393, R394) -/

theorem ctxCreate_runsTo (h : Turn s q 0x0700 t) (hctx : mhas s.host.ctxs (fld t.packet 16 2) = false) : RunsTo (.ctxCreate q) s
    (((((s.begin q).makeContext (fld t.packet 16 2) (BitVec.ofNat 64 (fld t.packet 24 8)) (fld t.packet 18 2) (fld t.packet 32 8)).raise 0x0204
      (srcCp q.ctx.val q.ring.val) (some (fld t.packet 16 2)) [fld t.packet 16 2, fld t.packet 18 2, fld t.packet 32 8, 0])).complete
        q stOk 0 0) :=
  runsTo_perform rfl h (if_neg (by show ¬ mhas s.host.ctxs (fld t.packet 16 2) = true; simp [hctx]))

@[simp] theorem State.startL0_host_hbm (s : State) (ctx cause : Nat) :
    (s.startL0 ctx cause).host = s.host ∧ (s.startL0 ctx cause).hbm = s.hbm := by
  unfold State.startL0
  split <;> exact ⟨rfl, rfl⟩

theorem State.startL0_waits {s : State} {ctx cause : Nat} (hctx : mhas s.host.ctxs ctx = true) (hnot : s.inL0 ctx = false) :
    (s.startL0 ctx cause).pegs.waits = s.pegs.waits.filter (fun w => w.ctx != ctx) := by
  simp [State.startL0, hctx, hnot]

theorem ctxDestroy_runs (h : Turn s q 0x0701 t) (hctx : mhas s.host.ctxs (fld t.packet 16 2) = true) : Runs (.ctxDestroy q) s (fun v =>
    (∃ e, mget v.rst.l0 (fld t.packet 16 2) = some e ∧ e.destroy = some q) ∧ v.host.ctxs = s.host.ctxs ∧ v.hbm = s.hbm ∧
    (s.inL0 (fld t.packet 16 2) = false → v.pegs.waits = s.pegs.waits.filter (fun w => w.ctx != fld t.packet 16 2))) := by
  obtain ⟨hhost, hhbm⟩ := State.startL0_host_hbm (s.begin q) (fld t.packet 16 2) 2
  refine ⟨_, runsTo_perform rfl h (if_neg (by show ¬ (!mhas s.host.ctxs (fld t.packet 16 2)) = true; simp [hctx])),
    ⟨_, mget_mset_self _ _ _, rfl⟩, ?_, ?_, fun hnot => ?_⟩
  · show ((s.begin q).startL0 (fld t.packet 16 2) 2).host.ctxs = (s.begin q).host.ctxs
    rw [hhost]
  · exact hhbm
  · exact State.startL0_waits (s := s.begin q) hctx hnot

/-! ### Rings (R395, R396, R403) -/

section
variable (hctx : mhas s.host.ctxs (fld t.packet 16 2) = true)
include hctx

theorem ringCreate_runsTo (h : Turn s q 0x0702 t) (hnone : s.ring? (fld t.packet 16 2) (fld t.packet 18 1) = none) :
    RunsTo (.ringCreate q) s
      (((s.begin q).makeRing (fld t.packet 16 2) (fld t.packet 18 1) (fld t.packet 20 4) (fld t.packet 24 8) (fld t.packet 32 2)
        (fld t.packet 34 2) (fld t.packet 36 4)).complete q stOk 0 0) :=
  runsTo_perform rfl h ((if_neg (by show ¬ (!mhas s.host.ctxs (fld t.packet 16 2)) = true; simp [hctx])).trans
    (if_neg (by show ¬ (s.ring? (fld t.packet 16 2) (fld t.packet 18 1)).isSome = true; simp [hnone])))

theorem ringDestroy_runsTo (h : Turn s q 0x0703 t) (hring : (s.ring? (fld t.packet 16 2) (fld t.packet 18 1)).isSome = true)
    (hidle : ∀ x ∈ s.host.taken, x.q.ctx.val ≠ fld t.packet 16 2 ∨ x.q.ring.val ≠ fld t.packet 18 1) : RunsTo (.ringDestroy q) s
      (((s.begin q).setHost (fun h => { h with rings := mdel h.rings (4 * fld t.packet 16 2 + fld t.packet 18 1) })).complete q stOk 0 0) := by
  have hnone : (s.begin q).host.taken.any (fun x => x.q.ctx.val == fld t.packet 16 2 && x.q.ring.val == fld t.packet 18 1) = false := by
    rw [State.begin_taken_any s q (fun r => r.ctx.val == fld t.packet 16 2 && r.ring.val == fld t.packet 18 1), List.any_eq_false]
    intro x hx
    simpa [Classical.or_iff_not_imp_left] using hidle x hx
  exact runsTo_perform rfl h ((if_neg (by show ¬ (!mhas s.host.ctxs (fld t.packet 16 2)) = true; simp [hctx])).trans
    ((if_neg (by show ¬ (s.ring? (fld t.packet 16 2) (fld t.packet 18 1)).isNone = true; simp [Option.isSome_iff_ne_none.mp hring])).trans
      (if_neg (Bool.eq_false_iff.mp hnone))))

end

theorem ringResume_runsTo (h : Turn s q 0x0704 t) {x : Context} {r : Ring} (hctx : mget s.host.ctxs (fld t.packet 16 2) = some x)
    (hring : s.ring? (fld t.packet 16 2) (fld t.packet 18 1) = some r) (hfaulted : x.faulted = true)
    (hhead : r.mayResume (BitVec.ofNat 32 (fld t.packet 20 4)) = true) : RunsTo (.ringResume q) s
      (((s.begin q).resumeRing (fld t.packet 16 2) (fld t.packet 18 1) (BitVec.ofNat 32 (fld t.packet 20 4)) (fld t.packet 24 4)).complete
        q stOk 0 0) := by
  have hctx' : mget (s.begin q).host.ctxs (t.par 16 2) = some x := hctx
  have hring' : (s.begin q).ring? (t.par 16 2) (t.par 18 1) = some r := hring
  have hhead' : r.mayResume (BitVec.ofNat 32 (t.par 20 4)) = true := hhead
  refine runsTo_perform rfl h ?_
  simp only [hctx', hring', hfaulted, hhead']
  rfl

end

/-! ### The registers of context 0 (R395, R403) -/

section
variable {s : State} (hup : s.hostUp = true) (x : W64)
include hup

theorem hlCtx0EnableWrite_creates (henable : x.getLsbD 0 = true) (hnone : mhas s.host.ctxs 0 = false) (hready : s.rst.ready = true) :
    RunsTo (.hlCtx0EnableWrite (.full x)) s
      (((({ s with held := mdel s.held rCtx0Ctrl } : State).setReg rCtx0Ctrl x).makeRing 0 0 (2 ^ (6 + min 10 (bits x.toNat 4 1)))
        (s.reg rCtx0CqBase / 4096 * 4096) (max 1 (bits x.toNat 15 5)) (max 1 (bits x.toNat 31 16)) (bits x.toNat 63 32)).makeContext
          0 0 0 60000000000) := by
  have hbase : (({ s with held := mdel s.held rCtx0Ctrl } : State).setReg rCtx0Ctrl x).reg rCtx0CqBase = s.reg rCtx0CqBase :=
    State.reg_setReg_ne _ x (by decide)
  have hbit : x.toNat.testBit 0 = true := henable
  show execHlCtx0EnableWrite (.full x) s = _
  simp only [execHlCtx0EnableWrite, hup, State.write64, hbase, hbit]
  simp [State.setReg, hnone, hready]

theorem hlCtx0ResumeWrite_resumes {cx : Context} {r : Ring} (hctx : mget s.host.ctxs 0 = some cx) (hfaulted : cx.faulted = true)
    (hring : s.ring? 0 (s.reg rCtx0RingSel % 4) = some r) (hhead : r.mayResume (x.setWidth 32) = true) :
    RunsTo (.hlCtx0ResumeWrite (.full x)) s
      (({ s with held := mdel s.held rCtx0Resume } : State).resumeRing 0 (s.reg rCtx0RingSel % 4) (x.setWidth 32) (bits x.toNat 53 32)) := by
  have hring' : ({ s with held := mdel s.held rCtx0Resume } : State).ring? 0
    (({ s with held := mdel s.held rCtx0Resume } : State).reg rCtx0RingSel % 4) = some r := hring
  show execHlCtx0ResumeWrite (.full x) s = _
  simp only [execHlCtx0ResumeWrite, hup, State.write64, hctx, hring', hfaulted, hhead]
  rfl

end

/-- Settles O37. -/
theorem hostCommands : Obligations.HostCommands := by
  unfold Obligations.HostCommands
  refine fun s q t => ⟨fun h => runsTo_perform rfl h rfl, apertureBind_runsTo, fun h => runsTo_perform rfl h rfl, placeSet_clears,
    fun h hvalid hctx hpeg hapart => placeSet_enters h hvalid hctx hpeg hapart, ctxCreate_runsTo, ctxDestroy_runs,
    fun hctx => ⟨fun h hnone => ringCreate_runsTo hctx h hnone, fun h hring hidle => ringDestroy_runsTo hctx h hring hidle,
      fun h x r hx hr hfaulted hhead => ringResume_runsTo h hx hr hfaulted (decide_eq_true hhead)⟩,
    fun hup x => ⟨hlCtx0EnableWrite_creates hup x, fun cx r hcx hfaulted hr hhead =>
      hlCtx0ResumeWrite_resumes hup x hcx hfaulted hr (decide_eq_true hhead)⟩⟩

end Sys2Proof.Machine
end

section
/-! The sensors (14_curator.md R419 to R421, R427, R429; 15_recovery_and_test.md R453): samples and their filters, protection, the trip,
and the checks in mission. -/

namespace Sys2Proof.Machine

/-! ### What an event leaves of the Curator, the resets and the board (R54 to R56) -/

@[simp] theorem State.raise_cur_rst_board_regs (s : State) (code src : Nat) (ctx : Option Nat) (args : List Nat) :
    (s.raise code src ctx args).cur = s.cur ∧ (s.raise code src ctx args).rst = s.rst ∧
      (s.raise code src ctx args).board = s.board ∧ (s.raise code src ctx args).regs = s.regs := by
  rw [s.raise_onlyEvents code src ctx args]
  exact ⟨rfl, rfl, rfl, rfl⟩

@[simp] theorem State.raise_time_simp (s : State) (code src : Nat) (ctx : Option Nat) (args : List Nat) :
    (s.raise code src ctx args).time = s.time := s.raise_time code src ctx args

def State.withMessages (s : State) (m : List Record) : State := { s with cur := { s.cur with messages := m } }

/-- A FATAL event of no context changes what an event can change, and the messages of the sideband. -/
theorem State.raiseWith_fatal (s : State) (code src : Nat) (args : List Nat) (vec0 : Bool) :
    ∃ m, OnlyEvents (s.withMessages m) (s.raiseWith code src none args true vec0) := by
  unfold State.raiseWith
  extract_lets lost u p v w old z
  have hw : OnlyEvents s w := (s.exportLost_onlyEvents.trans (show OnlyEvents lost p.2 from rfl)).trans (State.exportOne_onlyEvents _ _)
  refine ⟨z.cur.messages, ?_⟩
  have hz : OnlyEvents (s.withMessages z.cur.messages) z := by
    show w.withMessages z.cur.messages = _
    rw [hw]
    rfl
  split
  · exact hz.trans (State.signalVector_onlyEvents _ _)
  · exact hz

/-! ### A table set one entry at a time -/

theorem foldl_entry_of_not_mem {ι α : Type} {entry : State → ι → α} {f : State → ι → State}
    (hne : ∀ s i j, j ≠ i → entry (f s i) j = entry s j) {l : List ι} {i : ι} (hi : i ∉ l) (s : State) :
    entry (l.foldl f s) i = entry s i := by
  induction l generalizing s with
  | nil => rfl
  | cons a l ih => rw [List.foldl_cons, ih (fun h => hi (List.mem_cons_of_mem a h)), hne s a i (fun h => hi (h ▸ List.mem_cons_self))]

/-- A fold that sets one entry of a table a step: an entry whose index comes up once is set from its value before. -/
theorem foldl_entry {ι α β : Type} {entry : State → ι → α} {keep : State → β} {f : State → ι → State} {g : β → ι → α → α}
    (hkeep : ∀ s i, keep (f s i) = keep s) (hne : ∀ s i j, j ≠ i → entry (f s i) j = entry s j)
    (hself : ∀ s i, entry (f s i) i = g (keep s) i (entry s i)) {l : List ι} (hl : l.Nodup) {i : ι} (hi : i ∈ l) (s : State) :
    entry (l.foldl f s) i = g (keep s) i (entry s i) := by
  induction l generalizing s with
  | nil => exact absurd hi List.not_mem_nil
  | cons a l ih =>
    obtain ⟨hout, hl⟩ := List.nodup_cons.mp hl
    rw [List.foldl_cons]
    by_cases hai : i = a
    · subst hai
      rw [foldl_entry_of_not_mem hne hout, hself]
    · rw [ih hl ((List.mem_cons.mp hi).resolve_left hai), hkeep, hne s a i hai]

/-! ### The filters (R420; log entries 40 and 42) -/

theorem sortInts_three (a b c : Int) : sortInts [a, b, c] =
    if b ≤ c then (if a ≤ b then [a, b, c] else if a ≤ c then [b, a, c] else [b, c, a])
    else (if a ≤ c then [a, c, b] else if a ≤ b then [c, a, b] else [c, b, a]) := by
  show sortInts.ins a (if b ≤ c then [b, c] else [c, b]) = _
  split <;> simp only [sortInts.ins] <;> split_ifs <;> rfl

theorem medianOf_three (a b c : Int) : medianOf [a, b, c] = some (max (min a b) (min (max a b) c)) := by
  simp only [medianOf, sortInts_three]
  split_ifs <;> simp at * <;> omega

/-- A sample enters the two filters as R420 words it. -/
theorem Sensor.take_eq_filtered (x : Sensor) (tau : Nat) (r : Int) : x.take tau r = filtered x tau r := by
  obtain ⟨last, y, apart, failed, missed⟩ := x
  match last with
  | [] => rfl
  | [_] => rfl
  | b :: c :: _ =>
    cases y with
    | none => simp [Sensor.take, Sensor.m, filtered, medianOf_three]
    | some y => simp [Sensor.take, Sensor.m, filtered, medianOf_three]

theorem State.tau_thermal (s : State) : s.tau 0 = min 12 (bits (s.reg 0x030028) 3 0) := rfl

theorem State.sensor_congr {s t : State} (h : t.cur.sensors = s.cur.sensors) (i : Nat) : t.sensor i = s.sensor i :=
  congrArg (fun m => mgetD m i Sensor.reset) h

theorem State.sensor_setSensor_ne (s : State) {i j : Nat} (x : Sensor) (h : j ≠ i) : (s.setSensor i x).sensor j = s.sensor j :=
  mgetD_mset_ne _ _ _ h

@[simp] theorem State.sensor_raise (s : State) (code src : Nat) (ctx : Option Nat) (args : List Nat) (i : Nat) :
    (s.raise code src ctx args).sensor i = s.sensor i := State.sensor_congr (by simp) i

@[simp] theorem State.reg_raise (s : State) (code src : Nat) (ctx : Option Nat) (args : List Nat) (off : Nat) :
    (s.raise code src ctx args).reg off = s.reg off := State.reg_congr (by simp) off

/-! ### One sensor's sample (R419, R421) -/

/-- A reading in range entered in a sensor: its filters, and how often in a row it disagreed with the median. -/
def Sensor.sampled (x : Sensor) (tau : Nat) (r : Int) (med : Option Int) : Sensor :=
  { x.take tau r with
    apart := if med.any (fun m => decide (20000 < r - m) || decide (20000 < m - r)) then x.apart + 1 else 0 }

/-- What a thermal sample makes of a sensor: one out of range fails, one that disagrees 100 times in a row too. -/
def thermalSensor (tau : Nat) (r : Int) (med : Option Int) (x : Sensor) : Sensor :=
  if x.failed ≠ 0 then x
  else if r < -40000 ∨ 150000 < r then { x with failed := 1 }
  else if 100 ≤ (x.sampled tau r med).apart then { x.sampled tau r med with failed := 2 }
  else x.sampled tau r med

theorem thermalSensor_of_failed {tau : Nat} {r : Int} {med : Option Int} {x : Sensor} (h : x.failed ≠ 0) :
    thermalSensor tau r med x = x := if_pos h

theorem thermalSensor_y {tau : Nat} {r : Int} {med : Option Int} {x : Sensor} (h : x.failed = 0) (hlow : -40000 ≤ r) (hhigh : r ≤ 150000) :
    (thermalSensor tau r med x).y = (filtered x tau r).y := by
  have hrange : ¬ (r < -40000 ∨ 150000 < r) := by omega
  rw [thermalSensor, if_neg (not_not.mpr h), if_neg hrange, ← Sensor.take_eq_filtered]
  split <;> rfl

section
variable (s : State) (i : Nat) (r : Int)

theorem State.sensor_failSensor_self (how : Nat) : (s.failSensor i r how).sensor i = { s.sensor i with failed := how } := by
  simp [State.failSensor]

theorem State.sensor_failSensor_ne (how : Nat) {j : Nat} (h : j ≠ i) : (s.failSensor i r how).sensor j = s.sensor j := by
  simp [State.failSensor, State.sensor_setSensor_ne _ _ h]

@[simp] theorem State.failSensor_regs (how : Nat) : (s.failSensor i r how).regs = s.regs := by simp [State.failSensor]

theorem State.thermalOne_eq (med : Option Int) : s.thermalOne i r med =
    if (s.sensor i).failed ≠ 0 then s
    else if r < -40000 ∨ 150000 < r then s.failSensor i r 1
    else if 100 ≤ ((s.sensor i).sampled (s.tau 0) r med).apart then
      (s.setSensor i ((s.sensor i).sampled (s.tau 0) r med)).failSensor i r 2
    else s.setSensor i ((s.sensor i).sampled (s.tau 0) r med) := rfl

theorem State.sensor_thermalOne_self (med : Option Int) : (s.thermalOne i r med).sensor i = thermalSensor (s.tau 0) r med (s.sensor i) := by
  rw [State.thermalOne_eq, thermalSensor]
  split_ifs <;> simp [State.sensor_failSensor_self]

theorem State.sensor_thermalOne_ne (med : Option Int) {j : Nat} (h : j ≠ i) : (s.thermalOne i r med).sensor j = s.sensor j := by
  rw [State.thermalOne_eq]
  split_ifs <;> simp [State.sensor_failSensor_ne _ _ _ _ h, State.sensor_setSensor_ne _ _ h]

@[simp] theorem State.thermalOne_regs (med : Option Int) : (s.thermalOne i r med).regs = s.regs := by
  rw [State.thermalOne_eq]
  split_ifs <;> simp

/-- A stack's sample enters its filters; what else it does leaves every sensor. -/
theorem State.stackSample_sensors (n : Nat) : (s.stackSample n r).cur.sensors =
    (s.setSensor (264 + n) ((s.sensor (264 + n)).take (s.tau 0) r)).cur.sensors ∧ (s.stackSample n r).regs = s.regs := by
  unfold State.stackSample
  dsimp only
  split
  · exact ⟨rfl, rfl⟩
  · split_ifs <;> simp

theorem State.sensor_stackSample_self (n : Nat) : (s.stackSample n r).sensor (264 + n) = filtered (s.sensor (264 + n)) (s.tau 0) r := by
  rw [State.sensor_congr (s.stackSample_sensors r n).1, State.sensor_setSensor_self, Sensor.take_eq_filtered]

theorem State.sensor_stackSample_ne (n : Nat) {j : Nat} (h : j ≠ 264 + n) : (s.stackSample n r).sensor j = s.sensor j := by
  rw [State.sensor_congr (s.stackSample_sensors r n).1, State.sensor_setSensor_ne _ _ h]

end

/-! ### Protection leaves the sensors (R427 to R429) -/

section
variable (s : State)

@[simp] theorem State.toPoint_sensors (p : Nat) : (s.toPoint p).cur.sensors = s.cur.sensors := by
  unfold State.toPoint
  split_ifs <;> rfl

@[simp] theorem State.atLeast_sensors (p : Nat) : (s.atLeast p).cur.sensors = s.cur.sensors := by
  unfold State.atLeast
  split_ifs
  · simp
  · rfl

@[simp] theorem State.causeOn_sensors (b : Nat) (reading : Int) (sensor : Nat) : (s.causeOn b reading sensor).cur.sensors = s.cur.sensors := rfl

@[simp] theorem State.causeHold_sensors (b : Nat) : (s.causeHold b).cur.sensors = s.cur.sensors := rfl

@[simp] theorem State.causeOff_sensors (b : Nat) : (s.causeOff b).cur.sensors = s.cur.sensors := by
  unfold State.causeOff
  split
  · rfl
  · dsimp only
    split_ifs <;> simp

@[simp] theorem State.causeClear_sensors (b ns : Nat) : (s.causeClear b ns).cur.sensors = s.cur.sensors := by
  unfold State.causeClear
  split
  · rfl
  · split
    · rfl
    · split_ifs <;> simp

@[simp] theorem State.departure_sensors (b : Nat) : (s.departure b).cur.sensors = s.cur.sensors := by
  unfold State.departure
  split
  · rfl
  · split_ifs <;> simp

@[simp] theorem State.lostCause_sensors : s.lostCause.cur.sensors = s.cur.sensors := by
  unfold State.lostCause
  dsimp only
  split_ifs <;> simp

@[simp] theorem State.trip_sensors (i : Nat) (r : Int) (how : Nat) : (s.trip i r how).cur.sensors = s.cur.sensors := by
  obtain ⟨m, hm⟩ := s.raiseWith_fatal 0x0B04 srcCur [i, (BitVec.ofInt 64 r).toNat, how, 0] false
  unfold State.trip
  dsimp only
  rw [hm]
  rfl

end

/-! ### THERMAL_SAMPLE (R419, R427, R429) -/

/-- One die or hub sensor's reading, where there is one. -/
def State.dieReading (l : List Int) (meds : List (Option Int)) (s : State) (i : Nat) : State :=
  match l[i]? with
  | some r => s.thermalOne i r (meds.getD (dieOf i) none)
  | none => s

/-- One stack's reading, where there is one. -/
def State.stackReading (l : List Int) (s : State) (n : Nat) : State :=
  match l[264 + n]? with
  | some r => s.stackSample n r
  | none => s

/-- The medians of the dies' working sensors in a sample. -/
def State.dieMedians (s : State) (l : List Int) : List (Option Int) :=
  (List.range 5).map (fun d => medianOf ((dieSensors d).filterMap (fun i => if (s.sensor i).failed = 0 then l[i]? else none)))

/-- A sample's readings entered. -/
def State.thermalReadings (s : State) (l : List Int) : State :=
  (List.range 16).foldl (State.stackReading l) ((List.range 264).foldl (State.dieReading l (s.dieMedians l)) s)

/-- What protection makes of a sample. -/
def State.thermalCauses (s : State) (j k : Option (Nat × Int)) : State :=
  let s := match j with
    | some (i, m) => if 105000 ≤ m then s.causeOn 0 m i else if m < 100000 then s.causeClear 0 10000000 else s.causeHold 0
    | none => s
  let s := match k with
    | some (i, m) => if s.cur.hot.isEmpty then s.causeOff 2 else (s.causeOn 2 m i).departure 2
    | none => s
  s.lostCause

/-- The trip of a sample whose hottest junction or stack reaches its limit. -/
def State.thermalTrip (s : State) (j k : Option (Nat × Int)) : State :=
  match j, k with
  | some (i, m), some (n, t) => if 115000 ≤ m then s.trip i m 1 else if 105000 ≤ t then s.trip n t 1 else s
  | some (i, m), none => if 115000 ≤ m then s.trip i m 1 else s
  | none, some (n, t) => if 105000 ≤ t then s.trip n t 1 else s
  | none, none => s

section
variable (s : State) (l : List Int)

theorem State.dieReading_ne (meds : List (Option Int)) (i : Nat) {j : Nat} (h : j ≠ i) :
    (s.dieReading l meds i).sensor j = s.sensor j := by
  unfold State.dieReading
  split
  · exact s.sensor_thermalOne_ne i _ _ h
  · rfl

theorem State.dieReading_regs (meds : List (Option Int)) (i : Nat) : (s.dieReading l meds i).regs = s.regs := by
  unfold State.dieReading
  split
  · exact s.thermalOne_regs i _ _
  · rfl

theorem State.dieReading_self (meds : List (Option Int)) (i : Nat) : (s.dieReading l meds i).sensor i =
    (l[i]?.elim (s.sensor i) (fun r => thermalSensor (s.tau 0) r (meds.getD (dieOf i) none) (s.sensor i))) := by
  unfold State.dieReading
  split
  · rename_i r hr
    rw [hr]
    exact s.sensor_thermalOne_self i r _
  · rename_i hr
    rw [hr]
    rfl

theorem State.stackReading_ne (n : Nat) {j : Nat} (h : j ≠ 264 + n) : (s.stackReading l n).sensor j = s.sensor j := by
  unfold State.stackReading
  split
  · exact s.sensor_stackSample_ne _ n h
  · rfl

theorem State.stackReading_regs (n : Nat) : (s.stackReading l n).regs = s.regs := by
  unfold State.stackReading
  split
  · exact (s.stackSample_sensors _ n).2
  · rfl

theorem State.stackReading_self (n : Nat) : (s.stackReading l n).sensor (264 + n) =
    (l[264 + n]?.elim (s.sensor (264 + n)) (fun r => filtered (s.sensor (264 + n)) (s.tau 0) r)) := by
  unfold State.stackReading
  split
  · rename_i r hr
    rw [hr]
    exact s.sensor_stackSample_self r n
  · rename_i hr
    rw [hr]
    rfl

theorem State.tau_congr {s t : State} (h : t.regs = s.regs) (k : Nat) : t.tau k = s.tau k := by
  rw [State.tau, State.reg_congr h, State.tau]

/-- A die or hub sensor after a sample. -/
theorem State.thermalReadings_die {i : Nat} (hi : i < 264) : (s.thermalReadings l).sensor i =
    (l[i]?.elim (s.sensor i) (fun r => thermalSensor (s.tau 0) r ((s.dieMedians l).getD (dieOf i) none) (s.sensor i))) := by
  have hstacks (u : State) : ((List.range 16).foldl (State.stackReading l) u).sensor i = u.sensor i :=
    foldl_view (view := fun u => u.sensor i) (fun u n => u.stackReading_ne l n (by omega)) _ u
  rw [State.thermalReadings, hstacks]
  exact foldl_entry (entry := State.sensor) (keep := fun u => u.tau 0)
    (g := fun tau i x => l[i]?.elim x (fun r => thermalSensor tau r ((s.dieMedians l).getD (dieOf i) none) x))
    (fun u i => State.tau_congr (u.dieReading_regs l _ i) 0) (fun u i j h => u.dieReading_ne l _ i h) (fun u i => u.dieReading_self l _ i)
    List.nodup_range (List.mem_range.mpr hi) s

/-- A stack's sensor after a sample. -/
theorem State.thermalReadings_stack {n : Nat} (hn : n < 16) : (s.thermalReadings l).sensor (264 + n) =
    (l[264 + n]?.elim (s.sensor (264 + n)) (fun r => filtered (s.sensor (264 + n)) (s.tau 0) r)) := by
  have hregs (meds : List (Option Int)) : ((List.range 264).foldl (State.dieReading l meds) s).tau 0 = s.tau 0 :=
    State.tau_congr (foldl_view (view := State.regs) (fun u i => u.dieReading_regs l meds i) _ s) 0
  have hdies (meds : List (Option Int)) : ((List.range 264).foldl (State.dieReading l meds) s).sensor (264 + n) = s.sensor (264 + n) :=
    foldl_entry_of_not_mem (entry := State.sensor) (fun u i j h => u.dieReading_ne l meds i h) (by simp) s
  have hstacks := foldl_entry (entry := fun u n => u.sensor (264 + n)) (keep := fun u => u.tau 0) (f := State.stackReading l)
    (g := fun tau n x => l[264 + n]?.elim x (fun r => filtered x tau r))
    (fun u n => State.tau_congr (u.stackReading_regs l n) 0) (fun u n j h => u.stackReading_ne l n (by omega))
    (fun u n => u.stackReading_self l n) List.nodup_range (List.mem_range.mpr hn)
    ((List.range 264).foldl (State.dieReading l (s.dieMedians l)) s)
  rw [State.thermalReadings, hstacks, hregs, hdies]

@[simp] theorem State.thermalCauses_sensors (j k : Option (Nat × Int)) : (s.thermalCauses j k).cur.sensors = s.cur.sensors := by
  unfold State.thermalCauses
  dsimp only
  rw [State.lostCause_sensors]
  cases j <;> cases k <;> dsimp only <;> split_ifs <;> simp

@[simp] theorem State.thermalTrip_sensors (j k : Option (Nat × Int)) : (s.thermalTrip j k).cur.sensors = s.cur.sensors := by
  unfold State.thermalTrip
  split <;> [split_ifs; split_ifs; split_ifs; skip] <;> simp

theorem State.thermalTrip_tripped {m : Nat × Int} (h : 115000 ≤ m.2) (k : Option (Nat × Int)) :
    (s.thermalTrip (some m) k).cur.tripped = true := by
  cases k <;> simp [State.thermalTrip, h, State.trip]

theorem State.junctions_congr {s t : State} (h : t.cur.sensors = s.cur.sensors) : t.junctions = s.junctions :=
  congrArg (fun m => ({ s with cur := { s.cur with sensors := m } } : State).junctions) h

end

/-! ### VOLTAGE_SAMPLE and CURRENT_SAMPLE (R419, R420) -/

/-- One voltage monitor's reading, where it is read. -/
def State.voltageReading (l : List Int) (s : State) (i : Nat) : State :=
  match (if s.cur.monitorsOut.contains i then none else l[i]?) with
  | some r => s.setSensor (280 + i) ((s.sensor (280 + i)).take (s.tau 1) r)
  | none => s

section
variable (s : State)

/-- A voltage reading sets nothing but its sensor. -/
theorem State.voltageReading_eq (l : List Int) (i : Nat) :
    s.voltageReading l i = { s with cur := { s.cur with sensors := (s.voltageReading l i).cur.sensors } } := by
  unfold State.voltageReading
  split <;> rfl

theorem State.voltageReading_ne (l : List Int) (i : Nat) {j : Nat} (h : j ≠ i) :
    (s.voltageReading l i).sensor (280 + j) = s.sensor (280 + j) := by
  unfold State.voltageReading
  split
  · exact s.sensor_setSensor_ne _ (by omega)
  · rfl

theorem State.voltageReading_self (l : List Int) (i : Nat) : (s.voltageReading l i).sensor (280 + i) =
    ((if s.cur.monitorsOut.contains i then none else l[i]?).elim (s.sensor (280 + i)) (fun r => filtered (s.sensor (280 + i)) (s.tau 1) r)) := by
  unfold State.voltageReading
  split
  · rename_i r hr
    rw [hr, State.sensor_setSensor_self, Sensor.take_eq_filtered]
    rfl
  · rename_i hr
    rw [hr]
    rfl

theorem State.currentOne_sensor_self (i : Nat) (r : Option Int) (status : Nat) : (s.currentOne i r status).sensor (304 + i) =
    r.elim { s.sensor (304 + i) with missed := (s.sensor (304 + i)).missed + 1 }
      (fun v => { filtered (s.sensor (304 + i)) (s.tau 2) v with missed := 0 }) := by
  unfold State.currentOne
  cases r <;> dsimp only <;> split_ifs <;> simp [Sensor.take_eq_filtered]

theorem State.currentOne_sensor_ne (i : Nat) (r : Option Int) (status : Nat) {j : Nat} (h : j ≠ i) :
    (s.currentOne i r status).sensor (304 + j) = s.sensor (304 + j) := by
  have hne : 304 + j ≠ 304 + i := by omega
  unfold State.currentOne
  cases r <;> dsimp only <;> split_ifs <;> simp [State.sensor_setSensor_ne _ _ hne]

theorem State.currentOne_regs (i : Nat) (r : Option Int) (status : Nat) : (s.currentOne i r status).regs = s.regs := by
  unfold State.currentOne
  cases r <;> dsimp only <;> split_ifs <;> simp

/-- The regulators' readings entered. -/
def State.currentReadings (l : List (Option Int)) (w : List Nat) : State :=
  s.regulators.foldl (fun s i => s.currentOne i (l.getD i none) (w.getD i 0 % 2 ^ 16)) s

theorem State.currentReadings_sensor (l : List (Option Int)) (w : List Nat) {i : Nat} (hi : i ∈ s.regulators) :
    (s.currentReadings l w).sensor (304 + i) = (l.getD i none).elim { s.sensor (304 + i) with missed := (s.sensor (304 + i)).missed + 1 }
      (fun v => { filtered (s.sensor (304 + i)) (s.tau 2) v with missed := 0 }) :=
  foldl_entry (entry := fun u i => u.sensor (304 + i)) (keep := fun u => u.tau 2)
    (g := fun tau i x => (l.getD i none).elim { x with missed := x.missed + 1 } (fun v => { filtered x tau v with missed := 0 }))
    (fun u i => State.tau_congr (u.currentOne_regs i _ _) 2) (fun u i _ h => u.currentOne_sensor_ne i _ _ h)
    (fun u i => u.currentOne_sensor_self i _ _) (List.nodup_range.filter _) hi s

/-- VDD_CORE current over its limit is cause 1 (R427). -/
def State.currentCause (c : Int) (first : Nat) : State :=
  (if 2300000 ≤ c then s.causeOn 1 c first else if c < 2150000 then s.causeClear 1 10000000 else s.causeHold 1).lostCause

@[simp] theorem State.currentCause_sensors (c : Int) (first : Nat) : (s.currentCause c first).cur.sensors = s.cur.sensors := by
  unfold State.currentCause
  split_ifs <;> simp

end

/-! ### The checks in mission (R453) -/

/-- A fold whose steps but one leave the state. -/
theorem foldl_of_single {ι α : Type} {f : α → ι → α} {i : ι} (h : ∀ u j, j ≠ i → f u j = u) {l : List ι} (hl : l.Nodup) (hi : i ∈ l)
    (s : α) : l.foldl f s = f s i := by
  induction l generalizing s with
  | nil => exact absurd hi List.not_mem_nil
  | cons a l ih =>
    obtain ⟨hout, hl⟩ := List.nodup_cons.mp hl
    rw [List.foldl_cons]
    by_cases hai : i = a
    · subst hai
      exact foldl_eq_self fun j hj => h _ j fun hji => hout (hji ▸ hj)
    · rw [h s a (Ne.symm hai), ih hl ((List.mem_cons.mp hi).resolve_left hai)]

theorem natAbs_getD_le {l : List Int} {n : Nat} (h : ∀ x ∈ l, x.natAbs ≤ n) (i : Nat) : (l.getD i 0).natAbs ≤ n := by
  rw [List.getD_eq_getElem?_getD]
  cases hi : l[i]? with
  | none => exact Nat.zero_le n
  | some x => exact h x (List.mem_of_getElem? hi)

/-- A thermal sensor against the bandgap. -/
def State.thermalCheck (l : List Int) (s : State) (i : Nat) : State :=
  if (s.sensor i).failed = 0 ∧ 3000 < (l.getD i 0).natAbs then
    (s.raise 0x0D0A srcCur none [6, i, (BitVec.ofInt 64 (l.getD i 0)).toNat, 3000]).failSensor i ((s.sensor i).last.headD 0) 2
  else s

/-- A voltage monitor against the reference. -/
def State.voltageCheck (l : List Int) (s : State) (i : Nat) : State :=
  if !s.cur.monitorsOut.contains i ∧ 10 < (l.getD i 0).natAbs then
    ({ s with cur := { s.cur with monitorsOut := i :: s.cur.monitorsOut } } : State).raise 0x0D0A srcCur none
      [7, i, (BitVec.ofInt 64 (l.getD i 0)).toNat, 10]
  else s

theorem State.thermalCheck_of_close {l : List Int} (s : State) {i : Nat} (h : (l.getD i 0).natAbs ≤ 3000) : s.thermalCheck l i = s :=
  if_neg fun hfar => by omega

theorem State.voltageCheck_of_close {l : List Int} (s : State) {i : Nat} (h : (l.getD i 0).natAbs ≤ 10) : s.voltageCheck l i = s :=
  if_neg fun hfar => by omega

theorem getD_replicate_append_single (i j : Nat) (d : Int) : (List.replicate i 0 ++ [d]).getD j 0 = if j = i then d else 0 := by
  rcases lt_trichotomy j i with h | h | h
  · simp [h, h.ne, List.getElem?_append_left]
  · simp [h]
  · rw [List.getD_eq_default _ _ (by simp; omega), if_neg h.ne']

/-! ### The rows -/

theorem analogueComparatorTrip_runsTo {s : State} (i : Fin 256) (r : Int) (halive : s.alive = true) :
    RunsTo (.analogueComparatorTrip i r) s (s.trip i.val r 2) := by
  show execAnalogueComparatorTrip i r s = _
  simp [execAnalogueComparatorTrip, halive]

section
variable {s : State} (halive : s.alive = true) (hrestart : s.cur.restartSince = none)
include halive hrestart

theorem State.sampling_eq_true : s.sampling = true := by simp [State.sampling, halive, hrestart]

theorem thermalSample_runsTo (l : List Int) : RunsTo (.thermalSample l) s
    (((s.thermalReadings l).thermalCauses (hottest (s.thermalReadings l).junctions) (hottest (s.thermalReadings l).stackTemps)).thermalTrip
      (hottest (s.thermalReadings l).junctions) (hottest (s.thermalReadings l).stackTemps)) := by
  show execThermalSample l s = _
  simp only [execThermalSample, State.sampling_eq_true halive hrestart]
  rfl

theorem thermalSample_runs (l : List Int) : Runs (.thermalSample l) s (fun t => t.cur.sensors = (s.thermalReadings l).cur.sensors ∧
    ∀ m, hottest t.junctions = some m → 115000 ≤ m.2 → t.cur.tripped = true) := by
  refine ⟨_, thermalSample_runsTo halive hrestart l, ?_⟩
  have hsensors : ∀ j k, (((s.thermalReadings l).thermalCauses j k).thermalTrip j k).cur.sensors = (s.thermalReadings l).cur.sensors := by simp
  refine ⟨hsensors _ _, fun m hm hhot => ?_⟩
  rw [State.junctions_congr (hsensors _ _)] at hm
  rw [hm]
  exact State.thermalTrip_tripped _ hhot _

theorem voltageSample_runsTo (l : List Int) : RunsTo (.voltageSample l) s ((List.range 24).foldl (State.voltageReading l) s) := by
  show execVoltageSample l s = _
  simp only [execVoltageSample, State.sampling_eq_true halive hrestart]
  rfl

theorem voltageSample_runs (l : List Int) : Runs (.voltageSample l) s (fun t =>
    (∀ i r, i < 24 → l[i]? = some r → s.cur.monitorsOut.contains i = false → t.sensor (280 + i) = filtered (s.sensor (280 + i)) (s.tau 1) r) ∧
    t.hbm = s.hbm ∧ t.host = s.host ∧ t.cat = s.cat ∧ t.eng = s.eng) := by
  refine ⟨_, voltageSample_runsTo halive hrestart l, fun i r hi hr hin => ?_, ?_⟩
  · have hentry := foldl_entry (entry := fun u i => u.sensor (280 + i)) (keep := fun u => (u.cur.monitorsOut, u.tau 1))
      (f := State.voltageReading l)
      (g := fun k i x => (if k.1.contains i then none else l[i]?).elim x (fun r => filtered x k.2 r))
      (fun u i => by rw [u.voltageReading_eq]; rfl) (fun u i j h => u.voltageReading_ne l i h) (fun u i => u.voltageReading_self l i)
      List.nodup_range (List.mem_range.mpr hi) s
    rw [hentry, hin, hr]
    rfl
  · have hkeeps := foldl_view (view := fun u => (u.hbm, u.host, u.cat, u.eng)) (f := State.voltageReading l)
      (fun u i => by rw [u.voltageReading_eq]) (List.range 24) s
    simpa only [Prod.mk.injEq] using hkeeps

theorem currentSample_runs (l : List (Option Int)) (w : List Nat) : Runs (.currentSample l w) s (fun t =>
    t.cur.sensors = (s.currentReadings l w).cur.sensors) := by
  refine runs_of_next (t := (s.currentReadings l w).currentCause (s.currentReadings l w).coreCurrent
    (((s.currentReadings l w).regulators.find? (fun i => fld ((s.currentReadings l w).regulator i) 2 1 == 0)).map (304 + ·) |>.getD 0))
    ?_ (State.currentCause_sensors _ _ _)
  show execCurrentSample l w s = _
  simp only [execCurrentSample, State.sampling_eq_true halive hrestart]
  rfl

theorem thermalSensorCheck_close {l : List Int} (h : ∀ x ∈ l, x.natAbs ≤ 3000) : RunsTo (.thermalSensorCheck l) s s.lostCause := by
  have hfold : (List.range 264).foldl (State.thermalCheck l) s = s :=
    foldl_eq_self fun i _ => s.thermalCheck_of_close (natAbs_getD_le h i)
  show execThermalSensorCheck l s = _
  simp only [execThermalSensorCheck, State.sampling_eq_true halive hrestart]
  exact congrArg (fun u => Host.Outcome.next u.lostCause) hfold

theorem voltageMonitorCheck_runsTo (l : List Int) : RunsTo (.voltageMonitorCheck l) s ((List.range 24).foldl (State.voltageCheck l) s) := by
  show execVoltageMonitorCheck l s = _
  simp only [execVoltageMonitorCheck, State.sampling_eq_true halive hrestart]
  rfl

theorem voltageMonitorCheck_close {l : List Int} (h : ∀ x ∈ l, x.natAbs ≤ 10) : RunsTo (.voltageMonitorCheck l) s s :=
  runsTo_of_next (voltageMonitorCheck_runsTo halive hrestart l)
    (foldl_eq_self fun i _ => s.voltageCheck_of_close (natAbs_getD_le h i))

theorem voltageMonitorCheck_apart (i : Fin 24) (d : Int) (hd : 10 < d.natAbs) (hin : s.cur.monitorsOut.contains i.val = false) :
    Runs (.voltageMonitorCheck (List.replicate i.val 0 ++ [d])) s (fun t => t.cur.monitorsOut = i.val :: s.cur.monitorsOut) := by
  have hsingle := foldl_of_single (f := State.voltageCheck (List.replicate i.val 0 ++ [d])) (i := i.val)
    (fun u j hj => u.voltageCheck_of_close (by rw [getD_replicate_append_single, if_neg hj]; exact Nat.zero_le 10))
    List.nodup_range (List.mem_range.mpr i.isLt) s
  refine ⟨_, voltageMonitorCheck_runsTo halive hrestart _, ?_⟩
  rw [hsingle, State.voltageCheck, getD_replicate_append_single, if_pos rfl, if_pos ⟨by rw [hin]; rfl, hd⟩]
  simp

end

/-- Settles O41: a fold of samples sets each sensor once (`foldl_entry`), and protection leaves the sensors. -/
theorem sensorSamples : Obligations.SensorSamples := by
  unfold Obligations.SensorSamples
  refine ⟨Sensor.take_eq_filtered, fun s i r halive => analogueComparatorTrip_runsTo i r halive, fun s halive hrestart =>
    ⟨voltageSample_runs halive hrestart, fun l => ?thermal, fun l w => ?current, fun l => thermalSensorCheck_close halive hrestart,
      fun l => voltageMonitorCheck_close halive hrestart, voltageMonitorCheck_apart halive hrestart⟩⟩
  case thermal =>
    obtain ⟨t, hrow, hsensors, htrips⟩ := thermalSample_runs halive hrestart l
    refine ⟨t, hrow, fun i r hi hr hworks hlow hhigh => ?_, fun i hi hfailed => ?_, fun n r hn hr => ?_, htrips⟩
    · rw [State.sensor_congr hsensors, s.thermalReadings_die l hi, hr]
      exact thermalSensor_y hworks hlow hhigh
    · rw [State.sensor_congr hsensors, s.thermalReadings_die l hi]
      cases l[i]? with
      | none => rfl
      | some r => exact thermalSensor_of_failed hfailed
    · rw [State.sensor_congr hsensors, s.thermalReadings_stack l hn, hr]
      rfl
  case current =>
    obtain ⟨t, hrow, hsensors⟩ := currentSample_runs halive hrestart l w
    refine ⟨t, hrow, fun i hi => ?_⟩
    rw [State.sensor_congr hsensors, s.currentReadings_sensor l w hi]
    cases l.getD i none <;> rfl

end Sys2Proof.Machine
end

section
/-! What a port's next unit changes at most (02_fabric_time.md R43; 11_guylines.md R332 to R337, R349): the ports, the stall episodes
and the stamps. -/

namespace Sys2Proof.Machine

/-- `t` is `s` but for what a port that sends can change. -/
def OnlyPorts (s t : State) : Prop := t = { s with time := t.time, tier := t.tier, guy := t.guy }

theorem OnlyPorts.refl (s : State) : OnlyPorts s s := rfl

theorem OnlyPorts.trans {s t u : State} (h : OnlyPorts s t) (h' : OnlyPorts t u) : OnlyPorts s u := by
  refine Eq.trans h' ?_
  rw [h]

theorem OnlyPorts.ite {s t u : State} {p : Prop} [Decidable p] (ht : OnlyPorts s t) (hu : OnlyPorts s u) :
    OnlyPorts s (if p then t else u) := by
  split
  · exact ht
  · exact hu

theorem OnlyPorts.foldl {α : Type} {f : State → α → State} (h : ∀ s a, OnlyPorts s (f s a)) (l : List α) (s : State) :
    OnlyPorts s (l.foldl f s) := by
  induction l generalizing s with
  | nil => rfl
  | cons a l ih => exact (h s a).trans (ih _)

theorem State.sent_onlyPorts (s : State) (p : Nat) (x : PortSt) (cls n : Nat) (o : GuyOut) : OnlyPorts s (s.sent p x cls n o) := rfl

theorem State.stallOff_onlyPorts (s : State) (u : StallUnit) : OnlyPorts s (s.stallOff u) := by
  unfold State.stallOff
  split <;> rfl

theorem State.stallOn_onlyPorts (s : State) (u : StallUnit) (ctx cause : Nat) : OnlyPorts s (s.stallOn u ctx cause) := by
  unfold State.stallOn
  split
  · rfl
  · exact (s.stallOff_onlyPorts u).trans rfl

theorem State.slotStalls_onlyPorts (s : State) (p : Nat) (x : PortSt) (waits : List Nat) : OnlyPorts s (s.slotStalls p x waits) := by
  unfold State.slotStalls
  split
  · rfl
  · refine OnlyPorts.foldl (fun s c => ?_) _ s
    dsimp only
    split
    · exact s.stallOn_onlyPorts _ _ _
    · exact s.stallOff_onlyPorts _

theorem State.pumpIdle_onlyPorts (s : State) (p : Nat) (x : PortSt) : OnlyPorts s (s.pumpIdle p x) := by
  unfold State.pumpIdle
  split
  · dsimp only
    split <;> rfl
  · split <;> rfl

theorem State.ptpLeft_onlyPorts (s : State) (p : Nat) (m : PtpMessage) : OnlyPorts s (s.ptpLeft p m) := by
  unfold State.ptpLeft
  split <;> rfl

theorem State.sendUnit_onlyPorts (s : State) (p : Nat) (x : PortSt) (c : Nat) : OnlyPorts s (s.sendUnit p x c) := by
  unfold State.sendUnit
  split
  · refine (OnlyPorts.ite ?_ (.refl s)).trans (State.sent_onlyPorts _ _ _ _ _ _)
    rfl
  · split
    · rfl
    · dsimp only
      split
      · exact (s.sent_onlyPorts _ _ _ _ _).trans (State.ptpLeft_onlyPorts _ _ _)
      · rfl

theorem State.pump_onlyPorts (s : State) (p : Nat) : OnlyPorts s (s.pump p) := by
  unfold State.pump
  dsimp only
  split
  · rfl
  · split
    · rfl
    · split
      · exact (s.slotStalls_onlyPorts _ _ _).trans (State.sent_onlyPorts _ _ _ _ _ _)
      · exact (s.slotStalls_onlyPorts _ _ _).trans (State.sendUnit_onlyPorts _ _ _ _)
      · exact (s.slotStalls_onlyPorts _ _ _).trans (State.pumpIdle_onlyPorts _ _ _)

theorem State.pumpAll_onlyPorts (s : State) : OnlyPorts s s.pumpAll := OnlyPorts.foldl (fun u p => u.pump_onlyPorts p) _ s

@[simp] theorem State.pumpAll_rest (s : State) : s.pumpAll.cur = s.cur ∧ s.pumpAll.hbm = s.hbm ∧ s.pumpAll.host = s.host ∧
    s.pumpAll.rst = s.rst ∧ s.pumpAll.board = s.board ∧ s.pumpAll.eng = s.eng ∧ s.pumpAll.cat = s.cat ∧ s.pumpAll.regs = s.regs := by
  rw [s.pumpAll_onlyPorts]
  exact ⟨rfl, rfl, rfl, rfl, rfl, rfl, rfl, rfl⟩

end Sys2Proof.Machine
end

section
/-! The power loop, fast throttle, power states and the controller's restart (14_curator.md R423, R425, R426, R428, R430, R431;
15_recovery_and_test.md R441). -/

namespace Sys2Proof.Machine

/-! ### Points and causes (R423, R427) -/

section
variable (s : State)

/-- A demand of protection changes the Curator alone. -/
theorem State.atLeast_eq (p : Nat) : s.atLeast p = { s with cur := (s.atLeast p).cur } := by
  unfold State.atLeast State.toPoint
  split_ifs <;> rfl

theorem State.atLeast_point (p : Nat) : (s.atLeast p).cur.point = max s.cur.point p := by
  unfold State.atLeast State.toPoint
  split_ifs with h
  · exact (Nat.max_eq_right h.le).symm
  · exact (Nat.max_eq_left (Nat.not_lt.mp h)).symm

theorem State.atLeast_rest (p : Nat) : (s.atLeast p).cur.restartSince = s.cur.restartSince ∧ (s.atLeast p).cur.fastLow = s.cur.fastLow ∧
    (s.atLeast p).cur.fastSince = s.cur.fastSince ∧ (s.atLeast p).cur.fastThrottles = s.cur.fastThrottles := by
  unfold State.atLeast State.toPoint
  split_ifs <;> exact ⟨rfl, rfl, rfl, rfl⟩

theorem State.departure_of_no_cause {b : Nat} (h : s.cause? b = none) : s.departure b = s := by
  simp only [State.departure, h]

theorem State.cause_causeOn_isSome (b : Nat) (reading : Int) (sensor : Nat) : ((s.causeOn b reading sensor).cause? b).isSome = true := by
  unfold State.cause? State.causeOn
  dsimp only
  split_ifs with h
  · rw [find?_replaceFirst (p := fun c : Cause => c.bit == b) (f := fun c => { c with clear := none }) (fun a ha => ha), Option.isSome_map]
    exact h
  · rw [List.find?_append]
    simp

/-- Whether there is a cause of a bit, among the Curator's causes. -/
theorem State.cause_isSome (c : Nat) : (s.cause? c).isSome = s.cur.causes.any (fun x => x.bit == c) := by
  rw [Bool.eq_iff_iff, State.cause?, List.find?_isSome, List.any_eq_true]

/-- The first action of a cause leaves the causes there are. -/
theorem State.departure_cause_isSome (b c : Nat) : ((s.departure b).cause? c).isSome = (s.cause? c).isSome := by
  simp only [State.cause_isSome]
  unfold State.departure
  split
  · rfl
  · split_ifs
    · rfl
    · simp only [State.raise_cur_rst_board_regs]
      exact any_replaceFirst (p := fun x : Cause => x.bit == c) (f := fun x => { x with acted := true, since := s.local_ }) (fun _ => rfl) _

/-- What fast throttle keeps beside the causes: its pin, its time, its count and the point. -/
def CurSt.fastView (c : CurSt) : Bool × Nat × Nat × Nat := (c.fastLow, c.fastSince, c.fastThrottles, c.point)

theorem State.departure_fastView (b : Nat) : (s.departure b).cur.fastView = s.cur.fastView := by
  unfold State.departure
  split
  · rfl
  · split_ifs
    · rfl
    · simp only [State.raise_cur_rst_board_regs]
      rfl

theorem State.causeOn_fastView (b : Nat) (reading : Int) (sensor : Nat) : (s.causeOn b reading sensor).cur.fastView = s.cur.fastView := rfl

end

/-! ### The rows of the power loop (R423, R425, R426) -/

section
variable {s : State} (halive : s.alive = true)
include halive

theorem voltageSettled_runsTo (hrestart : s.cur.restartSince = none) {p since : Nat} (hrise : s.cur.rise = some (p, since)) :
    RunsTo .voltageSettled s
      { s with cur := { s.cur with point := p, rise := none, pointChanges := (s.cur.pointChanges + 1) % 2 ^ 16 } } := by
  show execVoltageSettled s = _
  simp only [execVoltageSettled, State.sampling_eq_true halive hrestart, if_true, hrise]
  rfl

theorem powerLoopTick_of_rise (hrestart : s.cur.restartSince = none) (hrise : s.cur.rise.isSome = true) :
    RunsTo .powerLoopTick s (((s.atLeast s.demands).departure 0).departure 1) := by
  show execPowerLoopTick s = _
  simp [execPowerLoopTick, State.sampling_eq_true halive hrestart, hrise]

omit halive in
theorem State.demands_of_no_cause (hrestart : s.cur.restartSince = none) (hcauses : s.cur.causes = []) (hlost : s.anyLost = false) :
    s.demands = 0 := by
  simp [State.demands, State.cause_isSome, hcauses, hlost, hrestart]

omit halive in
/-- A demand for the point in force, with no rise under way, leaves everything. -/
theorem State.toPoint_self (hrise : s.cur.rise = none) : s.toPoint s.cur.point = s := by
  simp only [State.toPoint, lt_irrefl, if_false, ← hrise]

omit halive in
theorem loopStep_of_steady {p : Int} {cap loop below c : Nat} (hcap : p ≤ (cap : Int) * wattUnit)
    (hband : 95 * ((cap : Int) * wattUnit) ≤ 100 * p) (hceil : c ≤ loop) : loopStep p cap loop below c = (loop, 0) := by
  simp [loopStep, hcap.not_gt, hband.not_gt, Nat.max_eq_left hceil]

theorem powerLoopTick_of_steady (hrestart : s.cur.restartSince = none) (hrise : s.cur.rise = none) (hcauses : s.cur.causes = [])
    (hregs : ∀ i ∈ s.regulators, (s.sensor (304 + i)).missed < 3)
    (hcap : s.power ≤ (bits (s.reg rPowerCap) 15 0 : Nat) * wattUnit)
    (hband : 95 * ((bits (s.reg rPowerCap) 15 0 : Nat) * wattUnit) ≤ 100 * s.power) (hceil : s.ceilIdx ≤ s.cur.loop)
    (hpoint : s.cur.point = s.cur.loop) (hfloor : s.cur.loop ≤ s.floorIdx) :
    RunsTo .powerLoopTick s { s with cur := { s.cur with below := 0, floorYield := false } } := by
  have hlost : s.anyLost = false := by simpa [State.anyLost, State.lost] using hregs
  let calm : State := { s with cur := { s.cur with below := 0 } }
  have hrow : exec .powerLoopTick s = .next (((calm.toPoint (max calm.cur.loop calm.demands)).floorYield.departure 0).departure 1) := by
    show execPowerLoopTick s = _
    simp only [execPowerLoopTick, State.sampling_eq_true halive hrestart, hrise, hlost, loopStep_of_steady hcap hband hceil]
    rfl
  let quiet : State := { s with cur := { s.cur with below := 0, floorYield := false } }
  have hyield : calm.floorYield = quiet := by
    show (if s.floorIdx < s.cur.loop then _ else _) = _
    rw [if_neg hfloor.not_gt]
  refine runsTo_of_next hrow ?_
  have hnone (u : State) (b : Nat) (hu : u.cur.causes = []) : u.departure b = u := u.departure_of_no_cause (by simp [State.cause?, hu])
  rw [State.demands_of_no_cause (s := calm) hrestart hcauses hlost, Nat.max_zero, ← show calm.cur.point = calm.cur.loop from hpoint,
    State.toPoint_self (s := calm) hrise, hyield]
  exact (congrArg (fun u => State.departure u 1) (hnone quiet 0 hcauses)).trans (hnone quiet 1 hcauses)

end

/-! ### Fast throttle (R428) -/

section
variable {s : State} (halive : s.alive = true)
include halive

theorem fastThrottleAssert_runs (hlow : s.cur.fastLow = false) : Runs .fastThrottleAssert s (fun t =>
    t.cur.fastLow = true ∧ t.cur.fastSince = s.time.localNs ∧ t.cur.fastThrottles = min (2 ^ 16 - 1) (s.cur.fastThrottles + 1) ∧
      s.throttleIdx ≤ t.cur.point ∧ s.cur.point ≤ t.cur.point ∧ (t.cause? 3).isSome) := by
  let low : State := { s with cur := { s.cur with
    fastLow := true, fastSince := s.local_, fastHold := none, fastThrottles := satAdd 16 s.cur.fastThrottles 1 } }
  let held : State := (low.atLeast s.throttleIdx).raise 0x0B03 srcCur none [1, (low.atLeast s.throttleIdx).mhz, 0, 0]
  have hrow : exec .fastThrottleAssert s = .next ((held.causeOn 3 0 0).departure 3) := by
    show execFastThrottleAssert s = _
    simp only [execFastThrottleAssert, halive, hlow]
    rfl
  have hview : ((held.causeOn 3 0 0).departure 3).cur.fastView = (true, s.local_, satAdd 16 s.cur.fastThrottles 1, max s.cur.point s.throttleIdx) := by
    obtain ⟨-, hfast, hsince, hcount⟩ := low.atLeast_rest s.throttleIdx
    have hpoint := low.atLeast_point s.throttleIdx
    rw [State.departure_fastView, State.causeOn_fastView]
    simp only [held, State.raise_cur_rst_board_regs, CurSt.fastView, hfast, hsince, hcount, hpoint]
    rfl
  simp only [CurSt.fastView, Prod.mk.injEq] at hview
  obtain ⟨hfast, hsince, hcount, hpoint⟩ := hview
  refine runs_of_next hrow ⟨hfast, hsince, hcount, hpoint ▸ Nat.le_max_right _ _, hpoint ▸ Nat.le_max_left _ _, ?_⟩
  rw [State.departure_cause_isSome]
  exact State.cause_causeOn_isSome _ _ _ _

theorem fastThrottleRelease_runsTo (hlow : s.cur.fastLow = true) : RunsTo .fastThrottleRelease s
    (({ s with cur := { s.cur with fastLow := false, fastHold := some s.local_ } } : State).raise 0x0B03 srcCur none
      [2, if s.phaseRuns then 1800 else 2250 - 150 * s.cur.point, s.local_ - s.cur.fastSince, 0]) := by
  show execFastThrottleRelease s = _
  simp only [execFastThrottleRelease, halive, hlow]
  rfl

theorem throttleHoldExpiry_runsTo {x : Nat} (hhold : s.cur.fastHold = some x) (hdue : x + 1000000 ≤ s.local_) :
    RunsTo .throttleHoldExpiry s (({ s with cur := { s.cur with fastHold := none } } : State).causeOff 3) := by
  show execThrottleHoldExpiry s = _
  simp [execThrottleHoldExpiry, halive, hhold, hdue]

/-! ### Power states (R430, R431) -/

theorem idleEntryTimeout_runsTo (hready : s.rst.ready = true) (hactive : s.cur.power = .active) (hus : bits (s.reg rEnvelope) 63 32 ≠ 0)
    (hidle : ∀ c ∈ s.eng.clusters, c.2.busy = false) (hdue : s.cur.busyUntil + 1000 * bits (s.reg rEnvelope) 63 32 ≤ s.local_) :
    RunsTo .idleEntryTimeout s (({ s with cur := { s.cur with power := .idle } } : State).raise 0x0B06 srcCur none [0, 1, 0, 0]) := by
  have hnone : s.eng.clusters.any (fun c => c.2.busy) = false := by simpa using hidle
  show execIdleEntryTimeout s = _
  simp only [execIdleEntryTimeout, halive, hready, hactive, hnone, hdue]
  simp [hus]

omit halive in
/-- The watchdog windows resume; nothing else changes. -/
theorem State.thaw_rest (s : State) : s.thaw.cur = s.cur ∧ s.thaw.hbm = s.hbm := by
  unfold State.thaw
  split
  · exact ⟨rfl, rfl⟩
  · split_ifs <;> exact ⟨rfl, rfl⟩

omit halive in
theorem State.leaveSelfRefresh_local (s : State) : s.leaveSelfRefresh.local_ = s.local_ :=
  foldl_view (view := State.local_) (fun u n => by dsimp only; split_ifs <;> rfl) _ s

omit halive in
theorem State.mapPorts_local (s : State) (f : PortSt → PortSt) : (s.mapPorts f).local_ = s.local_ := rfl

/-- The end of a wake: Active, the windows resume, and what waits is sent. -/
def State.wakeEnd (s : State) (from_ : PowerState) (x : Nat) : State :=
  let on : State := { s with cur := { s.cur with power := .active, waking := none, busyUntil := s.local_ } }
  (on.thaw.raise 0x0B06 srcCur none [from_.code, 0, on.local_ - x, 0]).pumpAll

omit halive in
theorem State.wakeEnd_rest (s : State) (from_ : PowerState) (x : Nat) :
    (s.wakeEnd from_ x).cur.power = .active ∧ (s.wakeEnd from_ x).cur.waking = none ∧ (s.wakeEnd from_ x).cur.busyUntil = s.local_ ∧
      (s.wakeEnd from_ x).hbm.stackList = s.hbm.stackList := by
  simp only [State.wakeEnd, State.pumpAll_rest, State.raise_cur_rst_board_regs, State.raise_none_hbm_ctxs, State.thaw_rest, and_self]

theorem wakeComplete_of_idle {from_ : PowerState} {x : Nat} (hwaking : s.cur.waking = some (from_, x)) (hfrom : from_ ≠ .rest)
    (hdue : x + 10000 ≤ s.local_) : RunsTo .wakeComplete s (s.wakeEnd from_ x) := by
  show execWakeComplete s = _
  simp only [execWakeComplete, halive, hwaking, if_true, hfrom, if_false, hdue.not_gt]
  rfl

theorem wakeComplete_of_rest {x : Nat} (hwaking : s.cur.waking = some (.rest, x)) (hdue : x + 30000000 ≤ s.local_) :
    RunsTo .wakeComplete s ((s.leaveSelfRefresh.mapPorts PortSt.leaveRest).wakeEnd .rest x) := by
  show execWakeComplete s = _
  simp only [execWakeComplete, halive, hwaking, if_true, hdue.not_gt, if_false]
  rfl

/-! ### The controller's watchdog (R441) -/

theorem curatorWatchdogExpiry_runs (hrestart : s.cur.restartSince = none) : Runs .curatorWatchdogExpiry s (fun t =>
    t.cur.restartSince = some s.local_ ∧ s.throttleIdx ≤ t.cur.point ∧ t.cat = s.cat) := by
  let down : State := { s with cur := { s.cur with restartSince := some s.local_ } }
  have hrow : exec .curatorWatchdogExpiry s = .next (down.atLeast s.throttleIdx) := by
    show execCuratorWatchdogExpiry s = _
    simp only [execCuratorWatchdogExpiry, halive, hrestart]
    rfl
  refine runs_of_next hrow ⟨(down.atLeast_rest _).1, ?_, ?_⟩
  · rw [State.atLeast_point]
    exact Nat.le_max_right _ _
  · rw [State.atLeast_eq]

theorem curatorRestartComplete_runs {x : Nat} (hrestart : s.cur.restartSince = some x) : Runs .curatorRestartComplete s (fun t =>
    t.cur.restartSince = none ∧ t.rst.restarts = min (2 ^ 16 - 1) (s.rst.restarts + 1)) := by
  let up : State := { s with
    cur := { s.cur with restartSince := none }, rst := { s.rst with restarts := satAdd 16 s.rst.restarts 1 } }
  have hrow : exec .curatorRestartComplete s = .next (up.raise 0x0C05 srcCur none [up.local_ - x, up.rst.restarts, 0, 0]) := by
    show execCuratorRestartComplete s = _
    simp only [execCuratorRestartComplete, halive, hrestart]
    rfl
  exact runs_of_next hrow (by simp only [State.raise_cur_rst_board_regs]; exact ⟨rfl, rfl⟩)

end

/-- Settles O42, row by row. -/
theorem powerAndThrottle : Obligations.PowerAndThrottle := by
  intro s halive
  refine ⟨fun hrestart => ⟨fun p since hrise => ⟨voltageSettled_runsTo halive hrestart hrise, ?_⟩, ?_⟩,
    fastThrottleAssert_runs halive, fastThrottleRelease_runsTo halive, fun x => throttleHoldExpiry_runsTo halive,
    idleEntryTimeout_runsTo halive, fun from_ x hwaking hdue => ?_, curatorWatchdogExpiry_runs halive,
    fun x => curatorRestartComplete_runs halive⟩
  · exact powerLoopTick_of_rise halive hrestart (by rw [hrise]; rfl)
  · exact powerLoopTick_of_steady halive hrestart
  · by_cases hfrom : from_ = .rest
    · subst hfrom
      rw [if_pos rfl] at hdue
      obtain ⟨hpower, hwake, hbusy, -⟩ := (s.leaveSelfRefresh.mapPorts PortSt.leaveRest).wakeEnd_rest .rest x
      rw [State.mapPorts_local, State.leaveSelfRefresh_local] at hbusy
      exact runs_of_next (wakeComplete_of_rest halive hwaking hdue) ⟨hpower, hwake, hbusy, nofun⟩
    · rw [if_neg hfrom] at hdue
      obtain ⟨hpower, hwake, hbusy, hstacks⟩ := s.wakeEnd_rest from_ x
      exact runs_of_next (wakeComplete_of_idle halive hwaking hfrom hdue) ⟨hpower, hwake, hbusy, fun _ => hstacks⟩

end Sys2Proof.Machine
end

section
/-! The sideband and the Curator's commands (14_curator.md R432, R434, R435). -/

namespace Sys2Proof.Machine

/-! ### The sideband (R432) -/

section
variable {s : State} (hpower : s.board.pwrGood = true)
include hpower

theorem pldmSensorRead_runsTo (id : BitVec 16) : RunsTo (.pldmSensorRead id) s
    { s with cur := { s.cur with pldm := s.cur.pldm ++ [(id.toNat, s.pldmAnswer id.toNat)] } } := by
  show execPldmSensorRead id s = _
  rw [execPldmSensorRead, if_pos hpower]

theorem pldmSensorRead_of_answer {id : BitVec 16} {a : Option Int} (h : s.pldmAnswer id.toNat = a) : RunsTo (.pldmSensorRead id) s
    { s with cur := { s.cur with pldm := s.cur.pldm ++ [(id.toNat, a)] } } := h ▸ pldmSensorRead_runsTo hpower id

theorem platformEventMessageCollect_runsTo :
    RunsTo .platformEventMessageCollect s { s with cur := { s.cur with messages := s.cur.messages.drop 1 } } := by
  show execPlatformEventMessageCollect s = _
  rw [execPlatformEventMessageCollect, if_pos hpower]

theorem endpointIdAssignment_runsTo (eid : Byte) : RunsTo (.endpointIdAssignment eid) s { s with cur := { s.cur with eid := eid } } := by
  show execEndpointIdAssignment eid s = _
  rw [execEndpointIdAssignment, if_pos hpower]

end

section
variable (s : State)

theorem State.pldmAnswer_of_sensor {id : Nat} (hlow : 1 ≤ id) (hhigh : id ≤ 336) :
    s.pldmAnswer id = if s.sensorGone (id - 1) then none else some (s.shownY (id - 1)) := if_pos ⟨hlow, hhigh⟩

theorem State.pldmAnswer_power : s.pldmAnswer 1001 = some (s.power.fdiv wattUnit).toNat := rfl
theorem State.pldmAnswer_clock : s.pldmAnswer 1002 = some (if s.phaseRuns then 1800 else 2250 - 150 * s.cur.point : Nat) := rfl
theorem State.pldmAnswer_state : s.pldmAnswer 1003 = some s.cur.power.code := rfl

theorem State.pldmAnswer_of_no_sensor {id : Nat} (hsensor : id = 0 ∨ 336 < id) (hpower : id ≠ 1001) (hclock : id ≠ 1002)
    (hstate : id ≠ 1003) : s.pldmAnswer id = none := by
  have hnone : ¬ (1 ≤ id ∧ id ≤ 336) := by omega
  rw [State.pldmAnswer, if_neg hnone, if_neg hpower, if_neg hclock, if_neg hstate]

end

/-! ### The commands (R434, R435) -/

theorem State.freeze_cur (s : State) : s.freeze.cur = s.cur := by
  unfold State.freeze
  split <;> rfl

theorem State.enterRest_power (s : State) : s.enterRest.cur.power = .rest := by
  simp [State.enterRest, State.freeze_cur]

section
variable {s : State} {q : CmdRef} {t : Taken}

section
variable (h : Turn s q 0x0750 t)
include h

theorem curPowerState_reads (hread : fld t.packet 16 1 = 0) :
    RunsTo (.curPowerState q) s ((s.begin q).complete q stOk s.cur.power.code 0) := runsTo_perform rfl h (if_pos hread)

theorem curPowerState_rests (hrest : fld t.packet 16 1 ≠ 0) (halone : ∀ x ∈ s.host.taken, x.q = q) :
    RunsTo (.curPowerState q) s ((s.begin q).enterRest.complete q stOk 2 0) := by
  have hnone : (s.begin q).host.taken.any (fun x => x.q != q) = false := by
    rw [State.begin_taken_any s q (fun r => r != q), List.any_eq_false]
    intro x hx
    simp [halone x hx]
  exact runsTo_perform rfl h ((if_neg hrest).trans (if_neg (Bool.eq_false_iff.mp hnone)))

theorem curPowerState_waits (hrest : fld t.packet 16 1 ≠ 0) (hother : ∃ x ∈ s.host.taken, x.q ≠ q) :
    RunsTo (.curPowerState q) s (s.begin q) := by
  have hsome : (s.begin q).host.taken.any (fun x => x.q != q) = true := by
    rw [State.begin_taken_any s q (fun r => r != q), List.any_eq_true]
    simpa using hother
  exact runsTo_perform rfl h ((if_neg hrest).trans (if_pos hsome))

end

/-- The two words of a sensor in the block that CUR_SENSOR_READ writes: m and y, or the mark of a sensor left out. -/
def State.sensorWords (s : State) (i : Nat) : List Byte :=
  if s.sensorGone i then leBytes 4 0x80000000 ++ leBytes 4 0x80000000
  else leBytes 4 (BitVec.ofInt 32 ((s.sensor i).m.getD 0)).toNat ++ leBytes 4 (BitVec.ofInt 32 (s.shownY i)).toNat

theorem curSensorRead_runsTo (h : Turn s q 0x0751 t) {v : State} (hv : (s.begin q).writeVa q.ctx.val (fld t.packet 16 8)
    ((List.range 336).flatMap s.sensorWords) (.other false) 0 = (v, .ok ())) :
    RunsTo (.curSensorRead q) s (v.complete q stOk 2688 0) :=
  runsTo_perform rfl h (cmdOutcome_ok hv)

theorem foundCause_of_accepted {x : PatchFound} {floor : Nat} (hpresent : x.present = true) (hsize : x.image.length ≤ 98304)
    (hdigest : x.digestOk = true) (hsigned : x.signaturesOk = true) (hfloor : floor ≤ x.version.toNat) : foundCause x floor = 1 := by
  simp [foundCause, hpresent, hsize.not_gt, hdigest, hsigned, hfloor.not_gt]

theorem State.tryPatch_accepted {s : State} {x : PatchFound} (hpresent : x.present = true) (hcause : foundCause x s.board.patchFloor = 1) :
    s.tryPatch x = ({ s with board := { s.board with patch := some (x.version.toNat, x.image) } } : State).raise 0x0B09 srcCur none
      [1, x.version.toNat, x.version.toNat, 0] := by
  simp [State.tryPatch, hcause, hpresent]

theorem curPatchActivate_accepted (h : Turn s q 0x0752 t) {x : PatchFound} (hpresent : x.present = true)
    (hcause : foundCause x s.board.patchFloor = 1) : RunsTo (.curPatchActivate q x) s
      (((({ s.begin q with board := { (s.begin q).board with patch := some (x.version.toNat, x.image) } } : State).raise 0x0B09 srcCur none
        [1, x.version.toNat, x.version.toNat, 0]).complete q stOk x.version.toNat 0)) := by
  have hpatch := State.tryPatch_accepted (s := s.begin q) hpresent hcause
  refine runsTo_perform rfl h ((if_pos hcause).trans ?_)
  rw [hpatch, (State.raise_cur_rst_board_regs _ _ _ _ _).2.2.1]
  rfl

end

/-- Settles O43, row by row. -/
theorem curatorServices : Obligations.CuratorServices := by
  intro s
  refine ⟨fun hpower => ⟨⟨fun id hlow hhigh => ⟨fun hhere => ?_, fun hgone => ?_⟩, ?_, ?_, ?_, fun id hno h1 h2 h3 => ?_⟩,
    platformEventMessageCollect_runsTo hpower, endpointIdAssignment_runsTo hpower⟩, fun q t => ⟨fun h => ⟨curPowerState_reads h,
    fun hrest halone => ⟨curPowerState_rests h hrest halone, State.enterRest_power _⟩, curPowerState_waits h⟩,
    fun h v => curSensorRead_runsTo h, fun h x hpresent hsize hdigest hsigned hfloor =>
      curPatchActivate_accepted h hpresent (foundCause_of_accepted hpresent hsize hdigest hsigned hfloor)⟩⟩
  · exact pldmSensorRead_of_answer hpower ((s.pldmAnswer_of_sensor hlow hhigh).trans (by rw [hhere]; rfl))
  · exact pldmSensorRead_of_answer hpower ((s.pldmAnswer_of_sensor hlow hhigh).trans (by rw [hgone]; rfl))
  · exact pldmSensorRead_of_answer hpower s.pldmAnswer_power
  · exact pldmSensorRead_of_answer hpower s.pldmAnswer_clock
  · exact pldmSensorRead_of_answer hpower s.pldmAnswer_state
  · exact pldmSensorRead_of_answer hpower
      (s.pldmAnswer_of_no_sensor hno (fun e => h1 (BitVec.eq_of_toNat_eq e)) (fun e => h2 (BitVec.eq_of_toNat_eq e))
        (fun e => h3 (BitVec.eq_of_toNat_eq e)))

end Sys2Proof.Machine
end

section
/-! The reset levels (15_recovery_and_test.md R437 to R450, R466). -/

namespace Sys2Proof.Machine

/-! ### What the records of a reset leave (R54 to R56, R450) -/

section
variable (s : State) (code src : Nat) (args : List Nat) (fatal vec0 : Bool)

/-- An event of no context changes what an event can change, and the messages of the sideband. -/
theorem State.raiseWith_none_onlyEvents : ∃ m, OnlyEvents (s.withMessages m) (s.raiseWith code src none args fatal vec0) := by
  cases fatal with
  | true => exact s.raiseWith_fatal code src args vec0
  | false =>
    refine ⟨s.cur.messages, ?_⟩
    unfold State.raiseWith
    extract_lets lost u p v w old z
    have hz : OnlyEvents s z := (s.exportLost_onlyEvents.trans (show OnlyEvents lost p.2 from rfl)).trans (State.exportOne_onlyEvents _ _)
    split
    · exact hz.trans (State.signalVector_onlyEvents _ _)
    · exact hz

@[simp] theorem State.raiseWith_rst_board_regs : (s.raiseWith code src none args fatal vec0).rst = s.rst ∧
    (s.raiseWith code src none args fatal vec0).board = s.board ∧ (s.raiseWith code src none args fatal vec0).regs = s.regs ∧
    (s.raiseWith code src none args fatal vec0).time = s.time := by
  obtain ⟨m, h⟩ := s.raiseWith_none_onlyEvents code src args fatal vec0
  rw [h]
  exact ⟨rfl, rfl, rfl, rfl⟩

end

/-! ### The L1 resets under a start (R442, R444) -/

section
variable (s : State)

@[simp] theorem State.resetBegin_l1 (level cause scope from_ : Nat) : (s.resetBegin level cause scope from_).rst.l1 = s.rst.l1 := by
  simp [State.resetBegin, State.setRst]

@[simp] theorem State.startL0s_l1 (ctxs : List Nat) (cause : Nat) : (s.startL0s ctxs cause).rst.l1 = s.rst.l1 :=
  foldl_view (view := fun u => u.rst.l1) (fun u c => by unfold State.startL0; split <;> rfl) ctxs s

theorem State.not_l3_of_not_covered {s : State} {u : UnitRef} (h : s.covered u = false) : s.rst.l3 = none := by
  simp only [State.covered, Bool.or_eq_false_iff] at h
  simpa using h.1

/-- A unit that can be reset and is under no higher reset is in L1 once its L1 was started. -/
theorem State.startL1_any {k : L1Key} {s : State} (hserving : s.serving = true) (hunit : unitHasL1 k.unit = true) (hcovered : s.covered k.unit = false)
    (cause : Nat) (except : List Nat) (asked : List CmdRef) : (s.startL1 k cause except asked).rst.l1.any (fun x => x.key == k) = true := by
  simp only [State.startL1, hserving, hunit, State.not_l3_of_not_covered hcovered, hcovered]
  by_cases hany : s.rst.l1.any (fun x => x.key == k) = true
  · simp only [hany]
    exact (any_replaceFirst (p := fun x : L1St => x.key == k) (f := fun x => { x with asked := x.asked ++ asked }) (fun _ => rfl) _).trans hany
  · simp [hany, State.setRst]

end

theorem L1Key.of_unit (u : UnitRef) (core engine : Nat) : (L1Key.of u core engine).unit = u := by
  unfold L1Key.of
  split
  · split <;> rfl
  · rfl

section
variable {s : State}

/-! ### The watchdog and heartbeats (R437, R440) -/

theorem watchdogExpiry_runsTo (halive : s.alive = true) {c : Ctx} {x : Context} (hctx : mget s.host.ctxs c.val = some x) (hnot : s.inL0 c.val = false)
    (hfrozen : s.rst.frozen = none) (hwork : (s.host.taken.filter (fun t => t.q.ctx == c)).length ≠ 0) (hzero : c.val ≠ 0)
    (hdue : mgetD s.rst.progress c.val 0 + x.window ≤ s.local_) : RunsTo (.watchdogExpiry c) s
      ((s.raise 0x0C01 srcRst (some c.val) [c.val, s.now - (s.local_ - mgetD s.rst.progress c.val 0), x.window,
        (s.host.taken.filter (fun t => t.q.ctx == c)).length]).startL0 c.val 1) := by
  show execWatchdogExpiry c s = _
  simp [execWatchdogExpiry, halive, hnot, hfrozen, hctx, hzero, hdue.not_gt]
  intro h
  exact absurd h (by simpa using hwork)

theorem heartbeatTimeout_runsTo (halive : s.alive = true) {u : UnitRef} (hserving : s.serving = true) (hbeat : hasHeartbeat u = true)
    (hcovered : s.covered u = false) (hnone : ∀ x ∈ s.rst.l1, x.key ≠ L1Key.of u 0 0) : RunsTo (.heartbeatTimeout u) s
      ((s.raise 0x0C04 srcRst none [unitSource u, s.now - 1000000, 1, 0]).startL1 (L1Key.of u 0 0) 4 [] []) := by
  have hl1 : s.rst.l1.any (fun x => x.key == L1Key.of u 0 0) = false := by simpa using hnone
  show execHeartbeatTimeout u s = _
  simp [execHeartbeatTimeout, halive, hserving, hbeat, hcovered, hl1]

/-! ### The steps of an L0 (R443) -/

theorem quiesceComplete_runsTo (halive : s.alive = true) {c : Ctx} {e : L0St} (hl0 : mget s.rst.l0 c.val = some e) (hwaits : e.waits = []) :
    RunsTo (.quiesceComplete c) s (s.finishL0 c.val) := by
  show execQuiesceComplete c s = _
  simp [execQuiesceComplete, halive, hl0, hwaits]

theorem quiesceTimeout_runs (halive : s.alive = true) {c : Ctx} {u : UnitRef} {core : Fin 84} {engine : Fin 4} {e : L0St}
    (hl0 : mget s.rst.l0 c.val = some e) (hunit : unitHasL1 u = true) (hdue : e.since + 1000 * max 100 s.quiesceUs ≤ s.local_)
    (hnew : e.waits.contains (L1Key.of u core.val engine.val) = false) (hserving : s.serving = true)
    (hwork : (s.workOn u).contains c.val = true) (hcovered : s.covered u = false) : Runs (.quiesceTimeout c u core engine) s (fun t =>
      mget t.rst.l0 c.val = some { e with waits := L1Key.of u core.val engine.val :: e.waits } ∧
        ∀ x ∈ t.rst.l1, x.key = L1Key.of u core.val engine.val → c.val ∉ x.after) := by
  have hkey := L1Key.of_unit u core.val engine.val
  have hany := State.startL1_any hserving (by rw [hkey]; exact hunit) (by rw [hkey]; exact hcovered) (k := L1Key.of u core.val engine.val) 3 [c.val] []
  refine runs_of_next (t := (s.startL1 (L1Key.of u core.val engine.val) 3 [c.val] []).setRst (fun r => { r with
    l0 := mset r.l0 c.val { e with waits := L1Key.of u core.val engine.val :: e.waits }
    l1 := r.l1.map (fun x => if x.key == L1Key.of u core.val engine.val then { x with after := x.after.filter (· != c.val) } else x) }))
    ?_ ⟨mget_mset_self _ _ _, ?_⟩
  · show execQuiesceTimeout c u core engine s = _
    simp only [execQuiesceTimeout, halive, hunit, Bool.and_self, if_true, hl0, hdue.not_gt, hnew, hwork, hcovered, hany]
    simp
  · intro x hx
    obtain ⟨y, -, rfl⟩ := List.mem_map.mp hx
    intro hy
    by_cases hk : y.key = L1Key.of u core.val engine.val
    · simp [hk]
    · simp [hk] at hy

/-! ### Results of BIST (R444, R451) -/

section
variable (halive : s.alive = true) {u : UnitRef} {core : Fin 84} {engine : Fin 4} {y : L1St}
  (hy : s.rst.l1.find? (fun x => x.key == L1Key.of u core.val engine.val && x.after.isEmpty) = some y) (hrun : s.rst.test.run = none)
include halive hy hrun

omit halive hy in
theorem State.unitTested_of_no_run (failed : Bool) : s.unitTested u failed = s := by simp only [State.unitTested, hrun]

theorem unitBistComplete_passed (hfirst : y.again = false) : RunsTo (.unitBistComplete u core engine ⟨.passed, []⟩) s (s.endL1 y 0) := by
  show execUnitBistComplete u core engine ⟨.passed, []⟩ s = _
  simp [execUnitBistComplete, halive, hy, hfirst, State.rowsFixed, State.unitTested_of_no_run hrun]

theorem unitBistComplete_failed (e : Fin 5) (sig : W64) : RunsTo (.unitBistComplete u core engine ⟨.failed e sig, []⟩) s (s.failL1 y e.val sig) := by
  show execUnitBistComplete u core engine ⟨.failed e sig, []⟩ s = _
  simp [execUnitBistComplete, halive, hy, State.rowsFixed, State.unitTested_of_no_run hrun]

end

/-! ### RST_CONTEXT and RST_UNIT (R466) -/

section
variable (hl2 : s.rst.l2 = []) (hl3 : s.rst.l3 = none) (hrun : s.rst.test.run = none) {q : CmdRef} {t : Taken}
include hl2 hl3 hrun

theorem State.resetBusy_begin : (s.begin q).resetBusy = false := by
  show (!s.rst.l2.isEmpty || s.rst.l3.isSome || s.rst.test.run.isSome) = false
  simp [hl2, hl3, hrun]

theorem rstContext_runs (h : Turn s q 0x0720 t) (hctx : mhas s.host.ctxs (fld t.packet 16 2) = true) : Runs (.rstContext q) s (fun u =>
    (∃ e, mget u.rst.l0 (fld t.packet 16 2) = some e ∧ q ∈ e.asked) ∧ u.host.ctxs = s.host.ctxs ∧ u.hbm = s.hbm) := by
  obtain ⟨hhost, hhbm⟩ := State.startL0_host_hbm (s.begin q) (fld t.packet 16 2) 2
  refine ⟨_, runsTo_perform rfl h ((if_neg ?_).trans (if_neg ?_)), ⟨_, mget_mset_self _ _ _, ?_⟩, ?_, ?_⟩
  · show ¬ (!mhas s.host.ctxs (fld t.packet 16 2)) = true
    simp [hctx]
  · rw [State.resetBusy_begin hl2 hl3 hrun]
    exact Bool.false_ne_true
  · simp
  · show ((s.begin q).startL0 (fld t.packet 16 2) 2).host.ctxs = (s.begin q).host.ctxs
    rw [hhost]
  · exact hhbm

theorem rstUnit_runsTo (h : Turn s q 0x0721 t) {u : UnitRef} (hu : unitOfSource (fld t.packet 16 2) = some u)
    (hown : ∀ x ∈ (s.begin q).commandsOn u, x.ctx.val ≠ 0 ∨ x = q) : RunsTo (.rstUnit q) s
      (((s.begin q).startTaken q).startL1 (L1Key.of u (fld t.packet 18 1) (fld t.packet 19 1)) 2 [0] [q]) := by
  have hnone : ((s.begin q).commandsOn u).filter (fun x => x.ctx.val == 0 && x != q) = [] := by
    rw [List.filter_eq_nil_iff]
    intro x hx
    rcases hown x hx with hne | rfl
    · simp [hne]
    · simp
  have hu' : unitOfSource (t.par 16 2) = some u := hu
  refine runsTo_perform rfl h ?_
  simp only [hu', State.resetBusy_begin hl2 hl3 hrun, hnone]
  rfl

end

/-! ### Escalation (R448, R449) -/

section
variable (hserving : s.serving = true) (hl3 : s.rst.l3 = none)
include hserving hl3

theorem State.startL3_of_recent {x : Nat} (hlast : s.rst.l3Last = some x) (hrecent : s.local_ < x + 600000000000) (cause level : Nat) :
    s.startL3 cause level = s.notReady 6 := by
  simp [State.startL3, hserving, hl3, withinNs, hlast, hrecent]

theorem State.startL2_of_recent {d x : Nat} (hl2 : s.rst.l2 = []) (hlast : mget s.rst.l2Last d = some x) (hrecent : s.local_ < x + 60000000000)
    (cause level : Nat) (asked : List CmdRef) : s.startL2 d cause level asked = s.startL3 6 2 := by
  have hnot : mhas ([] : Map BigReset) d = false := rfl
  simp [State.startL2, hserving, hl3, hnot, hl2, withinNs, hlast, hrecent]

end

end

/-- Settles O55, row by row. -/
theorem resetLevels : Obligations.ResetLevels := by
  intro s halive
  exact ⟨fun c x hctx hnot hfrozen => watchdogExpiry_runsTo halive hctx hnot hfrozen, fun c e => quiesceComplete_runsTo halive,
    fun c u core engine e hl0 hunit => quiesceTimeout_runs halive hl0 hunit, fun u => heartbeatTimeout_runsTo halive,
    fun u core engine y hy hrun => ⟨unitBistComplete_passed halive hy hrun, unitBistComplete_failed halive hy hrun⟩,
    fun hl2 hl3 hrun q t => ⟨rstContext_runs hl2 hl3 hrun, fun h u => rstUnit_runsTo hl2 hl3 hrun h⟩,
    fun hserving hl3 cause level => ⟨fun x hlast hrecent => State.startL3_of_recent hserving hl3 hlast hrecent cause level,
      fun d asked x hl2 hlast hrecent => State.startL2_of_recent hserving hl3 hl2 hlast hrecent cause level asked⟩⟩

end Sys2Proof.Machine
end

section
/-! Self-test, the repair map and rotation (15_recovery_and_test.md R452 to R464). -/

namespace Sys2Proof.Machine

/-! ### The phase of boot (R470) -/

/-- A change of phase is the board's alone, but for its event. -/
@[simp] theorem State.toPhase_rest (s : State) (p : BootPhase) : (s.toPhase p).board = { s.board with phase := p } ∧
    (s.toPhase p).rst = s.rst ∧ (s.toPhase p).hbm = s.hbm ∧ (s.toPhase p).regs = s.regs ∧ (s.toPhase p).time = s.time := by
  rcases eq_or_ne s.board.phase p with rfl | h
  · simp [State.toPhase]
  · simp [State.toPhase, h]

/-! ### What draining the stacks leaves (R224) -/

/-- The phase of boot and the repair map, which reads and stacks leave. -/
def State.bootView (s : State) : BoardSt × RepairSt := (s.board, s.rst.repair)

theorem State.startL0_bootView (s : State) (ctx cause : Nat) : (s.startL0 ctx cause).bootView = s.bootView := by
  unfold State.startL0
  split <;> rfl

theorem State.raise_bootView (s : State) (code src : Nat) (ctx : Option Nat) (args : List Nat) :
    (s.raise code src ctx args).bootView = s.bootView := by simp [State.bootView]

theorem State.uncorrectable_bootView (s : State) (reader : Nat) (ctx : Option Nat) (line what : Nat) :
    (s.uncorrectable reader ctx line what).bootView = s.bootView := by
  unfold State.uncorrectable
  dsimp only
  split
  · rw [State.startL0_bootView, State.raise_bootView]
    rfl
  · rw [State.raise_bootView]
    rfl

theorem State.settleWc_bootView (s : State) (before : List WcEntry) : (s.settleWc before).bootView = s.bootView := by
  refine foldl_view (view := State.bootView) (fun u x => ?_) _ _
  split
  · rfl
  · exact u.uncorrectable_bootView _ _ _ _

/-- Some stacks put into a state. -/
def State.putStacks (s : State) (to_ : StackState) (ns : List Nat) : State :=
  ns.foldl (fun u n => u.setStack n { u.stack n with state := to_ }) s

theorem State.putStacks_rest (s : State) (to_ : StackState) (ns : List Nat) :
    (s.putStacks to_ ns).bootView = s.bootView ∧ (s.putStacks to_ ns).hbm.training = s.hbm.training := by
  induction ns generalizing s with
  | nil => exact ⟨rfl, rfl⟩
  | cons n ns ih => exact ih (s.setStack n { s.stack n with state := to_ })

theorem State.toSelfRefresh_bootView (s : State) (ns : List Nat) : (s.toSelfRefresh ns).bootView = s.bootView :=
  ((s.drainStacks ns).putStacks_rest .selfRefresh ns).1.trans (State.settleWc_bootView _ _)

theorem State.toSelfRefresh_training (s : State) (ns : List Nat) : (s.toSelfRefresh ns).hbm.training = ns := rfl

theorem State.startHppr_rest (s : State) (x : Nat) : (s.startHppr x).bootView = s.bootView ∧ (s.startHppr x).hbm.training = s.hbm.training := by
  unfold State.startHppr
  split_ifs <;> exact ⟨rfl, rfl⟩

theorem State.queuedHppr_rest (s : State) (ns : List Nat) : (s.queuedHppr ns).bootView = s.bootView ∧
    (s.queuedHppr ns).hbm.training = s.hbm.training := by
  unfold State.queuedHppr
  split
  · split_ifs
    · exact s.startHppr_rest _
    · exact ⟨rfl, rfl⟩
  · exact ⟨rfl, rfl⟩

theorem State.beginTraining_rest (s : State) : s.beginTraining.bootView = s.bootView ∧ s.beginTraining.hbm.training = s.hbm.training := by
  unfold State.beginTraining
  extract_lets ns u v
  split
  · exact ⟨rfl, rfl⟩
  · obtain ⟨hview, htrain⟩ := s.queuedHppr_rest ns
    obtain ⟨hput, hputTrain⟩ := u.putStacks_rest .training ns
    exact ⟨hput.trans hview, hputTrain.trans htrain⟩

/-- Training after cold BIST: every stack, in the phase of training, with the repair map as it stands. -/
theorem State.startTraining_rest (s : State) : s.startTraining.board.phase = .hbmTraining ∧ s.startTraining.hbm.training = List.range 16 ∧
    s.startTraining.rst.repair = s.rst.repair := by
  let v := (s.setTest (fun t => { t with phase := 0, heavy := false, found := [], refusedAt := none })).toPhase .hbmTraining
  obtain ⟨hview, htrain⟩ := (v.toSelfRefresh (List.range 16)).beginTraining_rest
  have hstart : s.startTraining = (v.toSelfRefresh (List.range 16)).beginTraining := rfl
  rw [State.toSelfRefresh_bootView] at hview
  simp only [State.bootView, Prod.mk.injEq] at hview
  obtain ⟨hboard, hrepair⟩ := hview
  rw [hstart]
  exact ⟨by rw [hboard]; simp [v], htrain.trans (v.toSelfRefresh_training _), by rw [hrepair]; simp [v]⟩

theorem State.bootFailed_rest (s : State) : s.bootFailed.board.phase = .notReady ∧ s.bootFailed.rst.fault = true ∧
    s.bootFailed.rst.ready = false := by simp [State.bootFailed]

/-! ### The test token (R456) -/

section
variable {s : State} (halive : s.alive = true)
include halive

theorem testTokenPulse_kept (hheavy : s.rst.test.heavy = true) :
    RunsTo .testTokenPulse s (s.setTest (fun t => { t with token := true, tokenSeen := s.local_ })) := by
  show execTestTokenPulse s = _
  simp [execTestTokenPulse, halive, State.takeToken, hheavy]

theorem testTokenPulse_passed (hheavy : s.rst.test.heavy = false) :
    RunsTo .testTokenPulse s (s.setTest (fun t => { t with token := false, tokenSeen := s.local_, pulses := t.pulses + 1 })) := by
  show execTestTokenPulse s = _
  simp [execTestTokenPulse, halive, State.takeToken, hheavy, State.passToken]
  rfl

theorem tokenRegenTimeout_runsTo (hslot : s.guy.slot = 0) (hheavy : s.rst.test.heavy = true) (htoken : s.rst.test.token = false)
    (hdue : max s.rst.test.tokenSeen s.rst.test.heavySince + 2000000000 ≤ s.local_) : RunsTo .tokenRegenTimeout s
      ((s.setTest (fun t => { t with token := true, tokenSeen := s.local_ })).raise 0x0D09 srcRst none
        [0, s.local_ - s.rst.test.tokenSeen, 0, 0]) := by
  show execTokenRegenTimeout s = _
  simp only [execTokenRegenTimeout, halive, hslot, hheavy, htoken, hdue.not_gt]
  simp [hslot]

/-! ### The conditions of a phase (R453, R457) -/

theorem testConditionCheck_met (hphase : s.rst.test.phase ≠ 0) (hrefused : s.rst.test.refusedAt = none) {x : TestConditions}
    (hlow : 720 ≤ x.vddMv) (hhigh : x.vddMv ≤ 780) (hclock : x.clockPpm ≤ 100) (hdep : s.rst.test.departures = s.cur.departures) :
    RunsTo (.testConditionCheck x) s s := by
  have hppm : ¬ (if s.time.state = .locked then 100 else 200) < x.clockPpm := by split <;> omega
  show execTestConditionCheck x s = _
  simp [execTestConditionCheck, halive, hphase, hrefused, hlow.not_gt, hhigh.not_gt, hppm, hdep]

theorem testConditionCheck_supply (hphase : s.rst.test.phase ≠ 0) (hrefused : s.rst.test.refusedAt = none) {x : TestConditions}
    (hsupply : x.vddMv < 720 ∨ 780 < x.vddMv) : RunsTo (.testConditionCheck x) s (s.refuseTest 1 x.vddMv x.clockPpm) := by
  show execTestConditionCheck x s = _
  simp [execTestConditionCheck, halive, hphase, hrefused, hsupply]

theorem coldBistRetry_runsTo {x : Nat} (hrefused : s.rst.test.refusedAt = some x) (hdue : x + 1000000000 ≤ s.local_) :
    RunsTo .coldBistRetry s (s.beginPhase s.rst.test.phase (s.rst.test.phase == 3)) := by
  show execColdBistRetry s = _
  simp [execColdBistRetry, halive, hrefused, hdue.not_gt]

/-! ### Batches (R455) -/

/-- The records that one core's result brings: its mapped rows, and a corrupt expected value. -/
def bistReported (s : State) (y : CoreBist) : State :=
  match y.result.verdict with
  | .romCorrupt w => (s.rowsFixed (srcCluster y.cluster.val) y.result.rows).romCorrupt (srcCluster y.cluster.val) 1 w
  | _ => s.rowsFixed (srcCluster y.cluster.val) y.result.rows

/-- What the end of a batch of cold BIST keeps of it: what it found; the token passed on, and the next batch. -/
def State.batchEnded (s : State) (x : List CoreBist) : State :=
  let s := (s.setTest (fun t => { t with found := t.found ++ x })).passToken
  s.setTest (fun t => { t with batch := t.batch + 1, heavy := decide (t.batch + 1 < 10), heavySince := s.local_ })

theorem bistBatchComplete_passed (hheavy : s.rst.test.heavy = true) (htoken : s.rst.test.token = true) (hrun : s.rst.test.run = none)
    {x : List CoreBist} (hx : ∀ y ∈ x, y.cluster.val % 80 / 8 = s.rst.test.batch ∧ y.result = ⟨.passed, []⟩ ∧
      (s.fusedCores y.cluster.val).contains y.core.val = false) : RunsTo (.bistBatchComplete x) s
    (s.setTest (fun t => { t with found := t.found ++ x, token := false, pulses := t.pulses + 1, batch := t.batch + 1
                                  heavy := decide (t.batch + 1 < 10), heavySince := s.local_ })) := by
  have hmine : x.filter (fun y => (coldBatch s.rst.test.batch).contains y.cluster.val &&
      !(s.fusedCores y.cluster.val).contains y.core.val) = x := by
    rw [List.filter_eq_self]
    intro y hy
    obtain ⟨hbatch, -, hfused⟩ := hx y hy
    rw [hfused]
    simp [coldBatch, hbatch]
  have hrows : x.foldl bistReported s = s := foldl_eq_self fun y hy => by
    obtain ⟨-, hresult, -⟩ := hx y hy
    simp [bistReported, hresult, State.rowsFixed]
  have hrow : exec (.bistBatchComplete x) s = .next ((x.foldl bistReported s).batchEnded x) := by
    show execBistBatchComplete x s = _
    simp only [execBistBatchComplete, halive, hheavy, htoken, hrun, hmine]
    rfl
  refine runsTo_of_next hrow ?_
  rw [hrows, State.batchEnded, State.passToken, if_pos (by exact htoken)]
  rfl

/-! ### The phases of cold BIST (R457) -/

section
variable (hrefused : s.rst.test.refusedAt = none)
include hrefused

theorem coldBistPhaseComplete_first (hphase : s.rst.test.phase = 1) (n : Nat) : RunsTo (.coldBistPhaseComplete ⟨n, [], []⟩) s
    ((s.setTest (fun t => { t with tested := t.tested + n })).beginPhase 2 false) := by
  show execColdBistPhaseComplete ⟨n, [], []⟩ s = _
  simp [execColdBistPhaseComplete, halive, hrefused, hphase, State.countTests]

theorem coldBistPhaseComplete_broken (hphase : s.rst.test.phase = 1) (n u : Nat) (l : List Nat) :
    Runs (.coldBistPhaseComplete ⟨n, u :: l, []⟩) s (fun t => t.board.phase = .notReady ∧ t.rst.fault = true ∧ t.rst.ready = false) := by
  refine runs_of_next (t := (s.countTests n (u :: l).length).coldDone.bootFailed) ?_ (State.bootFailed_rest _)
  show execColdBistPhaseComplete ⟨n, u :: l, []⟩ s = _
  simp [execColdBistPhaseComplete, halive, hrefused, hphase]

theorem coldBistPhaseComplete_second (hphase : s.rst.test.phase = 2) (n : Nat) : RunsTo (.coldBistPhaseComplete ⟨n, [], []⟩) s
    ((s.setTest (fun t => { t with tested := t.tested + n })).beginPhase 3 true) := by
  show execColdBistPhaseComplete ⟨n, [], []⟩ s = _
  simp [execColdBistPhaseComplete, halive, hrefused, hphase, State.countTests]

theorem coldBistPhaseComplete_third (hphase : s.rst.test.phase = 3) (hbatch : 10 ≤ s.rst.test.batch) (x : PhaseResult) :
    Runs (.coldBistPhaseComplete x) s (fun t =>
      t.rst.test.phase = 4 ∧ t.rst.test.found = s.rst.test.found ∧ t.rst.repair = s.rst.repair) := by
  refine runs_of_next (t := (s.countTests s.rst.test.found.length
    (s.rst.test.found.filter (fun y => bistFails y.result)).length).beginPhase 4 false) ?_ ⟨rfl, rfl, rfl⟩
  show execColdBistPhaseComplete x s = _
  simp [execColdBistPhaseComplete, halive, hrefused, hphase, hbatch.not_gt]

omit halive hrefused in
theorem State.haltedByFuses_repair (u : State) (c : Nat) : (u.haltedByFuses c).rst.repair = u.rst.repair := by
  unfold State.haltedByFuses
  split <;> simp

theorem coldBistPhaseComplete_fourth (hphase : s.rst.test.phase = 4) (hpassed : ∀ y ∈ s.rst.test.found, y.result = ⟨.passed, []⟩)
    (x : PhaseResult) : Runs (.coldBistPhaseComplete x) s (fun t =>
      t.board.phase = .hbmTraining ∧ t.hbm.training = List.range 16 ∧ t.rst.repair = s.rst.repair) := by
  have hmap : s.rst.test.found.foldl (fun u y => u.applyCore 2 y) s = s := by
    refine foldl_eq_self fun y hy => ?_
    simp [State.applyCore, hpassed y hy]
  let u := ((List.range Config.clusters).foldl State.haltedByFuses s).coldDone
  obtain ⟨hboot, htrain, hrepair⟩ := u.startTraining_rest
  refine runs_of_next (t := u.startTraining) ?_ ⟨hboot, htrain, ?_⟩
  · show execColdBistPhaseComplete x s = _
    simp [execColdBistPhaseComplete, halive, hrefused, hphase, hmap, u]
  · rw [hrepair]
    simp only [u, State.coldDone, State.raise_cur_rst_board_regs]
    exact foldl_view (view := fun u => u.rst.repair) (fun u c => u.haltedByFuses_repair c) _ s

end

/-! ### Rotation (R463, R464) -/

theorem rotationInterval_runsTo {c : ClusterNo} (hready : s.rst.ready = true) (hidle : (s.cluster c.val).state = .idle) :
    RunsTo (.rotationInterval c) s (s.rotateSwap c.val) := by
  show execRotationInterval c s = _
  simp [execRotationInterval, halive, hready, hidle]

/-- The test of the core aside counted as made, before its result is. -/
def State.asideTested (s : State) (c : Nat) : State :=
  match s.aside c with
  | some p => s.tested c p
  | none => s

omit halive in
theorem State.asideTested_rest (s : State) (c : Nat) : (s.asideTested c).rst.rotate = s.rst.rotate ∧
    (s.asideTested c).time = s.time := by
  unfold State.asideTested
  split <;> exact ⟨rfl, rfl⟩

theorem rotationTestComplete_passed {c : ClusterNo} (htesting : mget s.rst.rotate.testing c.val = some (s.cur.departures, s.cur.monitorsOut.length)) :
    RunsTo (.rotationTestComplete c ⟨.passed, []⟩) s
      (((((s.setRotate (fun r => { r with testing := mdel r.testing c.val })).asideTested c.val).setRotate
        (fun r => { r with passed := (s.rst.rotate.passed + 1) % 2 ^ 32 })).raise 0x0D01 srcRst none
          [3, 1, 0, s.local_ - mgetD s.rst.rotate.lastSwap c.val 0]).endSweep) := by
  let u := (s.setRotate (fun r => { r with testing := mdel r.testing c.val })).asideTested c.val
  have hrow : exec (.rotationTestComplete c ⟨.passed, []⟩) s = .next ((((u.setRotate
      (fun r => { r with passed := wrapAdd 32 r.passed 1 })).raise 0x0D01 srcRst none
        [3, 1, 0, u.local_ - mgetD s.rst.rotate.lastSwap c.val 0]).endSweep)) := by
    show execRotationTestComplete c ⟨.passed, []⟩ s = _
    simp only [execRotationTestComplete, halive, if_true, htesting, State.rowsFixed, List.foldl_nil, ne_eq, not_true_eq_false, if_false]
    rfl
  obtain ⟨hrotate, htime⟩ := (s.setRotate (fun r => { r with testing := mdel r.testing c.val })).asideTested_rest c.val
  refine runsTo_of_next hrow ?_
  have hlocal : u.local_ = s.local_ := congrArg TimeSt.localNs htime
  have hpassed : u.setRotate (fun r => { r with passed := wrapAdd 32 r.passed 1 }) =
      u.setRotate (fun r => { r with passed := (s.rst.rotate.passed + 1) % 2 ^ 32 }) := by
    simp only [State.setRotate, show u.rst.rotate = _ from hrotate]
    rfl
  rw [hlocal, hpassed]

end

/-! ### TEST_RUN and the repair map (R458, R460 to R462, R466) -/

section
variable {s : State} {q : CmdRef} {t : Taken}

theorem testRun_runs (h : Turn s q 0x0740 t) (hbusy : s.resetBusy = false) (hscope : fld t.packet 16 1 = 1)
    (hset : clusterSet t.packet 24 ≠ [])
    (hheld : ∀ c ∈ clusterSet t.packet 24, (s.cluster c).holder = some 0 ∧ (s.cluster c).state = .idle) : Runs (.testRun q) s (fun v =>
      v.rst.test.run = some ⟨q, 1, fld t.packet 18 2, fld t.packet 20 2, clusterSet t.packet 24, 0, 0, 0⟩ ∧ v.rst.test.phase = 5 ∧
        v.rst.test.heavy = true ∧ v.hbm = s.hbm) := by
  have hbusy' : (s.begin q).resetBusy = false := hbusy
  have hheld' : (clusterSet t.packet 24).any (fun c => ((s.begin q).cluster c).holder != some 0) = false := by
    simp only [List.any_eq_false]
    intro c hc
    simp [show ((s.begin q).cluster c).holder = some 0 from (hheld c hc).1]
  have hidle : (clusterSet t.packet 24).any (fun c => ((s.begin q).cluster c).state != .idle && ((s.begin q).cluster c).state != .gated &&
      ((s.begin q).cluster c).state != .outOfService) = false := by
    simp only [List.any_eq_false]
    intro c hc
    simp [show ((s.begin q).cluster c).state = .idle from (hheld c hc).2]
  refine runs_of_next (runsTo_perform rfl h (t := (((s.begin q).startTaken q).setTest (fun x => { x with
    since := s.local_
    run := some ⟨q, 1, fld t.packet 18 2, fld t.packet 20 2, clusterSet t.packet 24, 0, 0, 0⟩ })).beginPhase 5 true) ?_) ⟨rfl, rfl, rfl, rfl⟩
  refine (if_neg (Bool.eq_false_iff.mp hbusy')).trans ((if_pos hscope).trans ((if_neg (Bool.eq_false_iff.mp hheld')).trans
    ((if_neg (Bool.eq_false_iff.mp hidle)).trans ((if_neg (by simpa using hset)).trans ?_))))
  show (((s.begin q).startTaken q).setTest (fun x => { x with
    since := s.local_
    run := some ⟨q, fld t.packet 16 1, fld t.packet 18 2, fld t.packet 20 2, clusterSet t.packet 24, 0, 0, 0⟩ })).beginPhase 5 true = _
  rw [hscope]

theorem repairMapRead_runsTo (h : Turn s q 0x0741 t) {v : State}
    (hv : (s.begin q).writeVa q.ctx.val (fld t.packet 16 8) s.repairMap (.other false) 0 = (v, .ok ())) :
    RunsTo (.repairMapRead q) s (v.complete q stOk 20480 0) := runsTo_perform rfl h (cmdOutcome_ok hv)

/-! REPAIR_FUSE, where no cluster of its set has a corrupt entry in the map. -/

/-- The state in which REPAIR_FUSE acts: its turn has come, and the arming is spent. -/
def State.disarmed (s : State) (q : CmdRef) : State := { s.begin q with regs := mdel (s.begin q).regs rFuseArm }

/-- The cores of a cluster that are fenced and not yet fused. -/
def State.unburnt (s : State) (c : Nat) : Nat := (s.fencedCores c).length - (s.fusedCores c).length

/-- What REPAIR_FUSE does with a set of clusters whose entries have been met: it must be armed, and each must have room. -/
def State.fuseSet (s : State) (q : CmdRef) (armed : Bool) (set_ : List Nat) : State :=
  if !armed then s.complete q stFuseNotArmed 0 0
  else if set_.any (fun c => s.unburnt c != 0 && decide (4 < (s.fencedCores c).length)) then s.complete q stFuseFull 0 0
  else (set_.foldl State.burnCluster s).complete q stOk (set_.map s.unburnt).sum 0

section
variable (h : Turn s q 0x0742 t) (hmap : ∀ c ∈ clusterSet t.packet 24, mgetD s.rst.repair.fencedC c 0 = 0 ∧
  mgetD s.rst.repair.fusedC c 0 = 0 ∧ s.rst.repair.absent.contains c = false)
include h hmap

omit h in
theorem mapMets_of_sound : (clusterSet t.packet 24).foldl State.mapMet (s.disarmed q) = s.disarmed q :=
  foldl_eq_self fun c hc => by
    obtain ⟨hfenced, hfused, -⟩ := hmap c hc
    refine if_pos ?_
    show (mgetD s.rst.repair.fencedC c 0 == 0 && mgetD s.rst.repair.fusedC c 0 == 0 || s.rst.repair.absent.contains c) = true
    rw [hfenced, hfused]
    rfl

omit h in
theorem filter_present_of_sound : (clusterSet t.packet 24).filter (fun c => !(s.disarmed q).rst.repair.absent.contains c) =
    clusterSet t.packet 24 := by
  rw [List.filter_eq_self]
  intro c hc
  obtain ⟨-, -, habsent⟩ := hmap c hc
  show (!s.rst.repair.absent.contains c) = true
  rw [habsent]
  rfl

theorem repairFuse_runsTo : RunsTo (.repairFuse q) s
    ((s.disarmed q).fuseSet q (s.reg rFuseArm == (rwpPair 0x46555345).toNat) (clusterSet t.packet 24)) := by
  refine runsTo_perform rfl h ?_
  show ((clusterSet t.packet 24).foldl State.mapMet (s.disarmed q)).fuseSet q (s.reg rFuseArm == (rwpPair 0x46555345).toNat)
    ((clusterSet t.packet 24).filter (fun c =>
      !((clusterSet t.packet 24).foldl State.mapMet (s.disarmed q)).rst.repair.absent.contains c)) = _
  rw [mapMets_of_sound hmap, filter_present_of_sound hmap]

theorem repairFuse_unarmed (harm : s.reg rFuseArm ≠ (rwpPair 0x46555345).toNat) :
    RunsTo (.repairFuse q) s ((s.disarmed q).complete q stFuseNotArmed 0 0) :=
  runsTo_of_next (repairFuse_runsTo h hmap) (if_pos (by rw [beq_false_of_ne harm]; rfl))

theorem repairFuse_burns (harm : s.reg rFuseArm = (rwpPair 0x46555345).toNat)
    (hroom : ∀ c ∈ clusterSet t.packet 24, (s.fencedCores c).length ≤ 4) : RunsTo (.repairFuse q) s
      (((clusterSet t.packet 24).foldl State.burnCluster (s.disarmed q)).complete q stOk ((clusterSet t.packet 24).map s.unburnt).sum 0) := by
  have hfull : (clusterSet t.packet 24).any (fun c => (s.disarmed q).unburnt c != 0 &&
      decide (4 < ((s.disarmed q).fencedCores c).length)) = false := by
    simp only [List.any_eq_false]
    intro c hc
    have hle : ¬ 4 < ((s.disarmed q).fencedCores c).length := (hroom c hc).not_gt
    simp [hle]
  exact runsTo_of_next (repairFuse_runsTo h hmap) ((if_neg (by simp [harm])).trans (if_neg (Bool.eq_false_iff.mp hfull)))

end

end

/-- Settles O56, row by row. -/
theorem selfTest : Obligations.SelfTest := by
  intro s
  refine ⟨fun halive => ⟨testTokenPulse_kept halive, testTokenPulse_passed halive, tokenRegenTimeout_runsTo halive,
    fun hphase hrefused x => ⟨testConditionCheck_met halive hphase hrefused, testConditionCheck_supply halive hphase hrefused⟩,
    fun x => coldBistRetry_runsTo halive, fun hheavy htoken hrun x => bistBatchComplete_passed halive hheavy htoken hrun,
    fun hrefused => ⟨coldBistPhaseComplete_first halive hrefused, coldBistPhaseComplete_broken halive hrefused,
      coldBistPhaseComplete_second halive hrefused, coldBistPhaseComplete_third halive hrefused,
      fun hphase _ => coldBistPhaseComplete_fourth halive hrefused hphase⟩,
    fun c => rotationInterval_runsTo halive, fun c => ?_⟩,
    fun q t => ⟨testRun_runs, fun h v => repairMapRead_runsTo h, fun h hmap => ⟨repairFuse_unarmed h hmap, repairFuse_burns h hmap⟩⟩⟩
  exact rotationTestComplete_passed halive

end Sys2Proof.Machine
end

section
/-! Attestation (16_boot_and_identity.md R483 to R485) and the test access port (17_pins_and_power.md R508). -/

namespace Sys2Proof.Machine

/-! ### Requests in their sequence (R483) -/

section
variable {s : State} {t : Transport} (hreached : s.spdmReached t = true)
include hreached

theorem State.spdm_of_allowed (hl3 : s.rst.l3 = none) {allowed : SpdmConn → Bool} (h : allowed (s.spdmConn t) = true) (f : State → State) :
    s.spdm t allowed f = f s := by
  simp [State.spdm, hreached, hl3, h]

theorem State.spdm_of_early (hl3 : s.rst.l3 = none) {allowed : SpdmConn → Bool} (h : allowed (s.spdmConn t) = false) (f : State → State) :
    s.spdm t allowed f = s.spdmAnswer t .unexpected := by
  simp [State.spdm, hreached, hl3, h]

theorem State.spdm_of_l3 (hl3 : s.rst.l3.isSome = true) (allowed : SpdmConn → Bool) (f : State → State) :
    s.spdm t allowed f = s.spdmAnswer t .busy := by
  simp [State.spdm, hreached, hl3]

omit hreached in
/-- The rows of the sequence are requests that answer and leave the connection as they say. -/
theorem attestRows_exec {row : Instr × (SpdmConn → Bool) × SpdmConn × SpdmAnswer} (hrow : row ∈ attestRows t) :
    exec row.1 s = .next (s.spdm t row.2.1 (fun u => (u.setConn t row.2.2.1).spdmAnswer t row.2.2.2)) := by
  simp only [attestRows, List.mem_cons, List.not_mem_nil, or_false] at hrow
  rcases hrow with rfl | rfl | rfl <;> rfl

/-! ### Digests, certificates, challenges and measurements (R484, R485) -/

section
variable (hl3 : s.rst.l3 = none) (hconn : (s.spdmConn t).algorithms = true)
include hl3 hconn

theorem getDigests_runsTo : RunsTo (.getDigests t) s (s.spdmAnswer t
    (.digests [Config.sha384 (Config.certificateChain 0), Config.sha384 (Config.certificateChain 1)])) :=
  congrArg Host.Outcome.next (State.spdm_of_allowed hreached hl3 hconn _)

theorem getCertificate_runsTo {slot off : Nat} (len : Nat) (hslot : slot < 2) (hoff : off < (Config.certificateChain slot).length) :
    RunsTo (.getCertificate t slot off len) s (s.spdmAnswer t (.certificate (((Config.certificateChain slot).drop off).take len)
      ((Config.certificateChain slot).length - off - (((Config.certificateChain slot).drop off).take len).length))) :=
  congrArg Host.Outcome.next ((State.spdm_of_allowed hreached hl3 hconn _).trans (if_neg (by omega)))

/-- The body that both signatures of a challenge's answer are over. -/
def State.challengeBody (s : State) (slot : Nat) (nonce : List Byte) : List Byte :=
  leBytes 48 (Config.sha384 (Config.certificateChain slot)).toNat ++ s.nonce.1 ++ nonce

theorem challenge_runsTo {slot : Nat} (nonce : List Byte) (hslot : slot < 2) : RunsTo (.challenge t slot nonce) s (s.nonce.2.spdmAnswer t
    (.challenge slot (s.challengeBody slot nonce) (Config.ed25519Sign (s.challengeBody slot nonce))
      (Config.mldsaSign (s.challengeBody slot nonce)))) :=
  congrArg Host.Outcome.next ((State.spdm_of_allowed hreached hl3 hconn _).trans (if_neg (by omega)))

/-- Some measurements, signed with a nonce of the responder's own. -/
def State.answerMeasured (s : State) (t : Transport) (l : List Nat) (nonce : List Byte) : State :=
  let blocks := l.map (fun i => (i, s.measurement i))
  let body := blocks.flatMap (fun b => BitVec.ofNat 8 b.1 :: b.2) ++ s.nonce.1 ++ nonce
  s.nonce.2.spdmAnswer t (.measurements blocks (Config.ed25519Sign body) (Config.mldsaSign body))

theorem getMeasurements_one {index : Nat} (nonce : List Byte) (hlow : 1 ≤ index) (hhigh : index ≤ 5) :
    RunsTo (.getMeasurements t index nonce) s (s.answerMeasured t [index] nonce) := by
  refine congrArg Host.Outcome.next ((State.spdm_of_allowed hreached hl3 hconn _).trans ?_)
  simp only [show index ≠ 0 by omega, show index ≠ 0xFF by omega, hhigh, if_true, if_false]
  rfl

theorem getMeasurements_all (nonce : List Byte) : RunsTo (.getMeasurements t 0xFF nonce) s (s.answerMeasured t [1, 2, 3, 4, 5] nonce) :=
  congrArg Host.Outcome.next ((State.spdm_of_allowed hreached hl3 hconn _).trans rfl)

end

end

/-! ### The test access port (R508) -/

theorem TapSt.act_state (x : TapSt) (p : BootPhase) (tdi f : Bool) : (x.act p tdi f).state = x.state := by
  unfold TapSt.act
  dsimp only
  split <;> simp [apply_ite TapSt.state]

/-- Outside ROM and WAIT_IMAGE no instruction takes a land. -/
theorem TapSt.acting_of_left (x : TapSt) {p : BootPhase} (hrom : p ≠ .rom) (hwait : p ≠ .waitImage) : (x.acting p).takesLands = false := by
  unfold TapSt.acting
  split
  · rfl
  · next h => simpa [hrom, hwait] using h

/-- The port after one cycle of TCK, but for the lands. -/
def TapSt.clocked (x : TapSt) (p : BootPhase) (o : TapStep) (f : Bool) : TapSt :=
  if !o.trstN then .reset
  else
    let y := x.act p o.tdi f
    let y := { y with state := y.state.next o.tms }
    if y.state = .testLogicReset then { y with instr := .bypass } else y

section
variable (x : TapSt) (p : BootPhase) (o : TapStep) (f : Bool)

theorem TapSt.clocked_of_reset (h : o.trstN = false) : x.clocked p o f = .reset := by simp [TapSt.clocked, h]

theorem TapSt.clocked_state (h : o.trstN = true) : (x.clocked p o f).state = x.state.next o.tms := by
  simp only [TapSt.clocked, h, TapSt.act_state]
  split
  · contradiction
  · split <;> rfl

theorem TapSt.clocked_shiftDr (h : o.trstN = true) (hshift : x.state = .shiftDr) (hboundary : (x.acting p).boundary = false) :
    (x.clocked p o f).tdo = some x.bypass ∧ (x.clocked p o f).bypass = o.tdi := by
  have hact : x.act p o.tdi f = { x with bypass := o.tdi, tdo := some x.bypass } := by simp [TapSt.act, hshift, hboundary]
  simp only [TapSt.clocked, h, hact]
  split
  · contradiction
  · split <;> exact ⟨rfl, rfl⟩

end

theorem tapOperation_runs {s : State} (halive : s.alive = true) (x : TapStep) : Runs (.tapOperation x) s (fun u =>
    (x.trstN = false → u.board.tap.state = .testLogicReset ∧ u.board.tap.instr = .bypass) ∧
    (x.trstN = true → u.board.tap.state = s.board.tap.state.next x.tms) ∧
    (s.board.phase ≠ .rom → s.board.phase ≠ .waitImage → u.board.tap.lands = false) ∧
    (s.board.tap.state = .shiftDr → x.trstN = true → (s.board.tap.acting s.board.phase).boundary = false →
      u.board.tap.tdo = some s.board.tap.bypass ∧ u.board.tap.bypass = x.tdi) ∧
    u.hbm = s.hbm ∧ u.eng = s.eng ∧ u.host = s.host) := by
  let y := s.board.tap.clocked s.board.phase x (s.free.1.getLsbD 0)
  refine runs_of_next (t := s.free.2.setBoard (fun b => { b with tap := { y with lands := (y.acting s.board.phase).takesLands } })) ?_
    ⟨fun hreset => ?_, fun hclock => ?_, fun hrom hwait => ?_, fun hshift hclock hboundary => ?_, rfl, rfl, rfl⟩
  · show execTapOperation x s = _
    simp only [execTapOperation, halive]
    rfl
  · have hy : y = .reset := TapSt.clocked_of_reset _ _ _ _ hreset
    show y.state = _ ∧ y.instr = _
    rw [hy]
    exact ⟨rfl, rfl⟩
  · exact TapSt.clocked_state _ _ _ _ hclock
  · exact TapSt.acting_of_left y hrom hwait
  · exact TapSt.clocked_shiftDr _ _ _ _ hclock hshift hboundary

/-- Settles O46, row by row. -/
theorem attestationAndTap : Obligations.AttestationAndTap := by
  intro s
  refine ⟨fun t hreached hl3 => ⟨fun row hrow => ⟨fun h => ?_, fun h => ?_⟩, fun hconn => ⟨getDigests_runsTo hreached hl3 hconn,
    fun slot off len => getCertificate_runsTo hreached hl3 hconn len,
    fun slot nonce hslot => runs_of_next (challenge_runsTo hreached hl3 hconn nonce hslot) ⟨_, rfl, rfl, rfl⟩,
    fun index nonce hlow hhigh => runs_of_next (getMeasurements_one hreached hl3 hconn nonce hlow hhigh) ⟨_, _, rfl, rfl, rfl⟩,
    fun nonce => runs_of_next (getMeasurements_all hreached hl3 hconn nonce) ⟨_, _, rfl⟩⟩⟩,
    fun t hreached hl3 row hrow => ?_, tapOperation_runs⟩
  · exact runsTo_of_next (attestRows_exec hrow) (State.spdm_of_allowed hreached hl3 h _)
  · exact runsTo_of_next (attestRows_exec hrow) (State.spdm_of_early hreached hl3 h _)
  · exact runsTo_of_next (attestRows_exec hrow) (State.spdm_of_l3 hreached hl3 _ _)

end Sys2Proof.Machine
end

section
/-! The firmware image and the configuration (16_boot_and_identity.md R469 to R478): what their checks read, and what a commit leaves. -/

namespace Sys2Proof.Machine

/-! ### What the checks read (R471, R472, R476) -/

/-- The bytes of the stacks as a reader finds them: the memory, what is undefined in it, and the damaged lines. -/
def HbmSt.content (h : HbmSt) : Mem × List Undef × Map Nat := (h.mem, h.undef, h.damaged)

section
variable {h k : HbmSt} (hcontent : h.content = k.content)
include hcontent

theorem HbmSt.byte_congr (a : Nat) : h.byte a = k.byte a := by
  simp only [HbmSt.content, Prod.mk.injEq] at hcontent
  obtain ⟨hmem, hundef, -⟩ := hcontent
  simp only [HbmSt.byte, hmem, hundef]

theorem HbmSt.peek_congr (a n : Nat) : h.peek a n = k.peek a n := by
  induction n generalizing a with
  | zero => rfl
  | succ n ih => rw [HbmSt.peek, HbmSt.peek, ih, HbmSt.byte_congr hcontent]

theorem HbmSt.damagedIn_congr (lo n : Nat) : h.damagedIn lo n = k.damagedIn lo n := by
  simp only [HbmSt.content, Prod.mk.injEq] at hcontent
  obtain ⟨-, -, hdamaged⟩ := hcontent
  simp only [HbmSt.damagedIn, hdamaged]

end

section
variable {s t : State} (hcontent : t.hbm.content = s.hbm.content)
include hcontent

theorem State.checkImage_congr (hkeys : t.board.keySlots = s.board.keySlots) (hrollback : t.board.rollback = s.board.rollback) (base : Nat) :
    t.checkImage base = s.checkImage base := by
  simp only [State.checkImage, HbmSt.peek_congr hcontent, HbmSt.damagedIn_congr hcontent, hkeys, hrollback]

theorem State.configFault_congr (hgeneration : t.board.generation = s.board.generation) (hslot : t.guy.slot = s.guy.slot) :
    t.configFault = s.configFault := by
  simp only [State.configFault, State.stagedConfig, HbmSt.peek_congr hcontent, HbmSt.damagedIn_congr hcontent, hgeneration, hslot]

omit hcontent in
theorem State.commitMoves_congr (hhbm : t.hbm = s.hbm) (hguy : t.guy = s.guy) : t.commitMoves = s.commitMoves := by
  simp only [State.commitMoves, State.stagedConfig, State.port, hhbm, hguy]

end

/-! ### What a commit leaves (R477, R478) -/

/-- What the end of a command and a port's change of mode leave: the board and whether the Askax is ready. -/
def State.serviceView (s : State) : BoardSt × Bool := (s.board, s.rst.ready)

section
variable (s : State)

theorem State.raise_serviceView (code src : Nat) (ctx : Option Nat) (args : List Nat) :
    (s.raise code src ctx args).serviceView = s.serviceView := by simp [State.serviceView]

theorem State.toHost_serviceView (o : HostOut) : (s.toHost o).serviceView = s.serviceView := by
  unfold State.toHost
  split <;> rfl

theorem State.signalVector_serviceView (v : Nat) : (s.signalVector v).serviceView = s.serviceView := by
  rw [show s.signalVector v = _ from s.signalVector_onlyEvents v]
  rfl

theorem State.signalRing_serviceView (ctx ring : Nat) : (s.signalRing ctx ring).serviceView = s.serviceView := by
  unfold State.signalRing
  split
  · rfl
  · exact State.signalVector_serviceView _ _

theorem State.faultRing_serviceView (ctx ring status seq : Nat) : (s.faultRing ctx ring status seq).serviceView = s.serviceView := by
  unfold State.faultRing
  split
  · exact State.raise_serviceView _ _ _ _ _
  · rfl

theorem State.cpProgress_serviceView (ctx ring : Nat) : (s.cpProgress ctx ring).serviceView = s.serviceView := rfl
theorem State.setRing_serviceView (ctx ring : Nat) (r : Ring) : (s.setRing ctx ring r).serviceView = s.serviceView := rfl

theorem State.writeRecord_serviceView (ctx ring seq status r0 r1 : Nat) (irq : Bool) :
    (s.writeRecord ctx ring seq status r0 r1 irq).serviceView = s.serviceView := by
  unfold State.writeRecord
  split
  · rfl
  · dsimp only
    split_ifs <;> simp only [State.faultRing_serviceView, State.signalRing_serviceView, State.cpProgress_serviceView,
      State.toHost_serviceView, State.setRing_serviceView]

theorem State.complete_serviceView (q : CmdRef) (status r0 r1 : Nat) : (s.complete q status r0 r1).serviceView = s.serviceView := by
  unfold State.complete
  split
  · rfl
  · rw [State.writeRecord_serviceView, stallOff_eq]
    rfl

/-- A port's change of mode changes ports, but for its event. -/
theorem State.portMode_serviceView (p mode : Nat) : (s.portMode p mode).serviceView = s.serviceView ∧ (s.portMode p mode).hbm = s.hbm := by
  unfold State.portMode State.portDown
  dsimp only
  split_ifs <;> simp [State.serviceView]

/-- Every port in the mode that a configuration gives it. -/
def State.portModes (c : List Byte) : State := (List.range 12).foldl (fun u p => u.portMode p (cfgMode c u.guy.slot p)) s

theorem State.portModes_rest (c : List Byte) : (s.portModes c).serviceView = s.serviceView ∧ (s.portModes c).hbm = s.hbm :=
  Prod.mk.inj (foldl_view (view := fun u => (u.serviceView, u.hbm)) (fun u p => by
    obtain ⟨hview, hhbm⟩ := u.portMode_serviceView p (cfgMode c u.guy.slot p)
    rw [hview, hhbm]) _ s)

/-- A configuration applied: the board has it, and the stacks and the readiness are left. -/
theorem State.applyConfig_rest (fw : Bool) :
    (s.applyConfig fw).board = { s.board with config := s.stagedConfig, generation := cfgGeneration s.stagedConfig } ∧
      (s.applyConfig fw).rst.ready = s.rst.ready ∧ (s.applyConfig fw).hbm = s.hbm := by
  unfold State.applyConfig
  extract_lets c old u v plans oldBoard w
  obtain ⟨hview, hhbm⟩ := u.portModes_rest c
  rw [← show v = u.portModes c from rfl] at hview hhbm
  clear_value v
  simp only [State.serviceView, Prod.mk.injEq] at hview
  obtain ⟨hboard, hready⟩ := hview
  simp only [State.raise_cur_rst_board_regs, State.raise_none_hbm_ctxs]
  refine ⟨?_, hready, hhbm⟩
  show ({ v.board with config := c, generation := cfgGeneration c } : BoardSt) = _
  rw [hboard]

theorem State.releaseStage_rest : s.releaseStage.board = { s.board with heldStage := s.releaseStage.board.heldStage } ∧
    s.releaseStage.rst = s.rst := by
  unfold State.releaseStage
  split <;> exact ⟨rfl, rfl⟩

end

/-! ### Staging (R469, R479) -/

section
variable {s : State} {q : CmdRef} {t : Taken}

theorem fwStage_runsTo (h : Turn s q 0x0770 t)
    (hready : (s.begin q).hbm.stacksReady [(stagingBase + fld t.packet 24 4, fld t.packet 28 4)] = true) {v : State} {b : List Byte}
    (hv : (s.begin q).readVa q.ctx.val (fld t.packet 16 8) (fld t.packet 28 4) (.other false) true 0 = (v, .ok b)) : RunsTo (.fwStage q) s
      (({ v with hbm := v.hbm.writeLines (stagingBase + fld t.packet 24 4) b } : State).complete q stOk (fld t.packet 28 4) 0) :=
  runsTo_perform rfl h ((if_pos hready).trans (cmdOutcome_ok hv))

theorem cfgStage_runsTo (h : Turn s q 0x0771 t) (hready : (s.begin q).hbm.stacksReady [(stagingConfig, 4096)] = true) {v : State}
    {b : List Byte} (hv : (s.begin q).readVa q.ctx.val (fld t.packet 16 8) 4096 (.other false) true 0 = (v, .ok b)) : RunsTo (.cfgStage q) s
      (({ v with hbm := v.hbm.writeLines stagingConfig b } : State).complete q stOk 4096 0) :=
  runsTo_perform rfl h ((if_pos hready).trans (cmdOutcome_ok hv))

/-! ### CFG_COMMIT (R473, R477, R478) -/

section
variable (h : Turn s q 0x0772 t) (hl2 : s.rst.l2 = []) (hl3 : s.rst.l3 = none) (halone : ∀ x ∈ s.host.taken, x.q = q)
include h hl2 hl3 halone

/-- Alone, and under no reset of L2 or above, the command commits. -/
theorem cfgCommit_runsTo {u : State} (hu : (s.begin q).commit q ((fld t.packet 16 4).testBit 0) = u) :
    RunsTo (.cfgCommit q) s u.releaseStage := by
  have hnone : (s.begin q).host.taken.any (fun x => x.q != q) = false := by
    rw [State.begin_taken_any s q (fun r => r != q), List.any_eq_false]
    intro x hx
    simp [halone x hx]
  refine runsTo_perform rfl h ((if_neg ?_).trans ((if_neg (Bool.eq_false_iff.mp hnone)).trans (congrArg State.releaseStage hu)))
  show ¬ (!s.rst.l2.isEmpty || s.rst.l3.isSome) = true
  simp [hl2, hl3]

end

section
variable (s q)

theorem State.commit_of_refused {fw : Bool} {cause : Nat} {i : ImageInfo} (hfw : fw = true) (hcheck : s.checkImage stagingBase = (cause, i))
    (hcause : cause ≠ 0) : s.commit q fw = (s.refuseImage stagingBase cause i).complete q stFwRefused 0 cause := by
  simp [State.commit, hfw, hcheck, hcause]

theorem State.commit_of_fault {o : Nat} (hfault : s.configFault = some o) :
    s.commit q false = (s.refuseConfig o).complete q stCfgInvalid 0 o := by
  simp [State.commit, hfault]

theorem State.commit_of_moves (hfault : s.configFault = none) (hmoves : s.commitMoves = true) (hctx : ∃ c ∈ s.host.ctxs, c.1 ≠ 0) :
    s.commit q false = s.complete q stCfgBusy 0 0 := by
  have hany : s.host.ctxs.any (fun c => c.1 != 0) = true := by simpa using hctx
  simp [State.commit, hfault, hmoves, hany]

theorem State.commit_of_passed (hfault : s.configFault = none) (hstays : s.commitMoves = false ∨ ∀ c ∈ s.host.ctxs, c.1 = 0) :
    s.commit q false = (s.applyConfig false).complete q stOk (s.applyConfig false).board.generation 0 := by
  have hmay : (s.commitMoves && s.host.ctxs.any (fun c => c.1 != 0)) = false := by
    rcases hstays with hmoves | hctxs
    · rw [hmoves, Bool.false_and]
    · rw [List.any_eq_false.mpr (fun c hc => by simp [hctxs c hc]), Bool.and_false]
  simp only [State.commit, Bool.false_and, hfault, hmay]
  rfl

end

/-- The state of a commit with firmware that passes: the image active, its restart begun, the configuration applied. -/
def State.committed (s : State) (i : ImageInfo) : State :=
  ((s.activateImage i).setBoard (fun b => { b with restart := some s.local_ })).applyConfig true

theorem State.commit_of_image (s : State) (q : CmdRef) {i : ImageInfo} (hcheck : s.checkImage stagingBase = (0, i)) (hfault : s.configFault = none)
    (hctxs : ∀ c ∈ s.host.ctxs, c.1 = 0) : s.commit q true = (s.committed i).complete q stOk (s.committed i).board.generation 0 := by
  have hmay : s.host.ctxs.any (fun c => c.1 != 0) = false := List.any_eq_false.mpr (fun c hc => by simp [hctxs c hc])
  simp only [State.commit, hcheck, hfault, hmay, Bool.and_false]
  rfl

/-- The end of a commit with firmware leaves its version in force and its restart begun. -/
theorem State.committed_ends (s : State) (q : CmdRef) (i : ImageInfo) (r0 : Nat) :
    let u := ((s.committed i).complete q stOk r0 0).releaseStage
    u.board.restart = some s.local_ ∧ u.board.version = i.version ∧ u.board.svn = i.svn ∧ u.rst.ready = s.rst.ready := by
  obtain ⟨hboard, hready, -⟩ := ((s.activateImage i).setBoard (fun b => { b with restart := some s.local_ })).applyConfig_rest true
  have hdone := (s.committed i).complete_serviceView q stOk r0 0
  simp only [State.serviceView, Prod.mk.injEq] at hdone
  obtain ⟨hdoneBoard, hdoneReady⟩ := hdone
  obtain ⟨hstage, hrst⟩ := ((s.committed i).complete q stOk r0 0).releaseStage_rest
  dsimp only
  rw [hstage, hrst, hdoneReady, hdoneBoard, State.committed, hboard, hready]
  exact ⟨rfl, rfl, rfl, rfl⟩

end

/-- Settles O45, row by row. -/
theorem stageAndCommit : Obligations.StageAndCommit := by
  intro s q t
  have hmovesSame : (s.begin q).commitMoves = s.commitMoves := State.commitMoves_congr rfl rfl
  have hfaultSame : (s.begin q).configFault = s.configFault := State.configFault_congr rfl rfl rfl
  have hcheckSame : (s.begin q).checkImage stagingBase = s.checkImage stagingBase := State.checkImage_congr rfl rfl rfl stagingBase
  refine ⟨fun h hready v b => fwStage_runsTo h hready, fun h hready v b => cfgStage_runsTo h hready, fun h hl2 hl3 halone =>
    ⟨fun hplain => ⟨fun o hfault => ?_, fun hfault hstays => ?_, fun hfault hmoves hctx => ?_⟩,
     fun hfw cause i hcheck => ⟨fun hcause => ?_, fun hcause hfault hctxs => ?_⟩⟩⟩
  · exact cfgCommit_runsTo h hl2 hl3 halone (by rw [hplain]; exact (s.begin q).commit_of_fault q (hfaultSame.trans hfault))
  · exact cfgCommit_runsTo h hl2 hl3 halone (by
      rw [hplain]; exact (s.begin q).commit_of_passed q (hfaultSame.trans hfault) (by rw [hmovesSame]; exact hstays))
  · exact cfgCommit_runsTo h hl2 hl3 halone (by
      rw [hplain]; exact (s.begin q).commit_of_moves q (hfaultSame.trans hfault) (hmovesSame.trans hmoves) hctx)
  · exact cfgCommit_runsTo h hl2 hl3 halone ((s.begin q).commit_of_refused q hfw (hcheckSame.trans hcheck) hcause)
  · subst hcause
    exact runs_of_next (cfgCommit_runsTo h hl2 hl3 halone (by
      rw [hfw]; exact (s.begin q).commit_of_image q (hcheckSame.trans hcheck) (hfaultSame.trans hfault) hctxs))
      ((s.begin q).committed_ends q i _)

end Sys2Proof.Machine
end

section
/-! Power, boot and the start of service (16_boot_and_identity.md R469 to R481; 17_pins_and_power.md R499). -/

namespace Sys2Proof.Machine

@[simp] theorem State.raise_guy_simp (s : State) (code src : Nat) (ctx : Option Nat) (args : List Nat) :
    (s.raise code src ctx args).guy = s.guy := by
  rw [s.raise_onlyEvents code src ctx args]

@[simp] theorem State.toPhase_guy (s : State) (p : BootPhase) : (s.toPhase p).guy = s.guy := by
  unfold State.toPhase
  dsimp only
  split <;> simp

/-! ### Power (R434, R499) -/

/-- What the repair map is no part of, as power good sets it. -/
def State.powerView (s : State) : BoardSt × HbmSt × GuySt × Bool := (s.board, s.hbm, s.guy, s.rst.ready)

section
variable (s : State)

/-- The repair map made from the fuses is all that it changes. -/
theorem State.mapFromFuses_rest : s.mapFromFuses.board = s.board ∧ s.mapFromFuses.hbm = s.hbm ∧ s.mapFromFuses.guy = s.guy ∧
    s.mapFromFuses.rst.ready = s.rst.ready := by
  have hview : s.mapFromFuses.powerView = s.powerView := by
    refine foldl_view (view := State.powerView) (fun u c => ?_) _ _
    split
    · rfl
    · split <;> rfl
  simpa only [State.powerView, Prod.mk.injEq] using hview

theorem State.tryPatch_rest (x : PatchFound) : (s.tryPatch x).board = { s.board with patch := (s.tryPatch x).board.patch } ∧
    (s.tryPatch x).hbm = s.hbm ∧ (s.tryPatch x).guy = s.guy ∧ (s.tryPatch x).rst = s.rst := by
  unfold State.tryPatch
  dsimp only
  split <;> simp

theorem State.takeToken_rest : s.takeToken.board = s.board ∧ s.takeToken.hbm = s.hbm ∧ s.takeToken.guy = s.guy ∧
    s.takeToken.rst.ready = s.rst.ready := by
  unfold State.takeToken State.passToken
  dsimp only
  split_ifs <;> exact ⟨rfl, rfl, rfl, rfl⟩

end

theorem pwrGoodFall_runsTo {s : State} (hpower : s.board.pwrGood = true) : RunsTo .pwrGoodFall s s.powerCycled := by
  show execPwrGoodFall s = _
  rw [execPwrGoodFall, if_pos hpower]

/-- The package at power good, before it looks for its patch. -/
def State.powered (s : State) (straps : BitVec 3) : State :=
  let u := s.powerCycled.setBoard (fun b => { b with pwrGood := true, straps := straps.toNat })
  ({ u with guy := { u.guy with slot := straps.toNat } } : State).mapFromFuses

theorem State.powered_rest (s : State) (straps : BitVec 3) :
    (s.powered straps).board = { s.powerCycled.board with pwrGood := true, straps := straps.toNat } ∧
    (s.powered straps).hbm = s.powerCycled.hbm ∧ (s.powered straps).guy.slot = straps.toNat ∧ (s.powered straps).rst.ready = false := by
  unfold State.powered
  extract_lets u
  obtain ⟨hboard, hhbm, hguy, hready⟩ := ({ u with guy := { u.guy with slot := straps.toNat } } : State).mapFromFuses_rest
  rw [hboard, hhbm, hguy, hready]
  exact ⟨rfl, rfl, rfl, rfl⟩

theorem pwrGoodRise_runs {s : State} (hoff : s.board.pwrGood = false) (straps : BitVec 3) (patch : PatchFound) :
    Runs (.pwrGoodRise straps patch) s (fun t => t.board.pwrGood = true ∧ t.board.straps = straps.toNat ∧ t.guy.slot = straps.toNat ∧
      t.board.phase = .rom ∧ t.board.rollback = s.board.rollback ∧ t.hbm = s.powerCycled.hbm ∧ t.rst.ready = false) := by
  let u := (s.powered straps).tryPatch patch
  have hrow : exec (.pwrGoodRise straps patch) s = .next (if straps.toNat = 0 then u.takeToken else u) := by
    show execPwrGoodRise straps patch s = _
    simp only [execPwrGoodRise, hoff]
    rfl
  obtain ⟨hboard, hhbm, hslot, hready⟩ := s.powered_rest straps
  obtain ⟨hpatch, hpatchHbm, hpatchGuy, hpatchRst⟩ := (s.powered straps).tryPatch_rest patch
  have hend : (if straps.toNat = 0 then u.takeToken else u).powerView = u.powerView := by
    split
    · obtain ⟨hboard, hhbm, hguy, hready⟩ := u.takeToken_rest
      simp only [State.powerView, hboard, hhbm, hguy, hready]
    · rfl
  simp only [State.powerView, Prod.mk.injEq] at hend
  obtain ⟨hendBoard, hendHbm, hendGuy, hendReady⟩ := hend
  refine runs_of_next hrow ?_
  rw [hendBoard, hendHbm, hendGuy, hendReady, hpatchHbm, hpatchGuy, hpatchRst, hhbm, hslot, hready, hpatch, hboard]
  exact ⟨rfl, rfl, rfl, rfl, rfl, rfl, rfl⟩

/-! ### The boot ROM (R470, R473, R480) -/

section
variable {s : State} (halive : s.alive = true)
include halive

theorem bootBringupComplete_first (hrom : s.board.phase = .rom) :
    RunsTo .bootBringupComplete s ((s.setBoard (fun b => { b with functionReady := true })).toPhase .waitImage) := by
  show execBootBringupComplete s = _
  simp [execBootBringupComplete, halive, hrom]

theorem bootBringupComplete_relane (hwait : s.board.phase = .waitImage) :
    RunsTo .bootBringupComplete s (s.setBoard (fun b => { b with relane := false })) := by
  show execBootBringupComplete s = _
  simp [execBootBringupComplete, halive, hwait]

theorem processorRestartComplete_runsTo {x : Nat} (hrestart : s.board.restart = some x) : RunsTo .processorRestartComplete s
    (({ s with board := { s.board with restart := none } } : State).raise 0x0E03 srcBoot none [s.board.version, s.board.svn, 2, s.local_ - x]) := by
  show execProcessorRestartComplete s = _
  simp only [execProcessorRestartComplete, halive, if_true, hrestart]
  rfl

end

/-! ### The staging window (R469, R479) -/

section
variable {s : State} (hup : s.hostUp = true) (hready : s.board.functionReady = true)
include hup hready

section
variable {off : BitVec 15} {data : List Byte} (hpage : bits (s.reg rStageOffset) 25 15 < 1792) (hfits : off.toNat + data.length ≤ 32768)
include hpage hfits

theorem glbStageWindowWrite_runsTo : RunsTo (.glbStageWindowWrite off data) s
    (if s.committing then s.setBoard (fun b => { b with
      heldStage := b.heldStage ++ [(stagingBase + 32768 * bits (s.reg rStageOffset) 25 15 + off.toNat, data)] })
    else { s with hbm := s.hbm.poke (stagingBase + 32768 * bits (s.reg rStageOffset) 25 15 + off.toNat) data }) := by
  have hmin : min 1792 (bits (s.reg rStageOffset) 25 15) = bits (s.reg rStageOffset) 25 15 := Nat.min_eq_right hpage.le
  have htake : data.take (32768 - off.toNat) = data := List.take_of_length_le (by omega)
  show execGlbStageWindowWrite off data s = _
  simp [execGlbStageWindowWrite, hup, hready, hmin, hpage.ne, htake]

theorem glbStageWindowWrite_through (hfree : ∀ c ∈ s.host.taken, c.opcode ≠ 0x0772) : RunsTo (.glbStageWindowWrite off data) s
    { s with hbm := s.hbm.poke (stagingBase + 32768 * bits (s.reg rStageOffset) 25 15 + off.toNat) data } := by
  have hcommit : s.committing = false := by simpa [State.committing] using hfree
  exact runsTo_of_next (glbStageWindowWrite_runsTo hup hready hpage hfits) (by rw [hcommit]; rfl)

theorem glbStageWindowWrite_held (hbusy : ∃ c ∈ s.host.taken, c.opcode = 0x0772) : RunsTo (.glbStageWindowWrite off data) s
    { s with board := { s.board with
      heldStage := s.board.heldStage ++ [(stagingBase + 32768 * bits (s.reg rStageOffset) 25 15 + off.toNat, data)] } } := by
  have hcommit : s.committing = true := by simpa [State.committing] using hbusy
  exact runsTo_of_next (glbStageWindowWrite_runsTo hup hready hpage hfits) (by rw [hcommit]; rfl)

end

/-! ### GO (R471 to R473, R477) -/

theorem glbStageGo_runsTo {v : RegValue} (hv : Matched v 1) (hwait : s.board.phase = .waitImage) (hrelane : s.board.relane = false) :
    RunsTo (.glbStageGo v) s (s.setReg rStageGo (rwpPair 1)).go := by
  show execGlbStageGo v s = _
  simp only [execGlbStageGo, hup, hready, State.rwp_of_matched s rStageGo hv]
  simp [State.setReg, hwait, hrelane]

end

section
variable (s : State)

/-- The state in which GO checks what is staged. -/
def State.checking (s : State) : State := (s.setBoard (fun b => { b with goSince := s.local_ })).toPhase .checking

theorem State.checking_rest : s.checking.board = { s.board with goSince := s.local_, phase := .checking } ∧ s.checking.hbm = s.hbm ∧
    s.checking.guy = s.guy := by
  obtain ⟨hboard, -, hhbm, -⟩ := (s.setBoard (fun b => { b with goSince := s.local_ })).toPhase_rest .checking
  exact ⟨hboard, hhbm, State.toPhase_guy _ _⟩

theorem State.checkImage_checking (base : Nat) : s.checking.checkImage base = s.checkImage base := by
  obtain ⟨hboard, hhbm, -⟩ := s.checking_rest
  exact State.checkImage_congr (congrArg HbmSt.content hhbm) (by rw [hboard]) (by rw [hboard]) base

theorem State.configFault_checking : s.checking.configFault = s.configFault := by
  obtain ⟨hboard, hhbm, hguy⟩ := s.checking_rest
  exact State.configFault_congr (congrArg HbmSt.content hhbm) (by rw [hboard]) (congrArg GuySt.slot hguy)

/-- A line reported by the ROM leaves the board and the memory. -/
theorem State.reportUnread_rest (base n : Nat) : (s.reportUnread base n).board = s.board ∧ (s.reportUnread base n).hbm.mem = s.hbm.mem := by
  unfold State.reportUnread
  split
  · simp [State.uncorrectable]
  · exact ⟨rfl, rfl⟩

theorem State.refuseImage_rest (base cause : Nat) (i : ImageInfo) : (s.refuseImage base cause i).board = { s.board with refuseCause := cause } ∧
    (s.refuseImage base cause i).hbm.mem = s.hbm.mem := by
  unfold State.refuseImage
  dsimp only
  split <;> simp [State.reportUnread_rest]

theorem State.refuseConfig_board (first : Nat) : (s.refuseConfig first).board = s.board := by
  have hplans (l : List Nat) (u : State) :
      (l.foldl (fun u p => u.raise 0x0A05 srcTime none [p, planFault (cfgPlan s.stagedConfig p), 0, 0]) u).board = u.board :=
    foldl_view (view := State.board) (fun u p => by simp) l u
  unfold State.refuseConfig
  simp only [State.raise_cur_rst_board_regs]
  rw [hplans, (s.reportUnread_rest _ _).1]

end

/-- What GO makes of the staged image and configuration, as the checks find them. -/
def State.judged (s : State) : State :=
  if (s.checkImage stagingBase).1 ≠ 0 then
    ((s.refuseImage stagingBase (s.checkImage stagingBase).1 (s.checkImage stagingBase).2).setBoard
      (fun b => { b with relane := (s.checkImage stagingBase).1 == 5 })).toPhase .waitImage
  else
    match s.configFault with
    | some o => (s.refuseConfig o).toPhase .waitImage
    | none =>
      (((s.activateImage (s.checkImage stagingBase).2).applyConfig true).putStacks .selfRefresh (List.range 16)).startColdBist

theorem State.go_eq (s : State) : s.go = s.checking.judged := rfl

section
variable {s : State} {cause : Nat} {i : ImageInfo} (hcheck : s.checkImage stagingBase = (cause, i))
include hcheck

theorem State.go_of_refused (hcause : cause ≠ 0) : s.go =
    ((s.checking.refuseImage stagingBase cause i).setBoard (fun b => { b with relane := cause == 5 })).toPhase .waitImage := by
  simp only [State.go_eq, State.judged, State.checkImage_checking, hcheck, hcause, ne_eq, not_false_eq_true, if_true]

theorem State.go_of_fault (hcause : cause = 0) {o : Nat} (hfault : s.configFault = some o) :
    s.go = (s.checking.refuseConfig o).toPhase .waitImage := by
  simp only [State.go_eq, State.judged, State.checkImage_checking, State.configFault_checking, hcheck, hcause, ne_eq, not_true_eq_false,
    if_false, hfault]

theorem State.go_of_passed (hcause : cause = 0) (hfault : s.configFault = none) : s.go =
    (((s.checking.activateImage i).applyConfig true).putStacks .selfRefresh (List.range 16)).startColdBist := by
  simp only [State.go_eq, State.judged, State.checkImage_checking, State.configFault_checking, hcheck, hcause, ne_eq, not_true_eq_false,
    if_false, hfault]

end

/-! ### The stacks one by one -/

theorem State.stack_setStack_ne (s : State) {n m : Nat} (k : Stack) (h : m ≠ n) : (s.setStack n k).stack m = s.stack m :=
  mgetD_mset_ne _ _ _ h

theorem State.stack_congr {s t : State} (h : t.hbm = s.hbm) (n : Nat) : t.stack n = s.stack n :=
  congrArg (fun k : HbmSt => mgetD k.stackList n Stack.reset) h

theorem State.stack_putStacks (s : State) (to_ : StackState) {ns : List Nat} (hns : ns.Nodup) {n : Nat} (hn : n ∈ ns) :
    ((s.putStacks to_ ns).stack n).state = to_ :=
  foldl_entry (entry := fun u n => (u.stack n).state) (keep := fun _ => ()) (g := fun _ _ _ => to_) (fun _ _ => rfl)
    (fun u _ _ hj => congrArg Stack.state (u.stack_setStack_ne _ hj)) (fun u i => congrArg Stack.state (u.stack_setStack_self i _)) hns hn s

theorem State.startColdBist_rest (s : State) : s.startColdBist.board = { s.board with phase := .coldBist } ∧ s.startColdBist.hbm = s.hbm ∧
    s.startColdBist.rst.test.phase = 1 := by
  simp [State.startColdBist, State.beginPhase]

/-! ### The outcomes of GO -/

theorem State.checkImage_setReg (s : State) (off : Nat) (x : W64) (base : Nat) : (s.setReg off x).checkImage base = s.checkImage base :=
  State.checkImage_congr rfl rfl rfl base

theorem State.configFault_setReg (s : State) (off : Nat) (x : W64) : (s.setReg off x).configFault = s.configFault :=
  State.configFault_congr rfl rfl rfl

section
variable {s : State} (hup : s.hostUp = true) (hready : s.board.functionReady = true) {v : RegValue} (hv : Matched v 1)
  (hwait : s.board.phase = .waitImage) (hrelane : s.board.relane = false) {cause : Nat} {i : ImageInfo}
  (hcheck : s.checkImage stagingBase = (cause, i))
include hup hready hv hwait hrelane hcheck

theorem glbStageGo_refuses (hcause : cause ≠ 0) : Runs (.glbStageGo v) s (fun t => t.board.phase = .waitImage ∧
    t.board.refuseCause = cause ∧ t.board.relane = (cause == 5) ∧ t.hbm.mem = s.hbm.mem) := by
  let u := s.setReg rStageGo (rwpPair 1)
  have hcheckU : u.checkImage stagingBase = (cause, i) := (s.checkImage_setReg _ _ _).trans hcheck
  obtain ⟨hboard, hmem⟩ := u.checking.refuseImage_rest stagingBase cause i
  obtain ⟨-, hhbm, -⟩ := u.checking_rest
  refine runs_of_next (glbStageGo_runsTo hup hready hv hwait hrelane) ?_
  rw [State.go_of_refused hcheckU hcause]
  simp only [State.toPhase_rest, State.setBoard, hboard, hmem, hhbm, true_and]
  rfl

theorem glbStageGo_refuses_config (hcause : cause = 0) (hfault : s.configFault.isSome = true) : Runs (.glbStageGo v) s (fun t =>
    t.board.phase = .waitImage ∧ t.board.version = s.board.version ∧ t.board.config = s.board.config) := by
  let u := s.setReg rStageGo (rwpPair 1)
  have hcheckU : u.checkImage stagingBase = (cause, i) := (s.checkImage_setReg _ _ _).trans hcheck
  obtain ⟨o, ho⟩ := Option.isSome_iff_exists.mp hfault
  have hfaultU : u.configFault = some o := (s.configFault_setReg _ _).trans ho
  obtain ⟨hboard, -, -⟩ := u.checking_rest
  refine runs_of_next (glbStageGo_runsTo hup hready hv hwait hrelane) ?_
  rw [State.go_of_fault hcheckU hcause hfaultU]
  simp only [State.toPhase_rest, State.refuseConfig_board, hboard, true_and]
  exact ⟨rfl, rfl⟩

theorem glbStageGo_begins (hcause : cause = 0) (hfault : s.configFault = none) : Runs (.glbStageGo v) s (fun t =>
    t.board.phase = .coldBist ∧ t.rst.test.phase = 1 ∧ t.board.version = i.version ∧ t.board.svn = i.svn ∧
      ∀ n : Fin 16, (t.stack n.val).state = .selfRefresh) := by
  let u := s.setReg rStageGo (rwpPair 1)
  have hcheckU : u.checkImage stagingBase = (cause, i) := (s.checkImage_setReg _ _ _).trans hcheck
  have hfaultU : u.configFault = none := (s.configFault_setReg _ _).trans hfault
  let w := (u.checking.activateImage i).applyConfig true
  obtain ⟨hboard, -, -⟩ := (u.checking.activateImage i).applyConfig_rest true
  obtain ⟨hview, -⟩ := w.putStacks_rest .selfRefresh (List.range 16)
  obtain ⟨hbist, hhbm, htest⟩ := (w.putStacks .selfRefresh (List.range 16)).startColdBist_rest
  refine runs_of_next (glbStageGo_runsTo hup hready hv hwait hrelane) ?_
  rw [State.go_of_passed hcheckU hcause hfaultU]
  simp only [State.bootView, Prod.mk.injEq] at hview
  obtain ⟨hput, -⟩ := hview
  refine ⟨by rw [hbist], htest, ?_, ?_, fun n => ?_⟩
  · rw [hbist, hput, show w.board = _ from hboard]
    rfl
  · rw [hbist, hput, show w.board = _ from hboard]
    rfl
  · rw [State.stack_congr hhbm]
    exact w.stack_putStacks .selfRefresh List.nodup_range (List.mem_range.mpr n.isLt)

end

/-! ### The end of training (R196, R197, R213, R480) -/

/-- One stack's result among those of a training; one without a result passed. -/
def trainedOf (x : List StackTrained) (n : Fin 16) : StackTrained := (x.find? (fun y => y.stack == n)).getD ⟨n, [], []⟩

/-- A stack passed its training. -/
def trainedOk (x : List StackTrained) (n : Nat) : Bool := if h : n < 16 then (trainedOf x ⟨n, h⟩).failedPcs.isEmpty else true

theorem trainedOf_stack (x : List StackTrained) (n : Fin 16) : (trainedOf x n).stack = n := by
  unfold trainedOf
  cases hfind : x.find? (fun y => y.stack == n) with
  | none => rfl
  | some y =>
    have hy : (y.stack == n) = true := List.find?_some (p := fun y : StackTrained => y.stack == n) hfind
    exact beq_iff_eq.mp hy

theorem trainedOf_passed {x : List StackTrained} (h : ∀ y ∈ x, y.failedPcs = []) (n : Fin 16) : (trainedOf x n).failedPcs = [] := by
  unfold trainedOf
  cases hfind : x.find? (fun y => y.stack == n) with
  | none => rfl
  | some y => exact h y (List.mem_of_find?_eq_some hfind)

theorem trainedOf_single (y : StackTrained) : trainedOf [y] y.stack = y := by simp [trainedOf]

/-- What a stack's training leaves: the board, the resets, the bytes, and which stack is under a loop-back test. -/
def State.trainView (s : State) : BoardSt × RstSt × (Mem × List Undef × Map Nat) × List Nat × Option Nat :=
  (s.board, s.rst, s.hbm.content, s.hbm.training, s.hbm.loop.map (·.stack))

/-- The events of a training: its repaired lanes and failed pseudo-channels. -/
def State.trainEvents (s : State) (x : StackTrained) : State :=
  x.failedPcs.foldl (fun s p => s.raise 0x0605 (srcStack x.stack.val) none [x.stack.val, p.1, p.2, 0])
    (x.lanesRepaired.foldl (fun s l => s.raise 0x0606 (srcStack x.stack.val) none [x.stack.val, l.1, l.2, 0]) s)

theorem State.trainEvents_rest (s : State) (x : StackTrained) : (s.trainEvents x).board = s.board ∧ (s.trainEvents x).rst = s.rst ∧
    (s.trainEvents x).hbm = s.hbm := by
  have hview : ((s.trainEvents x).board, (s.trainEvents x).rst, (s.trainEvents x).hbm) = (s.board, s.rst, s.hbm) :=
    (foldl_view (view := fun u => (u.board, u.rst, u.hbm)) (fun u p => by simp) _ _).trans
      (foldl_view (view := fun u => (u.board, u.rst, u.hbm)) (fun u p => by simp) _ _)
  simpa only [Prod.mk.injEq] using hview

/-- The state that a stack's result puts it in. -/
def trainedState (x : StackTrained) : StackState := if x.failedPcs.isEmpty then .ready else .failed

theorem State.trained_eq (s : State) (x : StackTrained) : ∃ k : Stack,
    k.state = (if s.hbm.loop.any (fun l => l.stack == x.stack.val) then .loopback else trainedState x) ∧
    s.trained x = ({ s.trainEvents x with hbm := { (s.trainEvents x).hbm with
      loop := (s.trainEvents x).hbm.loop.map (fun l => if l.stack = x.stack.val then { l with before := trainedState x } else l) } } : State).setStack
        x.stack.val k := by
  obtain ⟨-, -, hhbm⟩ := s.trainEvents_rest x
  refine ⟨_, ?_, rfl⟩
  rw [← hhbm]
  rfl

theorem State.trained_rest (s : State) (x : StackTrained) : (s.trained x).trainView = s.trainView := by
  obtain ⟨k, -, heq⟩ := s.trained_eq x
  obtain ⟨hboard, hrst, hhbm⟩ := s.trainEvents_rest x
  have hloop (l : Loopback) : (if l.stack = x.stack.val then { l with before := trainedState x } else l).stack = l.stack := by
    split <;> rfl
  rw [heq]
  simp [State.trainView, hboard, hrst, hhbm, HbmSt.content, Function.comp_def, hloop]

theorem State.stack_trained_self (s : State) (x : StackTrained) : ((s.trained x).stack x.stack.val).state =
    if s.hbm.loop.map (·.stack) = some x.stack.val then .loopback else trainedState x := by
  obtain ⟨k, hk, heq⟩ := s.trained_eq x
  rw [heq, State.stack_setStack_self, hk]
  cases s.hbm.loop <;> simp

theorem State.stack_trained_ne (s : State) (x : StackTrained) {n : Nat} (h : n ≠ x.stack.val) : (s.trained x).stack n = s.stack n := by
  obtain ⟨k, -, heq⟩ := s.trained_eq x
  obtain ⟨-, -, hhbm⟩ := s.trainEvents_rest x
  rw [heq, State.stack_setStack_ne _ _ h]
  show (s.trainEvents x).stack n = s.stack n
  exact State.stack_congr hhbm n

/-- The result of stack `n` taken, where there is such a stack. -/
def State.trainStack (x : List StackTrained) (s : State) (n : Nat) : State :=
  if h : n < 16 then s.trained (trainedOf x ⟨n, h⟩) else s

theorem State.trainStack_rest (x : List StackTrained) (s : State) (n : Nat) : (s.trainStack x n).trainView = s.trainView := by
  unfold State.trainStack
  split
  · exact s.trained_rest _
  · rfl

/-- The state that stack `n` comes to from `old`, where `tested` is under a loop-back test. -/
def trainedTo (x : List StackTrained) (tested : Option Nat) (n : Nat) (old : StackState) : StackState :=
  if h : n < 16 then (if tested = some n then .loopback else trainedState (trainedOf x ⟨n, h⟩)) else old

theorem State.stack_trainStack_self (x : List StackTrained) (s : State) (n : Nat) :
    ((s.trainStack x n).stack n).state = trainedTo x (s.hbm.loop.map (·.stack)) n (s.stack n).state := by
  unfold State.trainStack trainedTo
  split
  · next h =>
    have hself := s.stack_trained_self (trainedOf x ⟨n, h⟩)
    rwa [trainedOf_stack] at hself
  · rfl

theorem State.stack_trainStack_ne (x : List StackTrained) (s : State) {n m : Nat} (hm : m ≠ n) : (s.trainStack x n).stack m = s.stack m := by
  unfold State.trainStack
  split
  · next h => exact s.stack_trained_ne _ (by rw [trainedOf_stack]; exact hm)
  · rfl

theorem State.stack_trainAll {s : State} (x : List StackTrained) (hloop : s.hbm.loop = none) {ns : List Nat} (hns : ns.Nodup) (n : Fin 16)
    (hn : n.val ∈ ns) : ((ns.foldl (State.trainStack x) s).stack n.val).state = trainedState (trainedOf x n) := by
  have hentry := foldl_entry (entry := fun u m => (u.stack m).state) (keep := fun u => u.hbm.loop.map (·.stack)) (g := fun k m old => trainedTo x k m old)
    (f := State.trainStack x) (fun u m => congrArg (fun v => v.2.2.2.2) (u.trainStack_rest x m))
    (fun u _ _ hj => congrArg Stack.state (u.stack_trainStack_ne x hj)) (fun u m => u.stack_trainStack_self x m) hns hn s
  refine hentry.trans ?_
  simp [trainedTo, hloop]

/-- The lanes counted where a training was of every stack. -/
def State.lanesCounted (s : State) (ns : List Nat) : State :=
  if ns.length = 16 then { s with hbm := { s.hbm with lanesAll := (ns.map (fun n => (s.stack n).lanesRepaired)).sum } } else s

/-- The event of a training that every stack passed; `lanes` are those that it repaired. -/
def State.trainingPassed (s : State) (ok : Bool) (since lanes : Nat) : State :=
  if ok then s.raise 0x0601 srcBoot none [(s.readyStacks.map (fun n => 2 ^ n)).sum, s.local_ - since, lanes, 0] else s

/-- The stacks of a training with their results. -/
def State.allTrained (s : State) (x : List StackTrained) (ns : List Nat) : State :=
  ns.foldl (State.trainStack x) { s with hbm := { s.hbm with training := [] } }

/-- The end of a training, before what follows it. -/
def State.trainingDone (s : State) (x : List StackTrained) (ns : List Nat) : State :=
  ((s.allTrained x ns).lanesCounted ns).trainingPassed (ns.all (trainedOk x)) s.hbm.trainSince
    (ns.map (fun n => ((s.allTrained x ns).stack n).lanesRepaired)).sum

theorem State.lanesCounted_rest (s : State) (ns : List Nat) : (s.lanesCounted ns).trainView = s.trainView ∧
    (s.lanesCounted ns).hbm.stackList = s.hbm.stackList := by
  unfold State.lanesCounted
  split <;> exact ⟨rfl, rfl⟩

theorem State.trainingPassed_rest (s : State) (ok : Bool) (since lanes : Nat) : (s.trainingPassed ok since lanes).trainView = s.trainView ∧
    (s.trainingPassed ok since lanes).hbm.stackList = s.hbm.stackList := by
  unfold State.trainingPassed
  split <;> simp [State.trainView]

theorem State.trainingDone_rest (s : State) (x : List StackTrained) (ns : List Nat) : (s.trainingDone x ns).board = s.board ∧
    (s.trainingDone x ns).rst = s.rst ∧ (s.trainingDone x ns).hbm.content = s.hbm.content ∧ (s.trainingDone x ns).hbm.training = [] := by
  have hview : (s.trainingDone x ns).trainView = ({ s with hbm := { s.hbm with training := [] } } : State).trainView :=
    ((State.trainingPassed_rest _ _ _ _).1.trans (State.lanesCounted_rest _ _).1).trans
      (foldl_view (view := State.trainView) (fun u n => u.trainStack_rest x n) _ _)
  simp only [State.trainView, Prod.mk.injEq] at hview
  obtain ⟨hboard, hrst, hcontent, htraining, -⟩ := hview
  exact ⟨hboard, hrst, hcontent, htraining⟩

theorem State.stack_trainingDone {s : State} (hloop : s.hbm.loop = none) (x : List StackTrained) {ns : List Nat} (hns : ns.Nodup) (n : Fin 16)
    (hn : n.val ∈ ns) : ((s.trainingDone x ns).stack n.val).state = trainedState (trainedOf x n) := by
  have hlist : (s.trainingDone x ns).hbm.stackList = (s.allTrained x ns).hbm.stackList :=
    (State.trainingPassed_rest _ _ _ _).2.trans (State.lanesCounted_rest _ _).2
  rw [State.stack, hlist]
  exact State.stack_trainAll (s := { s with hbm := { s.hbm with training := [] } }) x hloop hns n hn

theorem execStackTrainingComplete_eq (x : List StackTrained) (s : State) : execStackTrainingComplete x s = .next (
    if !s.alive || s.hbm.training.isEmpty then s
    else (s.trainingDone x s.hbm.training).afterTraining (s.hbm.training.all (trainedOk x)) s.hbm.training) := rfl

theorem stackTrainingComplete_runsTo {s : State} (halive : s.alive = true) (htraining : s.hbm.training = List.range 16)
    (x : List StackTrained) : RunsTo (.stackTrainingComplete x) s
      ((s.trainingDone x (List.range 16)).afterTraining ((List.range 16).all (trainedOk x)) (List.range 16)) := by
  show execStackTrainingComplete x s = _
  rw [execStackTrainingComplete_eq, htraining, halive]
  exact congrArg Host.Outcome.next (if_neg (by simp))

/-! ### The start of service (R480, R481) -/

section
variable {s : State} (hl3 : s.rst.l3 = none) (hl2 : s.rst.l2 = []) (hphase : s.board.phase = .hbmTraining)
include hl3 hl2 hphase

theorem State.afterTraining_of_boot (ok : Bool) (ns : List Nat) : s.afterTraining ok ns = if ok then s.startProcessors else s.bootFailed := by
  have hno : mhas ([] : Map BigReset) (ns.headD 0 / 4) = false := rfl
  simp only [State.afterTraining, hl3, hl2, hno, hphase]
  rfl

end

theorem State.startProcessors_rest {s : State} (hcheck : (s.checkImage runningBase).1 = 0) : s.startProcessors.board.phase = .ready ∧
    s.startProcessors.rst.ready = true ∧ s.startProcessors.hbm = s.hbm := by
  obtain ⟨hboard, -, hhbm, -⟩ := s.toPhase_rest .starting
  have hstarting : ((s.toPhase .starting).checkImage runningBase).1 = 0 :=
    (congrArg Prod.fst (State.checkImage_congr (congrArg HbmSt.content hhbm) (by rw [hboard]) (by rw [hboard]) runningBase)).trans hcheck
  simp [State.startProcessors, hstarting]

section
variable {s : State} (halive : s.alive = true) (htraining : s.hbm.training = List.range 16) (hloop : s.hbm.loop = none)
  (hphase : s.board.phase = .hbmTraining) (hl3 : s.rst.l3 = none) (hl2 : s.rst.l2 = []) {x : List StackTrained}
include halive htraining hloop hphase hl3 hl2

omit hloop in
theorem stackTrainingComplete_boots : RunsTo (.stackTrainingComplete x) s
    (if (List.range 16).all (trainedOk x) then (s.trainingDone x (List.range 16)).startProcessors
     else (s.trainingDone x (List.range 16)).bootFailed) := by
  obtain ⟨hboard, hrst, -⟩ := s.trainingDone_rest x (List.range 16)
  exact runsTo_of_next (stackTrainingComplete_runsTo halive htraining x)
    (State.afterTraining_of_boot (by rw [hrst]; exact hl3) (by rw [hrst]; exact hl2) (by rw [hboard]; exact hphase) _ _)

theorem stackTrainingComplete_passed (hpassed : ∀ y ∈ x, y.failedPcs = []) (hcheck : (s.checkImage runningBase).1 = 0) :
    Runs (.stackTrainingComplete x) s (fun t => t.board.phase = .ready ∧ t.rst.ready = true ∧ t.hbm.training = [] ∧
      ∀ n : Fin 16, (t.stack n.val).state = .ready) := by
  have hok : (List.range 16).all (trainedOk x) = true := by
    simp [trainedOk, trainedOf_passed hpassed]
  obtain ⟨hboard, -, hcontent, hdone⟩ := s.trainingDone_rest x (List.range 16)
  have hcheckDone := (congrArg Prod.fst (State.checkImage_congr hcontent (by rw [hboard]) (by rw [hboard]) runningBase)).trans hcheck
  obtain ⟨hphaseEnd, hreadyEnd, hhbmEnd⟩ := State.startProcessors_rest hcheckDone
  have hrow := stackTrainingComplete_boots halive htraining hphase hl3 hl2 (x := x)
  rw [if_pos hok] at hrow
  refine runs_of_next hrow ⟨hphaseEnd, hreadyEnd, by rw [hhbmEnd, hdone], fun n => ?_⟩
  rw [State.stack_congr hhbmEnd, State.stack_trainingDone hloop x List.nodup_range n (List.mem_range.mpr n.isLt), trainedState,
    trainedOf_passed hpassed]
  rfl

theorem stackTrainingComplete_failed {y : StackTrained} (hfailed : y.failedPcs ≠ []) : Runs (.stackTrainingComplete [y]) s (fun t =>
    t.board.phase = .notReady ∧ t.rst.fault = true ∧ (t.stack y.stack.val).state = .failed) := by
  have hempty : y.failedPcs.isEmpty = false := by simpa using hfailed
  have hok : (List.range 16).all (trainedOk [y]) = false := by
    rw [List.all_eq_false]
    exact ⟨y.stack.val, List.mem_range.mpr y.stack.isLt, by simp [trainedOk, trainedOf_single, hfailed]⟩
  obtain ⟨hphaseEnd, hfault, -⟩ := (s.trainingDone [y] (List.range 16)).bootFailed_rest
  have hhbmEnd : (s.trainingDone [y] (List.range 16)).bootFailed.hbm = (s.trainingDone [y] (List.range 16)).hbm := by simp [State.bootFailed]
  have hrow := stackTrainingComplete_boots halive htraining hphase hl3 hl2 (x := [y])
  rw [if_neg (Bool.eq_false_iff.mp hok)] at hrow
  refine runs_of_next hrow ⟨hphaseEnd, hfault, ?_⟩
  rw [State.stack_congr hhbmEnd, State.stack_trainingDone hloop [y] List.nodup_range y.stack (List.mem_range.mpr y.stack.isLt), trainedState,
    trainedOf_single, hempty]
  rfl

end

/-- Settles O44, row by row. -/
theorem powerAndBoot : Obligations.PowerAndBoot := by
  intro s
  refine ⟨fun hpower => runs_of_next (pwrGoodFall_runsTo hpower) ⟨rfl, rfl, rfl, rfl, rfl, rfl, rfl⟩, fun hoff => pwrGoodRise_runs hoff,
    fun halive => ⟨fun hrom => runs_of_next (bootBringupComplete_first halive hrom) ?_, bootBringupComplete_relane halive,
      fun off data hdl hready hpage hfits => ?_, fun v i cause hdl hready hv hwait hrelane hcheck => ?_,
      fun x htraining hloop hphase hl3 hl2 => ⟨stackTrainingComplete_passed halive htraining hloop hphase hl3 hl2, fun y hy hfailed => ?_⟩,
      fun x => processorRestartComplete_runsTo halive⟩⟩
  · simp [State.setBoard]
  · have hup := State.hostUp_eq_true halive hdl
    exact ⟨glbStageWindowWrite_through hup hready hpage hfits, glbStageWindowWrite_held hup hready hpage hfits⟩
  · have hup := State.hostUp_eq_true halive hdl
    exact ⟨glbStageGo_refuses hup hready hv hwait hrelane hcheck, glbStageGo_refuses_config hup hready hv hwait hrelane hcheck,
      glbStageGo_begins hup hready hv hwait hrelane hcheck⟩
  · subst hy
    exact stackTrainingComplete_failed halive htraining hloop hphase hl3 hl2 hfailed

end Sys2Proof.Machine
end
